-- ==== Sys2Proof/Word.lean ====
section
/-! DEFINITION. Word types of the steward: bytes, half-words, words and double-words (00_scope.md Table 0.4). -/

namespace Sys2Proof

/-- A byte, 8 bits. -/
abbrev Byte := BitVec 8

/-- A half-word, 16 bits. -/
abbrev Half := BitVec 16

/-- A word, 32 bits: the width of a register unless its table says otherwise (R5). -/
abbrev Word := BitVec 32

/-- A double-word, 64 bits. -/
abbrev Dword := BitVec 64

end Sys2Proof
end

