-- ==== Sys2Proof/Syntax.lean ====
section
/-! DEFINITION. The commands of the block: one constructor of `Instr` for each row of spec/opcode_table.json.
A command that the rules leave to an outside agent (a pin, a link, a sensor, a bus) carries as operands what that
agent supplies; a KCP command carries the number the steward gave it at acceptance. -/

namespace Sys2Proof

/-- A register write on U (R53): function (0 the PF, 1 to 63 a VF), BAR0 offset, size in bytes, byte enables,
value and whether the TLP was poisoned. -/
structure RegAccess where
  fn : Nat
  off : Nat
  size : Nat
  be : Nat
  val : Dword
  poisoned : Bool
deriving DecidableEq, Repr

/-- What the tables of SFDP that the steward reads report of the flash (R108, R110, R120, R307): 8D-8D-8D and 1S-1S-8S modes,
64 KiB sectors, and whether an erase can be suspended. -/
structure SfdpTables where
  octalDdr : Bool
  octalRead : Bool
  sectors64 : Bool
  suspend : Bool
deriving DecidableEq, Repr

/-- What the boot flash answers to the loader's SFDP read (Table 5.11): its tables, no signature, under 64 MiB, timeout. -/
inductive Sfdp where
  | good (x : SfdpTables) | noSignature | tooSmall | timeout
deriving DecidableEq, Repr

/-- Where a read of the flash gives the loader no data for 1 ms (Table 5.11): nowhere, at the descriptors, or in a slot after `n`
payload bytes. -/
inductive FlashStall where
  | none | descriptors | slot (k : Fin 2) (n : Nat)
deriving DecidableEq, Repr

/-- What the boot flash answers to a loader run: its SFDP read, and where it falls silent (Table 5.11). -/
structure FlashRead where
  sfdp : Sfdp
  stall : FlashStall
deriving DecidableEq, Repr

/-- How the write of a staged image ends (R120, Table 5.10): the read-back matches or not, flash writes become forbidden after `n`
bytes, or a reset stops it after `n` bytes. -/
inductive StageEnd where
  | good | mismatch | gate (n : Nat) | cut (n : Nat)
deriving DecidableEq, Repr

/-- Scalar operations of Table 7.3. `illegal` stands for a word that holds a reserved value (R163). The spec gives
the FUNC field no numbers, so the operation is an operand beside the fetched word (log entry 10). -/
inductive ScalarOp where
  | add | sub | and | or | xor | addW | subW | addi | andi | ori | xori
  | shl | shr | sar | shlW | shrW | sarW | shli | shri | sari
  | slt | sltu | min | max | minu | maxu | slti | sel
  | clz | ctz | popc | build | mul | mulh | mulhu | mulW | illegal
deriving DecidableEq, Repr

/-- Divide operations of Table 7.3. -/
inductive DivOp where
  | div | divu | rem | remu
deriving DecidableEq, Repr

/-- Number formats that VCVT converts between (Table 7.5). -/
inductive NumFmt where
  | fp32 | bf16 | e4m3 | e5m2 | int32 | int16 | int8
deriving DecidableEq, Repr

/-- Vector operations of Table 7.5. -/
inductive VecOp where
  | add | sub | mul | min | max | and | or | xor | shl | shr | sar
  | fadd | fsub | fmul | fma | fmin | fmax
  | exp2 | rcp | rsqrt
  | cmpEq | cmpLt | cmpLe | fcmpEq | fcmpLt | fcmpLe
  | sel | mov | bcast | ext
  | rsum | rmax | perm
  | cvt (src dst : NumFmt)
  | illegal
deriving DecidableEq, Repr

/-- Two-wire result of one controller transaction (Table 14.6), as the bus gives it. -/
inductive TwResult where
  | ok | nackAddr | nackData | pecBad | byteCount | busBusy
deriving DecidableEq, Repr

/-- One PMBus sample of an accelerator (R284): VCORE mV and mA, the power of each other rail in 0.1 W, and how its reads ended on
the bus: OK, or the outcome of the read that failed. A sample of the tray holds READ_PIN in 0.1 W in `vcoreMa` and the steward's own
power in 0.1 W at the head of `others`. -/
structure TelemIn where
  vcoreMv : Nat
  vcoreMa : Nat
  others : List Nat
  result : TwResult
deriving DecidableEq, Repr

/-- A read of a device by Daxrin (R346): its outcome on the bus, and what it gives where that is OK. -/
structure DevRead where
  result : TwResult
  value : Nat
deriving DecidableEq, Repr

/-- How the write of a record ends (R368, Table 15.6): the read-back matches or not, or a reset comes between its two programs. -/
inductive RecordEnd where
  | good | mismatch | cut
deriving DecidableEq, Repr

/-- A memory BAR of a spoke's function 0 (R238): its number, its size, whether it is a 64-bit BAR, and the base that the steward
assigns. -/
structure BarIn where
  index : Nat
  size : Nat
  wide : Bool
  base : Nat
deriving DecidableEq, Repr

/-- A Designated Vendor-Specific Extended Capability as read (R244): its Vendor ID, DVSEC ID and revision, and its dwords at 0x0C
and 0x10. -/
structure DvsecIn where
  vendor : Nat
  id : Nat
  revision : Nat
  loc : Nat
  locHi : Nat
deriving DecidableEq, Repr

/-- What a spoke's enumeration reads (R238, R244, R247): the memory BARs of function 0, its vendor-specific capabilities, and the
registers of the contract block that the capability locates. -/
structure EnumIn where
  bars : List BarIn
  caps : List DvsecIn
  kcId : Nat
  exportLoc : Nat
  exportSize : Nat
  bootLoc : Nat
  bootSize : Nat
deriving DecidableEq, Repr

/-- Why a link stops being ready (R242, R259): Recovery, Recovery that a corrected error causes, or a PLL relock after a rate
change. -/
inductive LinkCause where
  | recovery | corrected | relock
deriving DecidableEq, Repr

/-- A spoke's link that stops being ready, and why. -/
structure LinkEvent where
  spoke : Fin 8
  why : LinkCause
deriving DecidableEq, Repr

/-- The bytes that a read of BAR0 names (R53). -/
structure Span where
  off : Nat
  len : Nat
deriving DecidableEq, Repr

/-- A Block Read of the Horizon mirror (R67): the bytes that the BMC clocks, and the mirror words whose parity has failed (R70). -/
structure MirrorRead where
  len : Nat
  bad : List Nat
deriving DecidableEq, Repr

/-- A W0 write as the BMC sends it (R350, R351): its byte count field (block forms), its data bytes, its PEC byte
when one is sent, whether STOP comes before the last byte, and whether a repeated START takes the place of STOP (Table 14.5). -/
structure W0Write where
  count : Nat
  data : List Byte
  pec : Option Byte
  stopEarly : Bool
  restart : Bool
deriving DecidableEq, Repr

/-- A grain access on a link that is not ready (R205). -/
inductive LinkId where
  | u
  | spoke (n : Fin 8)
deriving DecidableEq, Repr

/-- What a due commutation or an edge of a motor channel is read with: PCLK time of the event. -/
abbrev PclkTime := Nat

inductive Instr where
  -- KCP commands, by acceptance number (Table 4.4)
  | nop (c : Nat)
  | echo (c : Nat)
  | stratumPark (c : Nat)
  | stratumRestore (c : Nat)
  | stratumIngest (c : Nat)
  | stratumDrop (c : Nat)
  | stratumSpill (c : Nat)
  | stratumFetch (c : Nat)
  | modelLoad (c : Nat) (dma : Option Nat)
  | modelUnload (c : Nat)
  | accPowerState (c : Nat)
  | accRailSet (c : Nat)
  | accLimitSet (c : Nat)
  | accFwPush (c : Nat) (dma : Option Nat)
  | accRelease (c : Nat)
  | coolSet (c : Nat)
  | coolTableLoad (c : Nat) (dma : Option Nat)
  | leakArm (c : Nat)
  | domainState (c : Nat)
  | fwStage (c : Nat) (dma : Option Nat) (ended : StageEnd)
  | fwCommitTrial (c : Nat)
  | fwConfirm (c : Nat)
  | kernelLoad (c : Nat) (dma : Option Nat)
  | kernelLaunch (c : Nat)
  | kernelAbort (c : Nat)
  | logReadFaultLog (c : Nat) (dma : Option Nat)
  | logReadSedimentLog (c : Nat) (dma : Option Nat) (flashTimeout : Option Nat)
  | counterSnapshot (c : Nat) (dma : Option Nat)
  | clockSet (c : Nat)
  | tenantReset (c : Nat)
  -- tenant resets and queue control
  | tenantResetEnd (t : Nat)
  | flr (fn : Nat)
  | vfEnableCleared (vfs : Nat)
  | sqTail (fn q : Nat) (v : Word)
  | cqHead (fn q : Nat) (v : Word)
  | qpCtrlEn (fn q : Nat) (v : Word)
  | hostHb (v : Word)
  | arbitrationRound
  | deadlineExpiry (c : Nat)
  | submissionFetchError (fn q : Nat) (addr : Nat)
  | completionWriteError (fn q : Nat) (addr : Nat) (cmdId : Half)
  | hostHeartbeatLapse
  | bmcHeartbeatLapse
  -- resets, clocks and domains
  | porNLow
  | supplyMonitorReset
  | porNRise (bootHost : Bool) (w0Addr : Fin 4) (testEn : Bool)
  | rootOk
  | pllLock
  | trimPassEnd (words : List Word) (coreVid : Nat) (inRange : Bool)
  | perstN (asserted : Bool)
  | warmN
  | hotReset
  | dlDown
  | resetCtrlWarm (v : Word)
  | warmResetAfterFallback
  | resetCtrlMarl (v : Word)
  | marlWatchdog
  | resetCtrlDomGo (v : Word)
  | domainResetEnd (d : Fin 92)
  | domCtrl (d : Fin 92) (v : Word)
  | gclkReq (v : Word)
  | gclkSwitch
  | domainTransitionStep (d : Fin 92) (marchBad : List (Fin 17))
  | powerSwitchTimeout (d : Fin 92)
  | clockLoss (rootGone : Bool)
  -- registers, Horizon page, BAR2
  | registerWrite (w : RegAccess)
  | rcRead (fn : Nat) (span : Span)
  | horizonPageRead (fn off len : Nat)
  | horizonPublish
  | fwDown
  | mirrorRefresh
  | bar2Read (off len : Nat) (ue : Bool)
  | bar2Write (off : Nat) (bytes : List Byte)
  -- boot and trust
  | loaderRun (flash : FlashRead)
  | bootRelease (v : Word)
  | fwUp
  | keyLock (fn : Nat) (v : Word)
  | trialDrainEnd
  | trialWatchdogExpiry
  | descriptorWrite
  | sealSegmentEnd (ctx : Fin 2)
  | getVersion
  | getCapabilities
  | negotiateAlgorithms (p384 sha384 : Bool)
  | getDigests
  | getCertificate (slot off len : Nat)
  | challenge (slot : Nat) (nonce : List Byte)
  | getMeasurements (index : Nat) (sig : Bool) (nonce : List Byte)
  | getCsr
  | setCertificate (slot : Nat) (chain : List Byte)
  | spdmUnsupportedRequest (code : Byte)
  -- grain array
  | unfence (v : Word)
  | unfenceTestEnd (pass : Bool)
  | itemDispatch (l : Nat)
  | itemEnd (p : Fin 1088)
  | launchComplete (l : Nat) (dma : Option Nat)
  | localStoreUe (p : Fin 1088) (off : Nat)
  | tileParityError (p : Fin 1088)
  | itemWatchdogExpiry (p : Fin 1088)
  | takeover (bed : Fin 64)
  | localStoreCe (p : Fin 1088)
  -- grain instructions
  | scalarAlu (p : Fin 1088) (t : Fin 8) (op : ScalarOp)
  | divide (p : Fin 1088) (t : Fin 8) (op : DivOp)
  | branch (p : Fin 1088) (t : Fin 8)
  | vectorAlu (p : Fin 1088) (t : Fin 8) (op : VecOp)
  | tzero (p : Fin 1088) (t : Fin 8)
  | tload (p : Fin 1088) (t : Fin 8)
  | tstore (p : Fin 1088) (t : Fin 8)
  | tmma (p : Fin 1088) (t : Fin 8)
  | tsync (p : Fin 1088) (t : Fin 8)
  | tfclr (p : Fin 1088) (t : Fin 8)
  | tileInstructionStart (p : Fin 1088)
  | tileInstructionComplete (p : Fin 1088) (mulPipe : Bool)
  | load (p : Fin 1088) (t : Fin 8) (err : Bool)
  | loadRetire (p : Fin 1088) (t : Fin 8)
  | store (p : Fin 1088) (t : Fin 8) (err : Bool)
  | ldp (p : Fin 1088) (t : Fin 8) (err : Bool)
  | stp (p : Fin 1088) (t : Fin 8) (err : Bool)
  | ldv (p : Fin 1088) (t : Fin 8) (err : Bool)
  | stv (p : Fin 1088) (t : Fin 8)
  | aadd (p : Fin 1088) (t : Fin 8) (err : Bool)
  | aand (p : Fin 1088) (t : Fin 8) (err : Bool)
  | aor (p : Fin 1088) (t : Fin 8) (err : Bool)
  | axor (p : Fin 1088) (t : Fin 8) (err : Bool)
  | aswap (p : Fin 1088) (t : Fin 8) (err : Bool)
  | amin (p : Fin 1088) (t : Fin 8) (err : Bool)
  | amax (p : Fin 1088) (t : Fin 8) (err : Bool)
  | aminu (p : Fin 1088) (t : Fin 8) (err : Bool)
  | amaxu (p : Fin 1088) (t : Fin 8) (err : Bool)
  | acas (p : Fin 1088) (t : Fin 8) (err : Bool)
  | ldrRsv (p : Fin 1088) (t : Fin 8) (err : Bool)
  | stc (p : Fin 1088) (t : Fin 8)
  | bcopy (p : Fin 1088) (t : Fin 8)
  | bcopyComplete (p : Fin 1088) (t : Fin 8) (err : Option Nat)
  | fenceG (p : Fin 1088) (t : Fin 8)
  | fenceB (p : Fin 1088) (t : Fin 8)
  | fenceS (p : Fin 1088) (t : Fin 8)
  | fenceC (p : Fin 1088) (t : Fin 8)
  | gsync (p : Fin 1088) (t : Fin 8)
  | bsync (p : Fin 1088) (t : Fin 8)
  | wait (p : Fin 1088) (t : Fin 8)
  | waitTimeout (p : Fin 1088) (t : Fin 8)
  | bwait (p : Fin 1088) (t : Fin 8)
  | sysr (p : Fin 1088) (t : Fin 8)
  | sysw (p : Fin 1088) (t : Fin 8)
  | xret (p : Fin 1088) (t : Fin 8)
  | brk (p : Fin 1088) (t : Fin 8)
  | endThread (p : Fin 1088) (t : Fin 8)
  | outboundWriteError (p : Fin 1088) (t : Fin 8) (addr : Nat)
  | linkHoldExpiry (link : LinkId)
  -- ingest and HBM
  | windowClose (slot : Fin 4)
  | batchStart (dmaBad : List (Nat × Nat))
  | phaseLaunch
  | itemRerun
  | batchCommit
  | hbmUe (addr : Nat)
  | hbmCe (addr : Nat)
  | patrolScrub
  -- links and contract
  | uLinkUp (rate width vfs bar2Bits : Nat)
  | d3hot
  | deviceReadinessStatus (n : Fin 8)
  | spokeEnumeration (n : Fin 8) (e : EnumIn)
  | contractPoll (n : Fin 8) (ready memKept : Bool)
  | contractTimeout (n : Fin 8)
  | mbxAckPoll (n : Fin 8) (seq : Nat) (status : Nat)
  | mbxTimeout (n : Fin 8)
  | retainPoll (n : Fin 8) (ready : Bool) (refused : Option Byte)
  | retainGraceExpiry (n : Fin 8)
  | releasePoll (n : Fin 8) (released : Bool)
  | inboundRequest (n : Fin 8)
  | spokeRecovery (event : LinkEvent)
  | spokeHoldExpiry (c : Nat)
  | spokeLinkDown (n : Fin 8)
  | spokeTrainingRetry (n : Fin 8)
  | spokeTrainingTimeout (n : Fin 8)
  | spokeFatalError (n : Fin 8)
  | retrain (n : Fin 8) (v : Word)
  -- accelerator power
  | railEnableStep (n : Fin 8)
  | railDisableStep (n : Fin 8)
  | powerGoodRise (n : Fin 8) (r : Fin 5)
  | pgTimeout (n : Fin 8)
  | railCut (n : Fin 8) (fell : List (Fin 5))
  | railSlewStep (n : Fin 8) (r : Fin 5) (portBusy acked : Bool)
  | effectiveLimitWrite (n : Fin 8) (acked : Bool)
  | pmbusLimitRetry (n : Fin 8) (acked : Bool)
  | telemetrySample (n : Option (Fin 8)) (x : TelemIn)
  | telemetryWindowEnd (peak : Bool)
  | trayGovernor
  | inFailNFall
  | inFailNRise
  -- temperature and leaks
  | temperatureSample (c : Fin 32) (raw : Option Int)
  | stopGraceExpiry (n : Fin 8)
  | backstopTrip
  | throttleStepDown (k : Fin 9)
  | throttleStepUp (k : Fin 9)
  | thClear (v : Word)
  | leakSample (l : Fin 8) (g ohm : Nat) (excFail : Bool)
  | leakConfirm (l : Fin 8)
  | ropeOpen (l : Fin 8)
  -- motors
  | pwmReload (m : Fin 8)
  | positionEdge (m : Fin 8) (t : PclkTime) (hall : Fin 8)
  | commutationDue (m : Fin 8) (t : PclkTime)
  | syntheticTooth (m : Fin 8) (t : PclkTime)
  | alignEnd (m : Fin 8) (t : PclkTime)
  | openLoopStep (m : Fin 8) (t : PclkTime)
  | rampTimeout (m : Fin 8)
  | stallPauseEnd (m : Fin 8) (t : PclkTime) (hall : Fin 8)
  | speedControl (m : Fin 8)
  | tableEvaluation (m : Fin 8)
  | blankingEnd (m : Fin 8) (t : PclkTime) (ended still : List (Fin 3)) (softEnded softStill : Bool)
  | ocHard (m : Fin 8) (level : Bool)
  | ocSoft (m : Fin 8) (blanked : Bool)
  | desaturation (m : Fin 8) (t : PclkTime) (legs : List (Fin 3)) (blanked : Bool)
  | mcClear (v : Word)
  -- two-wire
  | twoWireTransaction (p : Fin 12) (r : TwResult) (data : List Byte)
  | arbLost (p : Fin 12) (atStop : Bool)
  | busClear (p : Fin 12) (sdaHigh : Bool)
  | portDownRetry (p : Fin 12) (sdaHigh : Bool)
  | twoWireTimeout (p : Fin 12)
  | w0Timeout
  | loopDeviceRead (flow press flow1 press1 charge : DevRead)
  | xferCtrlGo (v : Word)
  | hostNotify (won acked : Bool)
  | hostNotifyDrop
  | w0StageLow (w : W0Write)
  | w0PostEntry (w : W0Write)
  | w0ReadCompletion (len : Nat)
  | w0ConsumeCompletion (w : W0Write)
  | w0ReadBuffer (len : Nat)
  | w0SetBufferPointer (w : W0Write)
  | bmcHb (w : W0Write)
  | kcpReset (w : W0Write)
  | w0ThClear (w : W0Write)
  | w0McClear (w : W0Write)
  | w0Result (len : Nat)
  | notifyMask (w : W0Write)
  | horizonMirrorRead (code : Nat) (read : MirrorRead)
  -- calendar, sediment log, performance monitor
  | calendarTick
  | checkpoint
  | recordWrite (ended : RecordEnd)
  | segmentEntry
  | logHeadSearchRetry (timeout : Bool)
  | samplingEnable (fn : Nat) (v : Word)
  | overflowSample (g : Fin 2) (p : Fin 1088) (t : Fin 8) (skid : Nat)
  | tagSample (p : Fin 1088) (t : Fin 8) (addr latency eflags : Nat)
  | sampleWrite (bed : Fin 64) (dma : Option Nat)
  -- JTAG
  | bypass
  | idcode
  | samplePreload (cells : List Bool)
  | extest
  | clamp
  | highz
  | extestPulse
  | extestTrain
  -- supplies and late events
  | supplyMonitorRelease
  | sperstNDeassert (n : Fin 8)
  | spokeLinkUp (n : Fin 8) (rate width : Nat)
  | uRecovery (event : Option LinkCause)
  | storeAcknowledged (p : Fin 1088) (t : Fin 8)
  | stratumMoveEnd (c : Nat) (dma : Option Nat)
  | segmentEraseEnd (ok : Bool)
  | lowWordRead (fn off : Nat)
deriving DecidableEq, Repr

end Sys2Proof
end

