-- ==== Sys2Proof/Config.lean ====
section
/-! DEFINITION. What the part fixes (Table 0.7: the TZ-880), and the values the spec leaves open: each is a constant with
no body, so that nothing can be proved of its value. -/

namespace Sys2Proof.Config

/-- DEVICE_IDENT of the TZ-880 (R4, log entry 4). -/
def deviceIdent : Nat := 0x88020840
/-- Beds of the TZ-880. -/
def beds : Nat := 64
/-- HBM bytes, 288 GiB. -/
def hbmBytes : Nat := 0x4800000000
/-- First grain address of HBM (Table 6.4). -/
def hbmBase : Nat := 0x4000000000
/-- Loam bytes, 320 MiB. -/
def loamBytes : Nat := 0x14000000
/-- First grain address of Loam (Table 6.4). -/
def loamBase : Nat := 0x200000000

/-- TotalVFs and InitialVFs of the PF (R236). -/
def totalVfs : Nat := 63
/-- First VF Offset and VF Stride of the PF (R236). -/
def vfStride : Nat := 1
/-- Vendor ID of the steward's own configuration space (R244), which the spec does not give (log entry 31). -/
opaque vendorId : Nat
/-- Temperature of a stack in 1/16 °C, by stack and tick (R257), which no channel of Table 12.1 measures (log entry 66). -/
opaque stackTemp : Nat → Nat → Int

/-- A fresh free value, by the number of draws before it (log entry 8). -/
opaque freeDword : Nat → Dword
/-- A fresh free byte string source, by draw and index (log entry 8). -/
opaque freeByte : Nat → Nat → Byte
/-- ECDSA P-384 signature of a digest with the identity key, which the noise source made (R129, log entry 5). -/
opaque ecdsaSign : BitVec 384 → List Byte
/-- SEAL_SECRET of the OTP (R125), whose 48 bytes the spec does not give (log entry 5). -/
opaque sealSecret : List Byte
/-- The loader ROM's bytes (Table 5.9, measurement 4). -/
opaque loaderRom : List Byte
/-- The built-in default of each trim word (R38). -/
opaque trimDefault : Nat → Word
/-- Contents of an SPDM response beyond what the spec states, by request code (log entry 19). -/
opaque spdmBytes : Nat → List Byte
/-- VEXP2 of a binary32 word, some result within its bound (Table 7.5, log entry 17). -/
opaque vexp2 : Nat → Nat
/-- VRCP of a binary32 word. -/
opaque vrcp : Nat → Nat
/-- VRSQRT of a binary32 word. -/
opaque vrsqrt : Nat → Nat
/-- VFMIN and VFMAX where the spec states no result (log entry 17). -/
opaque vfminmax : Nat → Nat → Nat
/-- A shift by the width or more, by kind (0 left, 1 right, 2 arithmetic right), width, value and amount (log entry 28). -/
opaque shiftOver : Nat → Nat → Nat → Nat → Nat
/-- The predicate bit of a 16-bit or 8-bit compare whose elements disagree in a lane, by the lane's words (log entry 28). -/
opaque cmpMixed : Nat → Nat → Bool
/-- An FP compare of 16-bit or 8-bit elements, by kind (0 EQ, 1 LT, 2 LE), width and elements (log entry 28). -/
opaque fcmpNarrow : Nat → Nat → Nat → Nat → Bool
/-- What VPERM gives a lane whose index passes 63 (log entry 28). -/
opaque permOver : Nat → Nat
/-- What VCVT gives for a NaN that becomes an integer (log entry 28). -/
opaque cvtNan : Nat → Nat

end Sys2Proof.Config
end

