-- ==== Sys2Proof/Machine/Bits.lean ====
section
/-! DEFINITION. Bit fields, sign extension, byte order and checksums: little-endian everywhere (R5), CRC-32 with the
polynomial 0x04C1_1DB7 (R37, R112, R140, R215, R365) and the SMBus PEC (14, worked example). -/

namespace Sys2Proof.Machine

/-- Field [hi:lo] of a word (R5). -/
def bf {n : Nat} (w : BitVec n) (hi lo : Nat) : Nat := (w.toNat >>> lo) % 2 ^ (hi - lo + 1)

/-- Bit `i` of a word. -/
def bitAt {n : Nat} (w : BitVec n) (i : Nat) : Bool := w.getLsbD i

/-- A Bool as a bit. -/
def b2n (b : Bool) : Nat := if b then 1 else 0

/-- A word holding `v` in field [hi:lo] and 0 elsewhere. -/
def fieldN (hi lo v : Nat) : Nat := (v % 2 ^ (hi - lo + 1)) <<< lo

/-- The signed value of the low `n` bits of `v`. -/
def sext (n v : Nat) : Int :=
  let u := v % 2 ^ n
  if u < 2 ^ (n - 1) then (u : Int) else (u : Int) - (2 : Int) ^ n

/-- An integer modulo 2^n, as a natural. -/
def wrapInt (n : Nat) (i : Int) : Nat := (i % ((2 : Int) ^ n)).toNat

/-- `n` bytes of `v`, least significant first. -/
def leBytes : Nat → Nat → List Byte
  | 0, _ => []
  | n + 1, v => BitVec.ofNat 8 v :: leBytes n (v / 256)

/-- The number that bytes spell, least significant first. -/
def ofLe : List Byte → Nat
  | [] => 0
  | b :: bs => b.toNat + 256 * ofLe bs

/-- `n` bytes at offset `off` of a list, as a little-endian number. -/
def leAt (bs : List Byte) (off n : Nat) : Nat := ofLe ((bs.drop off).take n)

/-- Are all the bytes of [off, off+n) zero. -/
def zeroAt (bs : List Byte) (off n : Nat) : Bool := ((bs.drop off).take n).all (fun b => decide (b = 0))

/-- One bit of the reflected CRC-32. -/
def crcBit (c : Word) : Word := if c.getLsbD 0 then (c >>> 1) ^^^ 0xEDB88320#32 else c >>> 1

/-- One byte of the reflected CRC-32. -/
def crcByte (c : Word) (b : Byte) : Word :=
  crcBit (crcBit (crcBit (crcBit (crcBit (crcBit (crcBit (crcBit (c ^^^ b.zeroExtend 32))))))))

/-- CRC-32 of IEEE 802.3: polynomial 0x04C1_1DB7, bits taken least significant first, initial value and final XOR all
ones. PRESUMED beyond the polynomial (log entry 6). -/
def crc32 (bs : List Byte) : Word := (bs.foldl crcByte 0xFFFFFFFF#32) ^^^ 0xFFFFFFFF#32

/-- One bit of the SMBus PEC, polynomial x^8 + x^2 + x + 1. -/
def pecBit (c : Byte) : Byte := if c.getLsbD 7 then (c <<< 1) ^^^ 0x07#8 else c <<< 1

/-- The SMBus PEC of a transaction's bytes (14, worked example). -/
def pec8 (bs : List Byte) : Byte :=
  bs.foldl (fun c b => pecBit (pecBit (pecBit (pecBit (pecBit (pecBit (pecBit (pecBit (c ^^^ b))))))))) 0

/-- A number that saturates at a field's largest value. -/
def satN (bits v : Nat) : Nat := min v (2 ^ bits - 1)

/-- The number of bits a number takes, up to `fuel`. -/
def bitLenAux : Nat → Nat → Nat
  | 0, _ => 0
  | f + 1, v => if v = 0 then 0 else bitLenAux f (v / 2) + 1

/-- The number of bits a number takes (fuel: the number itself is a bound). -/
def bitLen (v : Nat) : Nat := if v = 0 then 0 else v.log2 + 1

/-- How many of the low `n` bits of `v` are 1. -/
def popCount : Nat → Nat → Nat
  | 0, _ => 0
  | n + 1, v => v % 2 + popCount n (v / 2)

/-- Bytes of a digest, most significant first. -/
def digestBytes (d : BitVec 384) : List Byte := (leBytes 48 d.toNat).reverse

/-- Integer square root, bit by bit from bit `b - 1` down. -/
def isqrtAux (n : Nat) : Nat → Nat → Nat
  | 0, r => r
  | b + 1, r => if (r + 2 ^ b) * (r + 2 ^ b) ≤ n then isqrtAux n b (r + 2 ^ b) else isqrtAux n b r

/-- Integer square root of a number of at most 128 bits. -/
def isqrt (n : Nat) : Nat := isqrtAux n 64 0

/-- Rounding up to a multiple. -/
def roundUp (v m : Nat) : Nat := ((v + m - 1) / m) * m

/-- Division rounded up. -/
def ceilDiv (v m : Nat) : Nat := (v + m - 1) / m

/-- Puts a number in its place in an ascending list. -/
def insertNat (x : Nat) : List Nat → List Nat
  | [] => [x]
  | y :: ys => if x ≤ y then x :: y :: ys else y :: insertNat x ys
/-- A list in ascending order. -/
def sortNat (xs : List Nat) : List Nat := xs.foldr insertNat []

end Sys2Proof.Machine
end

