-- ==== Sys2Proof/Machine/KMap.lean ====
section
/-! DEFINITION. Maps from numbers to records and bytes, as plain data in one canonical form: keys strictly rising and
no entry equal to what an unlisted key reads as. What an unlisted key reads as is the argument `d` of each
operation. Registers of an instance, memory bytes and table entries are all kept so. -/

namespace Sys2Proof.Machine

/-- A finite map, an ascending list of (key, value) pairs. -/
abbrev KMap (α : Type) := List (Nat × α)

/-- The value at a key; `d k` where the key is not listed. -/
def KMap.get {α : Type} (d : Nat → α) : KMap α → Nat → α
  | [], k => d k
  | (k', v) :: m, k => if k = k' then v else KMap.get d m k

/-- Puts an entry in its place, replacing one of the same key. -/
def KMap.insert {α : Type} : KMap α → Nat → α → KMap α
  | [], k, v => [(k, v)]
  | (k', v') :: m, k, v =>
    if k < k' then (k, v) :: (k', v') :: m
    else if k = k' then (k, v) :: m
    else (k', v') :: KMap.insert m k v

/-- Removes the entry of a key. -/
def KMap.erase {α : Type} : KMap α → Nat → KMap α
  | [], _ => []
  | (k', v') :: m, k => if k = k' then KMap.erase m k else (k', v') :: KMap.erase m k

/-- Writes a value, keeping the canonical form: writing what an unlisted key reads as removes the entry. -/
def KMap.set {α : Type} [DecidableEq α] (d : Nat → α) (m : KMap α) (k : Nat) (v : α) : KMap α :=
  if v = d k then KMap.erase m k else KMap.insert m k v

/-- Keys strictly rising from above `lo`. -/
def KMap.risingFrom {α : Type} : Nat → KMap α → Bool
  | _, [] => true
  | lo, (k, _) :: m => decide (lo ≤ k) && KMap.risingFrom (k + 1) m

/-- The canonical form. -/
def KMap.wf {α : Type} [DecidableEq α] (d : Nat → α) (m : KMap α) : Bool :=
  KMap.risingFrom 0 m && m.all (fun e => decide (e.2 ≠ d e.1))

/-- Reads `n` consecutive entries from key `a`. -/
def KMap.readN {α : Type} (d : Nat → α) (m : KMap α) : Nat → Nat → List α
  | _, 0 => []
  | a, n + 1 => KMap.get d m a :: KMap.readN d m (a + 1) n

/-- Writes a list at consecutive keys from `a`. -/
def KMap.writeN {α : Type} [DecidableEq α] (d : Nat → α) : KMap α → Nat → List α → KMap α
  | m, _, [] => m
  | m, a, v :: vs => KMap.writeN d (KMap.set d m a v) (a + 1) vs

/-- Unlists every key in `lo` to `hi - 1`: they read as unlisted again. -/
def KMap.clearRange {α : Type} (m : KMap α) (lo hi : Nat) : KMap α :=
  m.filter (fun e => decide (e.1 < lo ∨ hi ≤ e.1))

end Sys2Proof.Machine
end

