-- ==== Sys2Proof/Machine/Parts1.lean ====
section
/-! DEFINITION. State of clocks, domains and reset (02), of the registers' access rules and the Horizon page (03), of
queue control and the tenants (04), and of the sediment log, lifetime counts and performance monitor (15). -/

namespace Sys2Proof.Machine

/-- Domain states (Table 2.13): 0 OFF, 1 RETENTION, 2 GATED, 3 ON. -/
inductive DomSt where
  | off | retention | gated | on
deriving DecidableEq, Repr

/-- The encoding of a domain state in DOM_CTRL. -/
def DomSt.code : DomSt → Nat
  | .off => 0 | .retention => 1 | .gated => 2 | .on => 3

/-- The domain state a code names (Table 2.13). -/
def DomSt.ofCode : Nat → DomSt
  | 0 => .off | 1 => .retention | 2 => .gated | _ => .on

/-- What a domain does (R31, R36): nothing, its power switch closes, it initialises, it takes the leg to `target` (from
ON, or straight), or a domain or bed reset of it runs. -/
inductive DomPhase where
  | idle | switching | initialising | leg | resetting
deriving DecidableEq, Repr

/-- One power domain: DOM_CTRL (Table 2.13) and its transition. -/
structure Dom where
  cur : DomSt
  req : DomSt
  err : Nat := 0
  phase : DomPhase := .idle
  target : DomSt
  since : Nat := 0
deriving DecidableEq, Repr

/-- A DOMAIN_STATE command under way (R30): its command number, its target, the domains still to take, in order, those
still in transition with the count processed before each, the one whose power switch or leg the next waits for, and how
many it has processed. -/
structure DomSeq where
  cmd : Nat
  target : DomSt
  todo : List Nat
  moving : List (Nat × Nat) := []
  wait : Option Nat := none
  processed : Nat := 0
deriving DecidableEq, Repr

/-- Where the reset machine stands (Table 2.8): power-on reset asserted; ROOT qualifying; PLL locking; a trim pass;
running. -/
inductive RunPhase where
  | por | qualifying | locking | trim | running
deriving DecidableEq, Repr

/-- Clocks, domains and reset (Tables 2.10 to 2.12), the sampled straps and the pins that reset the steward. -/
structure Crd where
  phase : RunPhase := .por
  porN : Bool := false
  supplyOk : Bool := false
  perstN : Bool := true
  bootHost : Bool := false
  w0Addr : Nat := 0
  testEn : Bool := false
  rootOk : Bool := false
  pllLock : Bool := false
  fallback : Bool := false
  trimDone : Bool := false
  trimRetried : Bool := false
  trimDefaulted : Bool := false
  secondPass : Bool := false
  coldStart : Bool := true
  warmWaiting : Bool := false
  rootSince : Nat := 0
  fwUp : Bool := false
  rstRefused : Bool := false
  domFault : Bool := false
  cause : BitVec 10 := 1#10
  gclkReq : Nat := 16
  gclkCap : Nat := 16
  gclkApplied : Nat := 16
  switching : Bool := false
  coreVid : Nat := 36
  trimWords : List Word := []
deriving DecidableEq, Repr

/-- One Horizon frame: the FW fields (Table 3.6), HZ_STRATA by tenant among them. -/
structure HzFrame where
  flow0 : Nat := 0
  flow1 : Nat := 0
  strataMib : Nat := 0
  weightsMib : Nat := 0
  freeMib : Nat := 0
  models : Nat := 0
  batches : Nat := 0
  strataTotal : Nat := 0
  strataOf : KMap Nat := []
  deferred : Bool := false
deriving DecidableEq, Repr

/-- Page fields of the blocks that clock fallback stops, as they were then (R68): bits 6, 7, 8, 10 and 11 of HZ_FAULT in that order,
LINK_UP and CONTRACT of the spokes, HZ_GRAIN and GCLK_APPLIED. -/
structure HzHeld where
  fault : List Bool
  linkUp : List Bool
  contract : List Bool
  grain : Nat
  gclk : Nat
deriving DecidableEq, Repr

/-- The Horizon page's own state (R61 to R70): the published frame and its count, when it was published, the fault
count with the fault word it last compared, the Marl resets, the mirror words whose parity is bad, each with the value its source
last wrote, and what clock fallback holds. -/
structure Horizon where
  frame : Nat := 0
  pub : HzFrame := {}
  lastPub : Nat := 0
  stale : Bool := false
  faultCount : Word := 0
  lastFault : Word := 0x1F0000#32
  marlResets : Nat := 0
  mirrorBad : List (Nat × Nat) := []
  held : Option HzHeld := none
deriving DecidableEq, Repr

/-- Access rules' state (R57): low words staged and high words latched, by function and offset. -/
structure RegFile where
  cfg : KMap Word := []
  busy : KMap Bool := []
  vfBusy : KMap Bool := []
  staged : KMap (Option Word) := []
  latched : KMap (Option Word) := []
  bar2Size : Nat := 0x100000
  aer : Nat := 0
deriving DecidableEq, Repr

/-- A queue pair of T0 to T63 (Table 4.14). -/
structure Qp where
  notifyAll : Bool := false
  clsReg : Nat := 0
  en : Bool := false
  cfgErr : Nat := 0
  stopped : Bool := false
  cqFail : Bool := false
  dmaErr : Bool := false
  dbErr : Bool := false
  running : Bool := false
  cls : Nat := 0
  sqBase : Dword := 0
  cqBase : Dword := 0
  sqEntries : Nat := 0
  cqEntries : Nat := 0
  sqTail : Nat := 0
  sqHead : Nat := 0
  cqHead : Nat := 0
  cqTail : Nat := 0
  phase : Bool := true
deriving DecidableEq, Repr

/-- A command in the command table (R94): its acceptance number, tenant, queue pair and class, the 64 bytes of its
entry, when it was accepted, whether it has started, whether it is an OK_NOOP that waits its turn (R95), and the CFLAGS
gathered so far. `holds` says it still holds its resources of Table 4.7; `holdSince` when it began to wait for a spoke
that is not ready (R242). -/
structure Cmd where
  seq : Nat
  tenant : Nat
  qp : Nat
  cls : Nat
  raw : List Byte
  acc : Nat
  started : Bool := false
  noop : Bool := false
  holds : Bool := true
  held : Bool := false
  clamped : Bool := false
  superseded : Bool := false
  holdSince : Option Nat := none
  rpmAt : Nat := 0
deriving DecidableEq, Repr

/-- A fault-log entry (Table 4.9) and whether LOG_READ has returned it. -/
structure FlEntry where
  seq : Nat
  code : Nat
  source : Nat
  severity : Nat
  time : Nat
  opcode : Nat := 0
  qp : Nat := 0
  cmdId : Nat := 0
  status : Nat := 0
  detail : Nat := 0
  read : Bool := false
deriving DecidableEq, Repr

/-- A tenant reset in progress (R98 to R100): causes merged, the tenant that issued TENANT_RESET (0xFF none), when it
started, and the TENANT_RESET commands that wait for it. -/
structure TReset where
  causes : Nat
  issuer : Nat
  start : Nat
  cmds : List Nat
deriving DecidableEq, Repr

/-- What the steward holds for one tenant: TENANT_PRIV, the fault log with its next SEQ, the reset in progress, EPOCHn, and the next
spill SEQ (R221). -/
structure Tenant where
  priv : Word := 0
  log : List FlEntry := []
  logSeq : Nat := 1
  reset : Option TReset := none
  epoch : Dword := 0
  spillSeq : Nat := 1
deriving DecidableEq, Repr

/-- T64's packet path (R101): the staging buffer, the two submission queues, the completion queue (unconsumed entries,
oldest first), its write slot and phase, whether 0x22 returned the oldest entry, the 4 KiB data buffer and its
pointer. `head0` and `head1` are the submission heads HZ_QUEUE shows, in queues of 16. -/
structure T64Q where
  stage : List Byte := []
  q0 : List (List Byte) := []
  q1 : List (List Byte) := []
  cq : List (List Byte) := []
  slot : Nat := 0
  phase : Bool := true
  returned : Bool := false
  buf : KMap Byte := []
  ptr : Nat := 0
  head0 : Nat := 0
  head1 : Nat := 0
deriving DecidableEq, Repr

/-- Queue control (04): pairs by 8 × function + q, tenants, T64's path, the command table and the next acceptance
number, the rotation of each class (R88), the number of enabled VFs, MSI-X messages by 16 × function +
vector, and the heartbeats (R18). -/
structure Qc where
  qps : KMap Qp := []
  tenants : KMap Tenant := []
  t64 : T64Q := {}
  cmds : List Cmd := []
  nextSeq : Nat := 0
  firstServed : KMap (Option Nat) := []
  vfs : Nat := 0
  msix : KMap Nat := []
  hostBeat : Option Nat := none
  bmcBeat : Option Nat := none
deriving DecidableEq, Repr

/-- A sediment record (Table 15.2) in the deferral queue. -/
structure Rec where
  seq : Nat
  typ : Nat
  source : Nat
  severity : Nat
  tick : Nat
  cal : Nat
  payload : List Byte
deriving DecidableEq, Repr

/-- Calendar, lifetime counts and sediment log (15, Table 15.7). -/
structure SLog where
  calendar : Nat := 0
  calSince : Nat := 0
  counts : KMap Nat := []
  atCheckpoint : KMap Nat := []
  setNo : Nat := 0
  lastCheckpoint : Nat := 0
  dieLow : Option Int := none
  dieHigh : Option Int := none
  energyRem : KMap Nat := []
  toothRem : KMap Nat := []
  poweredRem : Nat := 0
  queue : List Rec := []
  nextSeq : Nat := 1
  dropped : Nat := 0
  dropReport : Nat := 0
  headSeg : Nat := 0
  headSlot : Nat := 0
  segSeq : Nat := 0
  erases : KMap Nat := []
  skipped : List Nat := []
  mismatches : Nat := 0
  erasing : Option Nat := none
  eraseHeld : Bool := false
  torn : Nat := 0
  flashErr : Bool := false
  restored : Bool := false
  unclean : Bool := false
  headSeq : Nat := 0
  retryAt : Option Nat := none
deriving DecidableEq, Repr

/-- A sample waiting in a bed (Table 15.5), as the 64 bytes of its record but SEQ. -/
structure Sample where
  kind : Nat
  group : Nat
  thread : Nat
  skid : Nat
  grain : Nat
  tenant : Nat
  kslot : Nat
  time : Nat
  pc : Nat
  addr : Nat
  latency : Nat
  eflags : Nat
  item : Nat
  launchSeq : Nat
  count : Nat
deriving DecidableEq, Repr

/-- Performance monitor (Table 15.8): counters, the latched sampling set-up of groups 0 and 1, the samples due by group (each the
logical grain of its occurrence), the beds' LFSRs and sample queues, the tagged instruction of each grain as thread and PC, the ring
pointers, and the losses. -/
structure Pm where
  counters : KMap Dword := []
  en : Bool := false
  dmaErr : Bool := false
  lost : Nat := 0
  lostReport : Nat := 0
  wptr : Nat := 0
  rptr : Nat := 0
  seq : Nat := 0
  samp : KMap Word := []
  period : KMap Word := []
  sampCount : KMap Nat := []
  due : KMap (List Nat) := []
  lfsr : KMap (BitVec 24) := []
  tagged : KMap (Option (Nat × Nat)) := []
  queues : KMap (List Sample) := []
deriving DecidableEq, Repr

end Sys2Proof.Machine
end

