-- ==== Sys2Proof/Machine/Parts2.lean ====
section
/-! DEFINITION. State of boot and trust (05), of the grain array and its threads (06, 07) and of the memory order
(08). -/

namespace Sys2Proof.Machine

/-- Why the loader waits or what it holds in retained SRAM (R117): the running payload's digest, its length, the result
of R114, its entry and its version. -/
structure RunRecord where
  digest : Nat
  len : Nat
  verify : Nat
  entry : Nat
  version : Nat
  src : Nat
  keySlot : Nat
deriving DecidableEq, Repr

/-- A boot descriptor's fields (Table 5.3). -/
structure BootDesc where
  seq : Nat
  active : Nat
  trial : Bool
  trialSlot : Nat
  windowS : Nat
deriving DecidableEq, Repr

/-- An accelerator's boot window and measurement (R126, R127): whether it is open, every byte pushed since it opened, the
measurement, and the ACC_RELEASE that polls with when it wrote RELEASE. -/
structure AccBoot where
  windowOpen : Bool := false
  pushed : List Byte := []
  released : Bool := false
  measurement : Nat := 0
  relCmd : Option Nat := none
  relSince : Nat := 0
deriving DecidableEq, Repr

/-- A request to the seal engine (R128): which requester, by number, the segments it has to go, and whether they are of one message,
whose state a suspension keeps; a spill's or fetch's are messages of their own. -/
structure SealReq where
  who : Nat
  segmentsLeft : Nat
  keeps : Bool := false
deriving DecidableEq, Repr

/-- How the steward reads the flash (R110): 1S-1S-1S, 1S-1S-8S or 8D-8D-8D. -/
inductive FlashMode where
  | single | octalRead | octalDdr
deriving DecidableEq, Repr

/-- Boot and trust (05): the status fields, the loader, the trial and its drain, retained SRAM, code SRAM and OTP. `flashDead` says that
the flash gave the loader no answer, `codeBad` that code SRAM has an uncorrectable error, and the tables are those of the last SFDP
read. -/
structure Boot where
  flashMode : FlashMode := .single
  sfdp : SfdpTables := ⟨false, false, false, false⟩
  codeBad : Bool := false
  bootErr : Nat := 0
  verify : Nat := 0
  runSrc : Nat := 0
  trialFailed : Bool := false
  trialRun : Bool := false
  unverified : Bool := false
  fastWake : Bool := false
  loaderRunning : Bool := false
  waitHost : Bool := false
  started : Bool := false
  runVer : Dword := 0
  trialEnd : Option Nat := none
  trialWindow : Nat := 0
  flashDead : Bool := false
  runDigest : Nat := 0
  code : List Byte := []
  retained : Option RunRecord := none
  trialArmed : Bool := false
  pending : Option BootDesc := none
  drainUntil : Option Nat := none
  otpKeys : List Nat := [0, 0, 0, 0]
  revoked : Nat := 0
  keySlot : Nat := 0
  provisioned : Bool := false
  identityKey : Bool := false
  chain : List Byte := []
  hostLocked : Bool := false
  unverifiedRan : Bool := false
  keyLock : Bool := true
deriving DecidableEq, Repr

/-- Seal engine, accelerator measurements and SPDM (05). -/
structure Seal where
  ctx0 : Option SealReq := none
  ctx1 : Option SealReq := none
  waiting : List SealReq := []
  suspended : List Nat := []
  bootReserved : Bool := true
  accs : KMap AccBoot := []
  doeBusy : Bool := true
  negotiated : Nat := 0
deriving DecidableEq, Repr

/-- One 64-bit thread's outstanding scalar load (R172, R190): destination register and the value it retires with. -/
structure PendLoad where
  reg : Nat
  value : Dword
deriving DecidableEq, Repr

/-- A store that its endpoint has not yet acknowledged (R189, R191): grain address, the bytes it writes (none where a
lane is off), whether it is Device-Strict, how far it has gone (0 in the thread's buffer, 1 past the grain's mesh port, 2 past
the bed router, 3 issued onto its link), whether a later Normal store may still merge into it (R198), and when it was issued. -/
structure PendStore where
  addr : Nat
  bytes : List (Option Byte)
  strict : Bool := false
  stage : Nat := 0
  merges : Bool := false
  since : Nat := 0
deriving DecidableEq, Repr

/-- A block copy in progress (R176): source, destination and length in bytes, the 8-byte pieces of it that are already copied
(R193), and when it was issued. -/
structure PendCopy where
  src : Nat
  dst : Nat
  len : Nat
  done : List Nat := []
  since : Nat := 0
deriving DecidableEq, Repr

/-- Why a thread is not ready (R162). `held` names the link, or 100 and a logical grain whose takeover it waits for (Table 6.11),
the address and when the hold began; `vector` is an LDV with the bytes it has read (R193). -/
inductive ThreadWait where
  | ready
  | fence (kind : Nat)
  | gsync (mask : Nat)
  | bsync (barrier : Nat) (reg : Nat)
  | sleep (addr : Nat) (value : Dword) (reg : Nat) (since : Nat)
  | bwait (n : Nat)
  | tsync
  | ending
  | strict (addr : Nat)
  | held (link : Nat) (addr : Nat) (since : Nat)
  | vector (w : Word) (addr : Nat) (got : List Byte)
deriving DecidableEq, Repr

/-- A thread's state (Table 7.1). `tileErrs`: the tiles of TILE_MODE exceptions it has yet to take (R168); `rsvMiss`: its attempts
in a row that a full endpoint table gave no reservation (R196). -/
structure Thread where
  live : Bool := false
  pc : Dword := 0
  gp : KMap Dword := []
  vr : KMap Word := []
  vp : KMap Dword := []
  xvec : Dword := 0
  xactive : Bool := false
  rsv : Option Nat := none
  wait : ThreadWait := .ready
  loads : List PendLoad := []
  stores : List PendStore := []
  copies : List PendCopy := []
  copyErr : Option Nat := none
  tileErrs : List Nat := []
  postErr : Option Nat := none
  tileOps : Nat := 0
  rsvMiss : Nat := 0
deriving DecidableEq, Repr

/-- One accumulator tile (R161, R169, R170): mode, 1024 elements (binary32 words, or signed 40-bit values), saturation
marks and flags. -/
structure Tile where
  int40 : Bool := false
  elems : KMap Int := []
  marks : KMap Bool := []
  sat : Bool := false
  narrow : Bool := false
  ovf : Bool := false
  inv : Bool := false
deriving DecidableEq, Repr

/-- Tile instruction (R165): issuing thread, TOP, tile, operand addresses, format and MOD, and whether it has left the queue for its
pipe; of a started one, the 8-byte pieces that it has already written, and those that it has read, as addresses with bytes (R193). -/
structure TileOp where
  thread : Nat
  top : Nat
  tile : Nat
  addrA : Nat
  addrB : Nat
  fmt : Nat
  modf : Nat
  started : Bool := false
  done : List Nat := []
  got : List (Nat × List Byte) := []
deriving DecidableEq, Repr

/-- A grain's configuration words (Table 6.7) and its running item; `last`: the thread that issued last; `slow`: the threads whose
last instruction may leave them not ready for more than a cycle (R162). -/
structure Grain where
  launch : Option Nat := none
  threadMask : Nat := 0
  entries : List Nat := []
  wdog : Nat := 0
  tenant : Nat := 0
  codeEnd : Nat := 0
  bedFirst : Nat := 0
  bedCount : Nat := 0
  item : Option Nat := none
  /-- The beds' clock at the item's start. -/
  itemStart : Nat := 0
  itemFailed : Bool := false
  tiles : KMap Tile := []
  queue : List TileOp := []
  fenced : Bool := false
  last : Nat := 7
  slow : Nat := 0
deriving DecidableEq, Repr

/-- A bed barrier (R179): target, count of arrivals. -/
structure Barrier where
  target : Nat := 0
  count : Nat := 0
deriving DecidableEq, Repr

/-- A running launch (R143 to R147): its acceptance number (a KCP command, or the batch's launch), tenant, CMD_ID,
kernel slot (0xFF for a model kernel), beds, ITEMS, ARGS, FAILMAP, the next item, the item numbers to run where it is
a re-run, failed items, LAUNCH_SEQ, and how it is to end; GRAIN_WDOG.DEFAULT latched at its start (R160), and the beds' clock
then (R187). -/
structure Launch where
  id : Nat
  cmd : Option Nat
  tenant : Nat
  qp : Nat
  cmdId : Nat
  kslot : Nat
  image : List Byte
  beds : List Nat
  items : Nat
  args : Dword
  failmap : Nat
  todo : Option (List Nat) := none
  next : Nat := 0
  failed : List Nat := []
  aborted : Bool := false
  undispatched : Bool := false
  seq : Nat
  start : Nat
  wdog : Nat := 0
  cycles : Nat := 0
deriving DecidableEq, Repr

/-- A kernel slot (R141). -/
structure KSlot where
  owner : Nat := 255
  image : List Byte := []
deriving DecidableEq, Repr

/-- A bed's takeover in progress (R154): logical grain and the spare that takes it. -/
structure Takeover where
  logical : Nat
  spare : Nat
deriving DecidableEq, Repr

/-- A bed: its fenced grains (`failing`: grains whose failure, with its cause, waits for a takeover to complete), whether it has a
spare, the launch that holds it, the tenant of its last launch, its takeovers in order, and the pool bit in force. -/
structure Bed where
  fencedMask : BitVec 17 := 0
  holder : Option Nat := none
  lastTenant : Nat := 127
  takeovers : List Takeover := []
  failing : List (Nat × Nat) := []
  inHost : Bool := false
  barriers : KMap Barrier := []
deriving DecidableEq, Repr

/-- Serving physical grain of a logical grain (Table 6.14). -/
structure Remap where
  phys : Nat
  absent : Bool := false
deriving DecidableEq, Repr

/-- An endpoint reservation (R195): granule, physical grain, thread and when it was set. -/
structure Rsv where
  granule : Nat
  grain : Nat
  thread : Nat
  since : Nat
deriving DecidableEq, Repr

/-- Tilth and the grain array (06), its threads (07) and the endpoint reservation tables (08). -/
structure Garr where
  remap : KMap Remap := []
  beds : KMap Bed := []
  grains : KMap Grain := []
  threads : KMap Thread := []
  kslots : KMap KSlot := []
  launches : List Launch := []
  launchSeq : Nat := 0
  nextLaunch : Nat := 0
  unfenceStatus : Nat := 0
  unfencing : Option Nat := none
  rsvs : List Rsv := []
  /-- Sixteenths of the GCLK cycles that beds received since reset, gated ones left out (R301). -/
  cycles16 : Nat := 0
deriving DecidableEq, Repr

end Sys2Proof.Machine
end

