-- ==== Sys2Proof/Machine/Parts3.lean ====
section
/-! DEFINITION. State of strata, model slots and ingest (09), of the links (10) and of accelerator power (11). -/

namespace Sys2Proof.Machine

/-- Home of a stratum (R10). -/
inductive Home where
  | accelerator (n : Nat)
  | steward
  | host
  | lost
deriving DecidableEq, Repr

/-- Accelerator copy state (R10). -/
inductive CopySt where
  | none | current | stale
deriving DecidableEq, Repr

/-- A stratum's shape (R208). -/
structure Shape where
  layers : Nat
  kvHeads : Nat
  headDim : Nat
  dtype : Nat
deriving DecidableEq, Repr

/-- A residency record (R10, R213). `root` is the grain address of the root in HBM; `extents` lists the 64 KiB units of
its root and blocks as (first unit, units). -/
structure Stratum where
  handle : Nat
  home : Home
  copy : CopySt := .none
  copyAcc : Nat := 0
  shape : Shape
  mode : Nat := 0
  slot : Nat := 255
  modelTag : Nat := 0
  tokens : Nat := 0
  stored : Nat := 0
  imageSize : Nat := 0
  root : Nat := 0
  generation : Nat := 0
  spillSeq : Nat := 0
  pending : Nat := 0
deriving DecidableEq, Repr

/-- An HBM extent in use, in 64 KiB units from the HBM base, and whose it is: 0 stratum, 1 model slot, 2 ingest
staging, 3 reservation. `key` is the handle, slot or command number. -/
structure Extent where
  first : Nat
  units : Nat
  kind : Nat
  key : Nat
deriving DecidableEq, Repr

/-- A model slot (R215 to R217): header fields, phases as (W_OFF, W_LEN, ITEMS), kernels, and where its sections lie in
HBM as (kind, index, grain address, length). -/
structure ModelSlot where
  loaded : Bool := false
  shape : Shape := ⟨0, 0, 0, 0⟩
  rotations : Bool := false
  tag : Nat := 0
  vocab : Nat := 0
  maxTokens : Nat := 0
  actBytes : Nat := 0
  bytes : Nat := 0
  phases : List (Nat × Nat × Nat) := []
  prologue : List Byte := []
  layerKernel : List Byte := []
  sections : List (Nat × Nat × Nat × Nat) := []
deriving DecidableEq, Repr

/-- Where a move stands on its spoke (R220, R249, R250): waiting for BEGIN's answer, moving data, at its commit, or
waiting for END's answer. -/
inductive MoveStage where
  | begin | data | ending
deriving DecidableEq, Repr

/-- A PARK or RESTORE on a spoke's mover, or a SPILL or FETCH in a seal context (spoke 8): the 64 bytes of its entry, its
tenant, whether its descriptor waits for the link, that descriptor's SEQ and when it was posted, whether a tenant reset
stops it, the model that a PARK's SLOT was bound to at its start (R218), and what a committed move completes with once its END
is answered. -/
structure Move where
  cmd : Nat
  tenant : Nat
  spoke : Nat
  op : Nat
  raw : List Byte
  stage : MoveStage
  unposted : Bool := false
  mbxSeq : Nat := 0
  since : Nat := 0
  stopping : Bool := false
  model : ModelSlot := {}
  r0 : Nat := 0
  r1 : Nat := 0
deriving DecidableEq, Repr

/-- A session of a window or batch (R223 to R229). `ue`: a line of it failed; `excluded`: the kernel skips it. `blocks`:
the new blocks, as (address, tokens); `oldStage`: for modes 1 and 2,
one layer of the old tokens. -/
structure Session where
  cmd : Nat
  tenant : Nat
  handle : Nat
  ingested : Nat
  heldBack : Nat
  buf : Nat
  excluded : Bool := false
  ue : Bool := false
  row0 : Nat := 0
  blocks : List (Nat × Nat) := []
  oldStage : Nat := 0
deriving DecidableEq, Repr

/-- An admission window, or a closed batch (R224): its slot, its sessions and the limits latched when it opened; the command that
opened it names the extent reserved for the rows of all its sessions, which lies at `rowsAt` (R223). -/
structure Window where
  id : Nat := 0
  slot : Nat
  opened : Nat
  lengthUs : Nat
  maxSessions : Nat
  sessions : List Session
  rowsAt : Nat := 0
deriving DecidableEq, Repr

/-- The running batch (R226, R231): layer (0xFFFF prologue), phase, the launch it waits for, how often each item failed,
the items to re-run, and where its staging lies. -/
structure Batch where
  win : Window
  layer : Nat
  phase : Nat
  launch : Option Nat := none
  failures : List (Nat × Nat) := []
  redo : List Nat := []
  idsAt : Nat := 0
  actAt : Nat := 0
  rows : Nat := 0
deriving DecidableEq, Repr

/-- Stratum engine (09). -/
structure Strata where
  recs : List Stratum := []
  extents : List Extent := []
  moves : List Move := []
  models : KMap ModelSlot := []
  windows : KMap (Option Window) := []
  queue : List Window := []
  batch : Option Batch := none
  hbmUe : Bool := false
  ueAddr : Dword := 0
  ueHandle : Dword := 0
  badLines : List Nat := []
deriving DecidableEq, Repr

/-- Where a spoke's link stands: off, held in reset, training, in L0, in Recovery, or fallen to Detect. -/
inductive LinkSt where
  | off | reset | training | l0 | recovery | detect
deriving DecidableEq, Repr

/-- What the spoke waits for after L0 (R244 to R246): nothing, the readiness message or 100 ms, enumeration, or
KC_STAT.READY. -/
inductive EnumSt where
  | none | readiness | enumerate | poll | done
deriving DecidableEq, Repr

/-- A spoke port (Table 10.7), its contract block as read and its handshakes. `trained`: its link has trained since its domain turned
ON (R204); `downSince`: when it last stopped being ready (R205); `lanes`: the width that carries traffic, below the negotiated one in
L0p (Table 10.1); `locked`: its PHY PLL is (R242); `memSpace`: Memory Space Enable of function 0, on bus 1, whose Bus Master Enable
stays 0 (R238); `waking`: An's exit from RETAIN has met no enumeration yet (R252); `cancelRetain`: RETAIN_CTRL = 0 waits for the link
(R251); `reason`: RETAIN_STAT.REASON of the last refusal (Table 10.2); `clkSince`: when its reference clock last
started (R24). -/
structure Spoke where
  link : LinkSt := .off
  rate : Nat := 0
  width : Nat := 0
  since : Nat := 0
  enum : EnumSt := .none
  ready : Bool := false
  sperstHigh : Bool := false
  linkDown : Bool := false
  contract : Bool := false
  enumErr : Bool := false
  memKept : Bool := false
  mbxErr : Bool := false
  contractTimeout : Bool := false
  inboundUr : Nat := 0
  recoveries : Nat := 0
  exportSize : Dword := 0
  bootSize : Word := 0
  kcBase : Nat := 0
  exportBase : Nat := 0
  bootBase : Nat := 0
  mbxSeq : Nat := 0
  lastRx : Nat := 0
  retryAt : Option Nat := none
  recoverySince : Nat := 0
  maxRate : Nat := 6
  maxWidth : Nat := 16
  aer : Nat := 0
  trained : Bool := false
  downSince : Nat := 0
  lanes : Nat := 0
  locked : Bool := true
  memSpace : Bool := false
  waking : Bool := false
  cancelRetain : Bool := false
  reason : Byte := 0
  clkSince : Nat := 0
deriving DecidableEq, Repr

/-- Accelerator states (Table 11.1). -/
inductive AccSt where
  | off | aux | retain | idle | run
deriving DecidableEq, Repr

/-- The encoding of an accelerator state (Table 3.8). -/
def AccSt.code : AccSt → Nat
  | .off => 0 | .aux => 1 | .retain => 2 | .idle => 3 | .run => 4

/-- The accelerator state a code names. -/
def AccSt.ofCode : Nat → AccSt
  | 0 => .off | 1 => .aux | 2 => .retain | 3 => .idle | _ => .run

/-- Where a transition of An stands (Table 11.2): none; rails coming up (those still to enable); link training and
enumeration; the RETAIN handshake; rails going down; the VCORE limit being written; or the rails of a failed
up-sequence being taken down. -/
inductive AccPhase where
  | none
  | up (todo : List Nat)
  | link
  | handshake
  | down (todo : List Nat)
  | limit
  | failed (todo : List Nat)
deriving DecidableEq, Repr

/-- A rail's setpoint state (R273 to R275). `lastStep`: when a step was last acknowledged; `tries`: failed writes of this step;
`gaveUp`: the write of the stored setpoint failed with its retries (R291). -/
structure Rail where
  en : Bool := false
  pg : Bool := false
  armed : Bool := false
  hostMv : Nat := 0
  ceilMv : Nat := 65535
  target : Nat := 0
  applied : Nat := 0
  slew : Nat := 0
  slewing : Option Nat := none
  moving : Bool := false
  tries : Nat := 0
  onSince : Nat := 0
  lastStep : Option Nat := none
  gaveUp : Bool := false
deriving DecidableEq, Repr

/-- An accelerator's power state (Table 11.5). `sample`: p_other and v_core of the last valid sample (R279). -/
structure Acc where
  st : AccSt := .off
  phase : AccPhase := .none
  target : AccSt := .off
  before : AccSt := .off
  cmd : Option Nat := none
  since : Nat := 0
  cut : Bool := false
  cutRail : Nat := 0
  stateCeil : AccSt := .run
  seqCfg : Nat := 0x0A0A0A00
  rails : KMap Rail := []
  ilimHost : Nat := 0xFFFFFFFF
  ilimCeil : Nat := 0xFFFFFFFF
  ilimEff : Nat := 0xFFFFFFFF
  plimHost : Nat := 0xFFFFFFFF
  plimCeil : Nat := 0xFFFFFFFF
  share : Nat := 0xFFFFFFFF
  iPow : Nat := 0xFFFFFFFF
  pmbusErr : Bool := false
  tries : Nat := 0
  retryAt : Option Nat := none
  failedMa : Option Nat := none
  upped : List Nat := []
  abandoned : Bool := false
  sample : Option (Nat × Nat) := none
deriving DecidableEq, Repr

/-- A telemetry window (R285). -/
structure TelemWin where
  start : Nat := 0
  len : Nat := 1000000
  sum : Nat := 0
  count : Nat := 0
  peak : Nat := 0
deriving DecidableEq, Repr

/-- Accelerator power block (11): accelerators, links and spokes, tray limits, telemetry, holdup bank. -/
structure AccPow where
  accs : KMap Acc := []
  lock : Bool := false
  trayPlim : Nat := 0xFFFFFFFF
  trayPceil : Nat := 0xFFFFFFFF
  avg : KMap TelemWin := []
  peak : KMap TelemWin := []
  pubAvg : KMap Nat := []
  pubPeak : KMap Nat := []
  gov : KMap TelemWin := []
  govAt : Nat := 0
  sampleAt : KMap (Option Nat) := []
  chargePct : Nat := 0
  charging : Bool := false
  tempInhibit : Bool := false
  inputLost : Bool := false
  rideThrough : Bool := false
  lostSince : Nat := 0
  stewardPower : Nat := 0
deriving DecidableEq, Repr

/-- The upstream port (Table 10.7). -/
structure ULink where
  l0 : Bool := false
  rate : Nat := 0
  width : Nat := 0
  l0p : Bool := false
  recoveries : Nat := 0
  recovering : Bool := false
  d3hot : Bool := false
  downSince : Nat := 0
deriving DecidableEq, Repr

/-- Links (10). -/
structure Links where
  u : ULink := {}
  spokes : KMap Spoke := []
deriving DecidableEq, Repr

end Sys2Proof.Machine
end

