-- ==== Sys2Proof/Machine/Parts4.lean ====
section
/-! DEFINITION. State of the thermal unit and the leak channels (12), of the motor channels (13), of the two-wire ports
(14) and of the test access port (16). -/

namespace Sys2Proof.Machine

/-- What a channel took from its registers at its last sample (R296, Table 12.5): THROTTLE − HYST, and its maps. -/
structure ChanTaken where
  clear : Int
  throtMap : Nat
  shutMap : Nat
deriving DecidableEq, Repr

/-- A temperature channel (R295 to R298): raw reading and value in 1/16 °C (none: 0x8000), failed reads in a row,
suspect mark and counts, level states, the values of the samples before (newest first), and the rise D of the last sample. `at` is
when it was last sampled, and `wasOut` whether it read 0x8000 or suspect before that sample. -/
structure Chan where
  taken : Option ChanTaken := none
  raw : Option Int := none
  value : Option Int := none
  fails : Nat := 0
  suspect : Bool := false
  apart : Nat := 0
  near : Nat := 0
  warn : Bool := false
  throt : Bool := false
  rise : Bool := false
  past : List Int := []
  rise16 : Int := 0
  at_ : Nat := 0
  wasOut : Bool := true
deriving DecidableEq, Repr

/-- An orderly stop of An in its grace (R303): since when, and the channels whose shutdown named An. -/
structure Stop where
  since : Nat
  chans : List Nat
deriving DecidableEq, Repr

/-- A throttle target (R300): its step, whether it is throttled, and when its next step is due. -/
structure Throttle where
  k : Nat := 16
  throttled : Bool := false
  nextAt : Nat := 0
deriving DecidableEq, Repr

/-- Thermal unit (12): channels, throttle targets (0 to 7 accelerators, 8 the array), latches (bit 8 the die), HW_TRIP,
the flash gate, stops in progress, the latches that drive pumps M6 and M7 to full speed (R305), and LOOP_CFG and LEAK_CFG as taken at
the last sample (Table 3.4). -/
structure Therm where
  chans : KMap Chan := []
  targets : KMap Throttle := []
  latch : BitVec 9 := 0
  hwTrip : Bool := false
  flashInhibit : Bool := true
  stops : KMap (Option Stop) := []
  pump6 : BitVec 9 := 0
  pump7 : BitVec 9 := 0
  loopCfg : Nat := 0x200F0
  leakCfg : Nat := 0xA00F0
deriving DecidableEq, Repr

/-- A leak channel (R308): conductance and loop resistance as last measured, how long it has been suspected, whether it
is confirmed, how many samples it has been over the open threshold, and who armed it. -/
structure Leak where
  g : Nat := 0
  ohm : Nat := 0
  suspected : Bool := false
  count : Nat := 0
  confirmed : Bool := false
  openCount : Nat := 0
  opened : Bool := false
  armHost : Bool := false
  armBmc : Bool := false
deriving DecidableEq, Repr

/-- Motor channel states (Table 13.3). -/
inductive MotorSt where
  | stopped | ramp | running | restart | lockout
deriving DecidableEq, Repr

/-- The encoding of a motor state (Table 3.9). -/
def MotorSt.code : MotorSt → Nat
  | .stopped => 0 | .ramp => 1 | .running => 2 | .restart => 3 | .lockout => 4

/-- A BMC floor: a speed, or the channel's table value (R330). -/
inductive Floor where
  | rpm (v : Nat)
  | table
deriving DecidableEq, Repr

/-- A motor channel's own state (13); the plain configuration fields of Table 13.8 stand in the register store. `duty` is the
shadow and `dutyActive` DUTY_ACTIVE; `gates` is GATE_MAN as in force since the last reload; `drive` says that the gates are
driven. Times are in PCLK cycles. `ramped` is the ramped target in 0.001 rpm; `pendingComm` a commutation's due time and
step; `good` the accepted teeth or crossings in a row of a ramp. `en`, `accel`, `gains` and `pause` are EN, ACCEL, PI and
STALL_PAUSE as taken at the last PWM reload (R342). -/
structure Motor where
  st : MotorSt := .stopped
  mode : Nat := 1
  failsafe : Nat := 1
  hostRpm : Nat := 0
  holdRpm : Option Nat := none
  floor : Floor := .rpm 0
  applied : Option Nat := none
  lapseRpm : Option Nat := none
  tableVal : Nat := 0
  ramped : Nat := 0
  integral : Int := 0
  duty : Nat := 0
  dutyActive : Nat := 0
  gateMan : Nat := 0
  gates : Nat := 0
  drive : Bool := false
  softHeld : Bool := false
  step : Nat := 0
  last : Nat := 0
  lastHall : Nat := 0
  intervals : List Nat := []
  tp : Nat := 0
  synth : Nat := 0
  pendingComm : Option (Nat × Nat) := none
  good : Nat := 0
  aligning : Bool := false
  rampStart : Nat := 0
  pauseStart : Nat := 0
  shoot : Bool := false
  blankedSeen : Bool := false
  hallInvalid : Bool := false
  stall : Bool := false
  phasePhase : Bool := false
  desat : Nat := 0
  ocSoft : Bool := false
  ocHard : Bool := false
  noise : Nat := 0
  synths : Nat := 0
  stalls : Nat := 0
  desats : Nat := 0
  latchedLegs : List Nat := []
  latchedSoft : Bool := false
  desatTimes : List Nat := []
  firstJudged : Option (Nat × Nat) := none
  hardIn : Bool := false
  desatIn : Bool := false
  en : Bool := false
  accel : Nat := 2000
  gains : Nat := 0x04000040
  pause : Nat := 500
deriving DecidableEq, Repr

/-- A controller port W1 to W11 (Table 14.8, R354, R355). `st`: 0 idle, 2 clearing, 3 DOWN (1 busy is read off the request under
way); `losses` lost arbitrations in a row, `attempts` clears that failed, `since` when the last clear was tried; `sent` the bytes of
the last transaction, each list from START or repeated START on. -/
structure Port where
  st : Nat := 0
  errs : Nat := 0
  arbLost : Nat := 0
  lastErr : Nat := 0
  losses : Nat := 0
  attempts : Nat := 0
  since : Nat := 0
  sent : List (List Byte) := []
deriving DecidableEq, Repr

/-- What Daxrin has to read on the port of an accelerator that was cut (Table 14.3): the rail, the state before, and whether STATUS_WORD
is logged, so that CLEAR_FAULTS follows. -/
structure CutRead where
  acc : Nat
  rail : Nat
  before : Nat
  logged : Bool
deriving DecidableEq, Repr

/-- A pending Host Notify (R352): reason, detail, since when, losses. -/
structure Hn where
  reason : Nat
  detail : Nat
  since : Nat
  losses : Nat
deriving DecidableEq, Repr

/-- Two-wire block (14): ports, the counts and last error of W0, pending Host Notifies, W0_RESULT, flow in 0.01 L/min and
pressure in 0.1 kPa by loop, whether the charger was switched on, the pass-through with the code it ends with once its bus is clear,
the reads after cuts, when Daxrin last read the loops, and the VOUT_MODE cached by 8 × accelerator + rail. -/
structure TwoWire where
  ports : KMap Port := []
  pecErrs : Nat := 0
  nacks : Nat := 0
  timeouts : Nat := 0
  w0Last : Nat := 0
  hn : List Hn := []
  hnDropped : Nat := 0
  result : Nat := 0
  flow : KMap Nat := []
  press : KMap Nat := []
  chargerOn : Bool := false
  xferBusy : Bool := false
  xferCode : Nat := 0
  xferBytes : Nat := 0
  xferWait : Option Nat := none
  cuts : List CutRead := []
  loopAt : Option Nat := none
  voutMode : KMap (Option Nat) := []
deriving DecidableEq, Repr

/-- Instructions of the TAP (Table 16.3). -/
inductive TapInstr where
  | bypass | idcode | samplePreload | extest | clamp | highz | extestPulse | extestTrain
deriving DecidableEq, Repr

/-- The test access port (R389): its instruction, the boundary register, and whether it drives or floats the pins, or
the link lanes. -/
structure Jtag where
  instr : TapInstr := .idcode
  cells : List Bool := []
  driving : Bool := false
  floating : Bool := false
  lanes : Bool := false
deriving DecidableEq, Repr

end Sys2Proof.Machine
end

