-- ==== Sys2Proof/Machine/State.lean ====
section
/-! DEFINITION. The state of the block: everything the spec gives the steward, as plain data, with the queue of the
commands that wait. -/

namespace Sys2Proof.Machine

/-- The reasons a step stops with a fault. No command of the table stops, so none is raised. -/
inductive Fault where
  /-- Raised by no meaning (safe): the interface asks for a fault type, and the spec gives no command a stop. -/
  | impossible
deriving DecidableEq, Repr

/-- The reasons a step is refused. -/
inductive Refusal where
  /-- A command with no meaning yet, by its mnemonic (safe). Raised by Dispatch.lean alone, for no command now. -/
  | notModelled (mnemonic : String)
deriving DecidableEq, Repr

/-- What a read command answered (the model's own output, log entry 22): a number with its width in bytes, bytes, an
unsupported request, a poisoned completion, or a NACK with a code of Table 14.6. -/
inductive Resp where
  | none
  | value (bytes : Nat) (v : Nat)
  | data (bs : List Byte)
  | unsupported
  | poisoned
  | nack (code : Nat)
deriving DecidableEq, Repr

/-- Memories of the steward and memories it reads and writes outside. Keys: `ls` physical grain × 2^18 + offset; `gm`
grain address (Loam and HBM); `flash` flash address; `host` bus address; `acc` accelerator × 2^40 + spoke bus
address. Unlisted bytes read 0, and 0xFF in flash. -/
structure Mems where
  ls : KMap Byte := []
  gm : KMap Byte := []
  flash : KMap Byte := []
  host : KMap Byte := []
  acc : KMap Byte := []
deriving DecidableEq, Repr

/-- The state of the block (INVENTORY.md, '## State'). -/
structure State where
  pending : List Instr := []
  tick : Nat := 0
  freeCtr : Nat := 0
  resp : Resp := .none
  crd : Crd := {}
  doms : KMap Dom := []
  domSeqs : List DomSeq := []
  regs : RegFile := {}
  hz : Horizon := {}
  qc : Qc := {}
  slog : SLog := {}
  pm : Pm := {}
  boot : Boot := {}
  sealEng : Seal := {}
  garr : Garr := {}
  strata : Strata := {}
  links : Links := {}
  pow : AccPow := {}
  therm : Therm := {}
  leaks : KMap Leak := []
  motors : KMap Motor := []
  tw : TwoWire := {}
  jtag : Jtag := {}
  mem : Mems := {}
deriving DecidableEq, Repr

/-- The machine right after reset: power-on reset asserted, with POR_N low (Table 2.6, Table 2.8). Every field stands at
the value the spec gives for power-on reset, or at the value a log entry names. -/
def State.reset : State := {}

end Sys2Proof.Machine
end

