-- ==== Sys2Proof/Machine/RegTable.lean ====
section
/-! DEFINITION. The registers that software writes and that no other part of the state holds: for each word of PF BAR0
its writable bits and its reset value (Tables 3.11, 5.12, 6.14, 8.8, 9.14, 10.7, 11.5, 12.7, 13.8, 14.8, 15.7,
15.8). -/

namespace Sys2Proof.Machine

/-- A configuration word: the bits that a write stores, and its value at reset. -/
structure WordSpec where
  rw : Nat := 0
  reset : Nat := 0
deriving DecidableEq, Repr

/-- The block of Table 3.1 that a BAR0 offset lies in: 0 the Horizon page, 1 identity, 2 queue control, 3 clocks, 4 boot,
5 Tilth, 6 stratum engine, 7 accelerator power, 8 thermal, 9 motors, 10 two-wire, 11 log, 12 performance monitor, 13
seal engine; 14 beyond them (R50). -/
def blockOf (off : Nat) : Nat :=
  if off < 0x10000 then 0 else if off < 0x20000 then 1 else if off < 0x100000 then 2
  else if off < 0xC00000 then off / 0x100000 + 2 else 14

/-- Base of a block (Table 3.1). -/
def blockBase : Nat → Nat
  | 0 => 0 | 1 => 0x10000 | 2 => 0x20000 | n => (n - 2) * 0x100000

/-- Reset level words of a temperature channel (Table 12.2), in 1/16 °C: warn, throttle, shutdown, CRIT. -/
def chanLevels (c : Nat) : Nat × Nat × Nat × Nat :=
  if c < 16 then (1520, 1632, 1760, 1840)
  else if c < 18 then (880, 960, 1040, 1088)
  else if c < 20 then (720, 800, 880, 928)
  else (1360, 1520, 1680, 1760)

/-- Reset CH_HYST of a channel (Table 12.7): rise limit and hysteresis. -/
def chanHyst (c : Nat) : Nat :=
  if c < 16 then 200 * 0x10000 + 80 else if c < 20 then 20 * 0x10000 + 48 else 80

/-- Reset CH_MAP of a channel (Table 12.3): shutdown map and throttle map. -/
def chanMap (c : Nat) : Nat :=
  if c < 16 then 0x0FF * 0x10000 + 0x100
  else if c = 16 ∨ c = 18 then 0x00F * 0x10000 + 0x00F
  else if c = 17 ∨ c = 19 then 0x0F0 * 0x10000 + 0x0F0
  else 0

/-- Configuration words of a temperature channel, by offset in the channel. -/
def chanSpec (c o : Nat) : WordSpec :=
  let l := chanLevels c
  match o with
  | 0x00 => ⟨if c < 16 then 0x80000000 else 0x8000007F, 0x80000000⟩
  | 0x04 => ⟨0xFFFF, l.1⟩
  | 0x08 => ⟨0xFFFF, l.2.1⟩
  | 0x0C => ⟨0xFFFF, l.2.2.1⟩
  | 0x10 => ⟨0xFFFF, l.2.2.2⟩
  | 0x14 => ⟨0xFF00FF, chanHyst c⟩
  | 0x18 => ⟨0x1FF01FF, chanMap c⟩
  | 0x1C => ⟨if c < 16 then 0 else 0xFFFF0000, 0⟩
  | _ => {}

/-- Configuration words of a motor channel, by offset in the channel (DUTY and GATE_MAN stand in `Motor`). -/
def motorSpec (o : Nat) : WordSpec :=
  match o with
  | 0x00 => ⟨0xF1F, 0⟩
  | 0x08 => ⟨0x3FFF, 8000⟩
  | 0x0C => ⟨0xFFFFFF, 32 * 0x10000 + 25 * 0x100 + 20⟩
  | 0x1C => ⟨0xFFFF, 0⟩
  | 0x20 => ⟨0xFFFFFF, 64 * 0x10000⟩
  | 0x24 => ⟨0xFFFFFFFF, 100 * 0x10000 + 1000⟩
  | 0x28 => ⟨0xFFFF, 2000⟩
  | 0x2C => ⟨0xFFFFFFFF, 0x04000040⟩
  | 0x30 => ⟨0xFFFF, 500⟩
  | 0x44 => ⟨0x3FFFF, 0x1031D⟩
  | 0x48 => ⟨0xFF1F, 0xFF00⟩
  | 0x4C => ⟨0xFFFF, 200 * 0x100 + 150⟩
  | _ => if 0x80 ≤ o ∧ o < 0xC0 then ⟨0xFFFFFFFF, 0⟩ else {}

/-- Configuration words of an accelerator, by offset in its registers. -/
def accSpec (o : Nat) : WordSpec :=
  match o with
  | 0x04 => ⟨0xFFFFFF03, 0x0A0A0A00⟩
  | 0x08 => ⟨0xFFFFFFFF, 0⟩
  | 0x0C => ⟨0xFFFFFFFF, 0⟩
  | _ =>
    if 0x40 ≤ o ∧ o < 0x90 then
      (if o % 0x10 = 0 then ⟨0xFF7F, 0xFF00⟩ else if o % 0x10 = 4 then ⟨0xFFFFFFFF, 0⟩ else {})
    else {}

/-- Configuration words of a performance monitor group, by offset in the group. -/
def pmGroupSpec (g o : Nat) : WordSpec :=
  match o with
  | 0x00 => ⟨0x77F0F, 0x70000⟩
  | 0x04 => ⟨0x3FF03FF, 1023 * 0x10000⟩
  | 0x08 => ⟨0xFFFFFFC0, 0⟩
  | 0x0C => ⟨0x803F00FF, 0⟩
  | 0x10 => ⟨0xFFFFFFC0, 0⟩
  | 0x14 => ⟨0x803F00FF, 0⟩
  | 0x18 => if g < 2 then ⟨0x1F3F, 16 * 0x100⟩ else {}
  | 0x1C => if g < 2 then ⟨0xFFFFFFFF, 0x10000⟩ else {}
  | _ => {}

/-- The configuration word at a BAR0 offset, a multiple of 4. -/
def cfgSpec (off : Nat) : WordSpec :=
  let o := off - blockBase (blockOf off)
  match blockOf off with
  | 1 => match o with
    | 0x100 => ⟨0xFFF00000, 0⟩
    | 0x104 => ⟨0xFFFFFFFF, 0x40⟩
    | 0x108 => ⟨1, 0⟩
    | _ => {}
  | 4 => match o with
    | 0x08 => ⟨0xFFFFFFFF, 0⟩
    | 0x0C => ⟨0xFFFFFFFF, 0⟩
    | 0x10 => ⟨0x7FFFFF, 0⟩
    | _ => {}
  | 5 => match o with
    | 0x08 => ⟨0xFFFFFFFF, 0⟩
    | 0x0C => ⟨0xFFFFFFFF, 0⟩
    | 0x10 => ⟨0xFFFF, 0x0400⟩
    | 0x20 => ⟨0x1FF01FF, 0⟩
    | _ =>
      if 0x1400 ≤ o ∧ o < 0x1600 then ⟨0x1FF01FF, 0⟩
      else if 0x1800 ≤ o ∧ o < 0x1900 then (if o % 8 = 0 then ⟨0xFFFF3F31, 0⟩ else ⟨0xFFFF, 0⟩)
      else {}
  | 6 => match o with
    | 0x04 => ⟨0xFFFF, 0x07D0⟩
    | 0x08 => ⟨0x1FF, 0x100⟩
    | 0x10 => ⟨0xFFFFFFFF, 0⟩
    | 0x14 => ⟨0xFFFFFFFF, 0⟩
    | _ => {}
  | 7 => match o with
    | 0x08 => ⟨0xFFFFFFFF, 1000 * 0x10000 + 1000⟩
    | 0x0C => ⟨0x7F0FF1, 1⟩
    | 0x1C => ⟨0x7F, 0⟩
    | _ =>
      if 0x100 ≤ o ∧ o < 0x900 then accSpec (o % 0x100)
      else if 0x8100 ≤ o ∧ o < 0x8300 then
        (match o % 0x40 with
         | 0x04 => ⟨0x1F1F, 16 * 0x100 + 0x10 + 6⟩
         | 0x08 => ⟨0xFFFF, 50⟩
         | 0x0C => ⟨0xFFFF, 1000⟩
         | _ => {})
      else {}
  | 8 => match o with
    | 0x0C => ⟨0x300FF, 0x200F0⟩
    | 0x804 => ⟨0xF00FF, 0xA00F0⟩
    | 0x808 => ⟨0xFFFFFFFF, 1000 * 0x10000 + 100⟩
    | 0x80C => ⟨0xFFFF, 5000⟩
    | _ => if 0x100 ≤ o ∧ o < 0x500 then chanSpec ((o - 0x100) / 0x20) (o % 0x20) else {}
  | 9 => if 0x100 ≤ o ∧ o < 0x900 then motorSpec (o % 0x100) else {}
  | 10 => match o with
    | 0x04 => ⟨3, 2⟩
    | 0x08 => ⟨0xFFFFFFFF, 0⟩
    | 0x1000 => ⟨0x0F7FFFFF, 9 * 0x1000000 + 1⟩
    | _ =>
      if 0x140 ≤ o ∧ o < 0x400 ∧ o % 0x40 = 0 then ⟨0x303, 0x101⟩
      else if o = 0x800 ∨ o = 0x804 then ⟨0xFF7FFF7F, 0⟩
      else if 0x1020 ≤ o ∧ o < 0x1040 then ⟨0xFFFFFFFF, 0⟩
      else {}
  | 11 => if o = 0x18 then ⟨0x1FFFF, 3600⟩ else {}
  | 12 => match o with
    | 0x08 => ⟨0xFFFFFF, 1⟩
    | 0x10 => ⟨0xFFFFF000, 0⟩
    | 0x14 => ⟨0xFFFFFFFF, 0⟩
    | 0x18 => ⟨0x1F, 12⟩
    | _ => if 0x100 ≤ o ∧ o < 0x480 then pmGroupSpec ((o - 0x100) / 0x20) (o % 0x20) else {}
  | _ => {}

/-- Value of a configuration word before any write. -/
def cfgReset (off : Nat) : Word := BitVec.ofNat 32 (cfgSpec off).reset

/-- A configuration word of the state. -/
def cfgGet (s : State) (off : Nat) : Word := KMap.get cfgReset s.regs.cfg off

/-- A configuration word, as a number. -/
def cfgN (s : State) (off : Nat) : Nat := (cfgGet s off).toNat

/-- Field [hi:lo] of a configuration word. -/
def cfgF (s : State) (off hi lo : Nat) : Nat := bf (cfgGet s off) hi lo

/-- A 64-bit configuration register. -/
def cfgD (s : State) (off : Nat) : Nat := cfgN s off + 2 ^ 32 * cfgN s (off + 4)

/-- Stores a configuration word. -/
def cfgSet (s : State) (off : Nat) (w : Word) : State :=
  { s with regs := { s.regs with cfg := KMap.set cfgReset s.regs.cfg off w } }

/-- Stores field [hi:lo] of a configuration word. -/
def cfgSetF (s : State) (off hi lo v : Nat) : State :=
  let old := cfgN s off
  cfgSet s off (BitVec.ofNat 32 (old - fieldN hi lo (old >>> lo) + fieldN hi lo v))

end Sys2Proof.Machine
end

