-- ==== Sys2Proof/Machine/Ops.lean ====
section
/-! DEFINITION. The named operations over the state: instances, memories, counters, the fault log, the sediment log's
queue, Host Notify, status codes and the completion of a KCP command. -/

namespace Sys2Proof.Machine

/-! ### Instances -/

/-- A domain at power-on (Table 2.2). -/
def domInit (d : Nat) : Dom :=
  if d < 6 ∨ (14 ≤ d ∧ d < 20) then ⟨.on, .on, 0, .idle, .on, 0⟩ else ⟨.off, .off, 0, .idle, .off, 0⟩

/-- Domain Dd. -/
def getDom (s : State) (d : Nat) : Dom := KMap.get domInit s.doms d
/-- Writes domain Dd. -/
def setDom (s : State) (d : Nat) (x : Dom) : State := { s with doms := KMap.set domInit s.doms d x }
/-- Changes domain Dd. -/
def modDom (s : State) (d : Nat) (f : Dom → Dom) : State := setDom s d (f (getDom s d))
/-- Does DOM_CTRL.CUR of domain Dd show ON (Table 2.9). -/
def domShowsOn (s : State) (d : Nat) : Bool := decide ((getDom s d).cur = .on)
/-- Is domain Dd ON and in no transition. -/
def domOn (s : State) (d : Nat) : Bool :=
  let x := getDom s d
  decide (x.cur = .on) && (decide (x.phase = .idle) || decide (x.phase = .resetting))

/-- Queue pair q of function fn. -/
def getQp (s : State) (fn q : Nat) : Qp := KMap.get (fun _ => ({} : Qp)) s.qc.qps (fn * 8 + q)
/-- Writes a queue pair. -/
def setQp (s : State) (fn q : Nat) (x : Qp) : State :=
  { s with qc := { s.qc with qps := KMap.set (fun _ => ({} : Qp)) s.qc.qps (fn * 8 + q) x } }
/-- Changes a queue pair. -/
def modQp (s : State) (fn q : Nat) (f : Qp → Qp) : State := setQp s fn q (f (getQp s fn q))

/-- What the steward holds for tenant Tt. -/
def getTen (s : State) (t : Nat) : Tenant := KMap.get (fun _ => ({} : Tenant)) s.qc.tenants t
/-- Writes a tenant. -/
def setTen (s : State) (t : Nat) (x : Tenant) : State :=
  { s with qc := { s.qc with tenants := KMap.set (fun _ => ({} : Tenant)) s.qc.tenants t x } }
/-- Changes a tenant. -/
def modTen (s : State) (t : Nat) (f : Tenant → Tenant) : State := setTen s t (f (getTen s t))

/-- T64's packet path. -/
def setT64 (s : State) (x : T64Q) : State := { s with qc := { s.qc with t64 := x } }

/-- Accelerator An. -/
def getAcc (s : State) (n : Nat) : Acc := KMap.get (fun _ => ({} : Acc)) s.pow.accs n
/-- Writes accelerator An. -/
def setAcc (s : State) (n : Nat) (x : Acc) : State :=
  { s with pow := { s.pow with accs := KMap.set (fun _ => ({} : Acc)) s.pow.accs n x } }
/-- Changes accelerator An. -/
def modAcc (s : State) (n : Nat) (f : Acc → Acc) : State := setAcc s n (f (getAcc s n))
/-- Rail r of An. -/
def getRail (a : Acc) (r : Nat) : Rail := KMap.get (fun _ => ({} : Rail)) a.rails r
/-- Writes rail r of An. -/
def setRail (a : Acc) (r : Nat) (x : Rail) : Acc :=
  { a with rails := KMap.set (fun _ => ({} : Rail)) a.rails r x }
/-- Changes rail r of An. -/
def modRail (s : State) (n r : Nat) (f : Rail → Rail) : State :=
  modAcc s n (fun a => setRail a r (f (getRail a r)))

/-- Spoke Sn. -/
def getSpoke (s : State) (n : Nat) : Spoke := KMap.get (fun _ => ({} : Spoke)) s.links.spokes n
/-- Writes spoke Sn. -/
def setSpoke (s : State) (n : Nat) (x : Spoke) : State :=
  { s with links := { s.links with spokes := KMap.set (fun _ => ({} : Spoke)) s.links.spokes n x } }
/-- Changes spoke Sn. -/
def modSpoke (s : State) (n : Nat) (f : Spoke → Spoke) : State := setSpoke s n (f (getSpoke s n))

/-- Temperature channel c. -/
def getChan (s : State) (c : Nat) : Chan := KMap.get (fun _ => ({} : Chan)) s.therm.chans c
/-- Writes temperature channel c. -/
def setChan (s : State) (c : Nat) (x : Chan) : State :=
  { s with therm := { s.therm with chans := KMap.set (fun _ => ({} : Chan)) s.therm.chans c x } }
/-- Throttle target k: 0 to 7 accelerators, 8 the grain array. -/
def getThr (s : State) (k : Nat) : Throttle := KMap.get (fun _ => ({} : Throttle)) s.therm.targets k
/-- Cycles that a grain received since a moment on the beds' clock; a gated cycle counts as none (R301). -/
def grainCycles (s : State) (since : Nat) : Nat := (s.garr.cycles16 - since) / 16
/-- Writes throttle target k. -/
def setThr (s : State) (k : Nat) (x : Throttle) : State :=
  { s with therm := { s.therm with targets := KMap.set (fun _ => ({} : Throttle)) s.therm.targets k x } }

/-- Leak channel l. -/
def getLeak (s : State) (l : Nat) : Leak := KMap.get (fun _ => ({} : Leak)) s.leaks l
/-- Writes leak channel l. -/
def setLeak (s : State) (l : Nat) (x : Leak) : State :=
  { s with leaks := KMap.set (fun _ => ({} : Leak)) s.leaks l x }

/-- A motor channel at power-on (R340): TABLE for fans, HOLD for pumps. -/
def motorInit (m : Nat) : Motor := if m < 6 then {} else { mode := 2, failsafe := 2 }
/-- Motor channel Mm. -/
def getMotor (s : State) (m : Nat) : Motor := KMap.get motorInit s.motors m
/-- Writes motor channel Mm. -/
def setMotor (s : State) (m : Nat) (x : Motor) : State := { s with motors := KMap.set motorInit s.motors m x }
/-- Changes motor channel Mm. -/
def modMotor (s : State) (m : Nat) (f : Motor → Motor) : State := setMotor s m (f (getMotor s m))

/-- Port Wp. -/
def getPort (s : State) (p : Nat) : Port := KMap.get (fun _ => ({} : Port)) s.tw.ports p
/-- Writes port Wp. -/
def setPort (s : State) (p : Nat) (x : Port) : State :=
  { s with tw := { s.tw with ports := KMap.set (fun _ => ({} : Port)) s.tw.ports p x } }

/-- Bed Bb. -/
def getBed (s : State) (b : Nat) : Bed := KMap.get (fun _ => ({} : Bed)) s.garr.beds b
/-- Writes bed Bb. -/
def setBed (s : State) (b : Nat) (x : Bed) : State :=
  { s with garr := { s.garr with beds := KMap.set (fun _ => ({} : Bed)) s.garr.beds b x } }
/-- Changes bed Bb. -/
def modBed (s : State) (b : Nat) (f : Bed → Bed) : State := setBed s b (f (getBed s b))
/-- Physical grain p, numbered 17 × bed + index. -/
def getGrain (s : State) (p : Nat) : Grain := KMap.get (fun _ => ({} : Grain)) s.garr.grains p
/-- Writes physical grain p. -/
def setGrain (s : State) (p : Nat) (x : Grain) : State :=
  { s with garr := { s.garr with grains := KMap.set (fun _ => ({} : Grain)) s.garr.grains p x } }
/-- Changes physical grain p. -/
def modGrain (s : State) (p : Nat) (f : Grain → Grain) : State := setGrain s p (f (getGrain s p))
/-- Thread t of physical grain p. -/
def getThread (s : State) (p t : Nat) : Thread := KMap.get (fun _ => ({} : Thread)) s.garr.threads (p * 8 + t)
/-- Writes thread t of physical grain p. -/
def setThread (s : State) (p t : Nat) (x : Thread) : State :=
  { s with garr := { s.garr with threads := KMap.set (fun _ => ({} : Thread)) s.garr.threads (p * 8 + t) x } }
/-- Changes thread t of physical grain p. -/
def modThread (s : State) (p t : Nat) (f : Thread → Thread) : State := setThread s p t (f (getThread s p t))
/-- Remap entry of logical grain g at power-on (R135). -/
def remapInit (g : Nat) : Remap := ⟨g % 16, false⟩
/-- Remap entry of logical grain g. -/
def getRemap (s : State) (g : Nat) : Remap := KMap.get remapInit s.garr.remap g
/-- Writes the remap entry of logical grain g. -/
def setRemap (s : State) (g : Nat) (x : Remap) : State :=
  { s with garr := { s.garr with remap := KMap.set remapInit s.garr.remap g x } }
/-- Kernel slot k. -/
def getKslot (s : State) (k : Nat) : KSlot := KMap.get (fun _ => ({} : KSlot)) s.garr.kslots k
/-- Writes kernel slot k. -/
def setKslot (s : State) (k : Nat) (x : KSlot) : State :=
  { s with garr := { s.garr with kslots := KMap.set (fun _ => ({} : KSlot)) s.garr.kslots k x } }

/-- Model slot m. -/
def getModel (s : State) (m : Nat) : ModelSlot := KMap.get (fun _ => ({} : ModelSlot)) s.strata.models m
/-- Writes model slot m. -/
def setModel (s : State) (m : Nat) (x : ModelSlot) : State :=
  { s with strata := { s.strata with models := KMap.set (fun _ => ({} : ModelSlot)) s.strata.models m x } }
/-- The open admission window of slot m. -/
def getWindow (s : State) (m : Nat) : Option Window := KMap.get (fun _ => none) s.strata.windows m
/-- Writes the open admission window of slot m. -/
def setWindow (s : State) (m : Nat) (x : Option Window) : State :=
  { s with strata := { s.strata with windows := KMap.set (fun _ => none) s.strata.windows m x } }
/-- The residency record of a handle. -/
def findRec (s : State) (h : Nat) : Option Stratum := s.strata.recs.find? (fun r => r.handle = h)
/-- Removes a handle's record. -/
def dropRec (s : State) (h : Nat) : State :=
  { s with strata := { s.strata with recs := s.strata.recs.filter (fun r => r.handle ≠ h) } }
/-- Writes a record, in place of any of the same handle. -/
def putRec (s : State) (r : Stratum) : State :=
  { s with strata := { s.strata with recs := s.strata.recs.filter (fun x => x.handle ≠ r.handle) ++ [r] } }
/-- Changes every record. -/
def mapRecs (s : State) (f : Stratum → Stratum) : State :=
  { s with strata := { s.strata with recs := s.strata.recs.map f } }

/-- An accelerator's boot window and measurement. -/
def getAccBoot (s : State) (n : Nat) : AccBoot := KMap.get (fun _ => ({} : AccBoot)) s.sealEng.accs n
/-- Writes an accelerator's boot window and measurement. -/
def setAccBoot (s : State) (n : Nat) (x : AccBoot) : State :=
  { s with sealEng := { s.sealEng with accs := KMap.set (fun _ => ({} : AccBoot)) s.sealEng.accs n x } }

/-! ### Memories -/

/-- What an unlisted byte of the steward's memories, of host memory and of accelerator memory reads as (log entry 7). -/
def mem0 (_ : Nat) : Byte := 0
/-- What an erased flash byte reads as (R111). -/
def flash1 (_ : Nat) : Byte := 0xFF

/-- Bytes of host memory. -/
def hostRead (s : State) (a n : Nat) : List Byte := KMap.readN mem0 s.mem.host a n
/-- Writes host memory. -/
def hostWrite (s : State) (a : Nat) (bs : List Byte) : State :=
  { s with mem := { s.mem with host := KMap.writeN mem0 s.mem.host a bs } }
/-- Bytes of Loam or HBM by grain address. -/
def gmRead (s : State) (a n : Nat) : List Byte := KMap.readN mem0 s.mem.gm a n
/-- Writes Loam or HBM by grain address. -/
def gmWrite (s : State) (a : Nat) (bs : List Byte) : State :=
  { s with mem := { s.mem with gm := KMap.writeN mem0 s.mem.gm a bs } }
/-- Bytes of accelerator An's memory by spoke bus address. -/
def accRead (s : State) (n a k : Nat) : List Byte := KMap.readN mem0 s.mem.acc (n * 2 ^ 40 + a) k
/-- Writes accelerator An's memory by spoke bus address. -/
def accWrite (s : State) (n a : Nat) (bs : List Byte) : State :=
  { s with mem := { s.mem with acc := KMap.writeN mem0 s.mem.acc (n * 2 ^ 40 + a) bs } }
/-- Bytes of boot flash. -/
def flashRead (s : State) (a n : Nat) : List Byte := KMap.readN flash1 s.mem.flash a n
/-- Programs boot flash. -/
def flashProg (s : State) (a : Nat) (bs : List Byte) : State :=
  { s with mem := { s.mem with flash := KMap.writeN flash1 s.mem.flash a bs } }
/-- Erases boot flash bytes [lo, hi). -/
def flashErase (s : State) (lo hi : Nat) : State :=
  { s with mem := { s.mem with flash := KMap.clearRange s.mem.flash lo hi } }
/-- Bytes of physical grain p's local store. -/
def lsRead (s : State) (p off n : Nat) : List Byte := KMap.readN mem0 s.mem.ls (p * 0x40000 + off) n
/-- Writes physical grain p's local store. -/
def lsWrite (s : State) (p off : Nat) (bs : List Byte) : State :=
  { s with mem := { s.mem with ls := KMap.writeN mem0 s.mem.ls (p * 0x40000 + off) bs } }
/-- Zeroes bytes [lo, hi) of physical grain p's local store. -/
def lsZero (s : State) (p lo hi : Nat) : State :=
  { s with mem := { s.mem with ls := KMap.clearRange s.mem.ls (p * 0x40000 + lo) (p * 0x40000 + hi) } }

/-! ### REG_BUSY -/

/-- Sets REG_BUSY of a block (R59), by its number of `blockOf`. -/
def setBusy (s : State) (blk : Nat) : State :=
  { s with regs := { s.regs with busy := KMap.set (fun _ => false) s.regs.busy blk true } }
/-- REG_BUSY of a block. -/
def getBusy (s : State) (blk : Nat) : Bool := KMap.get (fun _ => false) s.regs.busy blk
/-- Clears REG_BUSY of a block. -/
def clrBusy (s : State) (blk : Nat) : State :=
  { s with regs := { s.regs with busy := KMap.set (fun _ => false) s.regs.busy blk false } }
/-- Sets VF_STATUS.REG_BUSY of VF fn, or the block's of the PF. -/
def setBusyFn (s : State) (fn blk : Nat) : State :=
  if fn = 0 then setBusy s blk
  else { s with regs := { s.regs with vfBusy := KMap.set (fun _ => false) s.regs.vfBusy fn true } }
/-- Logs an error under U's AER (R50, R53). -/
def logAer (s : State) : State := { s with regs := { s.regs with aer := s.regs.aer + 1 } }

/-! ### Free values -/

/-- Draws a free 64-bit value (log entry 8). -/
def drawFree (s : State) : Dword × State := (Config.freeDword s.freeCtr, { s with freeCtr := s.freeCtr + 1 })

/-! ### Performance counters and lifetime counts -/

/-- What an event occurrence carries (R375): its tenant (65 for the steward's own), its command's class, its logical
grain and its address. -/
structure Occ where
  tenant : Nat := 65
  cls : Option Nat := none
  grain : Option Nat := none
  addr : Option Nat := none
deriving DecidableEq, Repr

/-- Group register base of the performance monitor. -/
def pmGroup (g : Nat) : Nat := 0xA00100 + 0x20 * g

/-- Which filters a group lists (Table 15.4): P, T, G, A, C. -/
def groupFilters (g : Nat) : Bool × Bool × Bool × Bool × Bool :=
  match g with
  | 0 => (true, false, true, false, false)
  | 1 => (true, false, true, true, false)
  | 3 => (false, false, false, true, false)
  | 4 => (false, false, false, true, false)
  | 6 => (true, true, false, false, false)
  | 7 => (true, true, false, false, true)
  | 8 => (false, true, false, false, false)
  | 9 => (true, true, false, false, true)
  | 10 => (false, true, false, false, false)
  | _ => (false, false, false, false, false)

/-- Does an address lie in an enabled comparator's range, or is no comparator enabled (R375, A). -/
def addrPasses (s : State) (g a : Nat) : Bool :=
  let c (o : Nat) : Bool × Bool :=
    let w := cfgD s (pmGroup g + o)
    let sz := (w >>> 48) % 64
    let base := ((w % 2 ^ 40) >>> 6) <<< 6
    ((w >>> 63) % 2 = 1, a >>> sz = base >>> sz)
  let c0 := c 8
  let c1 := c 16
  (!c0.1 && !c1.1) || (c0.1 && c0.2) || (c1.1 && c1.2)

/-- Does an occurrence pass every filter its group lists (R375). -/
def passes (s : State) (g : Nat) (o : Occ) : Bool :=
  let f := cfgGet s (pmGroup g)
  let (p, t, gr, a, c) := groupFilters g
  let priv := bf f 1 0
  let sel := bf f 3 2
  (!p || priv = 0 || (priv = 1 && o.tenant ≤ 64) || (priv = 2 && o.tenant = 65) || priv = 3)
  && (!t || sel ≠ 1 || o.tenant = bf f 14 8)
  && (!gr || sel ≠ 2 ||
      (match o.grain with
       | some x => bf (cfgGet s (pmGroup g + 4)) 9 0 ≤ x && x ≤ bf (cfgGet s (pmGroup g + 4)) 25 16
       | none => true))
  && (!a || (match o.addr with | some x => addrPasses s g x | none => true))
  && (!c || (match o.cls with | some k => (bf f 18 16 >>> k) % 2 = 1 | none => true))

/-- Value of performance counter e. -/
def pmGet (s : State) (e : Nat) : Dword := KMap.get (fun _ => 0) s.pm.counters e

/-- Counts `n` occurrences of event e (R374, R375), and the sampling count beside it in overflow mode (R377). -/
def count (s : State) (e : Nat) (o : Occ) (n : Nat := 1) : State :=
  let g := e / 16
  if passes s g o then
    let pm := { s.pm with counters := KMap.set (fun _ => 0) s.pm.counters e (pmGet s e + BitVec.ofNat 64 n) }
    let samp := KMap.get (fun _ => (0 : Word)) s.pm.samp g
    if s.pm.en ∧ g < 2 ∧ bf samp 5 4 = 1 ∧ bf samp 3 0 = e % 16 then
      let per := (KMap.get (fun _ => (0 : Word)) s.pm.period g).toNat
      let c := KMap.get (fun _ => 0) s.pm.sampCount g + n
      if per ≤ c then
        { s with pm := { pm with sampCount := KMap.set (fun _ => 0) s.pm.sampCount g (c % per),
                                 due := KMap.set (fun _ => []) s.pm.due g
                                   (KMap.get (fun _ => []) s.pm.due g ++ List.replicate (c / per) (o.grain.getD 1024)) } }
      else { s with pm := { pm with sampCount := KMap.set (fun _ => 0) s.pm.sampCount g c } }
    else { s with pm := pm }
  else s

/-- Lifetime count i. -/
def ltGet (s : State) (i : Nat) : Nat := KMap.get (fun _ => 0) s.slog.counts i

/-- Raises lifetime count i by n, saturating (R362). -/
def ltAdd (s : State) (i : Nat) (n : Nat := 1) : State :=
  { s with slog := { s.slog with
                     counts := KMap.set (fun _ => 0) s.slog.counts i (min (ltGet s i + n) (2 ^ 64 - 1)) } }

/-! ### Sediment records -/

/-- The lifetime counts that a record of a type raises (Table 15.1). -/
def recCounts (typ : Nat) (payload : List Byte) : List Nat :=
  if typ = 0x10 then
    let cause := leAt payload 0 2
    (if cause % 2 = 1 then [12] else []) ++ (if cause / 2 % 16 ≠ 0 then [13] else [])
    ++ (if cause / 32 % 4 ≠ 0 then [14] else []) ++ (if leAt payload 4 1 / 32 % 2 = 1 then [15] else [])
  else if typ = 0x32 ∧ leAt payload 1 1 = 1 then [24]
  else if typ = 0x30 then [25]
  else if typ = 0x20 then [26]
  else if typ = 0x40 then [27]
  else if typ = 0x41 then [32]
  else if typ = 0x50 then [33]
  else []

/-- Creates a sediment record (R365, R369): it enters the deferral queue with the next SEQ; a full queue drops it, or
the oldest queued record of severity 0 for one of severity 1 or 2. -/
def logRec (s : State) (typ source severity : Nat) (payload : List Byte) : State :=
  let s := count s 308 {}
  let r : Rec := ⟨s.slog.nextSeq, typ, source, severity, s.tick, s.slog.calendar,
    (payload ++ List.replicate 36 0).take 36⟩
  let enter (q : List Rec) (drop : Nat) : State :=
    let s := { s with slog := { s.slog with queue := q ++ [r], nextSeq := s.slog.nextSeq + 1,
                                            dropped := satN 16 (s.slog.dropped + drop),
                                            dropReport := s.slog.dropReport + drop } }
    (recCounts typ payload).foldl (fun s i => ltAdd s i) s
  let lose : State :=
    count { s with slog := { s.slog with dropped := satN 16 (s.slog.dropped + 1),
                                         dropReport := s.slog.dropReport + 1 } } 310 {}
  if s.slog.queue.length < 1024 then enter s.slog.queue 0
  else if severity = 0 then lose
  else match s.slog.queue.find? (fun x => x.severity = 0) with
    | some x => count (enter (s.slog.queue.filter (fun y => y.seq ≠ x.seq)) 1) 310 {}
    | none => lose

/-- Writes an ACC_EVENT record of An (Table 15.3); the spec gives its DETAIL no contents, so it is a free value (log entry 8). -/
def accEvent (s : State) (n kind : Nat) : State :=
  let (d, s) := drawFree s
  logRec s 0x21 5 1 (leBytes 1 n ++ leBytes 1 kind ++ [0, 0] ++ leBytes 4 d.toNat)

/-! ### Host Notify and MSI-X -/

/-- A pending Host Notify of a reason (R352): later events of the reason merge, and reason 3 keeps the lowest bit. -/
def hostNote (s : State) (reason detail : Nat) : State :=
  if bf (cfgGet s 0x800004) 1 1 = 0 then s
  else match s.tw.hn.find? (fun h => h.reason = reason) with
    | some h =>
      let d := if reason = 3 then min h.detail detail else h.detail
      { s with tw := { s.tw with
          hn := s.tw.hn.map (fun x => if x.reason = reason then { x with detail := d } else x) } }
    | none => { s with tw := { s.tw with hn := s.tw.hn ++ [⟨reason, detail, s.tick, 0⟩] } }

/-- Signals MSI-X vector v of function fn (R80). -/
def msix (s : State) (fn v : Nat) : State :=
  let n := KMap.get (fun _ => 0) s.qc.msix (fn * 16 + v)
  count { s with qc := { s.qc with msix := KMap.set (fun _ => 0) s.qc.msix (fn * 16 + v) (n + 1) } } 157
    { tenant := fn }

/-! ### Fault log -/

/-- Adds an entry to a fault log of 64, and says whether it overwrote an unread one. -/
def logPush (log : List FlEntry) (e : FlEntry) : List FlEntry × Bool :=
  if log.length < 64 then (log ++ [e], false)
  else (log.drop 1 ++ [e], match log with | x :: _ => !x.read | [] => false)

/-- Severity of a fault-log code (Table 4.18). -/
def logSeverity (code : Nat) : Nat := if code = 3 ∨ code = 7 then 2 else if code = 6 then 0 else 1

/-- Base bits [27:20] of the block that reports a code (Table 4.9): Tilth, the stratum engine, else queue control
(DEDUCED, log entry 24). -/
def logSource (code : Nat) : Nat := if code = 2 then 3 else if code = 3 then 4 else 0

/-- Writes a fault-log entry of tenant t (R97), with the LOG_OVERFLOW entry that a lost unread entry causes, and signals
it (R80, R352): one signal for the entry and the LOG_OVERFLOW it causes (DESIGN CHOICE, log entry 68). -/
def faultLog (s : State) (t code detail : Nat) (opcode qp cmdId status : Nat := 0) : State :=
  let ten := getTen s t
  let e : FlEntry := ⟨ten.logSeq, code, logSource code, logSeverity code, s.tick, opcode, qp, cmdId, status,
    detail, false⟩
  let (log, lost) := logPush ten.log e
  let excess (n : Nat) : FlEntry := ⟨ten.logSeq + 1, 7, 0, 2, s.tick, 0, 0, 0, 0, n, false⟩
  let ten' : Tenant :=
    if lost then
      let second := (logPush log (excess 1)).2
      { ten with log := (logPush log (excess (1 + b2n second))).1, logSeq := ten.logSeq + 2 }
    else { ten with log := log, logSeq := ten.logSeq + 1 }
  let s := count (setTen s t ten') 155 { tenant := t }
  if t < 64 then msix s t 8 else if t = 64 then hostNote s 2 0 else s

/-! ### Status codes and completions -/

/-- Completion statuses (Table 4.17); the steward writes no other value (R83). -/
inductive Status where
  | ok | okPartial | okNoop
  | badOpcode | badParam | notPermitted | notOwner | busyGuarded
  | noSpace | linkNotReady | accNotReady | thermalHold | keysLocked
  | grainFault | dataError | abortedReset | timeout
deriving DecidableEq, Repr

/-- Encoding of a status (Table 4.17). -/
def Status.code : Status → Nat
  | .ok => 0x00 | .okPartial => 0x01 | .okNoop => 0x02
  | .badOpcode => 0x10 | .badParam => 0x11 | .notPermitted => 0x12 | .notOwner => 0x13 | .busyGuarded => 0x14
  | .noSpace => 0x20 | .linkNotReady => 0x21 | .accNotReady => 0x22 | .thermalHold => 0x23 | .keysLocked => 0x24
  | .grainFault => 0x30 | .dataError => 0x31 | .abortedReset => 0x3F | .timeout => 0x40

/-- Result of a command (Table 4.3): status, RESULT0 to RESULT2, and the failing bus address of R85. -/
structure Result where
  status : Status
  r0 : Nat := 0
  r1 : Nat := 0
  r2 : Nat := 0
  addr : Option Nat := none
deriving DecidableEq, Repr

/-- RESULT2 with a detail of a kind (R82). -/
def detail (kind value : Nat) : Nat := kind * 2 ^ 24 + value % 2 ^ 24
/-- A refusal with a detail. -/
def refuse (st : Status) (kind value : Nat) : Result := { status := st, r2 := detail kind value }
/-- BAD_PARAM naming the field at an offset. -/
def badField (off : Nat) : Result := refuse .badParam 3 off
/-- Success. -/
def okR (r0 r1 : Nat := 0) : Result := { status := .ok, r0 := r0, r1 := r1 }
/-- A failed read of a host buffer at an address (R85). -/
def dmaReadErr (a : Nat) : Result := { status := .dataError, r2 := detail 5 0x80, addr := some a }
/-- A failed write of a host buffer at an address (R85). -/
def dmaWriteErr (a : Nat) : Result := { status := .dataError, r2 := detail 5 0x81, addr := some a }

/-- The command with an acceptance number. -/
def findCmd (s : State) (c : Nat) : Option Cmd := s.qc.cmds.find? (fun x => x.seq = c)
/-- Changes the command with an acceptance number. -/
def modCmd (s : State) (c : Nat) (f : Cmd → Cmd) : State :=
  { s with qc := { s.qc with cmds := s.qc.cmds.map (fun x => if x.seq = c then f x else x) } }
/-- Takes a command out of the command table. -/
def dropCmd (s : State) (c : Nat) : State :=
  { s with qc := { s.qc with cmds := s.qc.cmds.filter (fun x => x.seq ≠ c) } }

/-- Little-endian field of a submission entry. -/
def Cmd.f (c : Cmd) (off bytes : Nat) : Nat := leAt c.raw off bytes
/-- OPCODE. -/
def Cmd.op (c : Cmd) : Nat := c.f 0 1
/-- CMD_ID. -/
def Cmd.id (c : Cmd) : Nat := c.f 2 2
/-- FLAGS.ORDER. -/
def Cmd.order (c : Cmd) : Bool := c.f 1 1 % 2 = 1
/-- FLAGS.NOTIFY. -/
def Cmd.notify (c : Cmd) : Bool := (c.f 1 1 / 2) % 2 = 1
/-- DEADLINE in ms. -/
def Cmd.deadline (c : Cmd) : Nat := c.f 4 2
/-- HANDLE of a stratum command. -/
def Cmd.handle (c : Cmd) : Nat := c.f 8 8

/-- Commands of a pair in flight: INFLIGHT (Table 4.14). -/
def inflight (s : State) (t q : Nat) : Nat :=
  (s.qc.cmds.filter (fun c => c.tenant = t && c.qp = q)).length

/-- Commands of T64 in flight. -/
def inflight64 (s : State) : Nat := (s.qc.cmds.filter (fun c => c.tenant = 64)).length

/-- A disabled pair stops RUNNING once nothing of it is in flight (Table 4.12). -/
def runningCheck (s : State) (t q : Nat) : State :=
  let p := getQp s t q
  if p.running ∧ p.en = false ∧ inflight s t q = 0 then setQp s t q { p with running := false } else s

/-- Does a status write a fault-log entry (R97). -/
def faultStatus (st : Status) : Bool := st.code = 1 || 0x20 ≤ st.code

/-- The 32 bytes of a completion entry (Table 4.3). -/
def cqEntry (c : Cmd) (r : Result) (sqHead timeUs : Nat) (phase : Bool) : List Byte :=
  leBytes 2 c.id ++ leBytes 2 sqHead ++ leBytes 1 r.status.code
  ++ leBytes 1 (b2n phase + 2 * b2n c.clamped + 4 * b2n c.superseded + 8 * b2n (faultStatus r.status)
                + 16 * b2n c.held)
  ++ leBytes 1 c.op ++ leBytes 1 c.qp ++ leBytes 8 r.r0 ++ leBytes 8 r.r1 ++ leBytes 4 r.r2
  ++ leBytes 4 (satN 32 timeUs)

/-- Next slot of a ring of n. -/
def ringNext (i n : Nat) : Nat := if i + 1 < n then i + 1 else 0

/-- DETAIL of a COMMAND_FAILED entry (Table 4.18). -/
def failDetail (c : Cmd) (r : Result) : Nat :=
  match r.addr with
  | some a => a
  | none => if 0x10 ≤ c.op ∧ c.op ≤ 0x15 then c.handle else 0

/-- Events that a completion counts (Table 15.4, group 9). -/
def countCompletion (s : State) (c : Cmd) (r : Result) : State :=
  let o : Occ := { tenant := c.tenant, cls := some c.cls }
  let s := count s 145 o
  let s := if r.status = .okNoop then count s 146 o else s
  let s := if 0x10 ≤ r.status.code then count s 147 o else s
  if c.held then count s 153 o else s

/-- Writes a command's completion entry on its pair, or in T64's completion queue (R78, R79, R101), and signals it. The
completion slot was reserved at acceptance (R92). A pair whose completion write failed takes no more: the dropped completion is a
DMA_ERROR entry with its own STATUS and signals no MSI-X vector (R104; DESIGN CHOICE, log entry 54). -/
def writeCompletion (s : State) (c : Cmd) (r : Result) : State :=
  let time := s.tick - c.acc
  if c.tenant < 64 then
    let p := getQp s c.tenant c.qp
    if p.cqFail then
      faultLog s c.tenant 5 (p.cqBase.toNat + 32 * p.cqTail) c.op c.qp c.id r.status.code
    else
      let s := hostWrite s (p.cqBase.toNat + 32 * p.cqTail) (cqEntry c r p.sqHead time p.phase)
      let nx := ringNext p.cqTail p.cqEntries
      let s := setQp s c.tenant c.qp { p with cqTail := nx, phase := if nx = 0 then !p.phase else p.phase }
      if c.notify || p.notifyAll then msix s c.tenant c.qp else s
  else
    let q := s.qc.t64
    let nx := ringNext q.slot 32
    let s := setT64 s { q with cq := q.cq ++ [cqEntry c r (if c.qp = 0 then q.head0 else q.head1) time q.phase], slot := nx,
                               phase := if nx = 0 then !q.phase else q.phase }
    if c.notify then hostNote s 1 c.qp else s

/-- Completes a command: it leaves the command table, its fault-log entry is written where its status asks for one
(R97), and its completion entry is written. -/
def complete (s : State) (c : Nat) (r : Result) : State :=
  match findCmd s c with
  | none => s
  | some cmd =>
    let s := dropCmd s c
    let s := countCompletion s cmd r
    let s := if faultStatus r.status then
        faultLog s cmd.tenant 1 (failDetail cmd r) cmd.op cmd.qp cmd.id r.status.code
      else s
    let s := writeCompletion s cmd r
    if cmd.tenant < 64 then runningCheck s cmd.tenant cmd.qp else s

end Sys2Proof.Machine
end

