-- ==== Sys2Proof/Machine/Flags.lean ====
section
/-! DEFINITION. What the steward computes from its state: heartbeats, current limits (R277), motor targets (R328, R329),
HZ_FAULT (Table 3.7), and the step that ends every command: the fault count and Host Notify on its rises. -/

namespace Sys2Proof.Machine

/-! ### Heartbeats (R18) -/

/-- The host heartbeat runs. -/
def hostAlive (s : State) : Bool := s.qc.hostBeat.isSome
/-- The BMC heartbeat runs. -/
def bmcAlive (s : State) : Bool := s.qc.bmcBeat.isSome
/-- Both heartbeats have lapsed, so motor channels follow FAILSAFE_MODE. -/
def bothLapsed (s : State) : Bool := !hostAlive s && !bmcAlive s
/-- µs left on a heartbeat of a length. -/
def beatLeft (s : State) (beat : Option Nat) (len : Nat) : Nat :=
  match beat with
  | none => 0
  | some t => t + len - s.tick

/-! ### Accelerator power (R277, R279) -/

/-- Base of accelerator n's registers. -/
def accBase (n : Nat) : Nat := 0x500100 + 0x100 * n
/-- Base of rail r of An. -/
def railBase (n r : Nat) : Nat := accBase n + 0x40 + 0x10 * r
/-- Does a rail have a regulator (R263). -/
def hasReg (s : State) (n r : Nat) : Bool := cfgF s (railBase n r) 6 0 ≠ 0
/-- THERM_N, low while HW_TRIP or the die latch is set (Table 16.8). -/
def thermN (s : State) : Bool := !(s.therm.hwTrip || s.therm.latch.getLsbD 8)
/-- PORT_CFG of port p (Table 14.8). -/
def portCfg (p : Nat) : Nat := 0x800100 + 0x40 * p
/-- Is port p enabled. -/
def portEn (s : State) (p : Nat) : Bool := cfgF s (portCfg p) 0 0 = 1
/-- Changes a port. -/
def modPort (s : State) (p : Nat) (f : Port → Port) : State := setPort s p (f (getPort s p))
/-- An outcome of a transaction that is not OK (R358): ERRS, LAST_ERR and event 288 + p. -/
def portErr (s : State) (p code : Nat) : State :=
  count (modPort s p (fun x => { x with errs := satN 8 (x.errs + 1), lastErr := code })) (288 + p) {}
/-- The code of a bus outcome (Table 14.6). -/
def twCode : TwResult → Nat
  | .ok => 0 | .nackAddr => 1 | .nackData => 2 | .pecBad => 6 | .byteCount => 7 | .busBusy => 9
/-- Is a port there to read from: enabled, and not being cleared or DOWN. -/
def portUp (s : State) (p : Nat) : Bool := s.crd.phase = .running && portEn s p && (getPort s p).st = 0
/-- How reads on port p end: PORT_DOWN where it is disabled or DOWN (R355, R358), nothing while its bus is cleared, else as the bus
says. The state holds the count of an error; the Bool says that they succeeded. -/
def portRead (s : State) (p : Nat) (r : TwResult) : State × Bool :=
  if s.crd.phase ≠ .running then (s, false)
  else if !portEn s p ∨ (getPort s p).st = 3 then (portErr s p 0xB, false)
  else if (getPort s p).st ≠ 0 then (s, false)
  else if r = .ok then (s, true)
  else (portErr s p (twCode r), false)
/-- RATED_MA of An. -/
def ratedMa (s : State) (n : Nat) : Nat := cfgN s (accBase n + 8)
/-- No limit. -/
def noLimit : Nat := 0xFFFFFFFF
/-- Power limit applied to An: the host's, limited by the BMC ceiling. -/
def plimApplied (a : Acc) : Nat := min a.plimHost a.plimCeil
/-- Tray limit applied: the host's, limited by the BMC ceiling. -/
def trayApplied (s : State) : Nat := min s.pow.trayPlim s.pow.trayPceil
/-- Tray share of An: none while no tray limit is set (R280). -/
def trayShare (s : State) (a : Acc) : Nat := if trayApplied s = noLimit then noLimit else a.share
/-- Power allowance of An (R279). -/
def allowance (s : State) (a : Acc) : Nat := min (plimApplied a) (trayShare s a)
/-- Host term of R277. -/
def hostTerm (s : State) (n : Nat) : Nat :=
  let a := getAcc s n
  min (if a.ilimHost = noLimit then ratedMa s n else a.ilimHost) a.ilimCeil
/-- Throttle term of R277. -/
def throttleTerm (s : State) (n : Nat) : Nat := ratedMa s n * (getThr s n).k / 16
/-- Power term of R277: never below RATED_MA × 4 / 16. -/
def powerTerm (s : State) (n : Nat) : Nat := max (getAcc s n).iPow (ratedMa s n * 4 / 16)
/-- Effective current limit of An (R277). -/
def effLimit (s : State) (n : Nat) : Nat := min (hostTerm s n) (min (throttleTerm s n) (powerTerm s n))
/-- Limit in force in a state (Table 11.1, IDLE_MA 0 meaning the effective limit). -/
def limitIn (s : State) (n : Nat) (st : AccSt) : Nat :=
  let idle := cfgN s (accBase n + 0xC)
  if st = .idle ∧ idle ≠ 0 then min idle (effLimit s n) else effLimit s n
/-- Is a transition of An taking its rails down. -/
def goingDown (a : Acc) : Bool := match a.phase with | .down _ => true | _ => false
/-- Is An in IDLE or RUN, and not on its way down (log entry 36). -/
def accLive (a : Acc) : Bool := (a.st = .idle || a.st = .run) && !goingDown a
/-- HZ_ACC.THROTTLED: the throttle term is strictly the lowest (R277). -/
def accThrottled (s : State) (n : Nat) : Bool :=
  throttleTerm s n < hostTerm s n && throttleTerm s n < powerTerm s n

/-! ### Loops and leaks -/

/-- Loop of accelerator n (R299). -/
def accLoop (s : State) (n : Nat) : Nat := (s.therm.loopCfg >>> n) % 2
/-- Loop of pump m, 6 or 7. -/
def pumpLoop (s : State) (m : Nat) : Nat := (s.therm.loopCfg >>> (10 + m)) % 2
/-- Loop of rope l (R310). -/
def leakLoop (s : State) (l : Nat) : Nat := (s.therm.leakCfg >>> l) % 2
/-- Is leak channel l armed (R309). -/
def armed (s : State) (l : Nat) : Bool := (getLeak s l).armHost || (getLeak s l).armBmc
/-- Is leak channel l armed and confirmed. -/
def leakActs (s : State) (l : Nat) : Bool := armed s l && (getLeak s l).confirmed
/-- Policy of a loop (R310). -/
def leakPolicy (s : State) (loop : Nat) : Nat := (s.therm.leakCfg >>> (if loop = 0 then 16 else 18)) % 4
/-- Is an armed leak confirmed on a loop. -/
def leakOn (s : State) (loop : Nat) : Bool :=
  (List.range 8).any (fun l => leakActs s l && leakLoop s l = loop)

/-! ### Motor targets (R324, R328, R329) -/

/-- Base of motor channel m's registers. -/
def motorBase (m : Nat) : Nat := 0x700100 + 0x100 * m
/-- MAX_RPM. -/
def maxRpm (s : State) (m : Nat) : Nat := cfgF s (motorBase m + 0x1C) 15 0
/-- CH_CTRL.EN in force: a 1 from the next PWM reload, a 0 at once (Table 13.8). -/
def motorEn (s : State) (m : Nat) : Bool := cfgF s (motorBase m) 0 0 = 1 && (getMotor s m).en
/-- CH_CTRL.SENSORLESS. -/
def sensorless (s : State) (m : Nat) : Bool := cfgF s (motorBase m) 3 3 = 1
/-- CH_CTRL.POLE_PAIRS. -/
def polePairs (s : State) (m : Nat) : Nat := cfgF s (motorBase m) 11 8
/-- START.HANDOFF_RPM. -/
def handoff (s : State) (m : Nat) : Nat := cfgF s (motorBase m + 0x20) 15 0

/-- Hottest die zone, with its index (HZ_DIE_MAX). -/
def dieMax (s : State) : Option (Int × Nat) :=
  (List.range 16).foldl (fun acc c =>
    match (getChan s c).value, acc with
    | none, a => a
    | some v, none => some (v, c)
    | some v, some (w, i) => if w < v then some (v, c) else some (w, i)) none

/-- Value of a table's sensor (R328): a channel, or the hottest die zone. -/
def sensorValue (s : State) (sensor : Nat) : Option Int :=
  if sensor < 32 then (getChan s sensor).value
  else if sensor = 0xFF then (dieMax s).map (·.1)
  else none

/-- Point i of a channel's table: temperature and rpm. -/
def tablePoint (s : State) (m i : Nat) : Int × Nat :=
  let w := cfgGet s (motorBase m + 0x80 + 4 * i)
  (sext 16 (bf w 15 0), bf w 31 16)

/-- The table value from point i on, at a value that is not below it (R328): the pairs are taken in ascending index, and one that is
not strictly ascending gives its second point's rpm (log entry 46). -/
def tableFrom (s : State) (m : Nat) (v : Int) : Nat → Nat → Nat
  | _, 0 => 0
  | i, 1 => (tablePoint s m i).2
  | i, k + 2 =>
    let (t0, r0) := tablePoint s m i
    let (t1, r1) := tablePoint s m (i + 1)
    if t1 ≤ t0 then r1
    else if v < t1 then ((r0 : Int) + Int.fdiv (((r1 : Int) - (r0 : Int)) * (v - t0)) (t1 - t0)).toNat
    else tableFrom s m v (i + 1) (k + 1)

/-- The table value of R328. -/
def tableValue (s : State) (m : Nat) : Nat :=
  let points := cfgF s (motorBase m + 0x48) 4 0
  match sensorValue s (cfgF s (motorBase m + 0x48) 15 8) with
  | none => maxRpm s m
  | some v =>
    if points = 0 then maxRpm s m
    else if v < (tablePoint s m 0).1 then (tablePoint s m 0).2
    else tableFrom s m v 0 points

/-- Result of the host mode (R328). -/
def hostBase (s : State) (m : Nat) : Nat :=
  let x := getMotor s m
  if x.mode = 0 then x.hostRpm
  else if x.mode = 1 then x.tableVal
  else x.holdRpm.getD (maxRpm s m)

/-- Base of R329. -/
def motorBaseRpm (s : State) (m : Nat) : Nat :=
  let x := getMotor s m
  if bothLapsed s then (if x.failsafe = 1 then x.tableVal else x.lapseRpm.getD (maxRpm s m))
  else hostBase s m

/-- FLOOR_RPM in force (R330). -/
def floorRpm (s : State) (m : Nat) : Nat :=
  match (getMotor s m).floor with
  | .rpm v => v
  | .table => (getMotor s m).tableVal

/-- Full-speed drive of R305 in force on a channel. A pump whose loop has a leak is not raised, and one raised before keeps its target
(R311): the latches that drive a pump are those that set while its loop had none. -/
def fullSpeed (s : State) (m : Nat) : Bool :=
  if m < 6 then s.therm.latch ≠ 0 else if m = 6 then s.therm.pump6 ≠ 0 else s.therm.pump7 ≠ 0

/-- Effective target of R329, items 1 to 4. -/
def effTarget (s : State) (m : Nat) : Nat :=
  let b := max (motorBaseRpm s m) (floorRpm s m)
  let f := if fullSpeed s m then maxRpm s m else b
  let l := min f (maxRpm s m)
  if sensorless s m ∧ l ≠ 0 ∧ l < handoff s m then handoff s m else l

/-- The speed the channel runs at: 0 with EN 0 or in LOCKOUT (R329, item 5). -/
def runTarget (s : State) (m : Nat) : Nat :=
  if motorEn s m ∧ (getMotor s m).st ≠ .lockout then effTarget s m else 0

/-- Reported speed (R324). -/
def motorSpeed (s : State) (m : Nat) : Nat :=
  let x := getMotor s m
  if (x.st = .ramp ∨ x.st = .running) ∧ x.aligning = false ∧ x.tp ≠ 0 ∧ polePairs s m ≠ 0 then
    2000000000 / (x.tp * polePairs s m)
  else 0

/-- CLAMPED: the effective target differs from the host's kept value (R329). -/
def motorClamped (s : State) (m : Nat) : Bool := effTarget s m ≠ hostBase s m

/-! ### Beds and grains -/

/-- Physical grain that serves logical grain g, numbered 17 × bed + index. -/
def physOf (s : State) (g : Nat) : Nat := 17 * (g / 16) + (getRemap s g).phys
/-- Domain of bed b. -/
def bedDom (b : Nat) : Nat := 28 + b
/-- Is logical grain g usable: not absent. -/
def grainUsable (s : State) (g : Nat) : Bool := !(getRemap s g).absent
/-- Has bed b a spare left: the physical grain of index k serves no logical grain and is not fenced. -/
def spareOf (s : State) (b : Nat) : Option Nat :=
  (List.range 17).find? (fun k =>
    !(getBed s b).fencedMask.getLsbD k &&
    !(getBed s b).takeovers.any (fun t => t.spare = k) &&
    (List.range 16).all (fun i => (getRemap s (16 * b + i)).absent || (getRemap s (16 * b + i)).phys ≠ k))
/-- Logical grains not absent. -/
def grainsUsable (s : State) : Nat :=
  1024 - (s.garr.remap.filter (fun e => e.2.absent)).length
/-- Beds that are ON. -/
def bedsOn (s : State) : Nat := ((List.range 64).filter (fun b => domShowsOn s (bedDom b))).length
/-- HZ_GRAIN as the array stands (Table 3.6). -/
def grainNow (s : State) : Nat :=
  grainsUsable s + 2 ^ 16 * ((List.range 64).filter (fun b => (spareOf s b).isSome)).length + 2 ^ 24 * bedsOn s

/-! ### HZ_FAULT (Table 3.7) -/

/-- Unread fault-log entries of a tenant. -/
def unread (s : State) (t : Nat) : Nat := ((getTen s t).log.filter (fun e => !e.read)).length

/-- Conditions of HZ_FAULT bits 6, 7, 8, 10 and 11: those of blocks that clock fallback stops (R68). -/
def stoppedBits (s : State) : List Bool :=
  [ s.garr.beds.any (fun e => e.2.fencedMask ≠ 0),
    s.garr.remap.any (fun e => e.2.absent),
    s.strata.hbmUe,
    s.pow.accs.any (fun e => accLive e.2 && (getSpoke s e.1).link ≠ .l0),
    s.links.u.l0 && (s.links.u.rate < 6 || s.links.u.width < 16) ]

/-- Bit i of `stoppedBits`, or as clock fallback holds it (R68). -/
def heldBit (s : State) (i : Nat) : Bool :=
  (match s.hz.held with | some h => h.fault | none => stoppedBits s).getD i false

/-- Conditions of HZ_FAULT bits 0 to 21. -/
def faultBits (s : State) : List Bool :=
  [ s.therm.chans.any (fun e => e.2.warn),
    s.therm.targets.any (fun e => e.2.k < 16),
    s.therm.latch ≠ 0,
    (List.range 8).any (leakActs s),
    s.pow.accs.any (fun e => e.2.cut),
    s.motors.any (fun e => e.2.st = .restart || e.2.st = .lockout),
    heldBit s 0,
    heldBit s 1,
    heldBit s 2,
    s.crd.domFault,
    heldBit s 3,
    heldBit s 4,
    s.boot.unverified,
    s.boot.trialRun,
    s.crd.trimDefaulted,
    s.crd.fallback,
    !s.crd.fwUp || s.hz.stale,
    !hostAlive s,
    !bmcAlive s,
    bothLapsed s,
    s.boot.keyLock,
    s.hz.pub.deferred ]

/-- A list of bits as a number, bit 0 first. -/
def bitsN : List Bool → Nat
  | [] => 0
  | b :: bs => b2n b + 2 * bitsN bs

/-- HZ_FAULT as a viewer sees it: bit 23 is the viewing tenant's (R66). -/
def faultWord (s : State) (view : Nat) : Word :=
  BitVec.ofNat 32 (bitsN (faultBits s) + 2 ^ 23 * b2n (unread s view ≠ 0))

/-- The lowest bit of a word that is 1, if any. -/
def lowBit (w : Word) : Option Nat := (List.range 32).find? (fun i => w.getLsbD i)

/-- What hardware does after every command (R61, R352): HZ_FAULT_COUNT counts the rising edges of bits 0 to 20, and a
rise of a bit set in NOTIFY_MASK asks for a Host Notify of reason 3. -/
def settle (s : State) : State :=
  let f := faultWord s 64
  let rise := f &&& ~~~ s.hz.lastFault
  let s := { s with hz := { s.hz with
                       faultCount := s.hz.faultCount + BitVec.ofNat 32 (popCount 21 rise.toNat),
                       lastFault := f } }
  match lowBit (rise &&& cfgGet s 0x800008) with
  | some b => hostNote s 3 b
  | none => s

/-- Ends a command's meaning: the block is in state s, and hardware settles. -/
def done (s : State) : Host.Outcome State Fault Refusal := .next (settle s)

/-- An event that cannot occur in this state leaves the block as it is (log entry 1). -/
def stutter (s : State) : Host.Outcome State Fault Refusal := done s

end Sys2Proof.Machine
end

