-- ==== Sys2Proof/Machine/Fp.lean ====
section
/-! DEFINITION. The number formats of the grains (R164, R167 to R170): values are exact (a sign, a natural and a power of
two), and one rounding to nearest even ends each operation. -/

namespace Sys2Proof.Machine

/-- A binary format: exponent bits, fraction bits, and whether its top exponent holds infinities and NaNs. E4M3 has
no infinity, and only the all-ones magnitude is NaN (Table 7.8, R164). -/
structure FpFmt where
  eb : Nat
  mb : Nat
  ieee : Bool
deriving DecidableEq, Repr

/-- binary32. -/
def FpFmt.f32 : FpFmt := ⟨8, 23, true⟩
/-- BF16. -/
def FpFmt.bf16 : FpFmt := ⟨8, 7, true⟩
/-- E5M2. -/
def FpFmt.e5m2 : FpFmt := ⟨5, 2, true⟩
/-- E4M3. -/
def FpFmt.e4m3 : FpFmt := ⟨4, 3, false⟩

/-- A value: not a number, an infinity, or the exact (−1)^neg × m × 2^e. -/
inductive FpVal where
  | nan
  | inf (neg : Bool)
  | fin (neg : Bool) (m : Nat) (e : Int)
deriving DecidableEq, Repr

/-- The exponent bias. -/
def FpFmt.bias (f : FpFmt) : Nat := 2 ^ (f.eb - 1) - 1

/-- Exponent of the least bit of a subnormal. -/
def FpFmt.emin (f : FpFmt) : Int := 1 - (f.bias : Int) - (f.mb : Int)

/-- The value a word of the format holds. -/
def FpFmt.decode (f : FpFmt) (w : Nat) : FpVal :=
  let man := w % 2 ^ f.mb
  let ex := (w / 2 ^ f.mb) % 2 ^ f.eb
  let neg := decide ((w / 2 ^ (f.mb + f.eb)) % 2 = 1)
  if f.ieee && decide (ex = 2 ^ f.eb - 1) then
    (if man = 0 then .inf neg else .nan)
  else if !f.ieee && decide (ex = 2 ^ f.eb - 1 ∧ man = 2 ^ f.mb - 1) then .nan
  else if ex = 0 then .fin neg man f.emin
  else .fin neg (man + 2 ^ f.mb) (f.emin + (ex : Int) - 1)

/-- m × 2^−sh rounded to nearest, ties to even. -/
def rneShift (m sh : Nat) : Nat :=
  let q := m / 2 ^ sh
  let r := m % 2 ^ sh
  if 2 * r > 2 ^ sh ∨ (2 * r = 2 ^ sh ∧ q % 2 = 1) then q + 1 else q

/-- The magnitude bits of m × 2^e rounded to nearest even, before any range check. -/
def FpFmt.roundMag (f : FpFmt) (m : Nat) (e : Int) : Nat :=
  if m = 0 then 0 else
    let q := max (e + (bitLen m : Int) - ((f.mb : Int) + 1)) f.emin
    let mant := if q ≤ e then m * 2 ^ (e - q).toNat else rneShift m (q - e).toNat
    if mant < 2 ^ f.mb then mant
    else ((q - f.emin + 1).toNat) * 2 ^ f.mb + (mant - 2 ^ f.mb)

/-- The magnitude of the largest finite value. -/
def FpFmt.maxMag (f : FpFmt) : Nat :=
  if f.ieee then (2 ^ f.eb - 1) * 2 ^ f.mb - 1 else 2 ^ (f.eb + f.mb) - 2

/-- The magnitude that stands for infinity (IEEE formats) or NaN (E4M3). -/
def FpFmt.topMag (f : FpFmt) : Nat := f.maxMag + 1

/-- The sign bit as a number. -/
def FpFmt.signBit (f : FpFmt) (neg : Bool) : Nat := if neg then 2 ^ (f.eb + f.mb) else 0

/-- The canonical NaN of R164: 0x7FC0_0000, 0x7FC0, 0x7E, and for E4M3 0x7F or 0xFF by sign. -/
def FpFmt.nan (f : FpFmt) (neg : Bool) : Nat :=
  if f.ieee then (2 ^ f.eb - 1) * 2 ^ f.mb + 2 ^ (f.mb - 1) else f.signBit neg + (2 ^ (f.eb + f.mb) - 1)

/-- A rounded word and what happened: past the range, or not a number. -/
structure FpOut where
  w : Nat
  excess : Bool
  isNan : Bool
deriving DecidableEq, Repr

/-- Rounds a value into a format once, to nearest even. A finite value beyond the range becomes an infinity in an IEEE
format and the largest value in E4M3, with `over` set. Infinities become NaN in E4M3 (Table 7.7). -/
def FpFmt.encode (f : FpFmt) (v : FpVal) (nanNeg : Bool := false) : FpOut :=
  match v with
  | .nan => ⟨f.nan nanNeg, false, true⟩
  | .inf neg => if f.ieee then ⟨f.signBit neg + f.topMag, false, false⟩ else ⟨f.nan neg, false, true⟩
  | .fin neg m e =>
    let r := f.roundMag m e
    if r > f.maxMag then ⟨f.signBit neg + (if f.ieee then f.topMag else f.maxMag), true, false⟩
    else ⟨f.signBit neg + r, false, false⟩

/-- The sign of a word of a format. -/
def FpFmt.neg (f : FpFmt) (w : Nat) : Bool := decide ((w / 2 ^ (f.mb + f.eb)) % 2 = 1)

/-- Signed integer of a finite value at exponent `e0 ≤ e`. -/
def alignInt (neg : Bool) (m : Nat) (e e0 : Int) : Int :=
  let u : Int := (m * 2 ^ (e - e0).toNat : Nat)
  if neg then -u else u

/-- The exact sum of two values. A zero sum is +0 unless both are −0. -/
def FpVal.add : FpVal → FpVal → FpVal
  | .nan, _ => .nan
  | _, .nan => .nan
  | .inf a, .inf b => if a = b then .inf a else .nan
  | .inf a, .fin .. => .inf a
  | .fin .., .inf b => .inf b
  | .fin n1 m1 e1, .fin n2 m2 e2 =>
    let e0 := min e1 e2
    let z := alignInt n1 m1 e1 e0 + alignInt n2 m2 e2 e0
    if z = 0 then .fin (n1 && n2 && decide (m1 = 0) && decide (m2 = 0)) 0 e0
    else .fin (decide (z < 0)) z.natAbs e0

/-- The exact product of two values. -/
def FpVal.mul : FpVal → FpVal → FpVal
  | .nan, _ => .nan
  | _, .nan => .nan
  | .inf a, .inf b => .inf (a != b)
  | .inf a, .fin n m _ => if m = 0 then .nan else .inf (a != n)
  | .fin n m _, .inf b => if m = 0 then .nan else .inf (n != b)
  | .fin n1 m1 e1, .fin n2 m2 e2 => .fin (n1 != n2) (m1 * m2) (e1 + e2)

/-- The value with its sign turned. -/
def FpVal.negate : FpVal → FpVal
  | .nan => .nan
  | .inf a => .inf (!a)
  | .fin n m e => .fin (!n) m e

/-- Is a value less than another, NaN comparing with nothing. -/
def FpVal.lt (a b : FpVal) : Bool :=
  match a, b with
  | .nan, _ => false
  | _, .nan => false
  | .inf x, .inf y => x && !y
  | .inf x, .fin .. => x
  | .fin .., .inf y => !y
  | .fin n1 m1 e1, .fin n2 m2 e2 => decide (alignInt n1 m1 e1 (min e1 e2) < alignInt n2 m2 e2 (min e1 e2))

/-- Are two values equal, NaN comparing with nothing and −0 with +0. -/
def FpVal.eqv (a b : FpVal) : Bool :=
  match a, b with
  | .nan, _ => false
  | _, .nan => false
  | .inf x, .inf y => x == y
  | .inf _, .fin .. => false
  | .fin .., .inf _ => false
  | .fin n1 m1 e1, .fin n2 m2 e2 => decide (alignInt n1 m1 e1 (min e1 e2) = alignInt n2 m2 e2 (min e1 e2))

/-- Is it not a number. -/
def FpVal.isNan : FpVal → Bool
  | .nan => true
  | _ => false

/-- Is it finite. -/
def FpVal.isFin : FpVal → Bool
  | .fin .. => true
  | _ => false

/-- Is it a zero. -/
def FpVal.isZero : FpVal → Bool
  | .fin _ m _ => decide (m = 0)
  | _ => false

/-- The sign of a value, NaN counting as positive. -/
def FpVal.sign : FpVal → Bool
  | .nan => false
  | .inf n => n
  | .fin n _ _ => n

/-- A value rounded to the nearest integer, ties to even; none for a value that is not finite. -/
def FpVal.toIntRne : FpVal → Option Int
  | .fin n m e =>
    let u := if 0 ≤ e then m * 2 ^ e.toNat else rneShift m (-e).toNat
    some (if n then -(u : Int) else (u : Int))
  | _ => none

/-- An integer as a value. -/
def FpVal.ofInt (i : Int) : FpVal := .fin (decide (i < 0)) i.natAbs 0

/-- An arithmetic right shift that rounds half to even (Table 7.7). -/
def rneShiftInt (i : Int) (sh : Nat) : Int :=
  let r := rneShift i.natAbs sh
  if i < 0 then -(r : Int) else r

/-- An integer limited to a range. -/
def clampInt (lo hi i : Int) : Int := max lo (min hi i)

/-- binary32 addition (R164). -/
def f32Add (a b : Nat) : Nat := (FpFmt.f32.encode ((FpFmt.f32.decode a).add (FpFmt.f32.decode b))).w
/-- binary32 subtraction. -/
def f32Sub (a b : Nat) : Nat := (FpFmt.f32.encode ((FpFmt.f32.decode a).add (FpFmt.f32.decode b).negate)).w
/-- binary32 multiplication. -/
def f32Mul (a b : Nat) : Nat := (FpFmt.f32.encode ((FpFmt.f32.decode a).mul (FpFmt.f32.decode b))).w
/-- binary32 fused multiply-add, one rounding. -/
def f32Fma (a b c : Nat) : Nat :=
  (FpFmt.f32.encode (((FpFmt.f32.decode a).mul (FpFmt.f32.decode b)).add (FpFmt.f32.decode c))).w

/-- Is `r` within a relative error of 2^−21 of 1/x: |r·x − 1| ≤ 2^−21, both finite. -/
def rcpWithin (x r : FpVal) : Bool :=
  match x.mul r with
  | .fin false m e =>
    let e0 := min e (-21)
    let one : Int := alignInt false 1 0 e0
    let tol : Int := alignInt false 1 (-21) e0
    let p := alignInt false m e e0
    decide (p - one ≤ tol ∧ one - p ≤ tol)
  | _ => false

/-- The correctly rounded 1/x of a finite non-zero binary32 value, from 60 extra bits. -/
def rcpExact (x : FpVal) : Nat :=
  match x with
  | .fin n m e => (FpFmt.f32.encode (.fin n (2 ^ 84 / m) (-84 - e))).w
  | _ => 0

/-- Is `r` within a relative error of 2^−21 of 1/√x: (1 − 2^−21)² ≤ r²·x ≤ (1 + 2^−21)². -/
def rsqrtWithin (x r : FpVal) : Bool :=
  match (r.mul r).mul x, r.sign with
  | .fin false m e, false =>
    let e0 := min e (-42)
    let lo := alignInt false ((2 ^ 21 - 1) * (2 ^ 21 - 1)) (-42) e0
    let hi := alignInt false ((2 ^ 21 + 1) * (2 ^ 21 + 1)) (-42) e0
    let p := alignInt false m e e0
    decide (lo ≤ p ∧ p ≤ hi)
  | _, _ => false

/-- 1/√x of a finite positive binary32 value to at least 30 bits, rounded. -/
def rsqrtExact (x : FpVal) : Nat :=
  match x with
  | .fin _ m e =>
    -- 1/√(m·2^e) = √(2^(2k) / m) · 2^(−k − e/2) with e made even
    let m' := if e % 2 = 0 then m else 2 * m
    let e' := if e % 2 = 0 then e else e - 1
    (FpFmt.f32.encode (.fin false (isqrt (2 ^ 110 / m')) (-55 - e' / 2))).w
  | _ => 0

/-- 2 to the fraction f / 2^64 in 80 fraction bits: `c` is the root that the next bit of f multiplies by, taken again at each bit. -/
def exp2Frac (f : Nat) : Nat → Nat → Nat → Nat
  | 0, _, acc => acc
  | b + 1, c, acc =>
    let c' := isqrtAux (c * 2 ^ 80) 82 0
    exp2Frac f b c' (if f / 2 ^ b % 2 = 1 then acc * c' / 2 ^ 80 else acc)

/-- 2^x of a finite value x, cut off below a relative 2^−58: mantissa and exponent. -/
def exp2Cut (x : FpVal) : Nat × Int :=
  match x with
  | .fin n m e =>
    let v : Int := alignInt n m 0 0
    let w : Int := if 0 ≤ e + 64 then v * 2 ^ (e + 64).toNat else v / 2 ^ (-64 - e).toNat
    (exp2Frac (w % 2 ^ 64).toNat 64 (2 * 2 ^ 80) (2 ^ 80), w / 2 ^ 64 - 80)
  | _ => (0, 0)

/-- Is `r` within a relative error of 2^−21 of 2^x, to a relative 2^−58 (Table 7.5). -/
def exp2Within (x r : FpVal) : Bool :=
  match r with
  | .fin false m e =>
    let p := exp2Cut x
    let e0 := min e (p.2 - 58)
    let d := alignInt false m e e0 - alignInt false p.1 p.2 e0
    let tol := alignInt false (p.1 * (2 ^ 37 + 1)) (p.2 - 58) e0
    decide (d ≤ tol ∧ -d ≤ tol)
  | _ => false

/-- 2^x of a finite value, rounded to binary32. -/
def exp2Near (x : FpVal) : Nat := (FpFmt.f32.encode (.fin false (exp2Cut x).1 (exp2Cut x).2)).w

end Sys2Proof.Machine
end

