-- ==== Sys2Proof/Machine/TileVal.lean ====
section
/-! DEFINITION. What the tile instructions compute, as functions of a tile and of operand bytes (R167 to R171, Tables 7.6 to 7.8). -/

namespace Sys2Proof.Machine

/-- Accumulator tile i of a grain. -/
def getTile (g : Grain) (i : Nat) : Tile := KMap.get (fun _ => ({} : Tile)) g.tiles i
/-- Bytes of an element in memory for TLOAD (Table 7.6). -/
def tloadSize (fmt : Nat) : Nat := if fmt = 2 then 8 else 4
/-- Bytes of an element in memory for TSTORE (Table 7.7). -/
def tstoreSize (fmt : Nat) : Nat :=
  match fmt with
  | 0 => 4 | 1 => 2 | 2 => 1 | 3 => 8 | 4 => 4 | 5 => 2 | _ => 1
/-- Bytes of an operand element for TMMA (Table 7.8). -/
def tmmaSize (fmt : Nat) : Nat := if fmt = 8 then 2 else 1

/-! ### Values (R167 to R171) -/

/-- An element of a tile. -/
def tElem (x : Tile) (i : Nat) : Int := KMap.get (fun _ => 0) x.elems i
/-- Writes an element of a tile. -/
def tSet (x : Tile) (i : Nat) (v : Int) : Tile := { x with elems := KMap.set (fun _ => 0) x.elems i v }
/-- Saturation mark of an element. -/
def tMark (x : Tile) (i : Nat) : Bool := KMap.get (fun _ => false) x.marks i
/-- The largest INT40 value. -/
def int40Max : Int := 2 ^ 39 - 1
/-- The smallest INT40 value. -/
def int40Min : Int := -(2 ^ 39)

/-- Puts a sum into an INT40 element: out of range it takes the nearer limit, with its mark and SAT (R170). -/
def tPut40 (x : Tile) (i : Nat) (v : Int) : Tile :=
  if v < int40Min ∨ int40Max < v then
    let y := tSet x i (clampInt int40Min int40Max v)
    { y with marks := KMap.set (fun _ => false) y.marks i true, sat := true }
  else tSet x i v

/-- TZERO: every element 0, the mode, no flag, no mark. -/
def tzeroEffect (fmt : Nat) : Tile := { int40 := fmt = 1 }

/-- TLOAD from the bytes of the tile (Table 7.6). -/
def tloadEffect (fmt : Nat) (bs : List Byte) : Tile :=
  let n := tloadSize fmt
  (List.range 1024).foldl (fun x i =>
    let v := leAt bs (n * i) n
    if fmt = 0 then tSet x i (v : Int) else tPut40 x i (sext (8 * n) v)) ({ int40 := fmt ≠ 0 } : Tile)

/-- Is a finite value's magnitude beyond 448. -/
def beyond448 (v : FpVal) : Bool :=
  match v with
  | .fin _ m e => (FpVal.fin false 448 0).lt (.fin false m e)
  | _ => false

/-- One element narrowed for TSTORE: the word, whether NARROW sets, whether OVF sets (Table 7.7). -/
def narrow (fmt sh : Nat) (v : Int) : Nat × Bool × Bool :=
  let sat (bits : Nat) (lo hi : Int) : Nat × Bool × Bool :=
    let r := rneShiftInt v sh
    (wrapInt bits (clampInt lo hi r), decide (r < lo ∨ hi < r), false)
  match fmt with
  | 0 => (v.toNat, false, false)
  | 1 =>
    let o := FpFmt.bf16.encode (FpFmt.f32.decode v.toNat)
    (o.w, false, o.excess)
  | 2 =>
    let x := FpFmt.f32.decode v.toNat
    ((FpFmt.e4m3.encode x (FpFmt.f32.neg v.toNat)).w, beyond448 x, false)
  | 3 => (wrapInt 64 v, false, false)
  | 4 => sat 32 (-(2 ^ 31)) (2 ^ 31 - 1)
  | 5 => sat 16 (-(2 ^ 15)) (2 ^ 15 - 1)
  | 6 => sat 8 (-128) 127
  | _ => sat 8 0 255

/-- Does TSTORE's format match the tile's mode (Table 7.7). -/
def tstoreMatch (fmt : Nat) (x : Tile) : Bool := x.int40 = decide (3 ≤ fmt)
/-- Does TMMA's format match the tile's mode (Table 7.8). -/
def tmmaMatch (fmt : Nat) (x : Tile) : Bool := x.int40 = decide (4 ≤ fmt ∧ fmt ≤ 7)

/-- TSTORE: the bytes, and the tile with its flags. -/
def tstoreEffect (fmt sh : Nat) (x : Tile) : List Byte × Tile :=
  let rs := (List.range 1024).map (fun i => narrow fmt sh (tElem x i))
  let y := { x with narrow := x.narrow || rs.any (fun r => r.2.1), ovf := x.ovf || rs.any (fun r => r.2.2) }
  (rs.flatMap (fun r => leBytes (tstoreSize fmt) r.1), y)

/-- Formats of A and B for a floating-point TMMA (Table 7.8). -/
def tmmaFp (fmt : Nat) : FpFmt × FpFmt :=
  match fmt with
  | 0 => (.e4m3, .e4m3)
  | 1 => (.e5m2, .e5m2)
  | 2 => (.e4m3, .e5m2)
  | 3 => (.e5m2, .e4m3)
  | _ => (.bf16, .bf16)

/-- Is an infinity. -/
def FpVal.isInf : FpVal → Bool
  | .inf _ => true
  | _ => false

/-- One FP32 element: the exact sum of the products and the old element, rounded once (R169). -/
def tmmaFpElem (fmt : Nat) (a b : List Nat) (old : Nat) : FpVal × FpOut :=
  let f := tmmaFp fmt
  let sum := (List.zipWith (fun x y => (f.1.decode x).mul (f.2.decode y)) a b).foldl FpVal.add (FpFmt.f32.decode old)
  (sum, FpFmt.f32.encode sum)

/-- A signed or unsigned byte. -/
def tByte (signed : Bool) (v : Nat) : Int := if signed then sext 8 v else (v : Int)

/-- Row i of operand A, and column j of operand B: 32 contiguous elements (R167). -/
def operandRow (n : Nat) (bs : List Byte) (i : Nat) : List Nat :=
  (List.range 32).map (fun k => leAt bs (n * (32 * i + k)) n)

/-- TMMA: each element takes its sum (R167, R169, R170). -/
def tmmaEffect (fmt : Nat) (a b : List Byte) (x : Tile) : Tile :=
  let n := tmmaSize fmt
  (List.range 1024).foldl (fun y i =>
    let ra := operandRow n a (i / 32)
    let rb := operandRow n b (i % 32)
    if x.int40 then
      if tMark x i then y
      else
        let sum := (List.zipWith (fun u v =>
          tByte (fmt = 4 ∨ fmt = 6) u * tByte (fmt = 4 ∨ fmt = 5) v) ra rb).foldl (· + ·) (tElem x i)
        tPut40 y i sum
    else
      let r := tmmaFpElem fmt ra rb (tElem x i).toNat
      let z := tSet y i (r.2.w : Int)
      { z with inv := z.inv || r.1.isNan, ovf := z.ovf || (FpFmt.f32.decode r.2.w).isInf }) x

/-- TFCLR: clears the selected flags; marks are kept. -/
def tfclrEffect (sel : Nat) (x : Tile) : Tile :=
  { x with sat := x.sat && sel % 2 = 0, narrow := x.narrow && (sel / 2) % 2 = 0,
           ovf := x.ovf && (sel / 4) % 2 = 0, inv := x.inv && (sel / 8) % 2 = 0 }

end Sys2Proof.Machine
end

