-- ==== Sys2Proof/Machine/GrainMem.lean ====
section
/-! DEFINITION. The memory that grain threads reach: the grain address map and its reach (R137 to R139), writes with the
reservations and sleeping threads they touch (R175, R180, R195), and the threads' store buffers (R189, R191). -/

namespace Sys2Proof.Machine

/-- Where a grain address leads (Table 6.4). -/
inductive Target where
  | ls (phys off : Nat)
  | gm (addr : Nat)
  | spoke (n off : Nat)
  | host (off : Nat)
  | dev (off : Nat)
  | none
deriving DecidableEq, Repr

/-- Resolves a grain address for grain p (Table 6.4, R135). -/
def resolve (s : State) (p a : Nat) : Target :=
  if a < 0x40000 then .ls p a
  else if 0x100000000 ≤ a ∧ a < 0x110000000 then
    .ls (physOf s ((a - 0x100000000) / 0x40000)) (a % 0x40000)
  else if Config.loamBase ≤ a ∧ a < Config.loamBase + Config.loamBytes then .gm a
  else if Config.hbmBase ≤ a ∧ a < Config.hbmBase + Config.hbmBytes then .gm a
  else if 0xC000000000 ≤ a ∧ a < 0x14000000000 then
    .spoke ((a - 0xC000000000) / 0x1000000000) (a % 0x1000000000)
  else if 0x14000000000 ≤ a ∧ a < 0x18000000000 then .host (a - 0x14000000000)
  else if 0x18000000000 ≤ a ∧ a < 0x18004000000 then .dev (a - 0x18000000000)
  else .none

/-- Is an address of Loam. -/
def isLoam (a : Nat) : Bool := Config.loamBase ≤ a && a < Config.loamBase + Config.loamBytes
/-- Loam slice of an address (Table 6.2). -/
def loamSlice (a : Nat) : Nat := (a - Config.loamBase) / 0x2800000
/-- HBM stack of an address: 256-byte units, unit u in stack u mod 6 (R255). -/
def hbmStack (a : Nat) : Nat := ((a - Config.hbmBase) / 256) % 6

/-- The logical grain a physical grain serves, if any. -/
def logicalOf (s : State) (p : Nat) : Option Nat :=
  ((List.range 16).find? (fun i =>
    let r := getRemap s (16 * (p / 17) + i)
    !r.absent && r.phys = p % 17)).map (fun i => 16 * (p / 17) + i)

/-- KWIN of a tenant. -/
def kwin (s : State) (t : Nat) : Nat := cfgD s (0x301400 + 8 * t)
/-- Does [a, a+n) lie in a window of `count` units of 2^lg from `base` (R139). -/
def inWindow (base lg first count a n : Nat) : Bool :=
  base + first * 2 ^ lg ≤ a && a + n ≤ base + (first + count) * 2 ^ lg
/-- Does [a, a+n) lie in a tenant's Loam or HBM window (R139). -/
def inKwin (s : State) (t a n : Nat) : Bool :=
  let w := kwin s t
  if isLoam a then inWindow Config.loamBase 20 (w % 512) ((w >>> 16) % 512) a n
  else inWindow Config.hbmBase 30 ((w >>> 32) % 512) ((w >>> 48) % 512) a n

/-- State of the link behind a spoke window: 0 ready, 1 not ready and held (R205), 2 an error at once, as its domain is not ON, its
link has not trained since the domain turned ON (R204), or the device decodes no memory address (R238). -/
def spokeAccess (s : State) (n : Nat) : Nat :=
  let x := getSpoke s n
  if !domOn s (6 + n) || !x.trained then 2 else if !(x.ready && x.link = .l0) then 1
  else if x.memSpace then 0 else 2
/-- State of U behind the host window. -/
def uAccess (s : State) : Nat := if s.links.u.recovering then 1 else if s.links.u.l0 then 0 else 2

/-- Is a logical grain's index held for a takeover (Table 6.11, Table 6.12): one of it runs, or its failed grain waits for one. -/
def indexHeld (s : State) (lg : Nat) : Bool :=
  let b := getBed s (lg / 16)
  b.takeovers.any (fun t => t.logical = lg) || b.failing.any (fun f => f.1 = physOf s lg)

/-- Has a range of Loam or HBM its end in the same memory. -/
def gmFits (a n : Nat) : Bool :=
  if isLoam a then decide (a + n ≤ Config.loamBase + Config.loamBytes) else decide (a + n ≤ Config.hbmBase + Config.hbmBytes)

/-- What an access of `n` bytes by grain p meets: 0 it may go, 1 it is held on a link or for a takeover, 2 ACCESS, 4 DATA_ERROR
(R137, R138, R139, R152, R204, R205). -/
def reach (s : State) (p a n : Nat) (write : Bool) : Nat :=
  let g := getGrain s p
  let internal := decide (g.tenant = 65)
  match resolve s p a with
  | .ls _ off =>
    if 0x40000 < off + n then 2
    else if write && decide (0x3F800 < off + n) then 2
    else if a < 0x40000 then 0
    else
      let lg := (a - 0x100000000) / 0x40000
      if !internal && !(g.bedFirst ≤ lg / 16 && lg / 16 < g.bedFirst + g.bedCount) then 2
      else if !grainUsable s lg || !domOn s (bedDom (lg / 16)) then 2
      else if indexHeld s lg then 1
      else 0
  | .gm b =>
    if !gmFits b n || !internal && !inKwin s g.tenant b n then 2
    else if isLoam b then (if domOn s (20 + loamSlice b) && domOn s (20 + loamSlice (b + n - 1)) then 0 else 2)
    else if domOn s 14 then 0 else 2
  | .spoke k off =>
    if !internal || decide (0x1000000000 < off + n) then 2
    else match spokeAccess s k with | 0 => 0 | 1 => 1 | _ => 4
  | .host off =>
    if !internal || decide (0x4000000000 < off + n) then 2
    else match uAccess s with | 0 => 0 | 1 => 1 | _ => 4
  | .dev off => if !internal || decide (0x4000000 < off + n) then 2 else 0
  | .none => 2

/-- Does region-table entry e contain an address (Table 8.8). -/
def regionHit (s : State) (a e : Nat) : Bool :=
  let w := cfgD s (0x301800 + 8 * e)
  let base := ((w >>> 16) % 2 ^ 32) * 2 ^ 16
  w % 2 = 1 && base ≤ a && a < base + 2 ^ ((w >>> 8) % 64)

/-- Region type of an address: 0 Normal, 1 Device-Posted, 2 Device-Strict (R197). -/
def regionType (s : State) (p a : Nat) : Nat :=
  let table (d : Nat) : Nat :=
    match (List.range 32).find? (regionHit s a) with
    | some e => (cfgD s (0x301800 + 8 * e) >>> 4) % 4
    | none => d
  match resolve s p a with
  | .dev _ => 2
  | .spoke .. => table 1
  | .host _ => table 0
  | _ => 0

/-- Is every byte of [a, a+n) of Normal type; entries of the region table begin and end at multiples of 64 KiB (R207). -/
def allNormal (s : State) (p a n : Nat) : Bool :=
  (List.range (n / 0x10000 + 2)).all (fun i =>
    let x := if i = 0 then a else (a / 0x10000 + i) * 0x10000
    decide (a + n ≤ x) || regionType s p x = 0)

/-! ### Reservations and sleeping threads -/

/-- Base of the keys that stand for local store bytes among reservation granules. -/
def lsKey : Nat := 0x1000000000000

/-- Key of the 64-byte granule of an address at its endpoint; none outside the steward's memories. -/
def granuleOf (s : State) (p a : Nat) : Option Nat :=
  match resolve s p a with
  | .ls ph off => some ((lsKey + ph * 0x40000 + off) / 64)
  | .gm b => some (b / 64)
  | _ => none

/-- The endpoint that tracks a granule: a local store bank, a Loam slice or an HBM controller (R195). -/
def endpointOf (k : Nat) : Nat :=
  let a := k * 64
  if lsKey ≤ a then 1000 + ((a - lsKey) / 0x40000) * 8 + (k % 8)
  else if isLoam a then loamSlice a
  else 100 + hbmStack a

/-- Entries that an endpoint's table holds (R195). -/
def endpointCap (e : Nat) : Nat := if 1000 ≤ e then 8 else 64

/-- Clears the reservations on granules `lo` to `hi`, of every thread but those that `keep` names. -/
def dropRsvs (s : State) (lo hi : Nat) : State :=
  let hit (r : Rsv) : Bool := lo ≤ r.granule && r.granule ≤ hi
  let s1 := (s.garr.rsvs.filter hit).foldl
    (fun s r => modThread s r.grain r.thread (fun t => { t with rsv := none })) s
  { s1 with garr := { s1.garr with rsvs := s1.garr.rsvs.filter (fun r => !hit r) } }

/-- Clears a thread's own reservation (R175). -/
def dropOwnRsv (s : State) (p t : Nat) : State :=
  let s := modThread s p t (fun th => { th with rsv := none })
  { s with garr := { s.garr with rsvs := s.garr.rsvs.filter (fun r => !(r.grain = p && r.thread = t)) } }

/-- Wakes the threads of grain p whose WAIT word no longer equals their value (R180): D = 0, and on to the next
instruction. -/
def wakeWaits (s : State) (p : Nat) : State :=
  (List.range 8).foldl (fun s t =>
    let th := getThread s p t
    match th.wait with
    | .sleep a v reg _ =>
      if ofLe (lsRead s p a 8) = v.toNat then s
      else setThread s p t { th with
             wait := .ready, pc := th.pc + 4,
             gp := if reg = 0 then th.gp else KMap.set (fun _ => 0) th.gp reg 0 }
    | _ => s) s

/-- Clears the reservations on the granules of n bytes at a target (R175). -/
def touchRsvs (s : State) (tg : Target) (n : Nat) : State :=
  match tg with
  | .ls ph off =>
    let k := lsKey + ph * 0x40000 + off
    dropRsvs s (k / 64) ((k + n - 1) / 64)
  | .gm a => dropRsvs s (a / 64) ((a + n - 1) / 64)
  | _ => s

/-- Writes bytes of the steward's memories, or outside them, at a resolved target: reservations on the granules go, and
sleeping threads wake. -/
def writeTarget (s : State) (tg : Target) (bs : List Byte) : State :=
  if bs = [] then s else
  match tg with
  | .ls ph off => wakeWaits (touchRsvs (lsWrite s ph off bs) tg bs.length) ph
  | .gm a => touchRsvs (gmWrite s a bs) tg bs.length
  | .spoke n off => accWrite s n off bs
  | .host off => hostWrite s off bs
  | _ => s

/-- Reads bytes at a resolved target. -/
def readTarget (s : State) (tg : Target) (n : Nat) : List Byte :=
  match tg with
  | .ls ph off => lsRead s ph off n
  | .gm a => gmRead s a n
  | .spoke k off => accRead s k off n
  | .host off => hostRead s off n
  | _ => List.replicate n 0

/-- Zeroes bytes [lo, hi) of a local store, as Tilth's write (R154, R195). -/
def zeroTarget (s : State) (p lo hi : Nat) : State :=
  if hi ≤ lo then s else wakeWaits (touchRsvs (lsZero s p lo hi) (.ls p lo) (hi - lo)) p

/-! ### Pieces of accesses in progress (R189 item 5, R193, R194)

A copy, a started tile instruction and an LDV are not single-copy atomic: another access may fall between their 8-byte pieces. Such an
access that meets one first performs those of its pieces that a free value says are already performed (log entry 12). -/

/-- The memory a target lies in, and its place there. -/
def place : Target → Option (Nat × Nat)
  | .ls p x => some (0, p * 0x40000 + x)
  | .gm a => some (1, a)
  | .spoke n x => some (2 + n, x)
  | .host x => some (10, x)
  | _ => none

/-- Do n bytes at one target and m at another overlap. -/
def overlaps (a : Target) (n : Nat) (b : Target) (m : Nat) : Bool :=
  match place a, place b with
  | some (c, x), some (d, y) => c = d && x < y + m && y < x + n
  | _, _ => false

/-- Numbers of the 8-byte pieces of `len` bytes at a target that [b, b+m) overlaps. -/
def piecesIn (a : Target) (len : Nat) (b : Target) (m : Nat) : List Nat :=
  match place a, place b with
  | some (c, x), some (d, y) =>
    if c = d then
      let lo := (y - x) / 8
      (List.range (min (len / 8) ((y + m + 7 - x) / 8) - lo)).map (fun i => lo + i)
    else []
  | _, _ => []

/-- Piece i of copy k of a thread, performed before an access that meets it where a free value says so. -/
def copyPiece (s : State) (p t k i : Nat) : State :=
  match (getThread s p t).copies[k]? with
  | none => s
  | some c =>
    if c.done.contains i then s
    else
      let (f, s) := drawFree s
      if f.toNat % 2 = 0 then s
      else
        let s := modThread s p t (fun x => { x with copies := x.copies.set k { c with done := i :: c.done } })
        writeTarget s (resolve s p (c.dst + 8 * i)) (readTarget s (resolve s p (c.src + 8 * i)) 8)

/-- Copies that an access of [tg, tg+n) meets: a read meets their writes, a write their reads too. -/
def meetCopies (s : State) (tg : Target) (n : Nat) (write : Bool) : State :=
  let met := (s.garr.threads.filter (fun e => e.2.copies ≠ [])).flatMap (fun e =>
    (List.range e.2.copies.length).flatMap (fun k =>
      match e.2.copies[k]? with
      | none => []
      | some c =>
        (piecesIn (resolve s (e.1 / 8) c.dst) c.len tg n
          ++ (if write then piecesIn (resolve s (e.1 / 8) c.src) c.len tg n else [])).map (fun i => (e.1, k, i))))
  met.foldl (fun s e => copyPiece s (e.1 / 8) (e.1 % 8) e.2.1 e.2.2) s

/-- Local store ranges that a started tile instruction reads. -/
def tileReads (o : TileOp) : List (Nat × Nat) :=
  match o.top with
  | 1 => [(o.addrA, 1024 * tloadSize o.fmt)]
  | 3 => [(o.addrA, 1024 * tmmaSize o.fmt), (o.addrB, 1024 * tmmaSize o.fmt)]
  | _ => []

/-- Changes entry k of a grain's tile instructions. -/
def modOp (s : State) (p k : Nat) (f : TileOp → TileOp) : State :=
  modGrain s p (fun g => match g.queue[k]? with | some o => { g with queue := g.queue.set k (f o) } | none => g)

/-- Bytes that a TSTORE writes; none where its format does not match its tile (R168). -/
def tstoreBytes (s : State) (p : Nat) (o : TileOp) : List Byte :=
  let x := getTile (getGrain s p) o.tile
  if tstoreMatch o.fmt x then (tstoreEffect o.fmt o.modf x).1 else []

/-- Piece i of started TSTORE k of a grain, written before an access that meets it where a free value says so. -/
def tilePiece (s : State) (p k i : Nat) : State :=
  match (getGrain s p).queue[k]? with
  | none => s
  | some o =>
    if o.done.contains i then s
    else
      let (f, s) := drawFree s
      if f.toNat % 2 = 0 then s
      else
        let s := modOp s p k (fun o => { o with done := i :: o.done })
        writeTarget s (.ls p (o.addrA + 8 * i)) (((tstoreBytes s p o).drop (8 * i)).take 8)

/-- Eight bytes at an offset that started instruction k reads, read before a write that meets them where a free value says so. -/
def tileCapture (s : State) (p k off : Nat) : State :=
  let (f, s) := drawFree s
  if f.toNat % 2 = 0 then s
  else modOp s p k (fun o => if o.got.any (fun e => e.1 = off) then o else { o with got := (off, lsRead s p off 8) :: o.got })

/-- Started tile instructions of a grain that an access of its local store meets. -/
def meetTiles (s : State) (tg : Target) (n : Nat) (write : Bool) : State :=
  match tg with
  | .ls p _ =>
    (List.range (getGrain s p).queue.length).foldl (fun s k =>
      match (getGrain s p).queue[k]? with
      | none => s
      | some o =>
        if !o.started then s
        else if o.top = 2 then
          (piecesIn (.ls p o.addrA) (tstoreBytes s p o).length tg n).foldl (fun s i => tilePiece s p k i) s
        else if write then
          (tileReads o).foldl (fun s r =>
            (piecesIn (.ls p r.1) r.2 tg n).foldl (fun s i => tileCapture s p k (r.1 + 8 * i)) s) s
        else s) s
  | _ => s

/-- The byte a thread's own stores forward at a target plus i: the latest in program order (R189 item 2). -/
def forwardByte (s : State) (p : Nat) (tg : Target) (sts : List PendStore) (i : Nat) (d : Byte) : Byte :=
  sts.foldl (fun b st =>
    match place (resolve s p st.addr), place tg with
    | some (c, x), some (e, y) => if c = e ∧ x ≤ y + i then (st.bytes.getD (y + i - x) none).getD b else b
    | _, _ => b) d

/-- What a thread reads of n bytes at a target as memory stands, its own stores forwarded. -/
def peekBytes (s : State) (p t : Nat) (tg : Target) (n : Nat) : List Byte :=
  let bs := readTarget s tg n
  let sts := (getThread s p t).stores
  if sts = [] then bs else (List.range n).map (fun i => forwardByte s p tg sts i (bs.getD i 0))

/-- LDVs under way that a write of [tg, tg+n) meets: they have read a free number of their pieces, in ascending order, before it. -/
def meetVectors (s : State) (tg : Target) (n : Nat) : State :=
  s.garr.threads.foldl (fun s e =>
    match e.2.wait with
    | .vector w a got =>
      let p := e.1 / 8
      let t := e.1 % 8
      if overlaps (resolve s p a) 256 tg n then
        let (f, s) := drawFree s
        let k := max got.length (8 * (f.toNat % 33))
        let more := ((peekBytes s p t (resolve s p a) 256).drop got.length).take (k - got.length)
        modThread s p t (fun x => { x with wait := .vector w a (got ++ more) })
      else s
    | _ => s) s

/-- Before an access of n bytes at a target: the pieces of accesses in progress that fall before it. -/
def meet (s : State) (tg : Target) (n : Nat) (write : Bool) : State :=
  let s := meetTiles (meetCopies s tg n write) tg n write
  if write then meetVectors s tg n else s

/-- Writes of the steward's other agents (stratum engine, Tilth, Marl, BAR2) to Loam or HBM (R195). -/
def agentWrite (s : State) (a : Nat) (bs : List Byte) : State := writeTarget (meet s (.gm a) bs.length true) (.gm a) bs

/-! ### Store buffers -/

/-- The link of a target: a spoke, 8 for U, or 9 for the steward's memories. Writes of a thread are ordered among those of one link,
and among those of the steward's memories (R189, R199). -/
def linkOf : Target → Nat
  | .spoke n _ => n
  | .host _ => 8
  | _ => 9

/-- Is a target beyond the steward's memories. -/
def isWindow (tg : Target) : Bool := linkOf tg ≠ 9

/-- The link of a store. -/
def storeLink (s : State) (p : Nat) (st : PendStore) : Nat := linkOf (resolve s p st.addr)

/-- Does a store have to wait: its link is not ready (R205), or its index's takeover runs (Table 6.11). -/
def storeHeld (s : State) (p : Nat) (st : PendStore) : Bool :=
  match resolve s p st.addr with
  | .spoke n _ => spokeAccess s n ≠ 0
  | .host _ => uAccess s ≠ 0
  | .ls .. => decide (0x40000 ≤ st.addr) && indexHeld s ((st.addr - 0x100000000) / 0x40000)
  | _ => false

/-- Performs one store at its endpoint: runs of written bytes in ascending order. -/
def performStore (s : State) (p : Nat) (st : PendStore) : State :=
  let s := meet s (resolve s p st.addr) st.bytes.length true
  if st.bytes.all Option.isSome then
    writeTarget s (resolve s p st.addr) (st.bytes.filterMap id)
  else
    ((List.range st.bytes.length).foldl (fun s i =>
      match st.bytes.getD i none with
      | some b => writeTarget s (resolve s p (st.addr + i)) [b]
      | none => s) s)

/-- Takes a store out of its thread's buffer and performs it. -/
def performOne (s : State) (p t : Nat) (st : PendStore) : State :=
  performStore (modThread s p t (fun th => { th with stores := th.stores.erase st })) p st

/-- The stores to the steward's memories that must be performed before an access of [tg, tg+n): in order up to the last one of at least
a stage that overlaps it; none from a held one on. -/
def forcedStores (s : State) (p stage : Nat) (tg : Target) (n : Nat) (sts : List PendStore) : List PendStore :=
  let own := (sts.filter (fun st => storeLink s p st = 9)).takeWhile (fun st => !storeHeld s p st)
  let last := (List.range own.length).foldl (fun k i =>
    match own[i]? with
    | some st => if stage ≤ st.stage && overlaps (resolve s p st.addr) st.bytes.length tg n then i + 1 else k
    | none => k) 0
  own.take last

/-- Performs the stores that a scoped fence makes visible to an access by grain p, thread t: those of other threads of its grain past
the mesh port, and of its bed past the bed router (R189 item 4, R191, log entry 11). -/
def forceScoped (s : State) (p t : Nat) (tg : Target) (n : Nat) : State :=
  (List.range 136).foldl (fun s i =>
    let q := 17 * (p / 17) + i / 8
    let u := i % 8
    if q = p ∧ u = t then s
    else
      let sts := (getThread s q u).stores
      if sts = [] then s
      else (forcedStores s q (if q = p then 1 else 2) tg n sts).foldl (fun s st => performOne s q u st) s) s

/-- Performs a store of a thread in its order: stores that scoped fences have made visible to the thread come first (R189 item 4). -/
def performIn (s : State) (p t : Nat) (st : PendStore) : State :=
  performOne (forceScoped s p t (resolve s p st.addr) st.bytes.length) p t st

/-- The stores of a thread to some links that may be performed now, in order: on each link, those before the first held one. -/
def openStores (s : State) (p : Nat) (sel : Nat → Bool) : List Nat → List PendStore → List PendStore
  | _, [] => []
  | stopped, st :: rest =>
    let l := storeLink s p st
    if !sel l || stopped.contains l then openStores s p sel stopped rest
    else if storeHeld s p st then openStores s p sel (l :: stopped) rest
    else st :: openStores s p sel stopped rest

/-- Performs the stores of a thread to some links that may be performed. -/
def drainLinks (s : State) (p t : Nat) (sel : Nat → Bool) : State :=
  (openStores s p sel [] (getThread s p t).stores).foldl (fun s st => performIn s p t st) s

/-- Performs every store of a thread that is not held (an atomic, a tile instruction, an exception, END). -/
def drainThread (s : State) (p t : Nat) : State := drainLinks s p t (fun _ => true)

/-- Performs every store of a grain's threads. -/
def drainGrain (s : State) (p : Nat) : State := (List.range 8).foldl (fun s t => drainThread s p t) s

/-- Does a held store of a thread stand on a link that `sel` names. -/
def heldOn (s : State) (p t : Nat) (sel : Nat → Bool) : Bool :=
  (getThread s p t).stores.any (fun st => sel (storeLink s p st) && storeHeld s p st)

/-- What a load of thread t of grain p reads (R189 items 2 and 4). A load from a window goes after every earlier store of its thread
to that link (R199). -/
def loadBytes (s : State) (p t a n : Nat) : List Byte × State :=
  let tg := resolve s p a
  let s := if isWindow tg then drainLinks s p t (fun l => l = linkOf tg) else forceScoped s p t tg n
  let s := meet s tg n false
  (peekBytes s p t tg n, s)

/-! ### Accesses held (R152, R205) -/

/-- Threads that an access may hold: the live ones. -/
def liveThreads (s : State) : List (Nat × Nat) :=
  (s.garr.threads.filter (fun e => e.2.live)).map (fun e => (e.1 / 8, e.1 % 8))

/-- What a held access waits for: a link, or 100 and the logical grain whose takeover runs. -/
def holdKey (s : State) (p a : Nat) : Nat :=
  match resolve s p a with
  | .ls .. => 100 + (a - 0x100000000) / 0x40000
  | tg => linkOf tg

/-- Accesses held on a link or a takeover proceed: the threads are ready to issue them again. -/
def linkResume (s : State) (link : Nat) : State :=
  (liveThreads s).foldl (fun s e =>
    match (getThread s e.1 e.2).wait with
    | .held l _ _ => if l = link then modThread s e.1 e.2 (fun x => { x with wait := .ready }) else s
    | _ => s) s

end Sys2Proof.Machine
end

