-- ==== Sys2Proof/Machine/Crypto.lean ====
section
/-! DEFINITION. The cryptographic functions that Table 5.1 names, as their standards define them (PRESUMED, log entry 5): SHA-384 of
FIPS 180-4, HMAC-SHA-384 of FIPS 198-1, ECDSA P-384 verification of FIPS 186-5 and AES-256-GCM of SP 800-38D. -/

namespace Sys2Proof.Machine

/-- The number that bytes spell, most significant first. -/
def ofBe (bs : List Byte) : Nat := ofLe bs.reverse
/-- The `n` bytes of a number, most significant first. -/
def beBytes (n x : Nat) : List Byte := (leBytes n x).reverse
/-- XOR of two byte strings, byte by byte. -/
def xorBytes (a b : List Byte) : List Byte := List.zipWith (· ^^^ ·) a b

/-! ### SHA-384 -/

/-- Round constants of SHA-512 and SHA-384. -/
def shaK : List Dword :=
  [0x428A2F98D728AE22#64, 0x7137449123EF65CD#64, 0xB5C0FBCFEC4D3B2F#64, 0xE9B5DBA58189DBBC#64]
  ++ [0x3956C25BF348B538#64, 0x59F111F1B605D019#64, 0x923F82A4AF194F9B#64, 0xAB1C5ED5DA6D8118#64]
  ++ [0xD807AA98A3030242#64, 0x12835B0145706FBE#64, 0x243185BE4EE4B28C#64, 0x550C7DC3D5FFB4E2#64]
  ++ [0x72BE5D74F27B896F#64, 0x80DEB1FE3B1696B1#64, 0x9BDC06A725C71235#64, 0xC19BF174CF692694#64]
  ++ [0xE49B69C19EF14AD2#64, 0xEFBE4786384F25E3#64, 0x0FC19DC68B8CD5B5#64, 0x240CA1CC77AC9C65#64]
  ++ [0x2DE92C6F592B0275#64, 0x4A7484AA6EA6E483#64, 0x5CB0A9DCBD41FBD4#64, 0x76F988DA831153B5#64]
  ++ [0x983E5152EE66DFAB#64, 0xA831C66D2DB43210#64, 0xB00327C898FB213F#64, 0xBF597FC7BEEF0EE4#64]
  ++ [0xC6E00BF33DA88FC2#64, 0xD5A79147930AA725#64, 0x06CA6351E003826F#64, 0x142929670A0E6E70#64]
  ++ [0x27B70A8546D22FFC#64, 0x2E1B21385C26C926#64, 0x4D2C6DFC5AC42AED#64, 0x53380D139D95B3DF#64]
  ++ [0x650A73548BAF63DE#64, 0x766A0ABB3C77B2A8#64, 0x81C2C92E47EDAEE6#64, 0x92722C851482353B#64]
  ++ [0xA2BFE8A14CF10364#64, 0xA81A664BBC423001#64, 0xC24B8B70D0F89791#64, 0xC76C51A30654BE30#64]
  ++ [0xD192E819D6EF5218#64, 0xD69906245565A910#64, 0xF40E35855771202A#64, 0x106AA07032BBD1B8#64]
  ++ [0x19A4C116B8D2D0C8#64, 0x1E376C085141AB53#64, 0x2748774CDF8EEB99#64, 0x34B0BCB5E19B48A8#64]
  ++ [0x391C0CB3C5C95A63#64, 0x4ED8AA4AE3418ACB#64, 0x5B9CCA4F7763E373#64, 0x682E6FF3D6B2B8A3#64]
  ++ [0x748F82EE5DEFB2FC#64, 0x78A5636F43172F60#64, 0x84C87814A1F0AB72#64, 0x8CC702081A6439EC#64]
  ++ [0x90BEFFFA23631E28#64, 0xA4506CEBDE82BDE9#64, 0xBEF9A3F7B2C67915#64, 0xC67178F2E372532B#64]
  ++ [0xCA273ECEEA26619C#64, 0xD186B8C721C0C207#64, 0xEADA7DD6CDE0EB1E#64, 0xF57D4F7FEE6ED178#64]
  ++ [0x06F067AA72176FBA#64, 0x0A637DC5A2C898A6#64, 0x113F9804BEF90DAE#64, 0x1B710B35131C471B#64]
  ++ [0x28DB77F523047D84#64, 0x32CAAB7B40C72493#64, 0x3C9EBE0A15C9BEBC#64, 0x431D67C49C100D4C#64]
  ++ [0x4CC5D4BECB3E42B6#64, 0x597F299CFC657E2A#64, 0x5FCB6FAB3AD6FAEC#64, 0x6C44198C4A475817#64]

/-- Initial hash value of SHA-384. -/
def shaInit : List Dword := [0xCBBB9D5DC1059ED8#64, 0x629A292A367CD507#64, 0x9159015A3070DD17#64, 0x152FECD8F70E5939#64, 0x67332667FFC00B31#64, 0x8EB44A8768581511#64, 0xDB0C2E0D64F98FA7#64, 0x47B5481DBEFA4FA4#64]

/-- The two functions that mix the message schedule, and the two of a round. -/
def shaSmall0 (x : Dword) : Dword := x.rotateRight 1 ^^^ x.rotateRight 8 ^^^ (x >>> 7)
@[inherit_doc shaSmall0]
def shaSmall1 (x : Dword) : Dword := x.rotateRight 19 ^^^ x.rotateRight 61 ^^^ (x >>> 6)
@[inherit_doc shaSmall0]
def shaBig0 (x : Dword) : Dword := x.rotateRight 28 ^^^ x.rotateRight 34 ^^^ x.rotateRight 39
@[inherit_doc shaSmall0]
def shaBig1 (x : Dword) : Dword := x.rotateRight 14 ^^^ x.rotateRight 18 ^^^ x.rotateRight 41

/-- The first n words of the message schedule whose last 16 words are w. -/
def shaSchedule : Nat → List Dword → List Dword
  | 0, _ => []
  | n + 1, w =>
    let x := shaSmall1 (w.getD 14 0) + w.getD 9 0 + shaSmall0 (w.getD 1 0) + w.getD 0 0
    w.getD 0 0 :: shaSchedule n (w.drop 1 ++ [x])

/-- A round on the eight working variables a to h, with a round constant and a word of the schedule. -/
def shaRound (v : List Dword) (k w : Dword) : List Dword :=
  let g (i : Nat) : Dword := v.getD i 0
  let t1 := g 7 + shaBig1 (g 4) + ((g 4 &&& g 5) ^^^ (~~~ g 4 &&& g 6)) + k + w
  let t2 := shaBig0 (g 0) + ((g 0 &&& g 1) ^^^ (g 0 &&& g 2) ^^^ (g 1 &&& g 2))
  [t1 + t2, g 0, g 1, g 2, g 3 + t1, g 4, g 5, g 6]

/-- The hash value after one more block of 128 bytes. -/
def shaBlock (h : List Dword) (block : List Byte) : List Dword :=
  let ws := (List.range 16).map (fun i => BitVec.ofNat 64 (ofBe ((block.drop (8 * i)).take 8)))
  let v := (List.zip shaK (shaSchedule 80 ws)).foldl (fun v p => shaRound v p.1 p.2) h
  List.zipWith (· + ·) h v

/-- The padded message of SHA-384. -/
def shaPad (m : List Byte) : List Byte :=
  m ++ [0x80] ++ List.replicate ((239 - m.length % 128) % 128) 0 ++ beBytes 16 (8 * m.length)

/-- Hashes the blocks of a padded message, at most `fuel` of them. -/
def shaBlocks : Nat → List Dword → List Byte → List Dword
  | 0, h, _ => h
  | n + 1, h, m => if m.isEmpty then h else shaBlocks n (shaBlock h (m.take 128)) (m.drop 128)

/-- SHA-384 of a message. -/
@[irreducible]
def sha384 (m : List Byte) : BitVec 384 :=
  let p := shaPad m
  BitVec.ofNat 384 (((shaBlocks (p.length / 128) shaInit p).take 6).foldl (fun n w => n * 2 ^ 64 + w.toNat) 0)

/-- HMAC-SHA-384 of a message under a key of at most 128 bytes. -/
def hmac384 (key m : List Byte) : BitVec 384 :=
  let k := (key ++ List.replicate 128 0).take 128
  let pad (b : Byte) : List Byte := k.map (· ^^^ b)
  sha384 (pad 0x5C ++ digestBytes (sha384 (pad 0x36 ++ m)))

/-! ### AES-256-GCM -/

/-- Twice an element of the field of AES. -/
def aesDouble (a : Byte) : Byte := (a <<< 1) ^^^ (if a.getLsbD 7 then 0x1B else 0)
/-- The product of two elements, over the low n bits of the second. -/
def aesMulUp : Nat → Byte → Byte → Byte
  | 0, _, _ => 0
  | n + 1, a, b => (if b.getLsbD 0 then a else 0) ^^^ aesMulUp n (aesDouble a) (b >>> 1)
/-- The product of two elements. -/
def aesMul (a b : Byte) : Byte := aesMulUp 8 a b
/-- The inverse of an element, 0 for 0: its 254th power. -/
def aesInv (a : Byte) : Byte :=
  (List.range 6).foldl (fun x _ => aesMul (aesMul x x) a) a |> fun x => aesMul x x
/-- SubBytes of one byte. -/
def aesSub (a : Byte) : Byte :=
  let x := aesInv a
  x ^^^ x.rotateLeft 1 ^^^ x.rotateLeft 2 ^^^ x.rotateLeft 3 ^^^ x.rotateLeft 4 ^^^ 0x63

/-- The next word of the key schedule of AES-256, number i, after the eight words before it. -/
def aesNextKey (i : Nat) (ws : List (List Byte)) : List Byte :=
  let t := ws.getD 7 []
  let t :=
    if i % 8 = 0 then
      xorBytes ((t.drop 1 ++ t.take 1).map aesSub) [(List.range (i / 8 - 1)).foldl (fun r _ => aesDouble r) 1, 0, 0, 0]
    else if i % 8 = 4 then t.map aesSub
    else t
  xorBytes (ws.getD 0 []) t
/-- The n words of the key schedule from number i on, whose first eight are ws. -/
def aesWords : Nat → Nat → List (List Byte) → List (List Byte)
  | 0, _, _ => []
  | n + 1, i, ws => ws.getD 0 [] :: aesWords n (i + 1) (ws.drop 1 ++ [aesNextKey (i + 8) ws])
/-- The 15 round keys of a key of 32 bytes. -/
def aesKeys (key : List Byte) : List (List Byte) :=
  let ws := aesWords 60 0 ((List.range 8).map (fun i => (key.drop (4 * i)).take 4))
  (List.range 15).map (fun r => ((ws.drop (4 * r)).take 4).flatten)

/-- ShiftRows of a state, byte r + 4 c in row r and column c. -/
def aesShift (s : List Byte) : List Byte := (List.range 16).map (fun i => s.getD ((i + 4 * (i % 4)) % 16) 0)
/-- MixColumns of a state. -/
def aesMix (s : List Byte) : List Byte :=
  (List.range 16).map (fun i =>
    let g (k : Nat) : Byte := s.getD (i / 4 * 4 + (i + k) % 4) 0
    aesDouble (g 0) ^^^ aesMul 3 (g 1) ^^^ g 2 ^^^ g 3)
/-- AES-256 of one block with its round keys. -/
def aesBlock (keys : List (List Byte)) (b : List Byte) : List Byte :=
  let k (r : Nat) : List Byte := keys.getD r []
  let s := (List.range 13).foldl (fun s r => xorBytes (aesMix (aesShift (s.map aesSub))) (k (r + 1))) (xorBytes b (k 0))
  xorBytes (aesShift (s.map aesSub)) (k 14)

/-- The product of two blocks in the field of GCM, over n more bits of the first, most significant first. -/
def gcmMulUp : Nat → BitVec 128 → BitVec 128 → BitVec 128
  | 0, _, _ => 0
  | n + 1, x, v =>
    (if x.msb then v else 0)
    ^^^ gcmMulUp n (x <<< 1) ((v >>> 1) ^^^ (if v.getLsbD 0 then 0xE1#128 <<< 120 else 0))
/-- The blocks of 16 bytes of a string, the last padded with zeros, at most `fuel` of them. -/
def gcmBlocks : Nat → List Byte → List (List Byte)
  | 0, _ => []
  | n + 1, m => if m.isEmpty then [] else (m.take 16 ++ List.replicate 16 0).take 16 :: gcmBlocks n (m.drop 16)
/-- GHASH of additional data and a ciphertext under a hash key. -/
def gcmHash (h : BitVec 128) (aad ct : List Byte) : BitVec 128 :=
  let bs := gcmBlocks aad.length aad ++ gcmBlocks ct.length ct ++ [beBytes 8 (8 * aad.length) ++ beBytes 8 (8 * ct.length)]
  bs.foldl (fun y b => gcmMulUp 128 (y ^^^ BitVec.ofNat 128 (ofBe b)) h) 0

/-- A message under the counter mode of GCM with an IV of 12 bytes: it seals a plaintext and opens a ciphertext. -/
@[irreducible]
def gcmCrypt (key iv m : List Byte) : List Byte :=
  let ks := aesKeys key
  (List.range (ceilDiv m.length 16)).flatMap (fun i =>
    xorBytes ((m.drop (16 * i)).take 16) (aesBlock ks (iv ++ beBytes 4 (i + 2))))
/-- The 128-bit tag of a ciphertext with its additional data. -/
@[irreducible]
def gcmTag (key iv aad ct : List Byte) : List Byte :=
  let ks := aesKeys key
  let h := BitVec.ofNat 128 (ofBe (aesBlock ks (List.replicate 16 0)))
  xorBytes (beBytes 16 (gcmHash h aad ct).toNat) (aesBlock ks (iv ++ beBytes 4 1))

/-! ### ECDSA P-384 -/

/-- The prime of P-384. -/
def p384 : Nat := 2 ^ 384 - 2 ^ 128 - 2 ^ 96 + 2 ^ 32 - 1
/-- The order of the base point of P-384. -/
def n384 : Nat := 0xFFFFFFFFFFFFFFFFFFFFFFFFFFFFFFFFFFFFFFFFFFFFFFFFC7634D81F4372DDF581A0DB248B0A77AECEC196ACCC52973
/-- The coefficient b of P-384, whose a is -3. -/
def b384 : Nat := 0xB3312FA7E23EE7E4988E056BE3F82D19181D9C6EFE8141120314088F5013875AC656398D8A2ED19D2A85C8EDD3EC2AEF
/-- The base point of P-384. -/
def g384 : Nat × Nat :=
  (0xAA87CA22BE8B05378EB1C71EF320AD746E1D3B628BA79B9859F741E082542A385502F25DBF55296C3A545E3872760AB7,
   0x3617DE4A96262C6F5D9E98BF9292DC29F8F41DBD289A147CE9DA3113B5F0B8C00A60B1CE1D7E819D7A431D7C90EA0E5F)

/-- x to a power modulo m, over the low n bits of the exponent. -/
def powMod (m : Nat) : Nat → Nat → Nat → Nat
  | 0, _, _ => 1 % m
  | n + 1, x, e => powMod m n (x * x % m) (e / 2) * (if e % 2 = 1 then x else 1) % m
/-- The inverse modulo a prime of at most 384 bits. -/
def invMod (m x : Nat) : Nat := powMod m 384 (x % m) (m - 2)

/-- The third point on the line through two points, reflected, given the slope; coordinates below p. -/
def ecThird (l x1 y1 x2 : Nat) : Nat × Nat :=
  let x := (l * l + 2 * p384 - x1 - x2) % p384
  (x, (l * (x1 + p384 - x) + p384 - y1) % p384)
/-- The sum of two points of P-384; none is the point at infinity. -/
def ecAdd (a b : Option (Nat × Nat)) : Option (Nat × Nat) :=
  match a, b with
  | none, q => q
  | some p, none => some p
  | some (x1, y1), some (x2, y2) =>
    if x1 = x2 ∧ (y1 + y2) % p384 = 0 then none
    else
      let l := if x1 = x2 then (3 * x1 * x1 + p384 - 3) * invMod p384 (2 * y1) % p384
        else (y2 + p384 - y1) * invMod p384 (x2 + p384 - x1) % p384
      some (ecThird l x1 y1 x2)
/-- A multiple of a point, over the low n bits of the factor. -/
def ecMul : Nat → Nat → Option (Nat × Nat) → Option (Nat × Nat)
  | 0, _, _ => none
  | n + 1, k, p => ecAdd (if k % 2 = 1 then p else none) (ecMul n (k / 2) (ecAdd p p))
/-- Is a point on P-384. -/
def ecOn (x y : Nat) : Bool :=
  decide (x < p384) && decide (y < p384) && y * y % p384 = (x * x * x + (p384 - 3) * x + b384) % p384

/-- ECDSA P-384 verification of a signature over a digest with a public key, x then y. -/
@[irreducible]
def ecdsaVerify (pub r s : List Byte) (digest : BitVec 384) : Bool :=
  let x := ofBe (pub.take 48)
  let y := ofBe (pub.drop 48)
  let r := ofBe r
  let s := ofBe s
  let w := invMod n384 s
  let u1 := digest.toNat * w % n384
  let u2 := r * w % n384
  ecOn x y && decide (0 < r) && decide (r < n384) && decide (0 < s) && decide (s < n384)
  && (match ecAdd (ecMul 384 u1 (some g384)) (ecMul 384 u2 (some (x, y))) with
      | some (v, _) => decide (v % n384 = r)
      | none => false)

end Sys2Proof.Machine
end

