-- ==== Sys2Proof/Machine/Operands.lean ====
section
/-! DEFINITION. The fields of a submission entry and the checks of Table 4.6: steps 1 to 6 at acceptance, and what steps 7
to 10 and the order of starting (R89, R90, Table 4.7) ask of a command that starts. -/

namespace Sys2Proof.Machine

/-- Classes: 0 CONTROL, 1 DATA, 2 MAINT; none for NOP and ECHO, which every ring takes (Table 4.4). -/
inductive OpClass where
  | undefined | any | cls (k : Nat)
deriving DecidableEq, Repr

/-- The class of an opcode (Table 4.4). -/
def opClass (op : Nat) : OpClass :=
  if op ≤ 0x01 then .any
  else if 0x10 ≤ op ∧ op ≤ 0x17 then .cls 1
  else if 0x20 ≤ op ∧ op ≤ 0x24 then .cls 0
  else if 0x30 ≤ op ∧ op ≤ 0x32 then .cls 0
  else if op = 0x40 then .cls 0
  else if 0x50 ≤ op ∧ op ≤ 0x52 then .cls 2
  else if op = 0x60 ∨ op = 0x61 then .cls 1
  else if op = 0x62 then .cls 0
  else if 0x70 ≤ op ∧ op ≤ 0x72 then .cls 2
  else if op = 0x7F then .cls 0
  else .undefined

/-- The parameter bytes that an opcode uses, as (first, count) (Table 4.4). -/
def paramSpans (op : Nat) : List (Nat × Nat) :=
  match op with
  | 0x01 => [(8, 16)]
  | 0x10 => [(8, 11), (20, 18)]
  | 0x11 => [(8, 9), (24, 8)]
  | 0x12 => [(8, 10), (20, 12)]
  | 0x13 => [(8, 8)]
  | 0x14 => [(8, 24)]
  | 0x15 => [(8, 24)]
  | 0x16 => [(8, 1), (16, 16)]
  | 0x17 => [(8, 1)]
  | 0x20 => [(8, 2)]
  | 0x21 => [(8, 2), (12, 8)]
  | 0x22 => [(8, 1), (12, 8)]
  | 0x23 => [(8, 1), (16, 24)]
  | 0x24 => [(8, 1)]
  | 0x30 => [(8, 3), (12, 4)]
  | 0x31 => [(8, 4), (16, 8)]
  | 0x32 => [(8, 2)]
  | 0x40 => [(8, 3)]
  | 0x50 => [(16, 16)]
  | 0x51 => [(8, 2)]
  | 0x60 => [(8, 1), (16, 16)]
  | 0x61 => [(8, 3), (12, 20)]
  | 0x62 => [(8, 1), (10, 2)]
  | 0x70 => [(8, 1), (12, 4), (16, 16)]
  | 0x71 => [(8, 4), (16, 8)]
  | 0x72 => [(8, 8)]
  | 0x7F => [(8, 1)]
  | _ => []

/-- Is byte `i` of the entry used by the opcode. -/
def byteUsed (op i : Nat) : Bool :=
  decide (i < 6) || (paramSpans op).any (fun p => decide (p.1 ≤ i) && decide (i < p.1 + p.2))

/-- Element size of a DTYPE (R208). -/
def dtypeBytes (d : Nat) : Nat := if d = 2 then 2 else 1

/-- TOKEN_BYTES of a shape (R208). -/
def Shape.tokenBytes (h : Shape) : Nat := h.layers * 2 * h.kvHeads * h.headDim * dtypeBytes h.dtype

/-- The shape a STRATUM_PARK gives (Table 4.4). -/
def Cmd.shape (c : Cmd) : Shape := ⟨c.f 0x20 2, c.f 0x22 1, c.f 0x24 2, c.f 0x23 1⟩

/-- ACC of a command that names one accelerator: PARK and RESTORE carry it at 0x10, the ACC_* commands at 0x08. -/
def Cmd.accN (c : Cmd) : Nat := if c.op < 0x20 then c.f 0x10 1 else c.f 0x08 1

/-- Commands that carry a host address, with its offset; KERNEL_LAUNCH carries FAILMAP. -/
def bufOffset (op : Nat) : Option Nat :=
  match op with
  | 0x12 => some 0x18
  | 0x14 => some 0x10 | 0x15 => some 0x10 | 0x16 => some 0x10 | 0x23 => some 0x10 | 0x31 => some 0x10
  | 0x50 => some 0x10 | 0x60 => some 0x10 | 0x61 => some 0x18 | 0x70 => some 0x10 | 0x71 => some 0x10
  | _ => none

/-- Bytes that are reserved and not zero: FLAGS[7:2], 0x06, 0x07 and unused parameter bytes (R81), each at its own
offset (log entry 25). -/
def reservedBad (c : Cmd) : List Nat :=
  (if c.f 1 1 / 4 ≠ 0 then [1] else [])
  ++ (List.range 64).filter (fun i => !byteUsed c.op i && decide (c.f i 1 ≠ 0))

/-- Keeps an offset where its field is out of range. -/
def badIf (b : Bool) (off : Nat) : List Nat := if b then [off] else []

/-- Offsets of the fields out of range at step 4, by opcode (Table 4.4 and the opcode's chapter); instances beyond the
member's do not exist (R2). -/
def fieldsBad (c : Cmd) : List Nat :=
  let acc (off : Nat) := badIf (7 < c.f off 1) off
  match c.op with
  | 0x10 =>
    let h := c.shape
    acc 0x10 ++ badIf (2 < c.f 0x11 1) 0x11
    ++ badIf (3 < c.f 0x12 1 ∧ c.f 0x12 1 ≠ 0xFF) 0x12 ++ badIf (1048576 < c.f 0x14 4) 0x14
    ++ badIf (c.f 0x18 8 % 64 ≠ 0) 0x18
    ++ badIf (256 < h.layers ∨ 262144 < h.tokenBytes) 0x20 ++ badIf (64 < h.kvHeads) 0x22
    ++ badIf (2 < h.dtype) 0x23 ++ badIf (256 < h.headDim ∨ h.headDim % 32 ≠ 0) 0x24
  | 0x11 => acc 0x10 ++ badIf (c.f 0x18 8 % 64 ≠ 0) 0x18
  | 0x12 => badIf (3 < c.f 0x10 1) 0x10 ++ badIf (c.f 0x11 1 / 2 ≠ 0) 0x11
  | 0x14 => badIf (c.f 0x10 8 % 64 ≠ 0) 0x10
  | 0x16 => badIf (3 < c.f 8 1) 8
  | 0x17 => badIf (3 < c.f 8 1) 8
  | 0x20 => acc 8 ++ badIf (4 < c.f 9 1) 9
  | 0x21 => acc 8 ++ badIf (4 < c.f 9 1) 9
  | 0x22 => badIf (7 < c.f 8 1 ∧ c.f 8 1 ≠ 0xFF) 8
  | 0x23 => acc 8
  | 0x24 => acc 8
  | 0x30 =>
    badIf (7 < c.f 8 1) 8 ++ badIf (2 < c.f 9 1) 9
    ++ badIf (2 < c.f 0xA 1 ∨ (c.tenant = 64 ∧ c.f 0xA 1 ≠ 0)) 0xA
  | 0x31 =>
    badIf (7 < c.f 8 1) 8 ++ badIf (16 < c.f 9 1) 9 ++ badIf (31 < c.f 0xA 2 ∧ c.f 0xA 2 ≠ 0xFF) 0xA
  | 0x32 => badIf (1 < c.f 9 1) 9
  | 0x40 =>
    badIf (91 < c.f 8 1) 8 ++ badIf (c.f 8 1 ≤ 91 ∧ 92 < c.f 8 1 + c.f 9 1) 9 ++ badIf (3 < c.f 0xA 1) 0xA
  | 0x50 => badIf (0x400000 < c.f 0x18 8) 0x18
  | 0x60 => badIf (15 < c.f 8 1) 8
  | 0x61 =>
    badIf (15 < c.f 8 1) 8 ++ badIf (63 < c.f 9 1) 9
    ++ badIf (c.f 9 1 ≤ 63 ∧ 64 < c.f 9 1 + c.f 0xA 1) 0xA ++ badIf (2 ^ 24 < c.f 0xC 4) 0xC
  | 0x62 => badIf (7 < c.f 8 1) 8
  | 0x70 => badIf (1 < c.f 8 1) 8
  | 0x71 =>
    let first := c.f 8 2
    let n := c.f 0xA 2
    if first < 448 then badIf (448 < first + n) 0xA
    else if 0x1000 ≤ first ∧ first < 0x1024 then badIf (0x1024 < first + n) 0xA
    else [8]
  | 0x7F => badIf (c.f 8 1 = 0 ∨ 64 < c.f 8 1) 8
  | _ => []

/-- A reserved byte of HANDLE, bits [55:48] (R74). -/
def handleBad (c : Cmd) : List Nat :=
  badIf (0x10 ≤ c.op ∧ c.op ≤ 0x15 ∧ c.f 14 1 ≠ 0) 8

/-- A host address that T64 must leave 0 (R102). -/
def t64BufBad (c : Cmd) : List Nat :=
  match bufOffset c.op with
  | some o => badIf (c.tenant = 64 ∧ c.f o 8 ≠ 0) o
  | none => []

/-- The lowest of a list of offsets. -/
def lowest (l : List Nat) : Option Nat := l.foldl (fun a x => match a with | none => some x | some y => some (min x y)) none

/-- Bit of TENANT_PRIV. -/
def privBit (s : State) (t i : Nat) : Bool := bitAt (getTen s t).priv i
/-- ACC_MASK of a tenant. -/
def accMask (s : State) (t : Nat) : Nat := bf (getTen s t).priv 15 8

/-- Step 3: the missing grant, if any (Table 4.1, R82 kind 2). -/
def privMissing (s : State) (c : Cmd) : Option Nat :=
  let op := c.op
  let t := c.tenant
  if op ≤ 1 then none
  else if t = 0 then none
  else if t = 64 then
    if op = 0x20 ∨ op = 0x21 ∨ op = 0x22 ∨ op = 0x30 ∨ op = 0x70 ∨ op = 0x71 ∨ op = 0x72 then none
    else if op = 0x32 then (if c.f 9 1 = 0 then some 5 else none)
    else some 0
  else if 0x10 ≤ op ∧ op ≤ 0x15 then none
  else if op = 0x16 ∨ op = 0x17 then (if privBit s t 0 then none else some 1)
  else if 0x20 ≤ op ∧ op ≤ 0x24 then
    if !privBit s t 2 then some 3
    else
      let a := c.f 8 1
      let covered := if op = 0x22 ∧ a = 0xFF then accMask s t = 0xFF else a < 8 ∧ (accMask s t >>> a) % 2 = 1
      if covered then none else some 4
  else if 0x60 ≤ op ∧ op ≤ 0x62 then (if privBit s t 1 then none else some 2)
  else if op = 0x70 then (if c.f 8 1 = 1 then some 0 else none)
  else if op = 0x71 then none
  else some 0

/-- Step 6: a zero value that gives BAD_PARAM, naming its field (Table 4.8). -/
def zeroBad (c : Cmd) : Option Nat :=
  match c.op with
  | 0x10 => lowest (badIf (c.f 0x20 2 = 0) 0x20 ++ badIf (c.f 0x22 1 = 0) 0x22 ++ badIf (c.f 0x24 2 = 0) 0x24)
  | 0x31 => lowest (badIf (c.f 9 1 = 0) 9)
  | 0x61 => lowest (badIf (c.f 0xA 1 = 0) 0xA)
  | _ => none

/-- Step 6: a zero value that gives OK_NOOP (Table 4.8). -/
def zeroNoop (c : Cmd) : Bool :=
  match c.op with
  | 0x10 => c.f 0x14 4 = 0
  | 0x12 => c.f 0x14 4 = 0
  | 0x16 => c.f 0x18 8 = 0
  | 0x23 => c.f 0x18 8 = 0
  | 0x50 => c.f 0x18 8 = 0
  | 0x60 => c.f 0x18 8 = 0
  | 0x61 => c.f 0xC 4 = 0
  | 0x40 => c.f 9 1 = 0
  | 0x70 => c.f 0xC 4 = 0
  | 0x71 => c.f 0xA 2 = 0
  | _ => false

/-- What acceptance decides of an entry: it is refused at once, it is an OK_NOOP that waits its turn, or it waits to
start. -/
inductive Accept where
  | refuse (r : Result)
  | noop
  | wait
deriving DecidableEq, Repr

/-- Steps 1 to 6 of Table 4.6. -/
def acceptCheck (s : State) (c : Cmd) : Accept :=
  let clsOk := match opClass c.op with | .cls k => decide (k = c.cls) | _ => true
  if opClass c.op = .undefined then .refuse (refuse .badOpcode 0 0)
  else if !clsOk then .refuse (refuse .badParam 1 c.cls)
  else match privMissing s c with
    | some g => .refuse (refuse .notPermitted 2 g)
    | none =>
      match lowest (reservedBad c ++ handleBad c ++ t64BufBad c ++ fieldsBad c) with
      | some o => .refuse (badField o)
      | none =>
        if 0x10 ≤ c.op ∧ c.op ≤ 0x15 ∧ c.f 15 1 ≠ c.tenant then .refuse (refuse .notOwner 0 0)
        else match zeroBad c with
          | some o => .refuse (badField o)
          | none => if zeroNoop c then .noop else .wait

/-! ### Starting -/

/-- Resources that order commands (Table 4.7). -/
inductive Resource where
  | handle (h : Nat)
  | model (m : Nat)
  | accPower (n : Nat)
  | motor (m : Nat)
  | leaks
  | domain (d : Nat)
  | kslot (k : Nat)
  | firmware
  | calendar
  | tenant (t : Nat)
deriving DecidableEq, Repr

/-- The resources a command uses (Table 4.7). -/
def Cmd.resources (c : Cmd) : List Resource :=
  let op := c.op
  if 0x10 ≤ op ∧ op ≤ 0x15 then [.handle c.handle]
  else if op = 0x16 ∨ op = 0x17 then [.model (c.f 8 1)]
  else if op = 0x22 ∧ c.f 8 1 = 0xFF then (List.range 8).map .accPower
  else if 0x20 ≤ op ∧ op ≤ 0x24 then [.accPower (c.f 8 1)]
  else if op = 0x30 ∨ op = 0x31 then [.motor (c.f 8 1)]
  else if op = 0x32 then [.leaks]
  else if op = 0x40 then (List.range (c.f 9 1)).map (fun i => .domain (c.f 8 1 + i))
  else if 0x50 ≤ op ∧ op ≤ 0x52 then [.firmware]
  else if op = 0x60 ∨ op = 0x61 then [.kslot (c.f 8 1)]
  else if op = 0x72 then [.calendar]
  else if op = 0x7F then [.tenant (c.f 8 1)]
  else []

/-- Are two commands of one submission ring. -/
def sameRing (a b : Cmd) : Bool := a.tenant = b.tenant && a.qp = b.qp

/-- Is a command a move that takes its spoke's mover (R220). -/
def isMove (c : Cmd) : Bool := (c.op = 0x10 || c.op = 0x11) && !c.noop

/-- Must `c` wait for the earlier command `e`: they share a resource that `e` holds (R89), ORDER keeps them apart
(R90), or they are moves on one spoke (R220). -/
def blocks (e c : Cmd) : Bool :=
  (e.holds && e.resources.any (fun r => c.resources.contains r))
  || (sameRing e c && (c.order || e.order))
  || (isMove e && isMove c && e.accN = c.accN)

/-- A command may start: nothing accepted earlier keeps it back (R86, R89, R90). -/
def eligible (s : State) (c : Cmd) : Bool :=
  !c.started && s.qc.cmds.all (fun e => !(decide (e.seq < c.seq) && blocks e c))

/-- The deadline of a command has passed (R81): at the very end of it, the start wins (Table 4.12). -/
def deadlinePassed (s : State) (c : Cmd) : Bool :=
  c.deadline ≠ 0 && decide (c.acc + c.deadline * 1000 < s.tick)

/-- Marks a command started. -/
def markStarted (s : State) (c : Nat) : State := count (modCmd s c (fun x => { x with started := true })) 304 {}

/-- Releases the resources a command holds before it completes (R90). -/
def releaseRes (s : State) (c : Nat) : State := modCmd s c (fun x => { x with holds := false })

/-- The first domain of a list that is not ON (R29). -/
def firstNotOn (s : State) (ds : List Nat) : Option Nat := ds.find? (fun d => !domOn s d)

/-- Group D14 to D19. -/
def hbmDoms : List Nat := [14, 15, 16, 17, 18, 19]
/-- Loam slices D20 to D27. -/
def loamDoms : List Nat := [20, 21, 22, 23, 24, 25, 26, 27]

/-- The opcodes a row starts: LOG_READ has one row for each LOG. -/
def rowMatches (op : Nat) (log : Option Nat) (c : Cmd) : Bool :=
  c.op = op && (match log with | some l => c.f 8 1 = l | none => true)

/-- A command that did not start within its DEADLINE (R81). -/
def timeOut (s : State) (c : Cmd) : State :=
  complete (count s 154 { tenant := c.tenant, cls := some c.cls }) c.seq { status := .timeout }

/-- Starts a command (R86): where it is eligible it starts; an OK_NOOP completes (R95); then steps 7 to 9 of Table 4.6,
with the first domain it needs that is not ON (Table 2.4) and the thermal latch, and what the opcode does from step 10. -/
def startCmd (s : State) (c op : Nat) (log : Option Nat) (doms : State → Cmd → Option Nat)
    (hold : State → Cmd → Bool) (body : State → Cmd → State) : State :=
  match findCmd s c with
  | none => s
  | some cmd =>
    if !(rowMatches op log cmd && eligible s cmd) then s
    else if cmd.noop then complete s c { status := .okNoop }
    else if deadlinePassed s cmd then timeOut s cmd
    else match doms s cmd with
      | some d => complete s c (refuse .notPermitted 4 d)
      | none =>
        if hold s cmd then complete s c { status := .thermalHold }
        else body (markStarted s c) cmd

/-- No domain is needed. -/
def noDoms (_ : State) (_ : Cmd) : Option Nat := none
/-- No thermal latch matters. -/
def noHold (_ : State) (_ : Cmd) : Bool := false

end Sys2Proof.Machine
end

