-- ==== Sys2Proof/Machine/ArrayOps.lean ====
section
/-! DEFINITION. What Tilth does with beds, launches and failed grains (R141 to R158), as operations that the array's
commands, the resets and the thermal unit share. -/

namespace Sys2Proof.Machine

/-! ### Logic of grains and beds -/

/-- Clears a grain's threads and every reservation they hold. -/
def clearThreads (s : State) (p : Nat) : State :=
  { s with garr := { s.garr with
      threads := KMap.clearRange s.garr.threads (8 * p) (8 * p + 8),
      rsvs := s.garr.rsvs.filter (fun r => r.grain ≠ p) } }

/-- The bytes of a copy that are not copied yet, in the first n of it. -/
def copyRest (s : State) (p : Nat) (c : PendCopy) (n : Nat) : State :=
  if c.done = [] then writeTarget s (resolve s p c.dst) (readTarget s (resolve s p c.src) n)
  else (List.range (n / 8)).foldl (fun s i =>
    if c.done.contains i then s
    else writeTarget s (resolve s p (c.dst + 8 * i)) (readTarget s (resolve s p (c.src + 8 * i)) 8)) s

/-- Cuts off the copy a thread has under way at a 64-byte boundary (Table 7.15): how many of its lines are written is a free value. -/
def cutCopy (s : State) (p t : Nat) : State :=
  match (getThread s p t).copies with
  | [] => s
  | c :: _ =>
    let (free, s) := drawFree s
    copyRest s p c (64 * (free.toNat % (c.len / 64 + 1)))

/-- Stops a grain (R149, R154): stores already issued complete, but an outbound write whose link is not ready was never issued onto it
and goes (log entry 11); the copy under way of each thread stops, queued tile instructions are discarded. -/
def stopGrain (s : State) (p : Nat) : State :=
  let s := clearThreads ((List.range 8).foldl (fun s t => cutCopy s p t) (drainGrain s p)) p
  modGrain s p (fun g => { g with queue := [] })

/-- Resets thread state, accumulators, flags and configuration of a grain (R144 item 1, R186). -/
def resetGrain (s : State) (p : Nat) : State :=
  modGrain (clearThreads s p) p (fun g => { fenced := g.fenced, last := g.last })

/-- The 17 physical grains of a bed. -/
def bedGrains (b : Nat) : List Nat := (List.range 17).map (fun k => 17 * b + k)

/-- Bed reset (Table 2.6): thread state, accumulators, flags and kernel state of the bed's 17 grains. -/
def bedReset (s : State) (b : Nat) : State :=
  modBed ((bedGrains b).foldl resetGrain s) b (fun x => { x with barriers := [] })

/-- The bed's remaining spare serves a failed grain's index from now, or the index becomes absent (Table 6.12, R155). -/
def passIndex (s : State) (p : Nat) (spare : Option Nat) : State :=
  match logicalOf s p, spare with
  | some i, some sp =>
    modBed (setRemap s i ⟨sp, false⟩) (p / 17) (fun x => { x with takeovers := x.takeovers ++ [⟨i, sp⟩] })
  | some i, none => setRemap s i { getRemap s i with absent := true }
  | none, _ => s

/-- Fences grain p in its bed's record (R154). -/
def markFenced (s : State) (p : Nat) : State :=
  modBed (setGrain s p { fenced := true }) (p / 17) (fun x => { x with
    fencedMask := x.fencedMask ||| (1#17 <<< (p % 17)), takeovers := x.takeovers.filter (fun t => t.spare ≠ p % 17) })

/-- Fences the grains whose failure still waits for a takeover, before a bed loses the logic that holds them (R154, R159): the takeover
has the bed's spare, so that their indexes become absent. -/
def fenceWaiting (s : State) (b : Nat) : State :=
  let s := (getBed s b).failing.foldl (fun s f => markFenced (passIndex s f.1 none) f.1) s
  if (getBed s b).failing = [] then s else modBed s b (fun x => { x with failing := [] })

/-- A bed loses its logic (RETENTION, OFF): as a bed reset, and a takeover under way has already moved the index. -/
def bedLose (s : State) (b : Nat) : State := modBed (bedReset (fenceWaiting s b) b) b (fun x => { x with takeovers := [] })

/-- Zeroes the local stores of a bed. -/
def bedZero (s : State) (b : Nat) : State := (bedGrains b).foldl (fun s p => lsZero s p 0 0x40000) s

/-- The bed serves again after a power-up that succeeds (R42): an index is absent only where its grain is fenced. -/
def bedRevive (s : State) (b : Nat) : State :=
  (List.range 16).foldl (fun s i =>
    let r := getRemap s (16 * b + i)
    if r.absent && !(getBed s b).fencedMask.getLsbD r.phys then setRemap s (16 * b + i) { r with absent := false }
    else s) s

/-- Marks all 16 logical grains of a bed absent (R42). -/
def bedAbsent (s : State) (b : Nat) : State :=
  (List.range 16).foldl (fun s i =>
    setRemap s (16 * b + i) { getRemap s (16 * b + i) with absent := true }) s

/-! ### Pools, images and windows -/

/-- HOST_POOL as written. -/
def hostPool (s : State) : Nat := cfgD s 0x300008
/-- A bed that no launch holds takes its HOST_POOL bit (R142). -/
def poolUpdate (s : State) : State :=
  (List.range 64).foldl (fun s b =>
    let x := getBed s b
    let want := decide ((hostPool s >>> b) % 2 = 1)
    if x.holder = none ∧ x.inHost ≠ want then setBed s b { x with inHost := want } else s) s
/-- Beds of the internal pool (R142). -/
def internalPool (s : State) : List Nat :=
  (List.range 64).filter (fun b => domOn s (bedDom b) && !(getBed s b).inHost)
/-- Free bytes of the kernel image store: IMAGE_FREE. -/
def imageFree (s : State) : Nat := 0x200000 - (s.garr.kslots.foldl (fun n e => n + e.2.image.length) 0)
/-- Running launches of a kernel slot. -/
def slotRunning (s : State) (k : Nat) : Nat := (s.garr.launches.filter (fun l => l.kslot = k)).length
/-- A running launch by its number. -/
def findLaunch (s : State) (l : Nat) : Option Launch := s.garr.launches.find? (fun x => x.id = l)
/-- Changes a running launch. -/
def modLaunch (s : State) (l : Nat) (f : Launch → Launch) : State :=
  { s with garr := { s.garr with launches := s.garr.launches.map (fun x => if x.id = l then f x else x) } }
/-- The launch whose item a physical grain runs. -/
def grainLaunch (s : State) (p : Nat) : Option Launch :=
  match (getGrain s p).launch with
  | some l => findLaunch s l
  | none => none
/-- The launch that holds a bed. -/
def bedLaunch (s : State) (b : Nat) : Option Launch :=
  match (getBed s b).holder with
  | some l => findLaunch s l
  | none => none

/-! ### Kernel images (Table 6.5) -/

/-- THREADS of an image. -/
def imgThreads (i : List Byte) : Nat := leAt i 6 1
/-- CODE_LEN of an image. -/
def imgCode (i : List Byte) : Nat := leAt i 8 4
/-- RODATA_LEN of an image. -/
def imgRodata (i : List Byte) : Nat := leAt i 12 4
/-- ENTRY of a thread. -/
def imgEntry (i : List Byte) (t : Nat) : Nat := leAt i (0x18 + 2 * t) 2
/-- Is the header of an image of `len` bytes good: everything of R140 but BODY_CRC. -/
def imgHeaderOk (i : List Byte) (len : Nat) : Bool :=
  let code := imgCode i
  let ro := imgRodata i
  decide (64 ≤ i.length) && leAt i 0 4 = 0x3146524C && leAt i 4 2 = 1 && imgThreads i ≠ 0
  && leAt i 0x3C 4 = (crc32 (i.take 0x3C)).toNat
  && zeroAt i 7 1 && zeroAt i 0x16 2 && zeroAt i 0x2C 12
  && code % 256 = 0 && 256 ≤ code && code ≤ 65536 && ro % 256 = 0
  && code + ro + leAt i 0x10 4 ≤ 0x3F000
  && (List.range 8).all (fun t => (imgThreads i >>> t) % 2 = 0 || (imgEntry i t < code && imgEntry i t % 4 = 0))
  && leAt i 0x28 4 = 64 + code + ro && leAt i 0x28 4 = len
/-- Does BODY_CRC match. -/
def imgBodyOk (i : List Byte) : Bool := leAt i 0x38 4 = (crc32 ((i.drop 64).take (imgCode i + imgRodata i))).toNat

/-! ### Launches -/

/-- Logical grains of a launch's range that can serve items: not absent, their bed ON. -/
def usableIn (s : State) (beds : List Nat) : List Nat :=
  beds.flatMap (fun b => if domOn s (bedDom b) then
    ((List.range 16).map (fun i => 16 * b + i)).filter (grainUsable s) else [])

/-- Occurrence of an event of a launch. -/
def launchOcc (l : Launch) : Occ := { tenant := l.tenant }

/-- Grain p gets a launch's code, read-only data and configuration words (R144 items 3 and 4, Table 6.7). -/
def configureGrain (s : State) (l : Launch) (p : Nat) : State :=
  let i := l.image
  let s := writeTarget s (.ls p 0) ((i.drop 64).take (imgCode i + imgRodata i))
  let w := leAt i 0x14 2
  modGrain s p (fun g => { g with
    launch := some l.id, threadMask := imgThreads i, entries := (List.range 8).map (imgEntry i),
    wdog := if w = 0 then l.wdog else w, tenant := l.tenant, codeEnd := imgCode i,
    bedFirst := l.beds.headD 0, bedCount := l.beds.length, item := none, itemFailed := false })

/-- Physical grains of a bed that get the code: those that serve an index, and the spare. -/
def servingGrains (s : State) (b : Nat) : List Nat :=
  (bedGrains b).filter (fun p => (logicalOf s p).isSome || spareOf s b = some (p % 17))

/-- Starts a launch on its beds (R144): thread state and tiles reset, local stores zeroed where the previous launch was
another tenant's, code and configuration written, barriers idle, reservation tables cleared (R206); GRAIN_WDOG is latched. -/
def startLaunch (s : State) (l : Launch) : State :=
  let l := { l with wdog := cfgF s 0x300010 15 0, cycles := s.garr.cycles16 }
  let s := count s 96 (launchOcc l)
  let s := { s with garr := { s.garr with
      launches := s.garr.launches ++ [l], launchSeq := l.seq, nextLaunch := l.id + 1 } }
  let s := (s.garr.rsvs).foldl (fun s r => modThread s r.grain r.thread (fun t => { t with rsv := none })) s
  let s := { s with garr := { s.garr with rsvs := [] } }
  l.beds.foldl (fun s b =>
    let x := getBed s b
    let s := bedReset s b
    let s := if x.lastTenant ≠ l.tenant ∧ x.lastTenant ≠ 127 then bedZero s b else s
    let s := (servingGrains s b).foldl (fun s p => configureGrain s l p) s
    modBed s b (fun y => { y with holder := some l.id, lastTenant := l.tenant })) s

/-- Items a launch has yet to dispatch. -/
def Launch.left (l : Launch) : Nat :=
  match l.todo with
  | some ts => ts.length
  | none => l.items - l.next

/-- Items of a launch that count as failed, with those left undispatched (R147, R149). -/
def Launch.failedCount (l : Launch) : Nat := l.failed.length + l.left
/-- The lowest failed item, or all ones. -/
def Launch.firstFailed (l : Launch) : Nat :=
  let rest := if l.left = 0 then [] else match l.todo with | some ts => ts | none => [l.next]
  match lowest (l.failed ++ rest) with
  | some i => i
  | none => 0xFFFFFFFFFFFFFFFF

/-- Has item i failed, when the launch ends. -/
def Launch.itemFailed (l : Launch) (i : Nat) : Bool :=
  l.failed.contains i || (match l.todo with | some ts => ts.contains i | none => l.next ≤ i)

/-- FAILMAP (R147). -/
def Launch.failBytes (l : Launch) : List Byte :=
  (List.range ((l.items + 7) / 8)).map (fun b =>
    BitVec.ofNat 8 ((List.range 8).foldl (fun n i =>
      n + (if 8 * b + i < l.items && l.itemFailed (8 * b + i) then 2 ^ i else 0)) 0))

/-- Grains that run an item of a launch. -/
def runningGrains (s : State) (l : Launch) : List Nat :=
  (l.beds.flatMap bedGrains).filter (fun p => (getGrain s p).launch = some l.id && (getGrain s p).item.isSome)

/-- Stops the grains of a launch: the item of each fails (R149). -/
def stopLaunch (s : State) (l : Launch) : State :=
  (runningGrains s l).foldl (fun s p =>
    let i := (getGrain s p).item.getD 0
    let s := stopGrain s p
    let s := modGrain s p (fun g => { g with item := none, itemFailed := false })
    modLaunch (count s 98 (launchOcc l)) l.id (fun x => { x with failed := x.failed ++ [i] })) s

/-- Releases a launch's beds and takes it off the list; a bed whose pool bit changed meanwhile changes pool (R142). -/
def releaseLaunch (s : State) (l : Launch) : State :=
  let s := l.beds.foldl (fun s b =>
    let s := if (getBed s b).holder = some l.id then modBed s b (fun x => { x with holder := none }) else s
    (bedGrains b).foldl (fun s p =>
      if (getGrain s p).launch = some l.id then modGrain s p (fun g => { g with launch := none, item := none }) else s) s) s
  poolUpdate { s with garr := { s.garr with launches := s.garr.launches.filter (fun x => x.id ≠ l.id) } }

/-- Ends a tenant launch with a status: FAILMAP first (R147), then its completion; a failed FAILMAP write gives DATA_ERROR
(R85). -/
def endLaunch (s : State) (l : Launch) (st : Status) (failmap : Bool) (dma : Option Nat) : State :=
  let s := releaseLaunch s l
  match l.cmd with
  | none => s
  | some c =>
    match dma with
    | some a => complete s c { dmaWriteErr a with r0 := l.failedCount, r1 := l.firstFailed }
    | none =>
      let s := if failmap && l.failmap ≠ 0 then hostWrite s l.failmap l.failBytes else s
      complete s c { status := st, r0 := l.failedCount, r1 := l.firstFailed }

/-- Status of a launch that has nothing left to run (R147, Table 4.12). -/
def Launch.status (l : Launch) : Status :=
  if l.aborted then (if l.failedCount = 0 then .ok else .okPartial)
  else if 0 < l.left then .grainFault
  else if l.failed = [] then .ok else .okPartial

/-- Has a launch ended: nothing runs, and nothing is left or can be dispatched (R147). -/
def launchOver (s : State) (l : Launch) : Bool :=
  (runningGrains s l).isEmpty && (l.left = 0 || l.aborted || (usableIn s l.beds).isEmpty)

/-! ### Grain failures (R153 to R156) -/

/-- Tenants that a grain failure in a bed is reported to (R156): of the launch that holds the bed, or of the batch's
sessions. -/
def failTenants (s : State) (b : Nat) : List Nat :=
  match bedLaunch s b with
  | some l =>
    if l.tenant = 65 then
      (match s.strata.batch with
       | some x => (x.win.sessions.map (·.tenant)).eraseDups
       | none => [])
    else [l.tenant]
  | none => []

/-- Releases the threads that wait at a BSYNC of a bed with D = 1 (Table 7.15). -/
def releaseBsync (s : State) (b : Nat) (d : Dword) (which : Option Nat) : State :=
  (List.range 136).foldl (fun s i =>
    let p := 17 * b + i / 8
    let th := getThread s p (i % 8)
    match th.wait with
    | .bsync k reg =>
      if which = none ∨ which = some k then
        setThread s p (i % 8) { th with
          wait := .ready, pc := th.pc + 4, gp := if reg = 0 then th.gp else KMap.set (fun _ => 0) th.gp reg d }
      else s
    | _ => s) s

/-- A failed grain stops at once (Table 6.12): its item is lost, unless all its threads had ended (Table 6.11). -/
def loseItem (s : State) (p : Nat) : State :=
  let g := getGrain s p
  let allEnded := (List.range 8).all (fun t => !(getThread s p t).live)
  let l := grainLaunch s p
  let s := modGrain (stopGrain s p) p (fun g => { g with item := none, itemFailed := false })
  match g.item, l with
  | some i, some x =>
    if allEnded && !g.itemFailed then count s 15 { tenant := x.tenant, grain := logicalOf s p }
    else modLaunch (count s 98 (launchOcc x)) x.id (fun y => { y with failed := y.failed ++ [i] })
  | _, _ => s

/-- Handles the failure of a grain that has stopped (R154 to R156): it is fenced, its index moves to the spare or becomes absent, and
the failure is reported. A spare that fails in its own takeover leaves its index absent. -/
def failGrainNow (s : State) (p cause : Nat) : State :=
  let b := p / 17
  let k := p % 17
  let lg := logicalOf s p
  let own := (getBed s b).takeovers.any (fun t => t.spare = k)
  let occ : Occ := { tenant := match bedLaunch s b with | some x => x.tenant | none => 65 }
  let s := loseItem s p
  let spare := if own then none else spareOf s b
  let absent := lg.isSome && spare.isNone
  let s := passIndex (markFenced s p) p spare
  let s := zeroTarget s p 0 0x40000
  let s := releaseBsync (modBed s b (fun x => { x with barriers := [] })) b 1 none
  let s := count s 99 occ
  let s := if absent then count s 101 occ else s
  let s := match lg with
    | some i => if absent then linkResume s (100 + i) else s
    | none => s
  let (lgn, s) := match lg with
    | some i => (i, s)
    | none => let (v, s) := drawFree s; (v.toNat % 65536, s)
  let s := (failTenants s b).foldl (fun s t => faultLog s t 2 (lgn + b * 0x10000 + k * 0x1000000)) s
  logRec s 0x40 3 1 (leBytes 2 lgn ++ leBytes 1 b ++ leBytes 1 k ++ leBytes 1 cause ++ leBytes 1 (b2n absent))

/-- Failures of a bed that waited for a takeover are handled once none runs, in order, until one begins another. -/
def nextFailures (s : State) (b : Nat) : Nat → State
  | 0 => s
  | n + 1 =>
    match (getBed s b).takeovers, (getBed s b).failing with
    | [], (q, c) :: fs => nextFailures (failGrainNow (modBed s b (fun x => { x with failing := fs })) q c) b n
    | _, _ => s

/-- A grain fails (R153): at once, or after the takeover in progress in its bed (Table 6.11); its threads stop at once. Two failures of
one cycle are two commands, the lower logical index first (log entry 65). -/
def failGrain (s : State) (p cause : Nat) : State :=
  let b := p / 17
  let k := p % 17
  let x := getBed s b
  if !domOn s (bedDom b) || x.fencedMask.getLsbD k || x.failing.any (fun f => f.1 = p) then s
  else if x.takeovers ≠ [] ∧ !x.takeovers.any (fun t => t.spare = k) then
    modBed (loseItem s p) b (fun x => { x with failing := x.failing ++ [(p, cause)] })
  else
    let s := failGrainNow s p cause
    nextFailures s b (getBed s b).failing.length

/-- A takeover completes (Table 6.12): the spare's data area is zeroed and its configuration words written, and accesses held on its
index go on; a failure that waited for it is then handled. -/
def finishTakeover (s : State) (b : Nat) : State :=
  match (getBed s b).takeovers with
  | [] => s
  | t :: rest =>
    let p := 17 * b + t.spare
    let s := modBed s b (fun x => { x with takeovers := rest })
    let s := match bedLaunch s b with
      | some l => configureGrain (zeroTarget s p (imgCode l.image + imgRodata l.image) 0x40000) l p
      | none => zeroTarget s p 0 0x40000
    let s := count s 100 { tenant := match bedLaunch s b with | some x => x.tenant | none => 65 }
    nextFailures (linkResume s (100 + t.logical)) b (getBed s b).failing.length

/-- Stops every launch on a set of beds as the die shutdown does (Table 6.11): THERMAL_HOLD with unfinished items failed
and FAILMAP written; the launches named are of tenants. -/
def thermalStopLaunches (s : State) : State :=
  (s.garr.launches.filter (fun l => l.cmd.isSome)).foldl (fun s l0 =>
    match findLaunch s l0.id with
    | none => s
    | some l =>
      let s := stopLaunch s l
      match findLaunch s l.id with
      | none => s
      | some l => endLaunch s l .thermalHold true none) s

/-- Ends every launch without any completion of its own (a Marl-only reset has completed their commands; a warm reset
cleared them): grains stop, beds are released. -/
def dropLaunches (s : State) (which : Launch → Bool) : State :=
  (s.garr.launches.filter which).foldl (fun s l => releaseLaunch (stopLaunch s l) l) s

end Sys2Proof.Machine
end

