-- ==== Sys2Proof/Machine/Blocks.lean ====
section
/-! DEFINITION. The stored forms of a stratum's blocks: export layout (R209) and compression modes 1 and 2 (R212). -/

namespace Sys2Proof.Machine

/-- Format of a DTYPE (R208). -/
def dtypeFmt (d : Nat) : FpFmt := if d = 0 then .e4m3 else if d = 1 then .e5m2 else .bf16

/-- Tokens of block b of a stratum of `tokens` (R209). -/
def blockTokens (tokens b : Nat) : Nat := min 256 (tokens - 256 * b)
/-- Blocks of a stratum (Table 9.1). -/
def blockCount (tokens : Nat) : Nat := (tokens + 255) / 256

/-- Bytes of n tokens stored in mode 2 (Table 9.3). -/
def mode2Size (h : Shape) (n : Nat) : Nat := n * h.tokenBytes * 17 / (32 * dtypeBytes h.dtype)
/-- Bytes reserved for a block of n tokens: the mode 0 size for modes 0 and 1, the mode 2 size for mode 2 (R218). -/
def reserveSize (h : Shape) (mode n : Nat) : Nat := if mode = 2 then mode2Size h n else n * h.tokenBytes

/-- Cuts a list into pieces of k, the last shorter. -/
def chunksAux {α : Type} (k : Nat) : Nat → List α → List (List α)
  | 0, _ => []
  | f + 1, l => if l.isEmpty then [] else l.take k :: chunksAux k f (l.drop k)
/-- Cuts a list into pieces of k, the last shorter. -/
def chunks {α : Type} (k : Nat) (l : List α) : List (List α) := chunksAux k l.length l

/-! ### Mode 1 -/

/-- XORs each byte with the byte one token (u bytes) before it in its run. -/
def deltaRun (u : Nat) (run : List Byte) : List Byte :=
  List.zipWith (· ^^^ ·) run (List.replicate u 0 ++ run)
/-- Undoes `deltaRun`, token by token. -/
def undeltaRun (u : Nat) (run : List Byte) : List Byte :=
  ((chunks u run).foldl (fun (acc : List (List Byte) × List Byte) tok =>
    let x := List.zipWith (· ^^^ ·) tok (acc.2 ++ List.replicate u 0)
    (x :: acc.1, x)) ([], [])).1.reverse.flatten

/-- The stored form of a 64-byte group: an 8-byte mask and the non-zero bytes in order. -/
def packGroup (g : List Byte) : List Byte :=
  leBytes 8 ((List.range g.length).foldl (fun m i => m + (if g.getD i 0 = 0 then 0 else 2 ^ i)) 0)
  ++ g.filter (fun b => b ≠ 0)

/-- A block of n tokens in mode 1: deltas within each (layer, K or V, head) run, then 64-byte groups of the block. -/
def encode1 (h : Shape) (n : Nat) (bs : List Byte) : List Byte :=
  let u := h.headDim * dtypeBytes h.dtype
  (chunks 64 ((chunks (n * u) bs).flatMap (deltaRun u))).flatMap packGroup

/-- Spreads the non-zero bytes of a group of k bytes by its mask. -/
def spread (mask : Nat) : Nat → Nat → List Byte → List Byte × List Byte
  | 0, _, src => ([], src)
  | k + 1, i, src =>
    if (mask >>> i) % 2 = 1 then
      let r := spread mask k (i + 1) (src.drop 1)
      (src.headD 0 :: r.1, r.2)
    else
      let r := spread mask k (i + 1) src
      (0 :: r.1, r.2)

/-- Unpacks groups until `size` bytes stand. -/
def unpackGroups : Nat → Nat → List Byte → List Byte
  | 0, _, _ => []
  | f + 1, size, src =>
    if size = 0 then [] else
      let r := spread (leAt src 0 8) (min 64 size) 0 (src.drop 8)
      r.1 ++ unpackGroups f (size - 64) r.2

/-- A block of n tokens read back from mode 1. -/
def decode1 (h : Shape) (n : Nat) (bs : List Byte) : List Byte :=
  let u := h.headDim * dtypeBytes h.dtype
  let size := n * h.tokenBytes
  (chunks (n * u) (unpackGroups (size / 64 + 1) size bs)).flatMap (undeltaRun u)

/-! ### Mode 2 -/

/-- Elements of a byte string in a DTYPE. -/
def elems (d : Nat) (bs : List Byte) : List Nat := (chunks (dtypeBytes d) bs).map ofLe

/-- A row of a rotation times a vector, exactly. -/
def dotFp (r v : List FpVal) : FpVal := (List.zipWith FpVal.mul r v).foldl FpVal.add (.fin false 0 0)

/-- The matrix of a rotation: rows of BF16 words (Table 9.6). -/
def rotRows (hd : Nat) (bs : List Byte) : List (List FpVal) :=
  (chunks hd ((chunks 2 bs).map (fun b => FpFmt.bf16.decode (ofLe b)))).take hd
/-- The transpose of a square matrix. -/
def transpose (m : List (List FpVal)) : List (List FpVal) :=
  (List.range m.length).map (fun j => m.map (fun r => r.getD j .nan))

/-- Magnitude of a finite value. -/
def FpVal.abs : FpVal → FpVal
  | .fin _ m e => .fin false m e
  | v => v

/-- The smallest positive E4M3 magnitude word whose value is at least m × 2^e / 7, searched from `w` up. -/
def scaleUp (v : FpVal) : Nat → Nat → Option Nat
  | 0, _ => none
  | f + 1, w =>
    if v.lt ((FpFmt.e4m3.decode w).mul (.fin false 7 0)) || v.eqv ((FpFmt.e4m3.decode w).mul (.fin false 7 0)) then some w
    else scaleUp v f (w + 1)

/-- x / s rounded to the nearest integer, ties to even, clamped to −7 to 7. -/
def quantise (x s : FpVal) : Int :=
  match x, s with
  | .fin n m e, .fin _ ms es =>
    if ms = 0 then 0 else
      let e0 := min e es
      let a := m * 2 ^ (e - e0).toNat
      let b := ms * 2 ^ (es - e0).toNat
      let q := a / b
      let r := a % b
      let q := if 2 * r > b ∨ (2 * r = b ∧ q % 2 = 1) then q + 1 else q
      clampInt (-7) 7 (if n then -(q : Int) else (q : Int))
  | _, _ => 0

/-- One group of 32 elements in mode 2: scale byte and nibbles; none where its scale would pass 448 (R212). -/
def encodeGroup (x : List FpVal) : Option (List Byte) :=
  let mx := x.foldl (fun a v => if a.lt v.abs then v.abs else a) (.fin false 0 0)
  if mx.isZero then some (List.replicate 17 0)
  else match scaleUp mx 126 1 with
    | none => none
    | some w =>
      let s := FpFmt.e4m3.decode w
      some (BitVec.ofNat 8 w :: (chunks 2 (x.map (fun v => wrapInt 4 (quantise v s)))).map
        (fun p => BitVec.ofNat 8 (p.headD 0 + 16 * (p.getD 1 0))))

/-- All the results, or none where one is none. -/
def allSome {α : Type} : List (Option α) → Option (List α)
  | [] => some []
  | none :: _ => none
  | some a :: l => (allSome l).map (fun r => a :: r)

/-- One vector of a run in mode 2. -/
def encodeVec (d : Nat) (rot : List (List FpVal)) (bs : List Byte) : Option (List Byte) :=
  let v := (elems d bs).map (dtypeFmt d).decode
  if v.all FpVal.isFin then
    let x := rot.map (fun r => dotFp r v)
    if x.all FpVal.isFin then (allSome ((chunks 32 x).map encodeGroup)).map List.flatten else none
  else none

/-- A block of n tokens in mode 2, with the rotation bytes of each layer; none where R212 stores it in mode 0. Runs are in
export order, so run i belongs to layer i / (2 × KV_HEADS) and head i mod KV_HEADS. -/
def encode2 (h : Shape) (n : Nat) (rots : Nat → Nat → List (List FpVal)) (bs : List Byte) : Option (List Byte) :=
  let u := h.headDim * dtypeBytes h.dtype
  let runs := chunks (n * u) bs
  (allSome ((List.range runs.length).map (fun i =>
    let rot := rots (i / (2 * h.kvHeads)) (i % h.kvHeads)
    (allSome ((chunks u (runs.getD i [])).map (encodeVec h.dtype rot))).map List.flatten))).map List.flatten

/-- A group of 32 elements read back: q × s, or none for a NaN scale (R212). -/
def decodeGroup (g : List Byte) : Option (List FpVal) :=
  let s := FpFmt.e4m3.decode (g.headD 0).toNat
  if s.isNan then none
  else some ((g.drop 1).flatMap (fun b =>
    [(FpVal.ofInt (sext 4 (b.toNat % 16))).mul s, (FpVal.ofInt (sext 4 (b.toNat / 16))).mul s]))

/-- One vector read back: Rᵀ(q × s) rounded in DTYPE; a group with a NaN scale gives the canonical NaN in its elements. -/
def decodeVec (d : Nat) (rot : List (List FpVal)) (bs : List Byte) : List Byte :=
  let gs := (chunks 17 bs).map decodeGroup
  let x := gs.flatMap (fun g => g.getD (List.replicate 32 (.fin false 0 0)))
  let f := dtypeFmt d
  let y := (transpose rot).map (fun r => (f.encode (dotFp r x)).w)
  (List.range y.length).flatMap (fun i =>
    leBytes (dtypeBytes d) (if (gs.getD (i / 32) none).isNone then f.nan false else y.getD i 0))

/-- A block of n tokens read back from mode 2. -/
def decode2 (h : Shape) (n : Nat) (rots : Nat → Nat → List (List FpVal)) (bs : List Byte) : List Byte :=
  let v := h.headDim / 32 * 17
  let runs := chunks (n * v) bs
  (List.range runs.length).flatMap (fun i =>
    (chunks v (runs.getD i [])).flatMap (decodeVec h.dtype (rots (i / (2 * h.kvHeads)) (i % h.kvHeads))))

/-- The stored form of a block in a requested mode: its BMODE and bytes (R212). -/
def encodeBlock (h : Shape) (mode n : Nat) (rots : Nat → Nat → List (List FpVal)) (bs : List Byte) : Nat × List Byte :=
  if mode = 1 then
    let e := encode1 h n bs
    if e.length < n * h.tokenBytes then (1, e) else (0, bs)
  else if mode = 2 then
    match encode2 h n rots bs with
    | some e => (2, e)
    | none => (0, bs)
  else (0, bs)

/-- A stored block in export layout. -/
def decodeBlock (h : Shape) (bmode n : Nat) (rots : Nat → Nat → List (List FpVal)) (bs : List Byte) : List Byte :=
  if bmode = 1 then decode1 h n bs else if bmode = 2 then decode2 h n rots bs else bs

end Sys2Proof.Machine
end

