-- ==== Sys2Proof/Machine/StrataOps.lean ====
section
/-! DEFINITION. HBM space, roots and blocks of strata, records, moves and batches (R10 to R12, R208 to R232, R242, R249,
R250), as operations that the stratum commands, the links, the resets and the thermal unit share. -/

namespace Sys2Proof.Machine

/-! ### HBM space (R210; placement: log entry 13) -/

/-- 64 KiB units below the kernel reserve (R139). -/
def hbmUnits (s : State) : Nat := (Config.hbmBytes - cfgF s 0x300020 8 0 * 0x40000000) / 0x10000
/-- Units of a number of bytes. -/
def unitsOf (n : Nat) : Nat := ceilDiv n 0x10000
/-- Units in use. -/
def unitsUsed (s : State) : Nat := s.strata.extents.foldl (fun n e => n + e.units) 0
/-- Units free outside the kernel reserve. -/
def unitsFree (s : State) : Nat := hbmUnits s - unitsUsed s
/-- Does [f, f+u) meet no extent and end by the limit. -/
def fits (s : State) (f u : Nat) : Bool :=
  f + u ≤ hbmUnits s && s.strata.extents.all (fun e => f + u ≤ e.first || e.first + e.units ≤ f)
/-- First-fit place of `u` units. -/
def placeOf (s : State) (u : Nat) : Option Nat :=
  lowest ((0 :: s.strata.extents.map (fun e => e.first + e.units)).filter (fun f => fits s f u))
/-- Takes `u` units for a use; the grain address of the first, or none where they do not fit. -/
def allocate (s : State) (kind key u : Nat) : Option (Nat × State) :=
  (placeOf s u).map (fun f => (Config.hbmBase + f * 0x10000,
    { s with strata := { s.strata with extents := s.strata.extents ++ [⟨f, u, kind, key⟩] } }))
/-- Takes one extent for each size in a list. -/
def allocateAll (s : State) (kind key : Nat) : List Nat → Option (List Nat × State)
  | [] => some ([], s)
  | u :: us =>
    match allocate s kind key u with
    | none => none
    | some (a, s) => (allocateAll s kind key us).map (fun r => (a :: r.1, r.2))
/-- Frees every extent of a use. -/
def freeKey (s : State) (kind key : Nat) : State :=
  { s with strata := { s.strata with
      extents := s.strata.extents.filter (fun e => !(e.kind = kind && e.key = key)) } }
/-- Frees the extents of a use that a test names by their grain address. -/
def freeWhere (s : State) (kind key : Nat) (p : Nat → Bool) : State :=
  let es := s.strata.extents.filter (fun e => !(e.kind = kind && e.key = key && p (Config.hbmBase + e.first * 0x10000)))
  { s with strata := { s.strata with extents := es } }
/-- Gives the extents of one use to another. -/
def rekey (s : State) (kind key kind' key' : Nat) : State :=
  let es := s.strata.extents.map (fun e => if e.kind = kind ∧ e.key = key then { e with kind := kind', key := key' } else e)
  { s with strata := { s.strata with extents := es } }

/-! ### Roots (Tables 9.1 and 9.2) -/

/-- A block table entry: address, stored bytes, tokens, BMODE. -/
structure BlockEntry where
  addr : Nat
  len : Nat
  tokens : Nat
  bmode : Nat
deriving DecidableEq, Repr

/-- The bytes of a block table entry. -/
def BlockEntry.bytes (e : BlockEntry) : List Byte :=
  leBytes 8 e.addr ++ leBytes 4 e.len ++ leBytes 2 e.tokens ++ leBytes 1 e.bmode ++ [0]

/-- The block table entries of some bytes. -/
def tableOf (bs : List Byte) : List BlockEntry :=
  (chunks 16 bs).map (fun e => ⟨leAt e 0 8, leAt e 8 4, leAt e 12 2, leAt e 14 1⟩)

/-- A header copy (Table 9.1) for a record with a table and a generation; `k` is the copy. -/
def headerBytes (r : Stratum) (k gen : Nat) (tab : List BlockEntry) : List Byte :=
  let h := r.shape
  let body :=
    leBytes 4 0x41525453 ++ leBytes 2 1 ++ leBytes 1 r.mode ++ leBytes 1 h.dtype ++ leBytes 8 r.handle
    ++ leBytes 4 r.tokens ++ leBytes 2 h.layers ++ leBytes 1 h.kvHeads ++ leBytes 1 r.slot ++ leBytes 2 h.headDim
    ++ leBytes 2 (blockCount r.tokens) ++ leBytes 4 h.tokenBytes ++ leBytes 8 (r.root + 0x1000 + k * 0x10000)
    ++ leBytes 8 (tab.foldl (fun n e => n + e.len) 0) ++ leBytes 8 r.modelTag
  let body := (body ++ List.replicate 0xF4 0).take 0xF4
    ++ leBytes 4 (crc32 (tab.flatMap BlockEntry.bytes)).toNat
  body ++ leBytes 4 (crc32 body).toNat ++ leBytes 4 gen

/-- Is a header copy valid: MAGIC and the CRC in COMMIT (R211). -/
def headerValid (h : List Byte) : Bool := leAt h 0 4 = 0x41525453 && leAt h 0xF8 4 = (crc32 (h.take 0xF8)).toNat
/-- Generation of a header copy. -/
def headerGen (h : List Byte) : Nat := leAt h 0xFC 4

/-- The current copy of a root: the valid copy with the higher generation (R211). -/
def currentCopy (s : State) (root : Nat) : Option (Nat × List Byte) :=
  let h0 := gmRead s root 256
  let h1 := gmRead s (root + 0x100) 256
  match headerValid h0, headerValid h1 with
  | true, true => if headerGen h0 < headerGen h1 then some (1, h1) else some (0, h0)
  | true, false => some (0, h0)
  | false, true => some (1, h1)
  | false, false => none

/-- The table that a header copy of a root names. -/
def currentTable (s : State) (root k : Nat) (hdr : List Byte) : List BlockEntry :=
  tableOf (gmRead s (root + 0x1000 + k * 0x10000) (16 * leAt hdr 0x1A 2))

/-- Commits a new generation of a record in copy k, in the order of R211: the table, the header, its COMMIT. -/
def commitRoot (s : State) (r : Stratum) (k gen : Nat) (tab : List BlockEntry) : State :=
  let s := agentWrite s (r.root + 0x1000 + k * 0x10000) (tab.flatMap BlockEntry.bytes)
  agentWrite s (r.root + k * 0x100) (headerBytes r k gen tab)

/-- Commits the first generation of a new root (R211). Copy 1 is voided before, so that no copy that an earlier root left in this
HBM is newer (DEDUCED, log entry 62). -/
def commitFirst (s : State) (r : Stratum) (tab : List BlockEntry) : State :=
  commitRoot (agentWrite s (r.root + 0x100) (List.replicate 256 0)) r 0 1 tab

/-! ### Rotations and model sections -/

/-- Grain address and length of a model section of a kind and index. -/
def sectionOf (m : ModelSlot) (kind idx : Nat) : Option (Nat × Nat) :=
  (m.sections.find? (fun x => x.1 = kind && x.2.1 = idx)).map (fun x => (x.2.2.1, x.2.2.2))

/-- The rotation of a layer and head of a model (Table 9.6 kind 6); where it has none, one that makes every x non-finite, so that a
block is stored in mode 0. -/
def rotation (s : State) (m : ModelSlot) (h : Shape) (layer head : Nat) : List (List FpVal) :=
  match sectionOf m 6 layer with
  | some (a, _) =>
    let n := h.headDim * h.headDim * 2
    rotRows h.headDim (gmRead s (a + head * n) n)
  | none => List.replicate h.headDim (List.replicate h.headDim .nan)

/-! ### Records -/

/-- Owner of a handle (R74). -/
def ownerOf (h : Nat) : Nat := h / 2 ^ 56
/-- Makes a record LOST and says so in its owner's fault log (R11, R97). -/
def loseRec (s : State) (h : Nat) : State :=
  match findRec s h with
  | none => s
  | some r => faultLog (putRec s { r with home := .lost }) (ownerOf h) 3 h

/-- Sets PENDING of a record. -/
def setPending (s : State) (h op : Nat) : State :=
  mapRecs s (fun r => if r.handle = h then { r with pending := op } else r)

/-- Has an uncorrectable line in some extent of a stratum. -/
def hasBadLine (s : State) (h : Nat) : Bool :=
  s.strata.badLines.any (fun a => s.strata.extents.any (fun e =>
    e.kind = 0 && e.key = h && Config.hbmBase + e.first * 0x10000 ≤ a && a < Config.hbmBase + (e.first + e.units) * 0x10000))

/-- Removes a handle: its HBM is freed with its failed lines, its record goes (R12, R99). -/
def removeHandle (s : State) (h : Nat) : State :=
  let mine (a : Nat) : Bool := s.strata.extents.any (fun e =>
    e.kind = 0 && e.key = h && Config.hbmBase + e.first * 0x10000 ≤ a && a < Config.hbmBase + (e.first + e.units) * 0x10000)
  let s := { s with strata := { s.strata with badLines := s.strata.badLines.filter (fun a => !mine a) } }
  dropRec (freeKey s 0 h) h

/-- Strata homed on An become LOST, and copies on An go (R20). -/
def loseAccStrata (s : State) (n : Nat) : State :=
  let lost := (s.strata.recs.filter (fun r => r.home = .accelerator n)).map (·.handle)
  let s := lost.foldl loseRec s
  mapRecs s (fun r => if r.copyAcc = n ∧ r.copy ≠ .none then { r with copy := .none } else r)

/-! ### Seal engine (R128) -/

/-- Number of a spill or fetch among seal requesters. -/
def sealWho (c : Nat) : Nat := 16 + c
/-- A requester takes a free context (context 0 only once its boot reservation has gone), or waits in arrival order. -/
def sealPlace (e : Seal) (r : SealReq) : Seal :=
  if e.ctx0.isNone && !e.bootReserved then { e with ctx0 := some r }
  else if e.ctx1.isNone then { e with ctx1 := some r }
  else { e with waiting := e.waiting ++ [r] }
/-- Lets waiting requesters take the contexts that are free. -/
def sealFill (e : Seal) : Seal :=
  let free := b2n (e.ctx0.isNone && !e.bootReserved) + b2n e.ctx1.isNone
  let now := e.waiting.take free
  now.foldl sealPlace { e with waiting := e.waiting.drop free }
/-- A requester asks for a context. -/
def sealAcquire (s : State) (who segments : Nat) (keeps : Bool := false) : State :=
  let s := if s.sealEng.waiting ≠ [] ∨ ((s.sealEng.ctx0.isSome || s.sealEng.bootReserved) && s.sealEng.ctx1.isSome)
    then count s 163 {} else s
  let e := s.sealEng
  let r : SealReq := ⟨who, segments, keeps⟩
  { s with sealEng := if e.waiting = [] then sealPlace e r else { e with waiting := e.waiting ++ [r] } }
/-- A requester gives up its context or its place; waiting ones move up. -/
def sealRelease (s : State) (who : Nat) : State :=
  let gone (x : Option SealReq) : Option SealReq := match x with | some r => if r.who = who then none else x | none => none
  let e := s.sealEng
  let e := { e with ctx0 := gone e.ctx0, ctx1 := gone e.ctx1, waiting := e.waiting.filter (fun r => r.who ≠ who),
                    suspended := e.suspended.filter (· ≠ who) }
  { s with sealEng := sealFill e }
/-- Does a requester hold a context. -/
def sealHolds (s : State) (who : Nat) : Bool :=
  (match s.sealEng.ctx0 with | some r => decide (r.who = who) | none => false)
  || (match s.sealEng.ctx1 with | some r => decide (r.who = who) | none => false)

/-- Is a context free for a requester that comes now: nobody waits, and one of the two stands free. -/
def sealFree (s : State) : Bool :=
  s.sealEng.waiting.isEmpty && ((s.sealEng.ctx0.isNone && !s.sealEng.bootReserved) || s.sealEng.ctx1.isNone)
/-- Serves a requester whose messages run within one step: at once with a context that is free or that it was given, and otherwise
it waits for one in arrival order (R128), to be served when its row comes again. -/
def sealServe (s : State) (who segments : Nat) (keeps : Bool) (run : State → State) : State :=
  if sealHolds s who then run (sealRelease s who)
  else if s.sealEng.waiting.any (fun r => r.who = who) then s
  else if sealFree s then run s
  else sealAcquire s who segments keeps
/-- A command that goes gives up its context or its place. -/
def sealDrop (s : State) (c : Nat) : State :=
  if (s.strata.moves.find? (fun m => m.cmd = c)).isSome then s else sealRelease s (sealWho c)

/-! ### Moves (R220, R242, R249, R250) -/

/-- The move of a command. -/
def findMove (s : State) (c : Nat) : Option Move := s.strata.moves.find? (fun m => m.cmd = c)
/-- The move on spoke n. -/
def spokeMove (s : State) (n : Nat) : Option Move := s.strata.moves.find? (fun m => m.spoke = n)
/-- Changes the move of a command. -/
def modMove (s : State) (c : Nat) (f : Move → Move) : State :=
  { s with strata := { s.strata with moves := s.strata.moves.map (fun m => if m.cmd = c then f m else m) } }
/-- Removes the move of a command. -/
def dropMove (s : State) (c : Nat) : State :=
  { s with strata := { s.strata with moves := s.strata.moves.filter (fun m => m.cmd ≠ c) } }
/-- The entry of a move as a command. -/
def Move.asCmd (m : Move) : Cmd :=
  { seq := m.cmd, tenant := m.tenant, qp := 0, cls := 1, raw := m.raw, acc := 0 }
/-- HANDLE of a move. -/
def Move.handle (m : Move) : Nat := m.asCmd.handle

/-- Is spoke n ready for a command (R242). -/
def spokeReady (s : State) (n : Nat) : Bool := (getSpoke s n).ready && (getSpoke s n).link = .l0

/-- Tokens and shape that a move carries: the PARK's own, or the record's. -/
def moveShape (s : State) (m : Move) : Nat × Shape :=
  if m.op = 0x10 then (m.asCmd.f 0x14 4, m.asCmd.shape)
  else match findRec s m.handle with
    | some r => (r.tokens, r.shape)
    | none => (0, ⟨0, 0, 0, 0⟩)

/-- The next SEQ of a spoke's mailbox: from 1, skipping 0 at wrap (R249). -/
def nextMbx (q : Nat) : Nat := if q + 1 < 2 ^ 32 then q + 1 else 1

/-- Posts a descriptor of Table 10.4 for the move of a command: MBX_DESC and then MBX_DB of the contract block. -/
def postMbx (s : State) (c : Nat) : State :=
  match findMove s c with
  | none => s
  | some m =>
    let x := getSpoke s m.spoke
    let q := nextMbx x.mbxSeq
    let (tokens, h) := moveShape s m
    let op := (if m.op = 0x10 then 1 else 3) + (if m.stage = .ending then 1 else 0)
    let desc := leBytes 4 q ++ leBytes 4 op ++ leBytes 8 m.handle ++ leBytes 8 (m.asCmd.f 0x18 8)
      ++ leBytes 8 (tokens * h.tokenBytes) ++ leBytes 4 tokens ++ leBytes 4 h.tokenBytes
      ++ List.replicate 24 0
    let s := accWrite (setSpoke s m.spoke { x with mbxSeq := q }) m.spoke (x.kcBase + 0x100) desc
    let s := accWrite s m.spoke (x.kcBase + 0x140) (leBytes 4 q)
    modMove s c (fun m => { m with mbxSeq := q, since := s.tick, unposted := false })

/-- Posts the descriptor now, or holds the command until the spoke is ready (R242). -/
def postOrHold (s : State) (c n : Nat) : State :=
  if spokeReady s n then postMbx s c
  else modCmd (modMove s c (fun m => { m with unposted := true })) c
    (fun x => { x with holdSince := some (x.holdSince.getD s.tick) })

/-- Ends a move that commits nothing (Table 9.4): its reservation is freed, PENDING clears, a RESTORE leaves the copy NONE,
and a seal context it held goes. -/
def abandonMove (s : State) (m : Move) : State :=
  let s := if m.spoke = 8 then sealRelease s (sealWho m.cmd) else s
  let s := setPending (freeKey (dropMove s m.cmd) 3 m.cmd) m.handle 0
  if m.op = 0x11 ∧ m.stage ≠ .ending then
    mapRecs s (fun r => if r.handle = m.handle then { r with copy := .none } else r)
  else s

/-- Events that the completion of a move counts (Table 15.4, group 7). -/
def countMove (s : State) (t op : Nat) (st : Status) : State :=
  let o : Occ := { tenant := t, cls := some 1 }
  match st with
  | .ok => count s (112 + (op - 0x10)) o
  | .linkNotReady => count s 124 o
  | .accNotReady => count s 125 o
  | .dataError => count s 126 o
  | .noSpace => count s 127 o
  | _ => s

/-- Completes a stratum command. -/
def completeMove (s : State) (c : Cmd) (r : Result) : State :=
  let op := if c.op = 0x13 then 0x14 else if c.op = 0x14 then 0x12 else if c.op = 0x15 then 0x13 else c.op
  complete (countMove s c.tenant op r.status) c.seq r

/-- Fails a move: nothing is committed, and the command completes with a result. -/
def failMove (s : State) (m : Move) (r : Result) : State := completeMove (abandonMove s m) m.asCmd r

/-- Finishes a move past its commit point: the result stands (R250). -/
def finishMove (s : State) (m : Move) : State :=
  let s := if m.spoke = 8 then sealRelease s (sealWho m.cmd) else s
  let s := setPending (dropMove s m.cmd) m.handle 0
  let s := if m.op = 0x10 then ltAdd s 34 else s
  completeMove s m.asCmd (okR m.r0 m.r1)

/-- The descriptor of a move came to nothing (R250): a BEGIN fails the move with a value of Table 10.9, an END only sets
MBX_ERR and is recorded. -/
def mbxFailed (s : State) (m : Move) (value : Nat) : State :=
  match m.stage with
  | .begin => failMove s m (refuse .accNotReady 5 value)
  | _ =>
    let s := modSpoke s m.spoke (fun x => { x with mbxErr := true })
    finishMove (accEvent s m.spoke 2) m

/-- The move on An ends because An left IDLE and RUN or was cut: ACC_NOT_READY before the commit point, OK from it on (Table
9.12). -/
def accGoneMove (s : State) (n value : Nat) : State :=
  match spokeMove s n with
  | none => s
  | some m => if m.stage = .ending then finishMove s m else failMove s m (refuse .accNotReady 5 value)

/-! ### Windows and batches (R223 to R231) -/

/-- Frees what a session reserved. -/
def freeSession (s : State) (x : Session) : State := setPending (freeKey s 3 x.cmd) x.handle 0

/-- Frees what a window reserved for the rows of its sessions. -/
def freeRows (s : State) (w : Window) : State := freeKey s 2 w.id

/-- Completes every session of a list with a result, nothing committed. -/
def failSessionsR (s : State) (xs : List Session) (r : Result) : State :=
  xs.foldl (fun s x => complete (freeSession s x) x.cmd r) s
/-- Completes every session of a list with a status, nothing committed. -/
def failSessions (s : State) (xs : List Session) (st : Status) : State := failSessionsR s xs { status := st }

/-- The running batch fails (R231): its sessions complete with a status, its launch and staging go. -/
def failBatch (s : State) (st : Status) : State :=
  match s.strata.batch with
  | none => s
  | some b =>
    let s := dropLaunches s (fun l => l.cmd.isNone)
    let s := freeRows { s with strata := { s.strata with batch := none } } b.win
    failSessions (count s 137 {}) b.win.sessions st

/-- Ends the running batch and every queued batch with a status (Table 9.12). -/
def failBatches (s : State) (st : Status) : State :=
  let s := failBatch s st
  let q := s.strata.queue
  q.foldl (fun s w => failSessions (freeRows s w) w.sessions st) { s with strata := { s.strata with queue := [] } }

/-- Ends the running batch, every queued batch and every open window with a status (R35). -/
def failAllIngest (s : State) (st : Status) : State :=
  let s := failBatches s st
  (List.range 4).foldl (fun s m =>
    match getWindow s m with
    | some w => failSessions (freeRows (setWindow s m none) w) w.sessions st
    | none => s) s

/-- An internal launch has ended (R226, R231): its lost items wait for a re-run, in ascending order (R145); where items were left
with no usable grain, or one failed a fourth time, the batch fails. -/
def internalEnd (s : State) (l : Launch) : State :=
  match s.strata.batch with
  | none => s
  | some b =>
    if b.launch ≠ some l.id then s
    else
      let old (i : Nat) : Nat := ((b.failures.find? (fun f => f.1 = i)).map (·.2)).getD 0
      let fs := l.failed.map (fun i => (i, old i + 1))
      let b' := { b with launch := none, redo := sortNat l.failed,
                         failures := fs ++ b.failures.filter (fun f => !l.failed.contains f.1) }
      let s := { s with strata := { s.strata with batch := some b' } }
      if 0 < l.left ∨ fs.any (fun f => 4 ≤ f.2) then failBatch s .grainFault else s

end Sys2Proof.Machine
end

