-- ==== Sys2Proof/Machine/ThreadOps.lean ====
section
/-! DEFINITION. What grain threads share (07): registers, instruction fields, issue with its fetch, exceptions, and the
conditions on which a waiting thread goes on. -/

namespace Sys2Proof.Machine

/-! ### Registers (Table 7.1) -/

/-- A scalar register: GP0 reads 0. -/
def gpr (th : Thread) (r : Nat) : Dword := if r = 0 then 0 else KMap.get (fun _ => 0) th.gp r
/-- Writes a scalar register: GP0 ignores writes. An earlier load that has not written it yet does not write it any more (R162). -/
def setGpr (th : Thread) (r : Nat) (v : Dword) : Thread :=
  if r = 0 then th
  else { th with gp := KMap.set (fun _ => 0) th.gp r v,
                 loads := th.loads.map (fun l => if l.reg = r then { l with reg := 0 } else l) }
/-- A 32-bit lane of a vector register. -/
def vlane (th : Thread) (v i : Nat) : Word := KMap.get (fun _ => 0) th.vr (64 * v + i)
/-- Writes a 32-bit lane of a vector register. -/
def setVlane (th : Thread) (v i : Nat) (w : Word) : Thread :=
  { th with vr := KMap.set (fun _ => 0) th.vr (64 * v + i) w }
/-- A lane predicate register: VP0 reads all ones. -/
def vpr (th : Thread) (r : Nat) : Dword := if r = 0 then BitVec.allOnes 64 else KMap.get (fun _ => 0) th.vp r
/-- Writes a lane predicate register: VP0 ignores writes. -/
def setVpr (th : Thread) (r : Nat) (v : Dword) : Thread :=
  if r = 0 then th else { th with vp := KMap.set (fun _ => 0) th.vp r v }
/-- The next instruction. -/
def advance (th : Thread) : Thread := { th with pc := th.pc + 4 }

/-! ### Fields (Table 7.2) -/

/-- D, VD. -/
def fD (w : Word) : Nat := bf w 27 23
/-- A, VA. -/
def fA (w : Word) : Nat := bf w 22 18
/-- B, VB. -/
def fB (w : Word) : Nat := bf w 17 13
/-- C. -/
def fC (w : Word) : Nat := bf w 12 8
/-- FUNC. -/
def fFunc (w : Word) : Nat := bf w 7 0
/-- OP4 and FUNC4. -/
def fOp4 (w : Word) : Nat := bf w 17 14

/-- What a word is, as far as its encoding alone says. -/
inductive Kind where
  | scalarR | scalarI | branch | load | ldp | store | stp
  | atomic (k : Nat) | sys (f : Nat) | vector | ldv | stv | tile (top : Nat) | copy | illegal
deriving DecidableEq, Repr

/-- Memory forms: which OP4 is what, with the register rules of Table 7.9. -/
def loadKind (w : Word) : Kind :=
  if fOp4 w ≤ 6 then .load
  else if fOp4 w = 7 ∧ fD w % 2 = 0 ∧ fD w ≠ 0 then .ldp else .illegal
/-- Stores (Table 7.9). -/
def storeKind (w : Word) : Kind :=
  if fOp4 w ≤ 3 then .store else if fOp4 w = 7 ∧ fD w % 2 = 0 then .stp else .illegal
/-- Vector memory forms: bit 4 of VD must be 0. -/
def vmemKind (w : Word) : Kind :=
  if 16 ≤ fD w then .illegal else if fOp4 w = 0 then .ldv else if fOp4 w = 1 then .stv else .illegal
/-- System instructions (Table 7.11). -/
def sysKind (w : Word) : Kind :=
  let f := fFunc w
  if f ≤ 3 ∨ (8 ≤ f ∧ f ≤ 0xB) ∨ f = 0x10 ∨ f = 0x11 ∨ (0x18 ≤ f ∧ f ≤ 0x1A) then .sys f else .illegal
/-- Atomics (Table 7.10): FUNC [3:1] is reserved. -/
def atomicKind (w : Word) : Kind :=
  if 11 < fFunc w / 16 ∨ (fFunc w / 2) % 8 ≠ 0 then .illegal else .atomic (fFunc w / 16)
/-- Tile instructions with the reserved values of Tables 7.6 to 7.8. -/
def tileKind (w : Word) : Kind :=
  let top := bf w 27 24
  let fmt := bf w 11 8
  let md := bf w 7 0
  let ok : Bool :=
    match top with
    | 0 => fmt ≤ 1 && md = 0
    | 1 => fmt ≤ 2 && md = 0
    | 2 => fmt ≤ 7 && (fmt < 4 || md ≤ 39)
    | 3 => fmt ≤ 8 && md = 0
    | 4 => true
    | 5 => true
    | _ => false
  if ok then .tile top else .illegal

/-- The kind of a word (R163). -/
def kindOf (w : Word) : Kind :=
  match bf w 31 28 with
  | 0 => .scalarR
  | 1 => .scalarI
  | 2 => .branch
  | 3 => loadKind w
  | 4 => storeKind w
  | 5 => atomicKind w
  | 6 => sysKind w
  | 7 => if bf w 9 8 = 3 then .illegal else .vector
  | 8 => vmemKind w
  | 9 => tileKind w
  | 10 => if bf w 12 0 = 0 then .copy else .illegal
  | _ => .illegal

/-! ### Occurrences -/

/-- An event of grain p at an address. -/
def grainOcc (s : State) (p : Nat) (addr : Option Nat := none) : Occ :=
  { tenant := (getGrain s p).tenant, grain := logicalOf s p, addr := addr }

/-! ### Exceptions (R181 to R183) -/

/-- The exception frame of a thread (Table 7.13). -/
def frameBase (t : Nat) : Nat := 0x3F000 + 0x100 * t

/-- Retires every outstanding load of a thread, in order. -/
def retireAll (th : Thread) : Thread :=
  { (th.loads.foldl (fun th l => setGpr th l.reg l.value) th) with loads := [] }

/-- A thread takes an exception (R181), or a fatal one (R183). Every earlier instruction has completed. -/
def takeExc (s : State) (p t cause insn addr : Nat) : State :=
  let s := drainThread s p t
  let s := dropOwnRsv s p t
  let th := retireAll (getThread s p t)
  let s := setThread s p t { th with wait := .ready }
  let s := count s 13 (grainOcc s p)
  let base := frameBase t
  let fatal := th.xvec = 0 || th.xactive
  let frame := leBytes 4 (cause + (if fatal then 0x200 else 0)) ++ leBytes 4 insn ++ leBytes 8 th.pc.toNat
    ++ leBytes 8 addr ++ leBytes 8 (gpr th 31).toNat
  if fatal then
    let s := if th.xactive then
        let old := leAt (lsRead s p base 4) 0 4
        writeTarget s (.ls p base) (leBytes 4 (old ||| 0x300))
      else writeTarget s (.ls p base) frame
    let s := count s 14 (grainOcc s p)
    let s := drainGrain s p
    let s := (List.range 8).foldl (fun s u =>
      let x := getThread s p u
      setThread (dropOwnRsv s p u) p u
        { live := false, copies := x.copies, tileOps := x.tileOps }) s
    modGrain s p (fun g => { g with itemFailed := true })
  else
    let s := writeTarget s (.ls p base) frame
    modThread s p t (fun th =>
      { setGpr th 31 (BitVec.ofNat 64 base) with xactive := true, pc := th.xvec })

/-! ### Issue (R162, R163) -/

/-- The word at a thread's PC. -/
def wordAt (s : State) (p t : Nat) : Word := BitVec.ofNat 32 (ofLe (lsRead s p (getThread s p t).pc.toNat 4))

/-- Is a thread certainly ready (R162): it waits for nothing, has no load outstanding, its last instruction took one cycle and its next
one needs no place in the tile queue. The cycles of other instructions are not modelled (log entry 18). -/
def surelyReady (s : State) (p u : Nat) : Bool :=
  let th := getThread s p u
  th.live && th.wait = .ready && th.loads.isEmpty && !(getGrain s p).slow.testBit u && bf (wordAt s p u) 31 28 ≠ 9

/-- Is it thread t's turn (R162): no thread between the last one issued and t, in round-robin order, is certainly ready. -/
def turn (s : State) (p t : Nat) : Bool :=
  let last := (getGrain s p).last
  (List.range ((t + 15 - last) % 8)).all (fun i => !surelyReady s p ((last + 1 + i) % 8))

/-- Records an issue: the thread issued last, and whether its instruction took one cycle (class 0x1, Table 7.3). -/
def noteIssue (s : State) (p t : Nat) (k : Kind) : State :=
  modGrain s p (fun g => { g with
    last := t, slow := if k = .scalarI then g.slow - (if g.slow.testBit t then 2 ^ t else 0) else g.slow ||| 2 ^ t })

/-- Has an outstanding load yet to write one of the registers that an instruction reads: the thread is not ready until it retires
(R172). GP0 is never written. -/
def regsBusy (th : Thread) (rs : List Nat) : Bool := th.loads.any (fun l => l.reg ≠ 0 && rs.contains l.reg)

/-- A bed's LFSR before any seed (R378): all zero. -/
def lfsr0 (_ : Nat) : BitVec 24 := 0
/-- One step of an LFSR with polynomial x^24 + x^23 + x^22 + x^17 + 1, as a left shift whose new low bit is the XOR of its taps
(log entry 47). -/
def lfsrStep (x : BitVec 24) : BitVec 24 :=
  let b := ((x.getLsbD 23 ^^ x.getLsbD 22) ^^ x.getLsbD 21) ^^ x.getLsbD 16
  (x <<< 1) ||| (if b then 1#24 else 0#24)

/-- Tag mode (R378): each instruction issued that passes group 0's filters steps its bed's LFSR, and is tagged where its low TAG_BITS
bits are 0 and its grain holds no tagged instruction. -/
def tagStep (s : State) (p t : Nat) : State :=
  let samp := KMap.get (fun _ => (0 : Word)) s.pm.samp 0
  if s.pm.en ∧ bf samp 5 4 = 2 ∧ passes s 0 (grainOcc s p) then
    let b := p / 17
    let x := lfsrStep (KMap.get lfsr0 s.pm.lfsr b)
    let s : State := { s with pm := { s.pm with lfsr := KMap.set lfsr0 s.pm.lfsr b x } }
    if x.toNat % 2 ^ bf samp 12 8 = 0 ∧ (KMap.get (fun _ => none) s.pm.tagged p).isNone then
      let tag := KMap.set (fun _ => none) s.pm.tagged p (some (t, (getThread s p t).pc.toNat))
      { s with pm := { s.pm with tagged := tag } }
    else s
  else s

/-- Issues the instruction at a thread's PC when it is of a wanted kind: the thread must be live and ready, its turn come and its grain
run; an exception that waits for the next boundary, a fetch outside the code and an illegal word are exceptions (R137, R163,
R168); an address that is not a multiple of 4 counts as illegal (log entry 27). -/
def issue (s : State) (p t : Nat) (want : Kind → Bool) (regs : Word → List Nat) (body : State → Word → State) : State :=
  let th := getThread s p t
  let g := getGrain s p
  if !(th.live && th.wait = .ready && domOn s (bedDom (p / 17)) && !g.fenced && g.item.isSome
       && !(getBed s (p / 17)).failing.any (fun f => f.1 = p) && turn s p t) then s
  else match th.tileErrs with
    | a :: as => takeExc (modThread s p t (fun x => { x with tileErrs := as })) p t 5 0 a
    | [] =>
      if g.codeEnd ≤ th.pc.toNat then takeExc s p t 2 0 th.pc.toNat
      else if th.pc.toNat % 4 ≠ 0 then takeExc s p t 1 0 0
      else
        let w := wordAt s p t
        let k := kindOf w
        if k = .illegal then takeExc s p t 1 w.toNat 0
        else if !want k then s
        else if regsBusy th (regs w) then s
        else body (noteIssue (tagStep (count (count s 1 (grainOcc s p)) (321 + 2 * (p / 17)) {}) p t) p t k) w

/-- Ends an instruction: the thread takes its new state and goes on to the next instruction. -/
def retireTo (s : State) (p t : Nat) (th : Thread) : State := setThread s p t (advance th)

/-! ### Waiting threads -/

/-- Copies of a thread that are not yet complete. -/
def copyPending (th : Thread) : Nat := th.copies.length

/-- Does a store write the grain's own local store. -/
def storesOwn (s : State) (p : Nat) (st : PendStore) : Bool :=
  match resolve s p st.addr with
  | .ls ph _ => ph = p
  | _ => false

/-- What a fence waits for (Table 8.1): FENCE.G (0) and FENCE.B (1) for the stores of the own local store, FENCE.S (2) for every store
to the steward's memories and for every outbound write to be issued onto its link, FENCE.C (3) for all of them, tile instructions and
copies. -/
def fenceDone (s : State) (p t kind : Nat) : Bool :=
  let th := getThread s p t
  if kind ≤ 1 then th.stores.all (fun st => !storesOwn s p st)
  else if kind = 2 then th.stores.all (fun st => storeLink s p st ≠ 9 && st.stage = 3)
  else th.stores.isEmpty && th.tileOps = 0 && th.copies.isEmpty

/-- A thread at END raises the error of a tile instruction, a copy or an outbound write, or ends (R176, R184, R204), once its tile
instructions, its copies and its outbound writes are complete. -/
def endThreadNow (s : State) (p t : Nat) : State :=
  let s := drainLinks s p t (fun l => l = 9)
  let th := getThread s p t
  if th.tileOps ≠ 0 ∨ th.copies ≠ [] ∨ th.stores ≠ [] then s
  else match th.tileErrs with
    | a :: as => takeExc (setThread s p t { th with tileErrs := as }) p t 5 0 a
    | [] =>
      match th.copyErr with
      | some a => takeExc (setThread s p t { th with copyErr := none }) p t 7 0 a
      | none =>
        match th.postErr with
        | some a => takeExc (setThread s p t { th with postErr := none }) p t 4 (wordAt s p t).toNat a
        | none => modThread (dropOwnRsv s p t) p t (fun x => { (retireAll x) with live := false, wait := .ready })

/-- Takes a thread's stores to the steward's memories past the mesh port (1) or the bed router (2); those that scoped fences made
visible to the thread before, and that they overlap, are performed first (R189 item 4). -/
def stageStores (s : State) (p t k : Nat) : State :=
  let sts := (getThread s p t).stores.filter (fun st => storeLink s p st = 9 && decide (st.stage < k))
  let s := sts.foldl (fun s st => forceScoped s p t (resolve s p st.addr) st.bytes.length) s
  modThread s p t (fun th => { th with
    stores := th.stores.map (fun st => if storeLink s p st = 9 then { st with stage := max st.stage k } else st) })

/-- A fence whose condition holds ends: FENCE.C reports the first failed posted write (R204). -/
def fenceEnd (s : State) (p t kind : Nat) : State :=
  if kind ≤ 1 then modThread (stageStores s p t (kind + 1)) p t (fun th => advance { th with wait := .ready })
  else
    let th := getThread s p t
    match (if kind = 3 then th.postErr else none) with
    | some a => takeExc (setThread s p t { th with postErr := none }) p t 4 (wordAt s p t).toNat a
    | none => retireTo s p t { th with wait := .ready }

/-- BWAIT n goes on once COPY_PENDING is at most n; an error of a copy is raised there (R176). -/
def bwaitEnd (s : State) (p t : Nat) : State :=
  let th := getThread s p t
  match th.copyErr with
  | some a => takeExc (setThread s p t { th with copyErr := none }) p t 7 0 a
  | none => retireTo s p t { th with wait := .ready }

/-- Threads of a GSYNC mask that have not reached it and have not ended (R178). -/
def gsyncOpen (s : State) (p mask : Nat) : Bool :=
  (List.range 8).any (fun u => (mask >>> u) % 2 = 1 &&
    (match (getThread s p u).wait with | .gsync _ => false | _ => (getThread s p u).live))

/-- Releases the threads of a GSYNC whose mask is complete. -/
def gsyncCheck (s : State) (p : Nat) : State :=
  (List.range 8).foldl (fun s t =>
    match (getThread s p t).wait with
    | .gsync m =>
      if gsyncOpen s p m then s
      else (List.range 8).foldl (fun s u =>
        match (getThread s p u).wait with
        | .gsync _ => if (m >>> u) % 2 = 1 then retireTo s p u { getThread s p u with wait := .ready } else s
        | _ => s) s
    | _ => s) s

/-- Looks again at a thread that waits on its own stores, copies or tile instructions. -/
def recheck (s : State) (p t : Nat) : State :=
  let th := getThread s p t
  match th.wait with
  | .fence k => if fenceDone s p t k then fenceEnd s p t k else s
  | .bwait n => if copyPending th ≤ n then bwaitEnd s p t else s
  | .tsync => if th.tileOps = 0 then retireTo s p t { th with wait := .ready } else s
  | .ending => gsyncCheck (endThreadNow s p t) p
  | .strict _ => if th.stores.any (fun st => st.strict) then s else retireTo s p t { th with wait := .ready }
  | _ => s

end Sys2Proof.Machine
end

