-- ==== Sys2Proof/Machine/PowerOps.lean ====
section
/-! DEFINITION. Accelerator transitions, rails and spokes as operations that the power commands, the links, the thermal
unit and the resets share (R240, R242, R251, R262 to R272, R303). -/

namespace Sys2Proof.Machine

/-! ### Sequences (R266 to R268) -/

/-- Group A in up order. -/
def seqA (a : Acc) : List Nat := if a.seqCfg % 2 = 0 then [1, 2] else [2, 1]
/-- Group B in up order. -/
def seqB (a : Acc) : List Nat := if (a.seqCfg / 2) % 2 = 0 then [3, 4] else [4, 3]
/-- The up-sequence. -/
def upOrder (a : Acc) : List Nat := 0 :: (seqA a ++ seqB a)
/-- UP_SPACE in µs. -/
def upSpace (a : Acc) : Nat := (a.seqCfg / 2 ^ 8 % 256) * 100
/-- DOWN_SPACE in µs. -/
def downSpace (a : Acc) : Nat := (a.seqCfg / 2 ^ 16 % 256) * 100
/-- PG_TIMEOUT in µs. -/
def pgLimit (a : Acc) : Nat := (a.seqCfg / 2 ^ 24) * 1000
/-- RETAIN_GRACE of spoke n in µs. -/
def graceUs (s : State) (n : Nat) : Nat := cfgN s (0x508108 + 0x40 * n) * 1000
/-- The rails to take down, in order, on the way to a state (R267). -/
def downList (a : Acc) (dest : AccSt) : List Nat :=
  (upOrder a).reverse.filter (fun r => (getRail a r).en &&
    (match dest with | .off => true | .aux => r ≠ 0 | _ => 3 ≤ r))

/-- Does a STRATUM_PARK or STRATUM_RESTORE naming An stand in the command table (Table 11.3). -/
def movesInFlight (s : State) (n : Nat) : Bool :=
  s.qc.cmds.any (fun c => (c.op = 0x10 || c.op = 0x11) && c.accN = n)

/-! ### Spokes -/

/-- Writes RETAIN_CTRL of An's contract block where the link allows (Table 10.2). A 0 that the link does not allow waits for it
(R251). -/
def writeRetain (s : State) (n v : Nat) : State :=
  if spokeReady s n then accWrite s n ((getSpoke s n).kcBase + 0x200) (leBytes 4 v)
  else modSpoke s n (fun x => { x with cancelRetain := decide (v = 0) })

/-- SPERST_N of An goes low: its link goes off (R240). -/
def dropSpoke (s : State) (n : Nat) : State :=
  modSpoke s n (fun x => { x with link := .off, rate := 0, width := 0, enum := .none, ready := false,
                                  sperstHigh := false, linkDown := false, retryAt := none, memSpace := false, waking := false,
                                  cancelRetain := false })

/-- Commands that use spoke n (R242). -/
def usesSpoke (s : State) (n : Nat) (c : Cmd) : Bool :=
  c.started && c.accN = n
  && (c.op = 0x10 || c.op = 0x11 || c.op = 0x23 || c.op = 0x24
      || (c.op = 0x20 && (getAcc s n).phase = .handshake && (getAcc s n).cmd = some c.seq))

/-- Changes every command that uses spoke n. -/
def mapSpokeCmds (s : State) (n : Nat) (f : Cmd → Cmd) : State :=
  { s with qc := { s.qc with cmds := s.qc.cmds.map (fun c => if usesSpoke s n c then f c else c) } }

/-- Holds the commands that use spoke n from now, where they are not held already (R242). -/
def holdSpoke (s : State) (n : Nat) : State :=
  mapSpokeCmds s n (fun c => { c with holdSince := some (c.holdSince.getD s.tick) })

/-- An ACC_RELEASE writes RELEASE = 1 (R253). -/
def postRelease (s : State) (n c : Nat) : State :=
  let s := accWrite s n ((getSpoke s n).kcBase + 0x300) (leBytes 4 1)
  setAccBoot s n { getAccBoot s n with relCmd := some c, relSince := s.tick }

/-- What a held command does when its spoke becomes ready: a descriptor, PREPARE_RETAIN or RELEASE that waited is
written. -/
def resumeCmd (s : State) (n : Nat) (c : Cmd) : State :=
  if c.op = 0x10 ∨ c.op = 0x11 then
    (match findMove s c.seq with | some m => if m.unposted then postMbx s c.seq else s | none => s)
  else if c.op = 0x24 then (if (getAccBoot s n).relCmd = some c.seq then s else postRelease s n c.seq)
  else s

/-- Spoke n becomes ready (R242): held commands go on with CFLAGS.HELD, a handshake that waited writes PREPARE_RETAIN, and the end of
one that had no link writes RETAIN_CTRL = 0 (R251). -/
def spokeBecameReady (s : State) (n : Nat) : State :=
  let s := modSpoke s n (fun x => { x with ready := true, linkDown := false, retryAt := none })
  let held := s.qc.cmds.filter (fun c => c.holdSince.isSome && usesSpoke s n c)
  let s := mapSpokeCmds s n (fun c => { c with held := c.held || c.holdSince.isSome, holdSince := none })
  let s := held.foldl (fun s c => resumeCmd s n c) s
  if (getAcc s n).phase = .handshake then writeRetain s n 1
  else if (getSpoke s n).cancelRetain then writeRetain (modSpoke s n (fun x => { x with cancelRetain := false })) n 0
  else s

/-- Spoke n stops being ready: its commands are held (R242). -/
def spokeNotReady (s : State) (n : Nat) (l : LinkSt) : State :=
  holdSpoke (modSpoke s n (fun x => { x with link := l, ready := false, downSince := if x.ready then s.tick else x.downSince })) n

/-- The rate and width that a training aims at (R241, LATCHED). -/
def latchTraining (s : State) (n : Nat) (x : Spoke) : Spoke :=
  { x with maxRate := cfgF s (0x508104 + 0x40 * n) 3 0, maxWidth := cfgF s (0x508104 + 0x40 * n) 12 8 }

/-- A spoke in L0 enters Recovery: counted, and its commands are held (R242). -/
def enterRecovery (s : State) (n : Nat) : State :=
  let x := getSpoke s n
  if x.link = .l0 then
    let s := count s (194 + 4 * n) {}
    spokeNotReady (setSpoke s n { x with recoveries := satN 8 (x.recoveries + 1), recoverySince := s.tick }) n .recovery
  else s

/-! ### Completions of an accelerator's commands -/

/-- Completes the ACC_FW_PUSH and ACC_RELEASE under way on An with a result. -/
def failAccBootCmds (s : State) (n : Nat) (r : Result) : State :=
  (s.qc.cmds.filter (fun c => c.started && (c.op = 0x23 || c.op = 0x24) && c.accN = n)).foldl
    (fun s c => complete (sealDrop s c.seq) c.seq r) s

/-- Completes every ACC_POWER_STATE and ACC_RAIL_SET in flight for An (R78, R270, Table 12.5). -/
def failPowerCmds (s : State) (n : Nat) (r : Result) : State :=
  (s.qc.cmds.filter (fun c => (c.op = 0x20 || c.op = 0x21) && c.accN = n && !c.noop)).foldl
    (fun s c => complete s c.seq r) s

/-- An has left IDLE and RUN: the move on its spoke and its boot commands end with a value of Table 10.9. -/
def accLeft (s : State) (n value : Nat) : State :=
  failAccBootCmds (accGoneMove s n value) n (refuse .accNotReady 5 value)

/-- The record of a cut: STATUS_WORD is 0xFFFF when unread (Table 15.3). -/
def cutRecord (s : State) (n r before word : Nat) : State :=
  logRec s 0x20 5 1 (leBytes 1 n ++ leBytes 1 r ++ leBytes 1 before ++ [0] ++ leBytes 2 word)

/-- The cuts whose STATUS_WORD Daxrin has not read get their records without it. -/
def cutsUnread (s : State) : State :=
  s.tw.cuts.foldl (fun u x => if x.logged then u else cutRecord u x.acc x.rail x.before 0xFFFF) { s with tw := { s.tw with cuts := [] } }

/-! ### Rails -/

/-- Has rail r of An, which is not enabled, a stored setpoint still to write before its next enable (R274). A write that has failed with
its retries is not tried again before it (log entry 39). -/
def storedDue (s : State) (n r : Nat) : Bool :=
  let x := getRail (getAcc s n) r
  hasReg s n r && !x.en && decide (x.target ≠ 0) && decide (x.target ≠ x.applied) && !x.gaveUp

/-- A write of a stored setpoint, and its outcome (R274, R291). -/
def storedWrite (s : State) (n r : Nat) (acked : Bool) : State :=
  if acked then modRail (count s (225 + 4 * n) {}) n r (fun x => { x with applied := x.target, tries := 0 })
  else modRail s n r (fun x => if x.tries < 3 then { x with tries := x.tries + 1 } else { x with tries := 0, gaveUp := true })

/-- Enables rail r of An (R266). -/
def enableRail (s : State) (n r : Nat) : State :=
  modAcc s n (fun a =>
    { setRail a r { getRail a r with en := true, pg := false, armed := false, onSince := s.tick, tries := 0 } with
      since := s.tick, upped := a.upped ++ [r] })

/-- Turns rail r of An off (R267, R269, Table 11.4): it is disarmed, a slew of it ends with value 0x37, and the copies on An
go with VMEM. -/
def disableRail (s : State) (n r : Nat) : State :=
  let x := getRail (getAcc s n) r
  let s := modAcc s n (fun a =>
    { setRail a r { x with en := false, pg := false, armed := false, moving := false, slewing := none, tries := 0, gaveUp := false } with
      since := s.tick })
  let s := match x.slewing with
    | some c => complete s c (refuse .accNotReady 5 0x37)
    | none => s
  if r = 2 ∧ x.en then loseAccStrata s n else s

/-! ### Ends of transitions -/

/-- Ends the transition of An and completes its command. -/
def endTransition (s : State) (n : Nat) (r : Result) : State :=
  let a := getAcc s n
  let s := setAcc s n { a with phase := .none, cmd := none, upped := [], tries := 0 }
  match a.cmd with
  | some c => complete s c r
  | none => s

/-- The transition of An succeeds: RESULT0 holds the state reached and the state before (Table 4.5). -/
def transitionOk (s : State) (n : Nat) : State :=
  let a := getAcc s n
  endTransition s n (okR (a.st.code + 256 * a.before.code))

/-- An enters OFF, AUX or RETAIN: its boot window closes, and in OFF and AUX contract and measurement go (R126, R244,
Table 5.9). A window still open at RETAIN closes too, and its running digest goes (DESIGN CHOICE, log entry 68). -/
def enterLow (s : State) (n : Nat) (st : AccSt) : State :=
  let s := modAcc s n (fun a => { a with st := st })
  if st = .retain then setAccBoot s n { getAccBoot s n with windowOpen := false, pushed := [], relCmd := none }
  else setAccBoot (modSpoke s n (fun x => { x with contract := false })) n {}

/-- The down-sequence of An takes its next rail (R267): the last one ends the transition. -/
def downStep (s : State) (n : Nat) (todo : List Nat) : State :=
  match todo with
  | [] => transitionOk (enterLow s n (getAcc s n).target) n
  | r :: rest =>
    let s := disableRail s n r
    let s := modAcc s n (fun a => { a with phase := .down rest })
    if rest = [] then transitionOk (enterLow s n (getAcc s n).target) n else s

/-- A down-sequence of An begins, with SPERST_N low where An leaves IDLE or RUN (R267). -/
def startDown (s : State) (n : Nat) : State :=
  let a := getAcc s n
  let s := if a.st = .idle ∨ a.st = .run then accLeft (dropSpoke s n) n 0x16 else s
  downStep s n (downList a a.target)

/-- An up-sequence of An begins (R266): its first rail is enabled now, or once its stored setpoint is written (R274). -/
def startUp (s : State) (n : Nat) : State :=
  let a := getAcc s n
  let want := if a.target = .aux then [0] else upOrder a
  match want.filter (fun r => !(getRail a r).en) with
  | [] => modAcc s n (fun a => { a with phase := .link })
  | r :: rest =>
    if storedDue s n r then modAcc s n (fun a => { a with phase := .up (r :: rest) })
    else modAcc (enableRail s n r) n (fun a => { a with phase := .up rest })

/-- The power-derived limit of a sample: (allowance - p_other) / v_core in mA, rounded down, and below no limit (R279). -/
def iPowOf (al other mv : Nat) : Nat := min (noLimit - 1) ((al - other) * 100000 / mv)

/-- The power-derived limit of An with the share it has now, from its last sample: a RUN limit is computed with it (Table 11.4). -/
def freshIPow (s : State) (n : Nat) : State :=
  modAcc s n (fun a => match a.sample with
    | some (other, mv) =>
      let al := allowance s a
      if al = noLimit then { a with iPow := noLimit } else if mv = 0 then a else { a with iPow := iPowOf al other mv }
    | none => a)

/-- An enters IDLE from a link that is ready (Table 11.2, R126, R280): the boot window opens where An was OFF or AUX, and
a RUN target goes on to its limit. -/
def linkDone (s : State) (n : Nat) : State :=
  let a := getAcc s n
  if a.phase = .link then
    let s := setAcc s n { a with st := .idle, share := plimApplied a, upped := [] }
    let s := if a.before = .off ∨ a.before = .aux then setAccBoot s n { windowOpen := true } else s
    if a.target = .run then freshIPow (modAcc s n (fun a => { a with phase := .limit, tries := 0 })) n else transitionOk s n
  else s

/-- Begins the transition of An to a state, by the steps of Table 11.2. -/
def startTransition (s : State) (n : Nat) (dest : AccSt) (cmd : Option Nat) : State :=
  let s := count s (224 + 4 * n) {}
  let a := getAcc s n
  let s := setAcc s n { a with before := a.st, target := dest, cmd := cmd, since := s.tick, upped := [], tries := 0,
                               seqCfg := cfgN s (accBase n + 4) }
  if (a.st = .idle ∧ dest = .run) ∨ (a.st = .run ∧ dest = .idle) then freshIPow (modAcc s n (fun a => { a with phase := .limit })) n
  else if dest = .retain then
    let s := modAcc s n (fun a => { a with phase := .handshake })
    if spokeReady s n then writeRetain s n 1 else holdSpoke s n
  else if a.st.code < dest.code then startUp (modSpoke s n (fun x => { x with waking := decide (a.st = .retain) })) n
  else startDown s n

/-! ### Stops (R303) -/

/-- Stops An to RETAIN or AUX at once: its rails go low in one cycle with SPERST_N, and R20 applies where VMEM goes. -/
def stopAcc (s : State) (n : Nat) (retain : Bool) : State :=
  let a := getAcc s n
  let s := accLeft (dropSpoke s n) n 0x16
  let s := modAcc s n (fun a => { a with phase := .none, cmd := none, upped := [], tries := 0 })
  let s := ((if retain then [3, 4] else [1, 2, 3, 4]).filter (fun r => (getRail a r).en)).foldl
    (fun s r => disableRail s n r) s
  let s := { s with therm := { s.therm with stops := KMap.set (fun _ => none) s.therm.stops n none } }
  enterLow s n (if retain then .retain else .aux)

/-- A transition of An that comes up ends without a command: the rails it enabled go low at once and An keeps the state it
had (log entry 37). -/
def stopUp (s : State) (n : Nat) : State :=
  let a := getAcc s n
  let s := a.upped.foldl (fun s r => disableRail s n r) (dropSpoke s n)
  modAcc s n (fun a => { a with phase := .none, cmd := none, upped := [], tries := 0 })

/-- The stop in its grace on An. -/
def getStop (s : State) (n : Nat) : Option Stop := KMap.get (fun _ => none) s.therm.stops n
/-- Writes the stop on An. -/
def setStop (s : State) (n : Nat) (x : Option Stop) : State :=
  { s with therm := { s.therm with stops := KMap.set (fun _ => none) s.therm.stops n x } }

end Sys2Proof.Machine
end

