-- ==== Sys2Proof/Machine/DomOps.lean ====
section
/-! DEFINITION. Power domains: what each state keeps, the checks of a change, transitions, DOMAIN_STATE sequences, and the
changes that a die shutdown or clock fallback forces (R25 to R31, R36, R40, R42, R43). -/

namespace Sys2Proof.Machine

/-! ### Kinds (Table 2.2) -/

/-- Is a domain a bed. -/
def isBed (d : Nat) : Bool := 28 ≤ d && d < 92
/-- Is a domain a Loam slice. -/
def isSlice (d : Nat) : Bool := 20 ≤ d && d < 28
/-- Is a domain of the HBM group. -/
def isHbm (d : Nat) : Bool := 14 ≤ d && d < 20
/-- Is a domain a spoke port. -/
def isSpoke (d : Nat) : Bool := 6 ≤ d && d < 14
/-- The domains that change with a domain (R25). -/
def unitOf (d : Nat) : List Nat := if isHbm d then hbmDoms else [d]

/-- Does a domain support a state (Table 2.2). -/
def supports (d : Nat) (t : DomSt) : Bool :=
  match t with
  | .on => true
  | .gated => d = 2 || d = 4 || isSpoke d || isSlice d || isBed d
  | .retention => isHbm d || isSlice d || isBed d
  | .off => d = 4 || isSpoke d || isHbm d || isSlice d || isBed d

/-- Does a change pass through ON (R31). -/
def twoLeg (a b : DomSt) : Bool :=
  match a, b with
  | .off, .gated => true
  | .off, .retention => true
  | .gated, .off => true
  | .gated, .retention => true
  | .retention, .gated => true
  | _, _ => false

/-- A transition or a reset of the domain is in progress: DOM_CTRL.BUSY. -/
def domBusy (s : State) (d : Nat) : Bool := (getDom s d).phase ≠ .idle
/-- The state a domain holds, or goes to. -/
def effDom (s : State) (d : Nat) : DomSt :=
  let x := getDom s d
  match x.phase with
  | .idle => x.cur
  | .resetting => x.cur
  | _ => x.target
/-- Is a domain ON or GATED, or on its way there or through ON (R27, R31). -/
def upNow (s : State) (d : Nat) : Bool :=
  let x := getDom s d
  let c := effDom s d
  decide (x.cur = .on) || decide (x.cur = .gated) || decide (c = .on) || decide (c = .gated) || twoLeg x.cur c
/-- Is D04 ON, and not on its way out of it (R27). -/
def meshOn (s : State) : Bool := decide ((getDom s 4).cur = .on) && decide (effDom s 4 = .on)

/-! ### Checks (R27, R28, Table 2.15) -/

/-- Does an accepted command use the domain's contents or logic (R28). -/
def domUsed (s : State) (d : Nat) : Bool :=
  if isBed d then (getBed s (d - 28)).holder.isSome
  else if d = 2 then s.sealEng.ctx0.isSome || s.sealEng.ctx1.isSome || s.sealEng.waiting ≠ [] || s.sealEng.suspended ≠ []
  else if isSlice d then s.strata.batch.isSome
  else if d = 4 ∨ isHbm d then s.strata.batch.isSome || s.strata.moves ≠ []
  else false

/-- Is a model slot loaded. -/
def anyModel (s : State) : Bool := s.strata.models.any (fun e => e.2.loaded)

/-- Must a domain not leave ON, or HBM not go OFF (R28, code 4). -/
def domHeld (s : State) (d : Nat) (t : DomSt) (leaves : Bool) : Bool :=
  if isHbm d then decide (t = .off) && (s.strata.recs.any (fun r => r.home = .steward) || anyModel s)
  else if isSpoke d then leaves && ((getAcc s (d - 6)).st = .idle || (getAcc s (d - 6)).st = .run)
  else if d = 2 then decide (t = .gated) && !s.boot.started
  else false

/-- ERR of taking a domain to a state (R30, Table 2.15); 0 where nothing refuses it. The die latch and clock fallback refuse every step
up, whatever D04 holds (Table 2.7, R40), so they come before the check of D04. -/
def domErr (s : State) (d : Nat) (t : DomSt) : Nat :=
  let c := effDom s d
  let via := twoLeg c t
  let enters := t = .on || t = .gated || via
  let leaves := (c = .on && t ≠ .on) || via
  let array := d = 4 || isSlice d || isBed d
  if !supports d t then 1
  else if c = t then 0
  else if s.therm.latch.getLsbD 8 && enters && array then 6
  else if s.crd.fallback && enters && (array || isSpoke d || isHbm d) then 10
  else if (isSlice d || isBed d) && enters && !meshOn s then 2
  else if d = 4 ∧ leaves ∧ (List.range 72).any (fun i => upNow s (20 + i)) then 3
  else if domHeld s d t leaves then 4
  else if leaves && (unitOf d).any (domUsed s) then 5
  else 0

/-- Status of an ERR code (Table 2.15). -/
def errStatus (e : Nat) : Status :=
  if e = 5 then .busyGuarded else if e = 6 then .thermalHold else if e = 7 then .timeout else .notPermitted

/-- Sets DOM_CTRL.ERR. -/
def setErr (s : State) (d e : Nat) : State := modDom s d (fun x => { x with err := e })

/-! ### What a state keeps (Table 2.3) -/

/-- Zeroes a Loam slice. -/
def zeroSlice (s : State) (i : Nat) : State :=
  { s with mem := { s.mem with gm := KMap.clearRange s.mem.gm (Config.loamBase + i * 0x2800000) (Config.loamBase + (i + 1) * 0x2800000) } }

/-- Drops the endpoint reservations of addresses a test names. -/
def dropEndpoint (s : State) (p : Nat → Bool) : State :=
  let gone := s.garr.rsvs.filter (fun r => p (endpointOf r.granule))
  let s := gone.foldl (fun s r => modThread s r.grain r.thread (fun t => { t with rsv := none })) s
  { s with garr := { s.garr with rsvs := s.garr.rsvs.filter (fun r => !p (endpointOf r.granule)) } }

/-- Resets the configuration words of blocks a test names. -/
def resetCfg (s : State) (p : Nat → Bool) : State :=
  { s with regs := { s.regs with cfg := s.regs.cfg.filter (fun e => !p (blockOf e.1)) } }

/-- Unloads every model slot: its HBM is freed. -/
def dropModels (s : State) : State :=
  let s := (List.range 4).foldl (fun s m => freeKey s 1 m) s
  { s with strata := { s.strata with models := [] } }

/-- D04 loses its logic: Tilth's and the stratum engine's registers, kernel slots and model slots (log entry 40). Fences and
the remap stand in retained SRAM (R159). -/
def loseD04 (s : State) : State :=
  let s := dropModels (resetCfg s (fun b => b = 5 || b = 6))
  let s := dropEndpoint s (fun e => decide (e < 1000))
  poolUpdate { s with
    garr := { s.garr with kslots := [], unfencing := none, unfenceStatus := 0 },
    strata := { s.strata with hbmUe := false, ueAddr := 0, ueHandle := 0 } }

/-- What the spoke port's own logic holds is lost: its AER log. The link registers stand in D00 (log entry 61). -/
def spokeLogic (x : Spoke) : Spoke := { x with aer := 0 }

/-- A spoke port stops: its link goes off and its commands are held. -/
def stopSpoke (s : State) (n : Nat) : State :=
  let x := getSpoke s n
  let off := { spokeLogic x with link := .off, rate := 0, width := 0, enum := .none, ready := false }
  holdSpoke (setSpoke s n { off with trained := false, memSpace := false }) n

/-- A domain loses its logic, and its contents too where it goes OFF. -/
def loseDom (s : State) (d : Nat) (off : Bool) : State :=
  if isBed d then (if off then bedZero (bedLose s (d - 28)) (d - 28) else bedLose s (d - 28))
  else if isSlice d then
    (let s := dropEndpoint s (fun e => decide (e = d - 20))
     if off then zeroSlice s (d - 20) else s)
  else if d = 14 then
    (let s := dropEndpoint s (fun e => decide (100 ≤ e ∧ e < 1000))
     if off then
       { s with mem := { s.mem with gm := KMap.clearRange s.mem.gm Config.hbmBase (Config.hbmBase + Config.hbmBytes) },
                strata := { s.strata with badLines := [] } }
     else s)
  else if isSpoke d then stopSpoke s (d - 6)
  else if d = 4 then loseD04 s
  else s

/-- Reference clock output n: driven while D06+n is ON or GATED, else low (R24); clock fallback stops it (R40). -/
def refClock (s : State) (n : Nat) : Bool :=
  !s.crd.fallback && (decide ((getDom s (6 + n)).cur = .on) || decide ((getDom s (6 + n)).cur = .gated))

/-- A spoke domain comes ON: its reference clock starts where it was low (R24). -/
def clockStarts (s : State) (d : Nat) : State :=
  if isSpoke d && !refClock s (d - 6) then modSpoke s (d - 6) (fun x => { x with clkSince := s.tick }) else s

/-- Domain d now holds a state. A spoke whose SPERST_N is high trains again as it comes ON. -/
def enterDom (s : State) (d : Nat) (t : DomSt) : State :=
  let s := if t = .on then clockStarts s d else s
  let s := modDom s d (fun x => { x with cur := t, since := s.tick })
  match t with
  | .off => loseDom s d true
  | .retention => loseDom s d false
  | .gated => s
  | .on =>
    if isSpoke d ∧ (getSpoke s (d - 6)).sperstHigh ∧ (getSpoke s (d - 6)).link = .off then
      modSpoke s (d - 6) (fun x => latchTraining s (d - 6) { x with link := .training, since := s.tick })
    else s

/-! ### Transitions (R31) -/

/-- A transition of domain d begins. -/
def beginDom (s : State) (d : Nat) (t : DomSt) : State :=
  modDom s d (fun x => { x with req := t, err := 0, target := t, since := s.tick,
                                phase := if x.cur = .off then .switching else .leg })

/-- A bed's march found bad grains: they are fenced before the transition completes (R159). -/
def marchFails (s : State) (b : Nat) (bad : List Nat) : State :=
  bad.foldl (fun s k => if (getBed s b).fencedMask.getLsbD k then s else failGrainNow s (17 * b + k) 4) s

/-- One domain comes ON from OFF. -/
def arriveOn (s : State) (d : Nat) (bad : List Nat) : State :=
  let s := enterDom s d .on
  let s := if isBed d then marchFails (bedRevive s (d - 28)) (d - 28) bad else s
  modDom s d (fun x => { x with phase := if x.target = .on then .idle else .leg })

/-- One step of a domain's transition: its power switch is good, its initialisation ends, or a leg ends. -/
def stepDom (s : State) (d : Nat) (bad : List Nat) : State :=
  let x := getDom s d
  match x.phase with
  | .switching =>
    if isBed d || isSlice d then modDom s d (fun x => { x with phase := .initialising, since := s.tick })
    else arriveOn s d bad
  | .initialising => arriveOn s d bad
  | .leg =>
    if twoLeg x.cur x.target then enterDom s d .on
    else modDom (enterDom s d x.target) d (fun x => { x with phase := .idle })
  | _ => s

/-! ### DOMAIN_STATE (R30, R31) -/

/-- Takes a DOMAIN_STATE off the list. -/
def dropSeq (s : State) (c : Nat) : State := { s with domSeqs := s.domSeqs.filter (fun q => q.cmd ≠ c) }
/-- Writes a DOMAIN_STATE under way. -/
def putSeq (s : State) (q : DomSeq) : State :=
  { s with domSeqs := s.domSeqs.filter (fun x => x.cmd ≠ q.cmd) ++ [q] }

/-- Ends a DOMAIN_STATE on a refused domain. -/
def seqFails (s : State) (q : DomSeq) (d n e : Nat) : State :=
  complete (setErr (dropSeq s q.cmd) d e) q.cmd { refuse (errStatus e) 5 (d * 256 + e) with r0 := n % 256 }

/-- Goes on with a DOMAIN_STATE over the domains it has still to take. -/
def seqRun (s : State) (q : DomSeq) : List Nat → State
  | [] =>
    if q.moving = [] then complete (dropSeq s q.cmd) q.cmd (okR (q.processed % 256))
    else putSeq s { q with todo := [] }
  | d :: rest =>
    let n := (unitOf d).length
    if q.wait.isSome ∨ (unitOf d).any (domBusy s) then putSeq s { q with todo := d :: rest }
    else
      let e := domErr s d q.target
      if e ≠ 0 then seqFails s q d q.processed e
      else if (getDom s d).cur = q.target then
        seqRun ((unitOf d).foldl (fun s k => modDom s k (fun x => { x with err := 0, req := q.target })) s)
          { q with processed := q.processed + n } rest
      else
        putSeq ((unitOf d).foldl (fun s k => beginDom s k q.target) s)
          { q with todo := rest, wait := some d, moving := q.moving ++ [(d, q.processed)], processed := q.processed + n }

/-- Every DOMAIN_STATE under way goes on as far as it can. -/
def seqPump (s : State) : State :=
  s.domSeqs.foldl (fun s q0 =>
    match s.domSeqs.find? (fun x => x.cmd = q0.cmd) with
    | none => s
    | some q =>
      let still := q.moving.filter (fun m => domBusy s m.1)
      let w := match q.wait with
        | some d => if (getDom s d).phase = .idle ∨ (getDom s d).phase = .initialising then none else some d
        | none => none
      seqRun s { q with moving := still, wait := w } q.todo) s

/-! ### Forced changes (R40, R42, R43) -/

/-- Forces domains to states at once; a DOMAIN_STATE that was moving one of them ends with an ERR code (R40, Table 2.7). -/
def forceDoms (s : State) (ds : List (Nat × DomSt)) (err : Nat) : State :=
  let moved := s.domSeqs.filterMap (fun q =>
    (q.moving.find? (fun m => ds.any (fun f => (unitOf m.1).contains f.1) && domBusy s m.1)).map (fun m => (q, m)))
  let s := ds.foldl (fun s f =>
    let x := getDom s f.1
    if x.cur = f.2 ∧ x.phase = .idle then s
    else
      let s := modDom s f.1 (fun x => { x with phase := .idle, target := f.2 })
      if x.cur = f.2 then s else enterDom s f.1 f.2) s
  seqPump (moved.foldl (fun s m => seqFails s m.1 m.2.1 m.2.2 err) s)

/-- D14 to D19 go to RETENTION, or stay OFF. -/
def hbmForced (s : State) : List (Nat × DomSt) :=
  hbmDoms.map (fun d => (d, if (getDom s d).cur = .off then .off else .retention))
/-- D20 to D91. -/
def arrayDoms : List Nat := (List.range 72).map (fun i => 20 + i)

/-- Every move ends without its commit: D04 and HBM are gone. -/
def failAllMoves (s : State) (r : Result) : State :=
  s.strata.moves.foldl (fun s m => if m.stage = .ending then finishMove s m else failMove s m r) s

/-- A spoke domain goes OFF after a die shutdown cut its accelerator's rails (R43). -/
def dieSpoke (s : State) (n : Nat) : State :=
  if s.therm.latch.getLsbD 8 then forceDoms s [(6 + n, .off)] 6 else s

/-- A stop of An at once, and R43 after it. -/
def stopAccDie (s : State) (n : Nat) (retain : Bool) : State := dieSpoke (stopAcc s n retain) n

/-- A handshake on An ends without RETAIN (R251): RETAIN_CTRL = 0. A command completes with its value, An unchanged; a stop
goes to AUX (Table 12.4). -/
def handshakeFails (s : State) (n value : Nat) : State :=
  let s := writeRetain s n 0
  if (getStop s n).isSome then stopAccDie s n false else endTransition s n (refuse .accNotReady 5 value)

end Sys2Proof.Machine
end

