-- ==== Sys2Proof/Machine/LogOps.lean ====
section
/-! DEFINITION. The sediment log in flash and the lifetime counts (R361 to R373, R382): the layout of records, the search for
the head, the restore of the counts, checkpoints, and the writes. -/

namespace Sys2Proof.Machine

/-- Flash writes may start (R307). -/
def flashOpen (s : State) : Bool := !s.therm.flashInhibit
/-- Is an erase in progress suspended: by the temperature gate or the loss of the input, where SFDP reports a suspend (R288, R307). -/
def eraseSuspended (s : State) : Bool := (!flashOpen s || s.pow.inputLost) && s.boot.sfdp.suspend

/-! ### Layout (Table 15.2, R367) -/

/-- Base of the sediment region. -/
def sedBase : Nat := 0x1000000
/-- Flash address of slot i, numbered 1024 × segment + slot. -/
def slotAddr (i : Nat) : Nat := sedBase + 64 * i

/-- Bytes 0x00 to 0x3B of a record. -/
def recBody (r : Rec) : List Byte :=
  leBytes 4 r.seq ++ leBytes 2 r.typ ++ leBytes 1 r.source ++ leBytes 1 r.severity ++ leBytes 8 r.tick ++ leBytes 8 r.cal
  ++ r.payload
/-- A committed record. -/
def recBytes (r : Rec) : List Byte := recBody r ++ leBytes 4 (crc32 (recBody r)).toNat

/-- An ascending list without repeats. -/
def dedupAsc : List Nat → List Nat
  | [] => []
  | a :: t => match t with
    | [] => [a]
    | b :: _ => if a = b then dedupAsc t else a :: dedupAsc t

/-- The slots that are not erased, ascending: an erased byte is an unlisted one. -/
def usedSlots (s : State) : List Nat :=
  dedupAsc ((s.mem.flash.filter (fun e => sedBase ≤ e.1 && e.1 < 0x2000000)).map (fun e => (e.1 - sedBase) / 64))

/-- Does a slot's COMMIT match (R365). -/
def slotValid (bs : List Byte) : Bool := leAt bs 0x3C 4 = (crc32 (bs.take 0x3C)).toNat
/-- The committed records in flash, with their slots, in slot order. -/
def committed (s : State) : List (Nat × List Byte) :=
  ((usedSlots s).map (fun i => (i, flashRead s (slotAddr i) 64))).filter (fun x => slotValid x.2)

/-- SEQ of a record's bytes. -/
def seqOf (b : List Byte) : Nat := leAt b 0 4
/-- TYPE of a record's bytes. -/
def typOf (b : List Byte) : Nat := leAt b 4 2
/-- PAYLOAD of a record's bytes. -/
def payOf (b : List Byte) : List Byte := (b.drop 0x18).take 36

/-! ### Head search (R370, R371) -/

/-- The SEGMENT records in slot 0: segment, SEGSEQ and ERASES. -/
def segments (rs : List (Nat × List Byte)) : List (Nat × Nat × Nat) :=
  (rs.filter (fun x => x.1 % 1024 = 0 && typOf x.2 = 1)).map (fun x => (x.1 / 1024, leAt x.2 0x18 4, leAt x.2 0x1C 4))

/-- The segment of the highest SEGSEQ. -/
def headOf (segs : List (Nat × Nat × Nat)) : Option (Nat × Nat × Nat) :=
  segs.foldl (fun acc x => match acc with
    | none => some x
    | some y => if y.2.1 < x.2.1 then some x else some y) none

/-- Binary search for the first erased slot of a segment, over [lo, hi). -/
def searchSlot (used : Nat → Bool) : Nat → Nat → Nat → Nat
  | 0, lo, _ => lo
  | f + 1, lo, hi =>
    if lo < hi then
      let mid := (lo + hi) / 2
      if used mid then searchSlot used f (mid + 1) hi else searchSlot used f lo mid
    else lo

/-- The next segment after k that is not skipped (R367, R382). -/
def nextSeg (skipped : List Nat) (k : Nat) : Nat → Nat
  | 0 => (k + 1) % 256
  | f + 1 => if skipped.contains ((k + 1) % 256) then nextSeg skipped ((k + 1) % 256) f else (k + 1) % 256

/-- The segment the head enters next. -/
def nextSegment (s : State) : Nat := nextSeg s.slog.skipped s.slog.headSeg 256

/-- The erase of a segment begins, or waits for the gate to open. -/
def startErase (s : State) (k : Nat) : State :=
  { s with slog := { s.slog with erasing := some k, eraseHeld := !flashOpen s } }

/-- ERASES of each segment as its SEGMENT record says. A segment without one that the log has entered before has a count that
nothing states, so it is a free value (log entry 8). -/
def erasesFound (s : State) (segs : List (Nat × Nat × Nat)) (top : Nat) : State :=
  (List.range 256).foldl (fun s k =>
    let put (s : State) (v : Nat) : State :=
      { s with slog := { s.slog with erases := KMap.set (fun _ => 0) s.slog.erases k v } }
    match segs.find? (fun x => x.1 = k) with
    | some x => put s x.2.2
    | none => if top ≤ 255 then put s 0 else let (v, s) := drawFree s; put s (v.toNat % 2 ^ 32)) s

/-- Every record queued since power-on takes its place after the log's last SEQ (R371; log entry 43). -/
def jumpSeq (s : State) (by_ : Nat) : State :=
  { s with slog := { s.slog with nextSeq := s.slog.nextSeq + by_,
                                 queue := s.slog.queue.map (fun r => { r with seq := r.seq + by_ }) } }

/-- The head search of a cold start (R370, R371). -/
def headSearch (s : State) : State :=
  let rs := committed s
  let segs := segments rs
  match headOf segs with
  | none =>
    startErase { s with slog := { s.slog with headSeg := 255, headSlot := 1024, segSeq := 0, erases := [], skipped := [] } } 0
  | some (k, top, _) =>
    let used := usedSlots s
    let i := searchSlot (fun j => used.contains (1024 * k + j)) 11 1 1024
    let torn := decide (1 < i) && !rs.any (fun x => x.1 = 1024 * k + (i - 1))
    let last := (rs.filter (fun x => 1024 * k ≤ x.1 && x.1 < 1024 * k + i)).getLast?
    let h := match last with | some x => seqOf x.2 | none => 0
    let s := erasesFound s segs top
    let s := { s with slog := { s.slog with headSeg := k, headSlot := i, segSeq := top, headSeq := h, skipped := [],
                                            torn := satN 16 (s.slog.torn + b2n torn) } }
    let s := if torn then count s 311 {} else s
    let s := jumpSeq s (h + 1024)
    if used.any (fun j => j / 1024 = nextSegment s) then startErase s (nextSegment s) else s

/-! ### Restore (R372) -/

/-- Counts whose increases a POWER_LOSS record carries, in its order (R364). -/
def powerLossCounts : List Nat := [0, 1, 2, 28, 29, 30, 31, 34, 35]

/-- The SET of a LIFETIME record. -/
def setOf (b : List Byte) : Nat := leAt b 0x18 4 / 256
/-- The FIRST index of a LIFETIME record. -/
def firstOf (b : List Byte) : Nat := leAt b 0x18 1

/-- The latest complete checkpoint: its SET, and its nine records. -/
def latestSet (lt : List (List Byte)) : Option (Nat × List (List Byte)) :=
  let whole (n : Nat) : Bool :=
    (List.range 9).all (fun j => lt.any (fun b => setOf b = n && firstOf b = 4 * j))
  (lt.foldl (fun acc b => if whole (setOf b) then
      (match acc with | none => some (setOf b) | some m => some (max m (setOf b))) else acc) none).map
    (fun n => (n, lt.filter (fun b => setOf b = n)))

/-- The increase of count i that a record later than the checkpoint carries. -/
def recIncrease (i : Nat) (b : List Byte) : Nat :=
  if typOf b = 3 then
    (List.range 9).foldl (fun n j => if powerLossCounts.getD j 99 = i then n + leAt b (0x18 + 4 * j) 4 else n) 0
  else ((recCounts (typOf b) (payOf b)).filter (fun x => x = i)).length

/-- Restores the lifetime counts: the checkpoint, the later records, and what has been counted since power-on. -/
def restoreCounts (s : State) : State :=
  let rs := (committed s).map (·.2)
  let cp := latestSet (rs.filter (fun b => typOf b = 2))
  let base (i : Nat) : Nat := match cp with
    | some (_, bs) => (match bs.find? (fun b => firstOf b = 4 * (i / 4)) with
      | some b => leAt b (0x1C + 8 * (i % 4)) 8
      | none => 0)
    | none => 0
  let top := match cp with | some (_, bs) => bs.foldl (fun n b => max n (seqOf b)) 0 | none => 0
  let later := rs.filter (fun b => top < seqOf b)
  let s := (List.range 36).foldl (fun s i => ltAdd s i (base i + later.foldl (fun n b => n + recIncrease i b) 0)) s
  { s with slog := { s.slog with restored := true, retryAt := none, unclean := !later.any (fun b => typOf b = 3),
                                 setNo := match cp with | some (n, _) => n | none => 0 } }

/-! ### Checkpoints (R364) -/

/-- Writes a checkpoint: nine LIFETIME records sharing one SET. -/
def checkpointNow (s : State) : State :=
  let n := s.slog.setNo + 1
  let s := { s with slog := { s.slog with setNo := n, atCheckpoint := s.slog.counts, lastCheckpoint := s.tick } }
  (List.range 9).foldl (fun s j =>
    logRec s 0x02 9 0 (leBytes 4 (n * 256 + 4 * j) ++ (List.range 4).flatMap (fun i => leBytes 8 (ltGet s (4 * j + i))))) s

/-! ### Writes (R367, R368, R382) -/

/-- May Daxrin start a write to the log: the head is known, Daxrin runs, the gate is open, and no pending descriptor goes
first (R124). -/
def logWritable (s : State) : Bool := s.slog.restored && s.crd.fwUp && flashOpen s && s.boot.pending.isNone

/-- The head enters the next segment: its SEGMENT record goes to slot 0 (log entry 44), and the segment after it is erased. -/
def enterSegment (s : State) : State :=
  let k := nextSegment s
  let er := KMap.get (fun _ => 0) s.slog.erases k + 1
  let sq := s.slog.segSeq + 1
  let r : Rec := ⟨s.slog.nextSeq, 1, 9, 0, s.tick, s.slog.calendar,
    (leBytes 4 sq ++ leBytes 4 er ++ leBytes 2 1 ++ List.replicate 26 0)⟩
  let s := count (count (flashProg s (slotAddr (1024 * k)) (recBytes r)) 308 {}) 309 {}
  let s := { s with slog := { s.slog with headSeg := k, headSlot := 1, segSeq := sq, mismatches := 0, headSeq := r.seq,
                                          nextSeq := r.seq + 1, erases := KMap.set (fun _ => 0) s.slog.erases k er } }
  startErase s (nextSegment s)

/-- The queue drained after a drop: one LOG_DROPPED record (R369). -/
def drained (s : State) : State :=
  if s.slog.queue = [] ∧ s.slog.dropReport ≠ 0 then
    let n := s.slog.dropReport
    logRec { s with slog := { s.slog with dropReport := 0 } } 0x60 9 0 (leBytes 4 n)
  else s

/-- One record goes to flash in two programs and is read back (R368). A mismatch leaves the slot torn: its COMMIT is not there
(log entry 45); the third in one segment abandons it (R382). So does a reset that comes between the two programs (Table 15.6). -/
def writeRecord (s : State) (ended : RecordEnd) : State :=
  match s.slog.queue with
  | [] => s
  | r :: rest =>
    let a := slotAddr (1024 * s.slog.headSeg + s.slog.headSlot)
    match ended with
    | .good =>
      let s := count (flashProg s a (recBytes r)) 309 {}
      drained { s with slog := { s.slog with queue := rest, headSlot := s.slog.headSlot + 1, headSeq := r.seq,
                                             mismatches := 0 } }
    | .cut =>
      let s := count (flashProg s a (recBody r)) 311 {}
      { s with slog := { s.slog with headSlot := s.slog.headSlot + 1, torn := satN 16 (s.slog.torn + 1) } }
    | .mismatch =>
      let s := count (count (flashProg s a (recBody r)) 311 {}) 313 {}
      let three := decide (2 ≤ s.slog.mismatches)
      { s with slog := { s.slog with
          headSlot := if three then 1024 else s.slog.headSlot + 1, mismatches := if three then 0 else s.slog.mismatches + 1,
          torn := satN 16 (s.slog.torn + 1), flashErr := s.slog.flashErr || three } }

end Sys2Proof.Machine
end

