-- ==== Sys2Proof/Machine/BootOps.lean ====
section
/-! DEFINITION. Boot as operations (R109 to R124, R131 to R133): descriptors, images, the loader, a pushed image, and what Daxrin does
as FW_UP sets. -/

namespace Sys2Proof.Machine

/-! ### Boot descriptor (R112, Table 5.3) -/

/-- The bytes of a descriptor. -/
def descBytes (d : BootDesc) : List Byte :=
  let body := leBytes 4 0x44425844 ++ leBytes 4 d.seq ++ leBytes 1 d.active ++ leBytes 1 (b2n d.trial) ++ leBytes 1 d.trialSlot
    ++ [0] ++ leBytes 2 d.windowS ++ List.replicate 46 0
  body ++ leBytes 4 (crc32 body).toNat

/-- A descriptor copy in flash, where it is valid. -/
def descCopy (s : State) (k : Nat) : Option BootDesc :=
  let b := flashRead s (0x1000 * k) 64
  if leAt b 0 4 = 0x44425844 ∧ leAt b 0x3C 4 = (crc32 (b.take 0x3C)).toNat then
    some ⟨leAt b 4 4, leAt b 8 1, leAt b 9 1 ≠ 0, leAt b 0xA 1, leAt b 0xC 2⟩
  else none

/-- The copy in use, and which it is; of two with the same SEQ, copy 0 (DESIGN CHOICE, log entry 68). -/
def descInUse (s : State) : Option (BootDesc × Nat) :=
  match descCopy s 0, descCopy s 1 with
  | some a, some b => if a.seq < b.seq then some (b, 1) else some (a, 0)
  | some a, none => some (a, 0)
  | none, some b => some (b, 1)
  | none, none => none

/-- What the loader acts on where neither copy is valid. -/
def descDefault : BootDesc := ⟨0, 0, false, 0, 0⟩

/-- The newest valid descriptor: a pending one is newer than both copies (R124). -/
def descNow (s : State) : BootDesc :=
  match s.boot.pending with
  | some d => d
  | none => match descInUse s with | some (d, _) => d | none => descDefault

/-- Writes a descriptor into the copy not in use, with SEQ one above; where neither copy is valid, into copy 0 with SEQ 1 (DESIGN
CHOICE, log entry 68). -/
def descWrite (s : State) (d : BootDesc) : State :=
  let (q, k) := match descInUse s with | some (x, k) => (x.seq + 1, 1 - k) | none => (1, 0)
  flashProg (flashErase s (0x1000 * k) (0x1000 * k + 0x1000)) (0x1000 * k) (descBytes { d with seq := q })

/-! ### Images (R113, R114, Table 5.4) -/

/-- First flash address of a slot. -/
def slotBase (k : Nat) : Nat := 0x100000 + 0x400000 * k

/-- Is an image header good. -/
def bootHeaderOk (h : List Byte) : Bool :=
  decide (4096 ≤ h.length) && leAt h 0 4 = 0x4E495844 && leAt h 0xFFC 4 = (crc32 (h.take 0xFFC)).toNat
  && decide (128 ≤ leAt h 0x10 4) && decide (leAt h 0x10 4 ≤ 2097152) && leAt h 0x10 4 % 128 = 0
  && decide (leAt h 0x14 4 < leAt h 0x10 4)

/-- Is an image well formed. -/
def bootImageOk (i : List Byte) : Bool :=
  let n := leAt i 0x10 4
  bootHeaderOk (i.take 4096) && decide (4096 + n ≤ i.length)
  && decide (digestBytes (sha384 ((i.drop 4096).take n)) = (i.drop 0x18).take 48)

/-- Payload bytes that the loader streams for a header: PAYLOAD_LEN, at most the 2 MiB of R113 (log entry 57). -/
def payloadLen (h : List Byte) : Nat := min (leAt h 0x10 4) 2097152

/-- The image in a slot: its header, and the payload that follows it. -/
def slotImage (s : State) (k : Nat) : List Byte :=
  let h := flashRead s (slotBase k) 4096
  h ++ flashRead s (slotBase k + 4096) (payloadLen h)

/-- VERSION of a slot; 0 where it is not well formed. -/
def slotVersion (s : State) (k : Nat) : Nat :=
  let i := slotImage s k
  if bootImageOk i then leAt i 8 8 else 0

/-- R114 of a well-formed image: the result, and the key slot that matched. -/
def verifyImage (s : State) (i : List Byte) : Nat × Nat :=
  let pub := (i.drop 0x48).take 96
  let d := (sha384 pub).toNat
  let has (revoked : Bool) : Option Nat :=
    (List.range 4).find? (fun k => decide ((s.boot.revoked >>> k) % 2 = b2n revoked) && s.boot.otpKeys.getD k 0 = d)
  if leAt i 6 2 % 2 = 0 then (1, 0)
  else match has false with
    | some k =>
      if ecdsaVerify pub ((i.drop 0xA8).take 48) ((i.drop 0xD8).take 48) (sha384 (i.take 0x48)) then (0, k)
      else (4, k)
    | none => match has true with | some k => (3, k) | none => (2, 0)

/-! ### The loader (R117 to R119, R131) -/

/-- Sets BOOT_ERR. -/
def bootErrAt (s : State) (e : Nat) : State := { s with boot := { s.boot with bootErr := e } }

/-- A loader run begins: KEY_LOCK is 1 and context 0 is the loader's (R128, R133). -/
def loaderStart (s : State) : State :=
  { s with boot := { s.boot with loaderRunning := true, waitHost := false, started := false, keyLock := true },
           sealEng := { s.sealEng with bootReserved := true } }

/-- Starts Daxrin from a retained record: KEY_LOCK by R117 step 2, the context released, Marl core 0 running. -/
def startMarl (s : State) (r : RunRecord) (fast : Bool) : State :=
  let bad := decide (r.verify ≠ 0)
  let b := { s.boot with
    retained := some r, keyLock := bad || s.boot.unverifiedRan || s.boot.hostLocked,
    unverifiedRan := s.boot.unverifiedRan || bad, unverified := bad, verify := r.verify, keySlot := r.keySlot,
    runSrc := r.src, runVer := BitVec.ofNat 64 r.version, runDigest := r.digest, fastWake := fast,
    loaderRunning := false, waitHost := false, started := true }
  { s with boot := b, sealEng := sealFill { s.sealEng with bootReserved := false } }

/-- Streams `n` bytes of an image's payload into code SRAM from offset 0 (R117, R119), whatever the checks say of it afterwards. -/
def streamCode (s : State) (i : List Byte) (n : Nat) : State :=
  let pay := (i.drop 4096).take n
  { s with boot := { s.boot with code := pay ++ s.boot.code.drop pay.length, codeBad := false } }

/-- Runs a well-formed image from a source: 0 slot A, 1 slot B, 2 host. -/
def runImage (s : State) (i : List Byte) (src : Nat) : State :=
  let n := leAt i 0x10 4
  let (v, k) := verifyImage s i
  let pay := (i.drop 4096).take n
  let s := count s 160 {} (ceilDiv n 4096)
  let s := if leAt i 6 2 % 2 = 1 then count s 162 {} else s
  startMarl (streamCode s i n) ⟨(sha384 pay).toNat, n, v, leAt i 0x14 4, leAt i 8 8, src, k⟩ false

/-- The loader waits for the host. -/
def waitHost (s : State) : State := { s with boot := { s.boot with waitHost := true } }

/-- The flash gives no data for 1 ms (Table 5.11): the loader waits for the host. -/
def flashSilent (s : State) : State := waitHost (bootErrAt { s with boot := { s.boot with flashDead := true } } 0xA)

/-- Does a read of slot k meet a silence of the flash: after how many payload bytes. -/
def stallIn (stall : FlashStall) (k : Nat) : Option Nat :=
  match stall with
  | .slot j n => if j.val = k then some n else none
  | _ => none

/-- The loader reads slot k: a silent flash stops it, a well-formed image runs, and of any other the payload is in code SRAM and the
loader goes on as `bad` says. -/
def trySlot (stall : FlashStall) (s : State) (k : Nat) (bad : State → State) : State :=
  let i := slotImage s k
  match stallIn stall k with
  | some n => flashSilent (streamCode s i (min n (payloadLen i)))
  | none => if bootImageOk i then runImage s i k else bad (streamCode s i (payloadLen i))

/-- Runs the first well-formed slot of two, or waits; with BOOT_SRC = HOST it waits at once. -/
def runFirstGood (stall : FlashStall) (s : State) (a b : Nat) : State :=
  if s.crd.bootHost then waitHost s
  else trySlot stall s a (fun s => trySlot stall (bootErrAt s (4 + a)) b (fun s => waitHost (bootErrAt s 6)))

/-- trial_failed(): TRIAL_FAILED, and a STABLE descriptor waits to be written. -/
def trialFails (s : State) (d : BootDesc) : State :=
  { s with boot := { s.boot with trialFailed := true, pending := some { d with trial := false } } }

/-- Runs the retained image where its digest matches (R118), else takes the cold path; an uncorrectable error in code SRAM is a
mismatch (Table 5.11). -/
def runRetained (stall : FlashStall) (s : State) (d : BootDesc) : State :=
  match s.boot.retained with
  | none => runFirstGood stall s (d.active % 2) (1 - d.active % 2)
  | some r =>
    if !s.boot.codeBad ∧ (sha384 (s.boot.code.take r.len)).toNat = r.digest then
      startMarl (count s 160 {} (ceilDiv r.len 4096)) r true
    else runFirstGood stall (bootErrAt s 9) (d.active % 2) (1 - d.active % 2)

/-- The loader's choice of R117, once the flash has answered. -/
def loaderChoose (stall : FlashStall) (s : State) : State :=
  let s := if s.boot.pending.isNone ∧ (descInUse s).isNone then bootErrAt s 3 else s
  let d := descNow s
  let a := d.active % 2
  if d.trial ∧ s.boot.trialArmed then
    let s := { s with boot := { s.boot with trialArmed := false } }
    let k := d.trialSlot % 2
    let i := slotImage s k
    if s.crd.bootHost then waitHost s
    else if (stallIn stall k).isNone ∧ bootImageOk i then
      runImage { s with boot := { s.boot with trialWindow := if d.windowS = 0 then 120 else d.windowS } } i k
    else trySlot stall s k (fun s => runFirstGood stall (trialFails (bootErrAt s 8) d) a (1 - a))
  else if d.trial then runFirstGood stall (trialFails s d) a (1 - a)
  else runRetained stall s d

/-- The fastest mode that SFDP reports (R110). -/
def fastestMode (x : SfdpTables) : FlashMode :=
  if x.octalDdr then .octalDdr else if x.octalRead then .octalRead else .single

/-- A loader run (R117): the flash's SFDP first (Table 5.11), then the descriptors, then the choice. -/
def loaderRun (s : State) (x : Sfdp) (stall : FlashStall) : State :=
  let dead (e : Nat) : State := waitHost (bootErrAt { s with boot := { s.boot with flashDead := true } } e)
  match x with
  | .good t =>
    let s : State := { s with boot := { s.boot with flashDead := false, sfdp := t, flashMode := fastestMode t } }
    if stall = .descriptors then flashSilent s else loaderChoose stall s
  | .noSignature => dead 1
  | .tooSmall => dead 2
  | .timeout => dead 0xA

/-- A BOOT_RELEASE write (R119, Table 5.10): the waiting loader copies the image from HBM and checks it. -/
def bootReleaseWrite (s : State) (v : Word) : State :=
  if bf v 7 0 ≠ 0x5A ∨ !s.boot.waitHost then setBusy s 4
  else
    let a := cfgD s 0x200008
    let n := cfgF s 0x200010 22 0
    let i := if Config.hbmBase ≤ a ∧ a + n ≤ Config.hbmBase + Config.hbmBytes ∧ domOn s 14 then gmRead s a n else []
    if bootImageOk i then runImage s i 2 else bootErrAt (streamCode s i (payloadLen i)) 7

/-- Does the loader verify or copy an image (Tables 3.4 and 5.10): it runs and does not wait for the host. -/
def loaderBusy (s : State) : Bool := s.boot.loaderRunning && !s.boot.waitHost

/-- A KEY_LOCK write of the host (R133). -/
def keyLockWrite (s : State) (v : Word) : State :=
  if v.getLsbD 0 then { s with boot := { s.boot with keyLock := true, hostLocked := true } } else s

/-! ### Status words -/

/-- BOOT_STATUS (Table 5.12). -/
def bootStatus (s : State) : Nat :=
  let b := s.boot
  fieldN 31 24 b.bootErr + fieldN 18 16 b.verify + fieldN 13 12 b.runSrc + fieldN 8 8 (b2n (getBusy s 4))
  + fieldN 6 6 (b2n b.pending.isSome) + fieldN 5 5 (b2n b.trialFailed) + fieldN 4 4 (b2n b.trialRun)
  + fieldN 3 3 (b2n b.unverified) + fieldN 2 2 (b2n b.fastWake) + fieldN 1 1 (b2n b.loaderRunning) + b2n b.waitHost

/-! ### FW_UP (R47, R122, R214, R370 to R372) -/

/-- Resolves one record with PENDING set (R214): a RESTORE stopped before its commit leaves no copy, and a steward stratum whose root
holds no valid copy is lost. -/
def resolvePending (s : State) (r : Stratum) : State :=
  if r.pending = 0 then s
  else
    let s := setPending s r.handle 0
    if r.home ≠ .steward then s
    else if (currentCopy s r.root).isNone then loseRec s r.handle
    else if r.pending = 0x11 then mapRecs s (fun x => if x.handle = r.handle then { x with copy := .none } else x)
    else s

/-- Finds the log's head and restores the counts, or leaves it for a retry where the flash does not answer (R370, R382). -/
def logStart (s : State) : State :=
  if s.boot.flashDead then { s with slog := { s.slog with retryAt := some (s.tick + 60000000) } }
  else restoreCounts (headSearch s)

/-- The BOOT record of a start (Table 15.3). -/
def bootRecord (s : State) : State :=
  let flags := b2n s.slog.unclean + 2 * b2n s.crd.trimDefaulted + 4 * b2n s.boot.fastWake
  logRec s 0x10 2 0 (leBytes 4 s.crd.cause.toNat ++ leBytes 4 (bootStatus s) ++ leBytes 8 s.boot.runVer.toNat ++ leBytes 4 flags)

/-- After a Marl-only reset abandoned a handshake, Daxrin writes RETAIN_CTRL = 0 where An is still in IDLE or RUN (Table 11.4). -/
def endAbandoned (s : State) (n : Nat) : State :=
  let a := getAcc s n
  if a.abandoned then
    let s := setAcc s n { a with abandoned := false }
    if accLive a then writeRetain s n 0 else s
  else s

/-- Daxrin is ready: records are resolved, the log and its counts are there, and held doorbells are served from now on. A trial's
watchdog starts. -/
def fwUpNow (s : State) : State :=
  let s := s.strata.recs.foldl resolvePending s
  let cold := s.crd.coldStart
  let s := if cold then logStart s else s
  let s := bootRecord s
  let s := if cold ∧ s.slog.restored then checkpointNow s else s
  let s := (List.range 8).foldl endAbandoned s
  let w := s.boot.trialWindow
  { s with crd := { s.crd with fwUp := true, coldStart := false },
           hz := { s.hz with stale := s.hz.stale || decide (s.hz.lastPub + 100000 ≤ s.tick) },
           boot := { s.boot with trialRun := decide (w ≠ 0), trialEnd := if w = 0 then none else some (s.tick + w * 1000000) },
           sealEng := { s.sealEng with doeBusy := false } }

end Sys2Proof.Machine
end

