-- ==== Sys2Proof/Machine/MotorOps.lean ====
section
/-! DEFINITION. A motor channel as operations (R317 to R337): its gate outputs, starts, stops, teeth, stalls, faults and the release
of LOCKOUT. -/

namespace Sys2Proof.Machine

/-! ### Configuration (Table 13.8) -/

/-- CH_CTRL.DRIVE: 0 SPEED, 1 DUTY, 2 GATES. -/
def motorDrive (s : State) (m : Nat) : Nat := cfgF s (motorBase m) 2 1
/-- CH_CTRL.DIR. -/
def motorDir (s : State) (m : Nat) : Bool := cfgF s (motorBase m) 4 4 = 1
/-- PWM_PER. -/
def pwmPer (s : State) (m : Nat) : Nat := cfgF s (motorBase m + 0x08) 13 0
/-- DEAD in PCLK cycles of 5 ns. -/
def deadCycles (s : State) (m : Nat) : Nat := 2 * cfgF s (motorBase m + 0x0C) 7 0
/-- COMM_DELAY. -/
def commDelay (s : State) (m : Nat) : Nat := cfgF s (motorBase m + 0x0C) 23 16
/-- START_DUTY. -/
def startDuty (s : State) (m : Nat) : Nat := cfgF s (motorBase m + 0x20) 23 16
/-- The duty of a ramp (R325). -/
def rampDuty (s : State) (m : Nat) : Nat := startDuty s m * pwmPer s m / 256
/-- PCLK cycles of RAMP_MS. -/
def rampCycles (s : State) (m : Nat) : Nat := cfgF s (motorBase m + 0x24) 15 0 * 200000
/-- PCLK cycles of ALIGN_MS. -/
def alignCycles (s : State) (m : Nat) : Nat := cfgF s (motorBase m + 0x24) 31 16 * 200000
/-- PCLK cycles of STALL_PAUSE, as in force. -/
def pauseCycles (s : State) (m : Nat) : Nat := (getMotor s m).pause * 200000
/-- PCLK cycles at a number of rpm: one tooth interval (R324); 0 where no interval has that length. -/
def intervalAt (s : State) (m rpm : Nat) : Nat := 2000000000 / (rpm * polePairs s m)
/-- PCLK time of the model's TICK. -/
def pclkNow (s : State) : Nat := s.tick * 200

/-! ### Gate outputs (R316 to R320, Table 13.1) -/

/-- PWM phase and low phase of a step: 0 U, 1 V, 2 W. -/
def stepPhases : Nat → Nat × Nat
  | 0 => (0, 1) | 1 => (0, 2) | 2 => (1, 2) | 3 => (1, 0) | 4 => (2, 0) | _ => (2, 1)

/-- A leg's (high, low) output with the PWM pulse of duty `da` in cycle `c` of a period, after the dead time `d` (R317, R319). The low
switch is on from the dead time after the pulse, on through the reload, to the next pulse. -/
def pwmLeg (per da d c : Nat) : Bool × Bool :=
  let a := (per - da) / 2
  if da = 0 then (false, true)
  else if per ≤ da then (true, false)
  else (decide (a + d ≤ c ∧ c < a + da),
        decide (c < a ∨ a + da + d ≤ c) && decide (a + da + d ≤ c + per))

/-- Both switches of a leg on: the interlock holds both off (R320). -/
def interlock (p : Bool × Bool) : Bool × Bool := if p.1 && p.2 then (false, false) else p

/-- Does a GATE_MAN word command both switches of some leg on. -/
def doubleOn (g : Nat) : Bool := (List.range 3).any (fun i => (g >>> (2 * i)) % 4 = 3)

/-- (High, low) outputs of leg `leg` of channel m in cycle c of a period: off where the gates are not driven, GATE_MAN through the
interlock, or the step in force (R317, R321, R334). -/
def gateLeg (s : State) (m leg c : Nat) : Bool × Bool :=
  let x := getMotor s m
  if !x.drive then (false, false)
  else if motorDrive s m = 2 then interlock ((x.gates >>> (5 - 2 * leg)) % 2 = 1, (x.gates >>> (4 - 2 * leg)) % 2 = 1)
  else
    let (p, l) := stepPhases x.step
    if leg = p then (if x.softHeld then (false, true) else pwmLeg (pwmPer s m) x.dutyActive (deadCycles s m) c)
    else (false, decide (leg = l))

/-! ### Status -/

/-- CH_STATUS (Table 13.8). -/
def chStatus (s : State) (m : Nat) : Nat :=
  let x := getMotor s m
  fieldN 26 26 (b2n x.blankedSeen) + fieldN 25 25 (b2n x.hallInvalid) + fieldN 24 24 (b2n x.stall)
  + fieldN 23 23 (b2n x.phasePhase) + fieldN 22 20 x.desat + fieldN 19 19 (b2n x.ocSoft) + fieldN 18 18 (b2n x.ocHard)
  + fieldN 17 17 (b2n x.shoot) + fieldN 6 6 (b2n (motorClamped s m)) + fieldN 5 5 (b2n (fullSpeed s m))
  + fieldN 4 4 (b2n (bothLapsed s)) + x.st.code

/-! ### Ends of driving -/

/-- All six gates off. -/
def gatesOff (x : Motor) : Motor :=
  { x with drive := false, softHeld := false, pendingComm := none, aligning := false, synth := 0, good := 0 }

/-- The channel stops (R329, Table 13.3). -/
def motorStop (s : State) (m : Nat) : State := modMotor s m (fun x => { gatesOff x with st := .stopped })

/-- The channel enters RESTART at PCLK time t. -/
def motorRestart (s : State) (m t : Nat) : State :=
  modMotor s m (fun x => { gatesOff x with st := .restart, pauseStart := t })

/-- A stall (R326). -/
def motorStall (s : State) (m t : Nat) : State :=
  motorRestart (modMotor s m (fun x => { x with stall := true, stalls := satN 8 (x.stalls + 1) })) m t

/-- LOCKOUT, with its record (R337, Table 15.3). -/
def motorLockout (s : State) (m : Nat) : State :=
  if (getMotor s m).st = .lockout then modMotor s m gatesOff
  else
    let s := modMotor s m (fun x => { gatesOff x with st := .lockout, desatTimes := [], firstJudged := none })
    logRec s 0x50 7 1 (leBytes 1 m ++ [0, 0, 0] ++ leBytes 4 (chStatus s m))

/-! ### Starts (R325) -/

/-- The step that HALL_MAP gives for a code under DIR; none for a code or an entry that names no step. -/
def hallStep (s : State) (m code : Nat) : Option Nat :=
  if code = 0 ∨ 6 < code then none
  else
    let k := (cfgN s (motorBase m + 0x44) >>> (3 * code - 3)) % 8
    if 5 < k then none else some (if motorDir s m then (k + 3) % 6 else k)

/-- The next step in direction. -/
def nextStep (s : State) (m k : Nat) : Nat := if motorDir s m then (k + 5) % 6 else (k + 1) % 6

/-- Applies the step of a Hall code; where the code or the map names none, the step is a free value (log entry 8). -/
def applyHall (s : State) (m code : Nat) : State :=
  match hallStep s m code with
  | some k => modMotor s m (fun x => { x with step := k })
  | none =>
    let (v, s) := drawFree s
    modMotor s m (fun x => { x with step := v.toNat % 6 })

/-- GATE_MAN comes into force: a double command sets SHOOT_THROUGH_BLOCKED (R320). -/
def gatesLoad (s : State) (m : Nat) : State :=
  let x := getMotor s m
  let s := setMotor s m { x with gates := x.gateMan, shoot := x.shoot || doubleOn x.gateMan }
  if doubleOn x.gateMan && decide (x.gates ≠ x.gateMan) then count s (273 + 2 * m) {} else s

/-- The channel starts at PCLK time t from stop. With DRIVE GATES it follows GATE_MAN (log entry 46). -/
def motorStart (s : State) (m t : Nat) : State :=
  let tp := intervalAt s m (handoff s m)
  let s := modMotor s m (fun x => { x with
    drive := true, softHeld := false, synth := 0, good := 0, pendingComm := none, last := t, rampStart := t,
    tp := tp, intervals := if tp = 0 then [] else List.replicate 6 tp })
  if motorDrive s m = 2 then gatesLoad (modMotor s m (fun x => { x with st := .running, gates := 0 })) m
  else
    let s := modMotor s m (fun x => { x with st := .ramp, dutyActive := rampDuty s m })
    if sensorless s m then modMotor s m (fun x => { x with aligning := true, step := 0, tp := 0, intervals := [] })
    else applyHall s m (getMotor s m).lastHall

/-- A channel follows its target (Table 13.3): the last applied target is kept, a stopped channel starts, and one that runs stops at
0. Gates are held until the trim is done (R33, R341). -/
def motorFollow (s : State) (m : Nat) : State :=
  if s.crd.phase ≠ .running then s
  else
    let x := getMotor s m
    let v := runTarget s m
    let s := if motorEn s m ∧ x.st ≠ .lockout then setMotor s m { x with applied := some (effTarget s m) } else s
    match x.st with
    | .stopped => if v = 0 then s else motorStart s m (pclkNow s)
    | .lockout => s
    | _ => if v = 0 then motorStop s m else s

/-- Every channel follows its target. -/
def motorsFollow (s : State) : State := (List.range 8).foldl motorFollow s

/-- The base of every channel changes as both heartbeats lapse: HOLD takes the effective target in force (R329). -/
def motorsLapse (s : State) : State :=
  (List.range 8).foldl (fun s m => modMotor s m (fun x => { x with lapseRpm := some (effTarget s m) })) s

/-! ### Teeth (R322 to R325) -/

/-- RUNNING begins: the integral and the shadow at the START_DUTY level, the ramped target at the speed reached (log entry 46). -/
def enterRunning (s : State) (m : Nat) : State :=
  let v := motorSpeed s m
  modMotor s m (fun x => { x with
    st := .running, integral := (startDuty s m * 256 : Nat), ramped := v * 1000,
    duty := if motorDrive s m = 0 then rampDuty s m else x.duty })

/-- A commutation to a step. -/
def commutate (s : State) (m k : Nat) : State := modMotor s m (fun x => { x with step := k, pendingComm := none })

/-- A pending commutation fires now. -/
def firePending (s : State) (m : Nat) : State :=
  match (getMotor s m).pendingComm with
  | some (_, k) => commutate s m k
  | none => s

/-- Records an interval and takes the mean of the last six (R324). -/
def recordInterval (x : Motor) (iv : Nat) : Motor :=
  let is := (iv :: x.intervals).take 6
  { x with intervals := is, tp := is.foldl (· + ·) 0 / is.length }

/-- The commutation that a tooth at `time` causes, at PCLK time `now` (R322). -/
def toothCommutes (s : State) (m time now : Nat) (synthetic : Bool) : State :=
  let x := getMotor s m
  if sensorless s m then
    let due := time + x.tp * commDelay s m / 64
    if due ≤ now then commutate s m (nextStep s m x.step)
    else setMotor s m { x with pendingComm := some (due, nextStep s m x.step) }
  else if synthetic then commutate s m (nextStep s m x.step)
  else applyHall s m x.lastHall

/-- A tooth counts toward MOTOR_REV, with the remainder carried (Table 15.1). -/
def countTooth (s : State) (m : Nat) : State :=
  let k := KMap.get (fun _ => 0) s.slog.toothRem m + 1
  let whole := decide (polePairs s m ≠ 0 ∧ 6 * polePairs s m ≤ k)
  let s := { s with slog := { s.slog with toothRem := KMap.set (fun _ => 0) s.slog.toothRem m (if whole then 0 else k) } }
  if whole then ltAdd s (16 + m) else s

/-- A tooth at `time` with its interval: accepted ones count toward the end of a ramp. -/
def tooth (s : State) (m time iv now : Nat) (synthetic : Bool) : State :=
  let s := countTooth s m
  let s := modMotor s m (fun x => { recordInterval x iv with
    last := time, synth := if synthetic then x.synth else 0, good := if synthetic then 0 else x.good + 1 })
  let s := if (getMotor s m).st = .ramp ∧ 6 ≤ (getMotor s m).good then enterRunning s m else s
  toothCommutes s m time now synthetic

/-- Counts noise. -/
def noiseAt (s : State) (m : Nat) : State := modMotor s m (fun x => { x with noise := satN 8 (x.noise + 1) })

/-- An edge on the watched input is judged (R323): noise before a quarter of T_P or in the last tenth of a pending commutation's
window, else a tooth. -/
def judgeEdge (s : State) (m t : Nat) : State :=
  let x := getMotor s m
  let late := match x.pendingComm with
    | some (due, _) => decide (t < due ∧ due - t < (due - x.last) / 10)
    | none => false
  if t < x.last + x.tp / 4 || late then noiseAt s m
  else tooth (firePending s m) m t (t - x.last) t false

/-- A crossing of the open loop (R325): the sixth in a row inside the window is the first tooth of RUNNING. -/
def openCrossing (s : State) (m t : Nat) : State :=
  let x := getMotor s m
  let inside := match x.pendingComm with
    | some (due, _) => decide (x.last + x.tp / 4 ≤ t ∧ t < due ∧ (due - x.last) / 10 ≤ due - t)
    | none => false
  if !inside then setMotor s m { x with good := 0 }
  else if x.good < 5 then setMotor s m { x with good := x.good + 1 }
  else
    let s := setMotor s m { x with pendingComm := none, intervals := List.replicate 5 x.tp, good := 6 }
    tooth s m t x.tp t false

/-! ### Faults (R332 to R337) -/

/-- A desaturation event on legs, judged outside blanking at PCLK time t. -/
def desatEvent (s : State) (m t : Nat) (legs : List Nat) : State :=
  match legs with
  | [] => s
  | leg :: _ =>
    let x := getMotor s m
    let bits := legs.foldl (fun b k => b ||| 2 ^ k) x.desat
    let pair := 2 ≤ legs.eraseDups.length || (match x.firstJudged with
      | some (t0, l0) => decide (t ≤ t0 + 8 ∧ l0 ≠ leg)
      | none => false)
    let bits := if pair then (match x.firstJudged with
      | some (t0, l0) => if t ≤ t0 + 8 then bits ||| 2 ^ l0 else bits
      | none => bits) else bits
    let s := setMotor s m { x with desat := bits, firstJudged := some (t, leg) }
    if pair then motorLockout (modMotor s m (fun x => { x with phasePhase := true })) m
    else if x.st = .lockout then modMotor s m (fun x => { x with desats := satN 8 (x.desats + 1) })
    else
      let times := x.desatTimes.filter (fun y => t ≤ y + 2000000000) ++ [t]
      let s := modMotor s m (fun x => { x with desats := satN 8 (x.desats + 1), desatTimes := times })
      if 3 ≤ times.length then motorLockout s m
      else if x.st = .ramp ∨ x.st = .running then motorRestart s m t
      else s

/-- OC_SOFT judged outside blanking (R334): the PWM high switch is off for the rest of the period. -/
def softEvent (s : State) (m : Nat) : State :=
  modMotor s m (fun x => { x with ocSoft := true, softHeld := x.drive && decide (motorDrive s m ≠ 2) })

/-- Is a fault input of a channel asserted (R337). -/
def faultInput (s : State) (m : Nat) : Bool := (getMotor s m).hardIn || (getMotor s m).desatIn

/-- Releases the channels of a mask from LOCKOUT: the state, and whether some bit was dropped. -/
def clearLockouts (s : State) (mask : Nat) : State × Bool :=
  let named := (List.range 8).filter (fun m => (mask >>> m) % 2 = 1)
  let ok := named.filter (fun m => !faultInput s m)
  (ok.foldl (fun s m => if (getMotor s m).st = .lockout then motorFollow (motorStop s m) m else s) s,
   named.any (faultInput s))

/-- An MC_CLEAR word: the key, the mask, and whether some of it was dropped. -/
def mcClearWord (s : State) (v : Word) : State × Bool :=
  if bf v 7 0 = 0x6D then clearLockouts s (bf v 15 8) else (s, true)

/-- An MC_CLEAR write of the host. -/
def mcClearWrite (s : State) (v : Word) : State :=
  let r := mcClearWord s v
  if r.2 then setBusy r.1 9 else r.1

/-! ### Warm reset (R33, R341) -/

/-- A warm reset holds the gates; the mirror keeps configuration, targets and LOCKOUT, HOLD takes the last applied target, and counts
and W1C flags restart. -/
def motorsWarm (s : State) : State :=
  (List.range 8).foldl (fun s m => modMotor s m (fun x => {
    st := if x.st = .lockout then .lockout else .stopped, mode := x.mode, failsafe := x.failsafe, hostRpm := x.hostRpm,
    holdRpm := x.holdRpm, floor := x.floor, applied := x.applied, lapseRpm := x.applied, tableVal := x.tableVal,
    duty := x.duty, gateMan := x.gateMan, en := x.en, accel := x.accel, gains := x.gains, pause := x.pause, lastHall := x.lastHall, hardIn := x.hardIn, desatIn := x.desatIn })) s

end Sys2Proof.Machine
end

