-- ==== Sys2Proof/Machine/ThermOps.lean ====
section
/-! DEFINITION. The thermal unit and the leak policies as operations (R295 to R312): levels, throttle targets, latches and the
stops they cause, the backstop, the release of latches, and the flash gate. -/

namespace Sys2Proof.Machine

/-! ### Channels (Table 12.7) -/

/-- Base of channel c's registers. -/
def chanBase (c : Nat) : Nat := 0x600100 + 0x20 * c
/-- A level of a channel: 0x04 warn, 0x08 throttle, 0x0C shutdown, 0x10 CRIT. -/
def chanLevel (s : State) (c o : Nat) : Int := sext 16 (cfgF s (chanBase c + o) 15 0)
/-- CH_CFG.EN. -/
def chanEn (s : State) (c : Nat) : Bool := cfgF s (chanBase c) 31 31 = 1
/-- HYST. -/
def chanHystV (s : State) (c : Nat) : Int := cfgF s (chanBase c + 0x14) 7 0
/-- The rise limit. -/
def riseLimit (s : State) (c : Nat) : Nat := cfgF s (chanBase c + 0x14) 23 16
/-- THROT_MAP. -/
def throtMap (s : State) (c : Nat) : Nat := cfgF s (chanBase c + 0x18) 8 0
/-- SHUT_MAP. -/
def shutMap (s : State) (c : Nat) : Nat := cfgF s (chanBase c + 0x18) 24 16
/-- What channel c took from its registers at its last sample; before the first, its reset values (R296, Tables 12.2 and 12.3). -/
def chanTaken (s : State) (c : Nat) : ChanTaken :=
  let word (o : Nat) : Nat := (cfgSpec (chanBase c + o)).reset
  (getChan s c).taken.getD
    { clear := sext 16 (word 0x08) - ((word 0x14 % 256 : Nat) : Int), throtMap := word 0x18 % 512, shutMap := word 0x18 / 2 ^ 16 % 512 }
/-- Rise window in ms (Table 12.2). -/
def riseMs (c : Nat) : Nat := if c < 16 then 50 else 1000
/-- Samples in a rise window (Table 12.1). -/
def riseSamples (c : Nat) : Nat := if c < 16 then 500 else 100

/-! ### Throttle targets (R300) -/

/-- Does an armed, confirmed leak under a policy cover accelerator n (R310). -/
def leakCovers (s : State) (n policy : Nat) : Bool := leakPolicy s (accLoop s n) = policy && leakOn s (accLoop s n)
/-- Is target k throttled. -/
def isThrottled (s : State) (k : Nat) : Bool :=
  (List.range 32).any (fun c => ((chanTaken s c).throtMap >>> k) % 2 = 1 && ((getChan s c).throt || (getChan s c).rise))
  || (decide (k < 8) && leakCovers s k 1)

/-- One target follows its condition: the first step down is taken at the sample where it becomes throttled, and a leak under
policy THROTTLE sets K to 4. -/
def thrFollow (s : State) (k : Nat) : State :=
  let x := getThr s k
  let now := isThrottled s k
  let floor (x : Throttle) : Throttle := if k < 8 ∧ leakCovers s k 1 then { x with k := 4 } else x
  if now && !x.throttled then
    let s := if 4 < x.k then count s 267 {} else s
    setThr s k (floor { k := max 4 (x.k - 1), throttled := true, nextAt := s.tick + 10000 })
  else if !now && x.throttled then setThr s k { x with throttled := false, nextAt := s.tick + 200000 }
  else setThr s k (floor x)

/-- Every target follows its condition. -/
def thrUpdate (s : State) : State := (List.range 9).foldl thrFollow s

/-! ### Latches (R302 to R305, Tables 12.4 and 12.5) -/

/-- The code of the action on An at a latch (Table 15.3). -/
def latchAction (s : State) (n : Nat) (skip : Bool) : Nat :=
  let a := getAcc s n
  if !(a.st = .idle || a.st = .run) then 0
  else if !(getSpoke s n).contract then 2
  else if skip then 3
  else 1

/-- A handshake of a stop of An begins, or a commanded one becomes the stop's: its grace counts from now. -/
def stopHandshake (s : State) (n : Nat) (chan : Nat) : State :=
  let s := setStop s n (some ⟨s.tick, [chan]⟩)
  let s := modAcc s n (fun a => { a with phase := .handshake, cmd := none, target := .retain })
  if spokeReady s n then writeRetain s n 1 else s

/-- Table 12.4 for An, in no transition. -/
def stopByTable (s : State) (n chan : Nat) (skip : Bool) : State :=
  match latchAction s n skip with
  | 0 => s
  | 1 => stopHandshake s n chan
  | _ => stopAccDie s n false

/-- The latch of An sets: its moves and its power and rail commands complete THERMAL_HOLD, a transition of it ends, and it is
stopped by Table 12.4 (log entry 37 for a transition that comes up). -/
def latchAcc (s : State) (chan : Nat) (skip : Bool) (n : Nat) : State :=
  let s := match spokeMove s n with
    | some m => if m.stage = .ending then finishMove s m else failMove s m { status := .thermalHold }
    | none => s
  let s := failPowerCmds s n { status := .thermalHold }
  let s := (List.range 5).foldl (fun s r => modRail s n r (fun x => { x with slewing := none })) s
  let s := modAcc s n (fun a => { a with cmd := none })
  let a := getAcc s n
  match a.phase with
  | .none => stopByTable s n chan skip
  | .handshake => if skip then stopAccDie s n false else stopHandshake s n chan
  | .down _ => stopAccDie s n (decide (a.target = .retain))
  | .limit => stopByTable (modAcc s n (fun a => { a with phase := .none })) n chan skip
  | _ => stopUp s n

/-- A die shutdown's domains (R43, Tables 6.11, 9.12): launches, batches and moves end, D04 and the array go OFF, HBM goes to
self-refresh, and the spoke domains of accelerators whose rails are off go OFF. -/
def dieDomains (s : State) : State :=
  let s := failAllMoves (failBatches (thermalStopLaunches s) .thermalHold) { status := .thermalHold }
  let s := forceDoms s ((4 :: arrayDoms).map (fun d => (d, DomSt.off)) ++ hbmForced s) 6
  (List.range 8).foldl (fun s n => if accLive (getAcc s n) ∨ (getStop s n).isSome then s else dieSpoke s n) s

/-- A stop already running takes one more cause (Table 12.5): its channel is recorded, and a skip ends the grace. -/
def stopCause (s : State) (chan : Nat) (skip : Bool) (n : Nat) : State :=
  match getStop s n with
  | none => s
  | some x => if skip then stopAccDie s n false else setStop s n (some { x with chans := chan :: x.chans })

/-- A shutdown sets the latches of the accelerators a test names, and the die latch where `die`; `chan` and `value` are the
record's (R302, R303, R305). -/
def setLatches (s : State) (named : Nat → Bool) (die : Bool) (chan value : Nat) (skip : Nat → Bool) : State :=
  let all := (List.range 8).filter named
  let new := all.filter (fun n => !s.therm.latch.getLsbD n)
  let dieNew := die && !s.therm.latch.getLsbD 8
  let s := (all.filter (fun n => s.therm.latch.getLsbD n)).foldl (fun s n => stopCause s chan (skip n) n) s
  if new = [] ∧ !dieNew then s
  else
    let bits : BitVec 9 := new.foldl (fun b n => b ||| (1#9 <<< n)) (if dieNew then 0x100#9 else 0#9)
    let onLoop (m : Nat) : BitVec 9 :=
      if leakOn s (pumpLoop s m) then 0#9
      else new.foldl (fun b n => if accLoop s n = pumpLoop s m then b ||| (1#9 <<< n) else b) 0#9
    let acts := new.foldl (fun t n => t + latchAction s n (skip n) * 4 ^ n) 0
    let p6 := s.therm.pump6 ||| onLoop 6
    let p7 := s.therm.pump7 ||| onLoop 7
    let s := { s with therm := { s.therm with latch := s.therm.latch ||| bits, pump6 := p6, pump7 := p7 } }
    let s := count s 269 {} (new.length + b2n dieNew)
    let s := if dieNew then { s with crd := { s.crd with cause := s.crd.cause ||| 0x200#10 } } else s
    let s := new.foldl (fun s n => latchAcc s chan (skip n) n) s
    let s := if dieNew then dieDomains s else s
    logRec s 0x30 6 1 (leBytes 2 s.therm.latch.toNat ++ leBytes 1 chan ++ [0] ++ leBytes 2 acts ++ leBytes 2 value)

/-! ### Leaks (R309 to R311) -/

/-- Every armed and confirmed leak acts by its loop's policy. The record of a leak's shutdown has no stated VALUE: a free value
(log entry 8). -/
def leaksAct (s : State) : State :=
  let named (n : Nat) : Bool := leakCovers s n 2 && !s.therm.latch.getLsbD n
  if (List.range 8).any named then
    let (v, s) := drawFree s
    thrUpdate (setLatches s named false 0xFE (v.toNat % 65536) (fun _ => false))
  else thrUpdate s

/-! ### TH_CLEAR (R306) -/

/-- Is a channel's value at or above THROTTLE − HYST, as it took them. -/
def chanWarm (s : State) (c : Nat) : Bool :=
  match (getChan s c).value with
  | some v => decide ((chanTaken s c).clear ≤ v)
  | none => false

/-- Must a latch's bit be dropped. -/
def latchBlocked (s : State) (b : Nat) : Bool :=
  if b < 8 then
    (List.range 32).any (fun c => ((chanTaken s c).shutMap >>> b) % 2 = 1 && (chanWarm s c || (getChan s c).value.isNone))
    || leakCovers s b 2
  else (List.range 16).any (chanWarm s) || s.therm.hwTrip

/-- Applies a mask of latches to clear: the state, and whether some bit was dropped. -/
def clearLatches (s : State) (mask : BitVec 9) : State × Bool :=
  let ok : BitVec 9 := (List.range 9).foldl (fun w b =>
    if mask.getLsbD b && !latchBlocked s b then w ||| (1#9 <<< b) else w) 0#9
  ({ s with therm := { s.therm with latch := s.therm.latch &&& ~~~ok, pump6 := s.therm.pump6 &&& ~~~ok,
                                    pump7 := s.therm.pump7 &&& ~~~ok } }, decide (ok ≠ mask))

/-- A TH_CLEAR word: the key, the mask, and whether some of it was dropped. -/
def thClearWord (s : State) (v : Word) : State × Bool :=
  if bf v 7 0 = 0x3C then clearLatches s (v.extractLsb' 16 9) else (s, true)

/-- A TH_CLEAR write of the host. -/
def thClearWrite (s : State) (v : Word) : State :=
  let r := thClearWord s v
  if r.2 then setBusy r.1 8 else r.1

/-! ### The flash gate (R307) -/

/-- The gate follows a sample of channel 20. -/
def flashGate (s : State) : State :=
  let v := (getChan s 20).value
  let shut := match v with | some t => decide (t < -80 ∨ 1360 < t) | none => true
  let opens := match v with | some t => decide (-64 ≤ t ∧ t ≤ 1344) | none => false
  if shut then { s with therm := { s.therm with flashInhibit := true } }
  else if opens then { s with therm := { s.therm with flashInhibit := false }, slog := { s.slog with eraseHeld := false } }
  else s

end Sys2Proof.Machine
end

