-- ==== Sys2Proof/Machine/ResetOps.lean ====
section
/-! DEFINITION. Resets as operations (R22, R23, R32 to R41, R49): Marl-only, warm and power-on resets, the trim load, domain and bed
resets, clock fallback, and the writes of RESET_CTRL, DOM_CTRL and GCLK_CTRL. -/

namespace Sys2Proof.Machine

/-- Sets bit i of RESET_CAUSE (Table 2.11). -/
def setCause (s : State) (i : Nat) : State := { s with crd := { s.crd with cause := s.crd.cause ||| (1#10 <<< i) } }
/-- REG_BUSY of the clocks block. -/
def busyCrd (s : State) : State := setBusy s 3

/-! ### Marl-only reset (R35, R105, Table 2.6) -/

/-- A move ends with a Marl-only reset: past its commit point its effect stands, before it nothing is committed. -/
def marlMove (s : State) (m : Move) : State :=
  if m.stage = .ending then
    (let s := if m.spoke = 8 then sealRelease s (sealWho m.cmd) else s
     setPending (dropMove s m.cmd) m.handle 0)
  else abandonMove s m

/-- An accelerator's transition goes on without its command; a handshake not yet answered that no stop waits for is abandoned
(Table 11.4). -/
def marlAcc (s : State) (n : Nat) : State :=
  let a := getAcc s n
  let hs := decide (a.phase = .handshake) && (getStop s n).isNone
  let s := setAcc s n { a with
    cmd := none, phase := if hs then .none else a.phase, abandoned := a.abandoned || hs,
    rails := a.rails.map (fun e => (e.1, { e.2 with slewing := none })) }
  setAccBoot s n { getAccBoot s n with relCmd := none }

/-- What a Marl-only reset does: every command in flight completes ABORTED_RESET, and Marl's own state goes. Tenant resets in
progress go on after the restart (Table 4.12). -/
def marlClear (s : State) : State :=
  let s := s.strata.moves.foldl marlMove s
  let s := dropLaunches s (fun _ => true)
  let s := failAllIngest s .abortedReset
  let s := (List.range 8).foldl marlAcc s
  let tens : KMap Tenant := s.qc.tenants.map (fun e =>
    (e.1, { e.2 with reset := e.2.reset.map (fun r => { r with cmds := [] }) }))
  let s : State := { s with domSeqs := [], qc := { s.qc with tenants := tens } }
  let s := s.qc.cmds.foldl (fun s c => complete s c.seq { status := .abortedReset }) s
  loaderStart { s with
    crd := { s.crd with fwUp := false },
    boot := { s.boot with drainUntil := none, trialEnd := none, trialRun := false, trialWindow := 0 },
    sealEng := { s.sealEng with ctx0 := none, ctx1 := none, waiting := [], suspended := [], doeBusy := true, negotiated := 0 } }

/-- A Marl-only reset with its RESET_CAUSE bit, ignored while a warm reset or a trim load is in progress (Table 2.7). -/
def marlReset (s : State) (bit : Nat) : State :=
  if s.crd.phase ≠ .running ∨ s.crd.warmWaiting then s
  else
    let s := count (setCause s bit) 307 {}
    marlClear { s with hz := { s.hz with marlResets := satN 8 (s.hz.marlResets + 1) } }

/-! ### Warm reset (R32 to R34, R37, R105, Table 2.6) -/

/-- The domains at a warm reset (Table 2.6, R33, R43): power-on column, but D06 to D13 as they were, D14 to D19 in self-refresh or
OFF, and D04 OFF while the die latch is set. ERR stands, as a warm reset is not among what clears it (Table 2.13). -/
def warmDom (s : State) (d : Nat) : Dom :=
  let x := getDom s d
  let t := s.tick
  if isSpoke d then ⟨x.cur, x.req, x.err, .idle, x.cur, t⟩
  else if isHbm d then
    (if x.cur = .off then ⟨.off, x.req, x.err, .idle, .off, t⟩
     else if x.cur = .on ∧ !s.therm.latch.getLsbD 8 then ⟨.retention, x.req, x.err, .leg, .on, t⟩
     else ⟨.retention, x.req, x.err, .idle, .retention, t⟩)
  else if d = 4 ∧ s.therm.latch.getLsbD 8 then ⟨.off, .off, x.err, .idle, .off, t⟩
  else { domInit d with err := x.err }

/-- A tenant across a warm reset (R105): its epoch and its spill number stay; a tenant reset in progress is dropped unfinished
(DESIGN CHOICE, log entry 68). -/
def warmTenant (x : Tenant) : Tenant := { epoch := x.epoch, spillSeq := x.spillSeq }

/-- What a warm reset keeps of an accelerator's power state: all of it but its commands and PMBUS_ERR (11). -/
def warmAcc (a : Acc) : Acc :=
  { a with cmd := none, pmbusErr := false, rails := a.rails.map (fun e => (e.1, { e.2 with slewing := none })) }

/-- A register store after a warm reset: the configuration words that D00 keeps, of accelerator power with its links (R260, R292) and
of the motors' mirror. -/
def warmRegs (s : State) : RegFile :=
  { cfg := s.regs.cfg.filter (fun e => blockOf e.1 = 7 ∨ blockOf e.1 = 9), busy := s.regs.busy.filter (fun e => e.1 = 3) }

/-- A telemetry window after a warm reset: it begins at the next boundary of its length (R292). -/
def warmWindows (s : State) (us : Nat) : KMap TelemWin :=
  (List.range 10).foldl (fun m k => KMap.set (fun _ => ({} : TelemWin)) m k { start := (s.tick / us + 1) * us, len := us }) []

/-- Clears what Table 2.6 clears on a warm reset; the trim load starts at word 0. A grain that has failed is fenced, though its turn
had not come (R159). -/
def warmClear (s : State) : State :=
  let s := cutsUnread (motorsWarm (s.garr.beds.foldl (fun s e => fenceWaiting s e.1) s))
  let doms := (List.range 92).foldl (fun m d => KMap.set domInit m d (warmDom s d)) []
  { s with
    crd := { s.crd with phase := .trim, trimDone := false, trimRetried := false, secondPass := false, warmWaiting := false,
                        fallback := false, fwUp := false, switching := false, trimWords := [] },
    doms := doms, domSeqs := [], regs := warmRegs s,
    hz := { marlResets := s.hz.marlResets, lastFault := s.hz.lastFault, lastPub := s.hz.lastPub, stale := s.hz.stale },
    qc := { tenants := s.qc.tenants.map (fun e => (e.1, warmTenant e.2)), nextSeq := s.qc.nextSeq },
    pm := {},
    boot := { trialFailed := s.boot.trialFailed, code := s.boot.code, codeBad := s.boot.codeBad, retained := s.boot.retained,
              trialArmed := s.boot.trialArmed, pending := s.boot.pending, otpKeys := s.boot.otpKeys,
              revoked := s.boot.revoked, provisioned := s.boot.provisioned, identityKey := s.boot.identityKey,
              chain := s.boot.chain, hostLocked := s.boot.hostLocked, unverifiedRan := s.boot.unverifiedRan },
    sealEng := { accs := s.sealEng.accs.map (fun e => (e.1, { e.2 with pushed := [], relCmd := none })) },
    garr := { remap := s.garr.remap, nextLaunch := s.garr.nextLaunch,
              beds := (s.garr.beds.map (fun e => (e.1, ({ fencedMask := e.2.fencedMask } : Bed)))).filter (fun e => e.2 ≠ {}),
              grains := (s.garr.grains.map (fun e => (e.1, ({ fenced := e.2.fenced } : Grain)))).filter (fun e => e.2 ≠ {}) },
    strata := { recs := s.strata.recs, extents := s.strata.extents.filter (fun e => e.kind = 0), badLines := s.strata.badLines },
    links := { spokes := s.links.spokes.map (fun e => (e.1, spokeLogic e.2)) },
    pow := { s.pow with accs := s.pow.accs.map (fun e => (e.1, warmAcc e.2)),
                        avg := warmWindows s (cfgF s 0x500008 15 0 * 1000), peak := warmWindows s (cfgF s 0x500008 31 16 * 1000),
                        pubAvg := [], pubPeak := [], gov := [], sampleAt := [] },
    therm := { s.therm with chans := [], flashInhibit := true, loopCfg := 0x200F0, leakCfg := 0xA00F0 },
    leaks := s.leaks.map (fun e => (e.1, ({ armHost := e.2.armHost, armBmc := e.2.armBmc } : Leak))),
    tw := {},
    mem := { s.mem with ls := [], gm := KMap.clearRange s.mem.gm Config.loamBase (Config.loamBase + Config.loamBytes) } }

/-- A warm reset for a cause: one that arrives during a trim load restarts it; in clock fallback it waits (R37, R41). -/
def warmReset (s : State) (bit : Nat) : State :=
  let s' := setCause s bit
  match s.crd.phase, s.crd.fallback with
  | .por, _ => s
  | .trim, true => { setCause s' 8 with crd := { (setCause s' 8).crd with warmWaiting := true } }
  | _, true => { s' with crd := { s'.crd with warmWaiting := true } }
  | .trim, false => { setCause s' 8 with crd := { (setCause s' 8).crd with trimRetried := false, secondPass := false } }
  | .running, false => warmClear s'
  | _, false => s'

/-! ### Power-on reset (R32, Table 2.6, Table 2.8) -/

/-- The state with power-on reset asserted: everything is as after power-on, but what lies outside the steward or in its OTP, the
commands that wait, the pins, the test access port and the model's own counter. RESET_CAUSE holds POR, and TRIM_RESTART where a trim
load was in progress (R37, R48). -/
def powerOn (s : State) : State :=
  { pending := s.pending, freeCtr := s.freeCtr, jtag := s.jtag,
    crd := { porN := s.crd.porN, supplyOk := s.crd.supplyOk, perstN := s.crd.perstN, bootHost := s.crd.bootHost,
             w0Addr := s.crd.w0Addr, testEn := s.crd.testEn, cause := if s.crd.phase = .trim then 0x101#10 else 1#10 },
    boot := { otpKeys := s.boot.otpKeys, revoked := s.boot.revoked, provisioned := s.boot.provisioned,
              identityKey := s.boot.identityKey, chain := s.boot.chain },
    pow := { inputLost := s.pow.inputLost },
    motors := (List.range 8).foldl (fun m i =>
      let x := getMotor s i
      KMap.set motorInit m i { motorInit i with lastHall := x.lastHall, hardIn := x.hardIn, desatIn := x.desatIn }) [],
    mem := { host := s.mem.host, acc := s.mem.acc, flash := s.mem.flash } }

/-- Draws EPOCHn of a tenant (R125). -/
def drawEpoch (s : State) (t : Nat) : State :=
  let (v, s) := drawFree s
  modTen s t (fun x => { x with epoch := v })

/-- Power-on reset ends once POR_N is high and the supplies are good: the crystal is qualified, and every EPOCHn is drawn. -/
def leavePor (s : State) : State :=
  if s.crd.phase = .por ∧ s.crd.porN ∧ s.crd.supplyOk then
    (List.range 64).foldl drawEpoch { s with crd := { s.crd with phase := .qualifying } }
  else s

/-! ### Trim (R37, R38, R23) -/

/-- Is a pass good: 512 words, the CRC in word 511, and every documented range. -/
def trimGood (words : List Word) (coreVid : Nat) (inRange : Bool) : Bool :=
  words.length = 512 && inRange && decide (20 ≤ coreVid ∧ coreVid ≤ 50)
  && (words.getD 511 0) = crc32 ((words.take 511).flatMap (fun w => leBytes 4 w.toNat))

/-- TRIM_DONE: the trim applies as a whole, GCLK takes its cap, D01 to D91 are released, and the loader starts. -/
def trimEnds (s : State) (words : List Word) (coreVid : Nat) (defaulted : Bool) : State :=
  let cap := if defaulted then 12 else 16
  let s := { s with crd := { s.crd with
    phase := .running, trimDone := true, trimDefaulted := defaulted, secondPass := false, trimWords := words,
    coreVid := coreVid, gclkCap := cap, gclkApplied := min s.crd.gclkReq cap, switching := false } }
  motorsFollow (loaderStart s)

/-- TRIM_PASS_END: a bad first pass is repeated; after a bad second one every word takes its built-in default. -/
def trimPass (s : State) (words : List Word) (coreVid : Nat) (inRange : Bool) : State :=
  if s.crd.phase ≠ .trim ∨ s.crd.fallback then s
  else if trimGood words coreVid inRange then trimEnds s words coreVid false
  else if s.crd.secondPass then trimEnds s ((List.range 512).map Config.trimDefault) 44 true
  else { s with crd := { s.crd with trimRetried := true, secondPass := true } }

/-! ### Domain and bed resets (R36) -/

/-- What an accepted domain or bed reset clears (Table 2.6). -/
def domResetEffect (s : State) (d : Nat) : State :=
  if isBed d then bedReset s (d - 28)
  else if isSlice d then zeroSlice (dropEndpoint s (fun e => decide (e = d - 20))) (d - 20)
  else if isSpoke d then
    enterDom (stopSpoke s (d - 6)) d .on
  else
    clrBusy (resetCfg { s with sealEng := { s.sealEng with ctx0 := none, ctx1 := none, waiting := [], suspended := [] } }
      (fun b => b = 4)) 13

/-- A DOM_GO request for domain d: refused in the order of R36, or begun. -/
def domGo (s : State) (d : Nat) : State :=
  let refused (s : State) : State := busyCrd { s with crd := { s.crd with rstRefused := true } }
  if 91 < d then refused s
  else if d < 2 ∨ (3 ≤ d ∧ d < 6) ∨ isHbm d then refused (setErr s d 9)
  else if domBusy s d then refused (setErr s d 5)
  else if domHeld s d .gated true && !isHbm d then refused (setErr s d 4)
  else if domUsed s d then refused (setErr s d 5)
  else if (getDom s d).cur ≠ .on then refused (setErr s d 8)
  else modDom (domResetEffect s d) d (fun x => { x with err := 0, phase := .resetting, since := s.tick })

/-- The longest a domain or bed reset lasts (R36), in µs. -/
def domResetUs (d : Nat) : Nat := if d = 2 then 50 else if isSlice d then 2620 else 10

/-! ### Register writes -/

/-- A RESET_CTRL write (Table 2.12): the key, then the highest of WARM, MARL and DOM_GO. -/
def resetCtrlWrite (s : State) (v : Word) : State :=
  if bf v 7 0 ≠ 0xC5 then busyCrd s
  else if v.getLsbD 8 then warmReset s 4
  else if v.getLsbD 9 then marlReset s 6
  else if v.getLsbD 24 then domGo s (bf v 22 16)
  else s

/-- A DOM_CTRL write of domain d (R49, Table 2.7): dropped while the domain is busy; else checked as a DOMAIN_STATE with a count
of 1, which a single domain of D14 to D19 fails (R25). -/
def domCtrlWrite (s : State) (d : Nat) (v : Word) : State :=
  let t := DomSt.ofCode (bf v 1 0)
  if domBusy s d then busyCrd s
  else
    let e := if isHbm d then 1 else domErr s d t
    if e ≠ 0 then setErr s d e
    else if (getDom s d).cur = t then modDom s d (fun x => { x with req := t, err := 0 })
    else beginDom s d t

/-- A GCLK_CTRL write (R23): below 4 it is stored as 4, above the cap it is kept; a change of the capped value switches. -/
def gclkWrite (s : State) (v : Word) : State :=
  let k := max 4 (bf v 4 0)
  { s with crd := { s.crd with gclkReq := k, switching := s.crd.switching || decide (min k s.crd.gclkCap ≠ s.crd.gclkApplied) } }

/-! ### Clock fallback (R40) -/

/-- The page fields of the blocks that stop, as they stand (R68). -/
def pageHeld (s : State) : HzHeld :=
  { fault := stoppedBits s, linkUp := (List.range 8).map (fun n => decide ((getSpoke s n).link = .l0)),
    contract := (List.range 8).map (fun n => (getSpoke s n).contract), grain := grainNow s, gclk := s.crd.gclkApplied }

/-- Clock fallback begins: the page holds the fields of the blocks that stop, the clocks switch, U stops, the domains are forced, and
what ran on them ends. -/
def enterFallback (s : State) : State :=
  let s : State := { s with hz := { s.hz with held := some (pageHeld s) } }
  let s := setCause { s with crd := { s.crd with fallback := true },
                             links := { s.links with u := { s.links.u with l0 := false } } } 7
  let s := logRec s 0x11 1 0 []
  let s := failAllMoves (failBatch s .grainFault) (refuse .notPermitted 4 4)
  let s := s.garr.launches.foldl stopLaunch s
  let down (d : Nat) : Nat × DomSt :=
    (d, if (getDom s d).cur = .retention ∧ effDom s d ≠ .off then .retention else .off)
  forceDoms s ((4 :: arrayDoms).map down ++ hbmForced s ++ (List.range 8).map (fun n => (6 + n, .off))) 10

/-- The clock monitor declares ROOT or the PLL's lock lost. In fallback a further loss is no second entry: it ends the presence of ROOT
or the lock that a warm reset waits for (R41). Before ROOT is qualified there is none to lose (log entry 50). -/
def clockLost (s : State) (rootGone : Bool) : State :=
  let u : State := { s with crd := { s.crd with rootOk := s.crd.rootOk && !rootGone, pllLock := false } }
  if s.crd.phase = .por ∨ s.crd.phase = .qualifying then s
  else if s.crd.fallback then u
  else enterFallback u

end Sys2Proof.Machine
end

