-- ==== Sys2Proof/Machine/Boot.lean ====
section
/-! DEFINITION. Boot and trust (R112 to R133): the loader's runs, FW_UP, staging, trial and confirmation, the seal engine's segments,
and the SPDM requests. -/

namespace Sys2Proof.Machine

/-! ### Starts (R47, R117, R124) -/

/-- LOADER_RUN: from TRIM_DONE or a Marl-only reset, with what the flash answers to its SFDP read and where it falls silent. -/
def execLoaderRun (x : FlashRead) (s : State) : Host.Outcome State Fault Refusal :=
  done (if s.crd.phase = .running ∧ s.boot.loaderRunning ∧ !s.boot.started ∧ !s.boot.waitHost then loaderRun s x.sfdp x.stall else s)

/-- FW_UP. -/
def execFwUp (s : State) : Host.Outcome State Fault Refusal :=
  done (if s.crd.phase = .running ∧ s.boot.started ∧ !s.crd.fwUp then fwUpNow s else s)

/-- DESCRIPTOR_WRITE (R124): the pending descriptor goes to flash once writes are allowed. -/
def execDescriptorWrite (s : State) : Host.Outcome State Fault Refusal :=
  done (match s.boot.pending with
    | some d =>
      if s.crd.fwUp ∧ flashOpen s then descWrite { s with boot := { s.boot with pending := none } } d else s
    | none => s)

/-! ### FW_STAGE (R120, Table 5.10) -/

/-- The slot that is not ACTIVE in the descriptor in use. -/
def otherSlot (s : State) : Nat := 1 - (descNow s).active % 2

/-- Bytes of a flash sector that the steward erases (R120): 64 KiB where SFDP reports such sectors, else 4 KiB. -/
def sectorBytes (s : State) : Nat := if s.boot.sfdp.sectors64 then 0x10000 else 0x1000

/-- Erases a slot's sectors for an image of n bytes and programs it; the last header page stays erased unless `last`. -/
def stageWrite (s : State) (k : Nat) (img : List Byte) (last : Bool) : State :=
  let a := slotBase k
  let s := flashErase s a (a + roundUp img.length (sectorBytes s))
  let s := flashProg s (a + 4096) (img.drop 4096)
  let s := flashProg s a (img.take 0xF00)
  if last then flashProg s (a + 0xF00) ((img.drop 0xF00).take 0x100) else s

/-- A staging write that stops after n bytes: the payload goes first, then the header, and the last header page stays erased
(Table 5.10, log entry 56). -/
def stageCut (s : State) (k : Nat) (img : List Byte) (n : Nat) : State :=
  let a := slotBase k
  let s := flashErase s a (a + roundUp img.length (sectorBytes s))
  let s := flashProg s (a + 4096) ((img.drop 4096).take n)
  flashProg s a ((img.take 0xF00).take (n - (img.length - 4096)))

/-- The end of a staging write of img by command c. After a reset's cut the command is still in flight, and the reset completes it. -/
def stageEnds (s : State) (c : Nat) (img : List Byte) (e : StageEnd) : State :=
  let k := otherSlot s
  match e with
  | .good => complete (stageWrite s k img true) c (okR img.length (b2n (decide ((verifyImage s img).1 = 0))))
  | .mismatch => complete (stageWrite s k img false) c (refuse .dataError 5 0x02)
  | .gate n => complete (stageCut s k img n) c { status := .thermalHold }
  | .cut n => stageCut s k img n

/-- FW_STAGE once it has a seal context for its digests: the image is read and checked, and its write ends. -/
def fwStageRun (dma : Option Nat) (ended : StageEnd) (c : Cmd) (s : State) : State :=
  match dma with
  | some a => complete s c.seq (dmaReadErr a)
  | none =>
    let img := hostRead s (c.f 0x10 8) (c.f 0x18 8)
    if !bootImageOk img then complete s c.seq (refuse .dataError 5 0x01)
    else stageEnds s c.seq img ended

/-- FW_STAGE waits for a seal context, or runs with one. -/
def fwStageServe (dma : Option Nat) (ended : StageEnd) (s : State) (c : Cmd) : State :=
  sealServe s (sealWho c.seq) (ceilDiv (c.f 0x18 8) 0x100000) true (fwStageRun dma ended c)

/-- FW_STAGE from step 10, with the end of its write. -/
def fwStageBody (dma : Option Nat) (ended : StageEnd) (s : State) (c : Cmd) : State :=
  if (descNow s).trial then complete s c.seq (refuse .busyGuarded 0 0)
  else if s.boot.pending.isSome then complete s c.seq (refuse .busyGuarded 5 0x03)
  else if !flashOpen s then complete s c.seq { status := .thermalHold }
  else fwStageServe dma ended s c

/-- FW_STAGE: it starts, or goes on once the seal engine has given it a context. -/
def execFwStage (c : Nat) (dma : Option Nat) (ended : StageEnd) (s : State) : Host.Outcome State Fault Refusal :=
  done (match findCmd s c with
    | some cmd =>
      if cmd.started ∧ cmd.op = 0x50 then (if sealHolds s (sealWho c) then fwStageServe dma ended s cmd else s)
      else startCmd s c 0x50 none noDoms noHold (fwStageBody dma ended)
    | none => s)

/-! ### Trial and confirmation (R121 to R123) -/

/-- FW_COMMIT_TRIAL from step 10: the TRIAL descriptor, trial_armed, and the drain of 1.0 s. -/
def fwCommitBody (s : State) (c : Cmd) : State :=
  let d := descNow s
  let k := otherSlot s
  if d.trial then complete s c.seq (refuse .busyGuarded 0 0)
  else if !flashOpen s then complete s c.seq (refuse .busyGuarded 5 0x01)
  else if !bootImageOk (slotImage s k) then complete s c.seq (refuse .notPermitted 5 0x02)
  else if s.boot.pending.isSome then complete s c.seq (refuse .busyGuarded 5 0x03)
  else
    let s := descWrite s { d with trial := true, trialSlot := k, windowS := c.f 8 2 }
    let s := complete s c.seq (okR)
    { s with boot := { s.boot with trialArmed := true, drainUntil := some (s.tick + 1000000) } }

/-- FW_COMMIT_TRIAL. -/
def execFwCommitTrial (c : Nat) (s : State) : Host.Outcome State Fault Refusal :=
  done (startCmd s c 0x51 none noDoms noHold fwCommitBody)

/-- FW_CONFIRM from step 10: the trial's slot becomes ACTIVE, in flash now or as the pending descriptor. -/
def fwConfirmBody (s : State) (c : Cmd) : State :=
  if !s.crd.fwUp ∨ s.boot.trialWindow = 0 then complete s c.seq (refuse .notPermitted 5 0x03)
  else
    let d := descNow s
    let d' := { d with active := d.trialSlot % 2, trial := false }
    let s := { s with boot := { s.boot with trialEnd := none, trialRun := false, trialWindow := 0 } }
    let s := if flashOpen s then descWrite s d' else { s with boot := { s.boot with pending := some d' } }
    complete s c.seq (okR)

/-- Has the trial window ended: its expiry comes first (Table 5.10). -/
def trialOver (s : State) : Bool := match s.boot.trialEnd with | some t => decide (t ≤ s.tick) | none => false

/-- FW_CONFIRM. -/
def execFwConfirm (c : Nat) (s : State) : Host.Outcome State Fault Refusal :=
  done (if trialOver s then s else startCmd s c 0x52 none noDoms noHold fwConfirmBody)

/-- TRIAL_DRAIN_END (R121). -/
def execTrialDrainEnd (s : State) : Host.Outcome State Fault Refusal :=
  done (match s.boot.drainUntil with
    | some t => if s.qc.cmds = [] ∨ t ≤ s.tick then marlReset s 6 else s
    | none => s)

/-- TRIAL_WATCHDOG_EXPIRY (R123). -/
def execTrialWatchdogExpiry (s : State) : Host.Outcome State Fault Refusal :=
  done (if trialOver s then marlReset s 5 else s)

/-! ### The seal engine (R128) -/

/-- A requester at the end of a segment: with another waiting it goes to the back of the queue, and the state of a message that goes
on goes to the suspend store. -/
def segmentEnd (e : Seal) (r : SealReq) (free : Seal → Seal) : Seal :=
  let r' : SealReq := { r with segmentsLeft := r.segmentsLeft - 1 }
  let f := sealFill { free e with waiting := e.waiting ++ [r'], suspended := e.suspended ++ (if r.keeps then [r.who] else []) }
  let back (x : Option SealReq) (w : Nat) : Bool := match x with | some y => decide (y.who = w) | none => false
  { f with suspended := f.suspended.filter (fun w => !back f.ctx0 w && !back f.ctx1 w) }

/-- SEAL_SEGMENT_END. -/
def execSealSegmentEnd (ctx : Fin 2) (s : State) : Host.Outcome State Fault Refusal :=
  let e := s.sealEng
  done (match if ctx.val = 0 then e.ctx0 else e.ctx1 with
    | some r =>
      if r.segmentsLeft ≤ 1 then s
      else if e.waiting = [] then
        let r' : SealReq := { r with segmentsLeft := r.segmentsLeft - 1 }
        { s with sealEng := if ctx.val = 0 then { e with ctx0 := some r' } else { e with ctx1 := some r' } }
      else
        { s with sealEng := segmentEnd e r (fun e => if ctx.val = 0 then { e with ctx0 := none } else { e with ctx1 := none }) }
    | none => s)

/-! ### Attestation (R129, Tables 5.8 and 5.9; the forms of DSP0274 are PRESUMED, log entry 19) -/

/-- The DOE responder among seal requesters. -/
def spdmWho : Nat := 1

/-- An SPDM request on the PF's DOE mailbox: answered unless it is Busy or U is not in L0. -/
def spdm (s : State) (answer : State → State × Option (List Byte)) : Host.Outcome State Fault Refusal :=
  done (if s.sealEng.doeBusy ∨ !s.links.u.l0 then s
  else
    let (s, r) := answer (count s 165 {})
    match r with
    | some bs => { s with resp := .data bs }
    | none => count s 166 {})

/-- An SPDM ERROR response of a code. -/
def spdmError (s : State) (code : Nat) : State × Option (List Byte) :=
  ({ s with resp := .data ([0x12, 0x7F] ++ leBytes 1 code ++ [0]) }, none)
/-- An SPDM ERROR whose code the spec does not state: a free value (log entry 8). -/
def spdmRefuse (s : State) : State × Option (List Byte) :=
  let (v, s) := drawFree s
  spdmError s v.toNat
/-- ERROR Unspecified. -/
def spdmUnspecified (s : State) : State × Option (List Byte) := spdmError s 0x05
/-- ERROR UnsupportedRequest. -/
def spdmUnsupported (s : State) : State × Option (List Byte) := spdmError s 0x07

/-- A request that comes after the algorithms are negotiated: before that, ERROR UnexpectedRequest. -/
def spdmNegotiated (s : State) (answer : State → State × Option (List Byte)) : Host.Outcome State Fault Refusal :=
  spdm s (fun s => if s.sealEng.negotiated = 0 then spdmError s 0x04 else answer s)

/-- A request whose answer takes a digest: with both seal contexts held it waits for one, and is answered when its row comes again
(R128). -/
def spdmHashed (s : State) (answer : State → State × Option (List Byte)) : Host.Outcome State Fault Refusal :=
  if s.sealEng.doeBusy ∨ !s.links.u.l0 then done s
  else if sealHolds s spdmWho then spdmNegotiated (sealRelease s spdmWho) answer
  else if s.sealEng.waiting.any (fun r => r.who = spdmWho) then done s
  else if sealFree s then spdmNegotiated s answer
  else done (sealAcquire s spdmWho 1)

/-- A fresh nonce of 32 bytes from the noise source: free values. -/
def spdmNonce (s : State) : List Byte × State :=
  (List.range 4).foldl (fun (p : List Byte × State) _ =>
    let (v, s) := drawFree p.2
    (p.1 ++ leBytes 8 v.toNat, s)) ([], s)

/-- A response signed with the identity key over the request's nonce and the response. -/
def spdmSigned (nonce resp : List Byte) : List Byte := resp ++ Config.ecdsaSign (sha384 (nonce ++ resp))

/-- GET_VERSION: 1.2 only; the negotiation starts again. -/
def execGetVersion (s : State) : Host.Outcome State Fault Refusal :=
  spdm s (fun s => ({ s with sealEng := { s.sealEng with negotiated := 0 } }, some [0x10, 0x04, 0, 0, 0, 1, 0x00, 0x12]))

/-- GET_CAPABILITIES. -/
def execGetCapabilities (s : State) : Host.Outcome State Fault Refusal :=
  spdm s (fun s => (s, some ([0x12, 0x61] ++ Config.spdmBytes 0xE1)))

/-- NEGOTIATE_ALGORITHMS: P-384 and SHA-384 only. -/
def execNegotiateAlgorithms (p384 sha384 : Bool) (s : State) : Host.Outcome State Fault Refusal :=
  spdm s (fun s =>
    if p384 && sha384 then
      ({ s with sealEng := { s.sealEng with negotiated := 1 } }, some ([0x12, 0x63] ++ Config.spdmBytes 0xE3))
    else spdmRefuse s)

/-- Digest of slot 0's chain. -/
def chainDigest (s : State) : List Byte := digestBytes (sha384 s.boot.chain)

/-- GET_DIGESTS: the slots that hold a chain, and its digest; with none, no digest (DESIGN CHOICE, log entry 68). -/
def execGetDigests (s : State) : Host.Outcome State Fault Refusal :=
  spdmHashed s (fun s => (s, some ([0x12, 0x01, 0] ++ leBytes 1 (b2n s.boot.provisioned)
    ++ (if s.boot.provisioned then chainDigest s else []))))

/-- GET_CERTIFICATE: bytes of slot 0's chain, with how many they are and how many remain. -/
def execGetCertificate (slot off len : Nat) (s : State) : Host.Outcome State Fault Refusal :=
  spdmNegotiated s (fun s =>
    if slot = 0 ∧ s.boot.provisioned then
      let part := (s.boot.chain.drop off).take len
      (s, some ([0x12, 0x02, 0, 0] ++ leBytes 2 part.length ++ leBytes 2 (s.boot.chain.length - (off + part.length)) ++ part))
    else spdmRefuse s)

/-- May the identity key sign: KEY_LOCK is 0 and the key exists, whether or not slot 0 holds its chain (DESIGN CHOICE, log entry
68). -/
def canSign (s : State) : Bool := !s.boot.keyLock && (s.boot.identityKey || s.boot.provisioned)

/-- CHALLENGE: the digest of slot 0's chain and a nonce, signed with the identity key. -/
def execChallenge (slot : Nat) (nonce : List Byte) (s : State) : Host.Outcome State Fault Refusal :=
  spdmHashed s (fun s =>
    if s.boot.keyLock then spdmUnspecified s
    else if slot ≠ 0 ∨ !canSign s then spdmRefuse s
    else
      let (own, u) := spdmNonce s
      (u, some (spdmSigned nonce ([0x12, 0x03, 0, 1] ++ chainDigest s ++ own ++ [0, 0]))))

/-- The content of a measurement block (Table 5.9); an accelerator without the contract has a zero one (Table 10.5). -/
def measurement (s : State) (i : Nat) : Option (List Byte) :=
  let d := descNow s
  match i with
  | 1 => some (digestBytes (BitVec.ofNat 384 s.boot.runDigest))
  | 2 => some (leBytes 8 s.boot.runVer.toNat ++ leBytes 1 s.boot.runSrc ++ leBytes 1 s.boot.verify)
  | 3 => some (leBytes 1 d.active ++ leBytes 1 (b2n d.trial) ++ leBytes 1 d.trialSlot ++ leBytes 2 d.windowS
      ++ leBytes 1 (b2n s.boot.trialFailed))
  | 4 => some (digestBytes (sha384 Config.loaderRom))
  | 5 => some (digestBytes (sha384 (s.crd.trimWords.flatMap (fun w => leBytes 4 w.toNat)
      ++ leBytes 1 (b2n s.crd.trimDefaulted))))
  | _ =>
    if 8 ≤ i ∧ i < 16 then
      let a := getAccBoot s (i - 8)
      some (if a.released && (getSpoke s (i - 8)).contract then digestBytes (BitVec.ofNat 384 a.measurement) else List.replicate 48 0)
    else none

/-- The indices of Table 5.9. -/
def measurementIndices : List Nat := [1, 2, 3, 4, 5, 8, 9, 10, 11, 12, 13, 14, 15]

/-- Type of a block (Table 5.9): [6:0] 0 immutable ROM, 1 mutable firmware, 2 hardware configuration, 3 firmware configuration; [7]
raw. -/
def measurementType (i : Nat) : Nat := match i with | 2 => 0x81 | 3 => 0x83 | 4 => 0x00 | 5 => 0x02 | _ => 0x01

/-- A measurement block: its index, the DMTF form, its size, and type, length and content. -/
def measurementBlock (s : State) (i : Nat) : Option (List Byte) :=
  (measurement s i).map (fun b =>
    leBytes 1 i ++ [1] ++ leBytes 2 (b.length + 3) ++ leBytes 1 (measurementType i) ++ leBytes 2 b.length ++ b)

/-- The blocks that an index asks for: none for 0, which asks how many there are, and all for 0xFF. -/
def measurementBlocks (s : State) (i : Nat) : Option (List (List Byte)) :=
  if i = 0 then some []
  else if i = 0xFF then some (measurementIndices.filterMap (measurementBlock s))
  else (measurementBlock s i).map (fun b => [b])

/-- GET_MEASUREMENTS: the blocks asked for and a nonce, signed on request with the identity key. -/
def execGetMeasurements (index : Nat) (sig : Bool) (nonce : List Byte) (s : State) : Host.Outcome State Fault Refusal :=
  spdmHashed s (fun s =>
    match measurementBlocks s index with
    | none => spdmRefuse s
    | some bs =>
      if sig && s.boot.keyLock then spdmUnspecified s
      else if sig && !canSign s then spdmRefuse s
      else
        let (own, u) := spdmNonce s
        let total := if index = 0 then measurementIndices.length else 0
        let resp := [0x12, 0x60] ++ leBytes 1 total ++ [0] ++ leBytes 1 bs.length ++ leBytes 3 bs.flatten.length ++ bs.flatten
          ++ own ++ [0, 0]
        (u, some (if sig then spdmSigned nonce resp else resp)))

/-- GET_CSR: before slot 0 holds a chain; the first creates the identity key. -/
def execGetCsr (s : State) : Host.Outcome State Fault Refusal :=
  spdmHashed s (fun s =>
    if s.boot.provisioned then spdmUnsupported s
    else if s.boot.keyLock then spdmUnspecified s
    else ({ s with boot := { s.boot with identityKey := true } }, some ([0x12, 0x6D] ++ Config.spdmBytes 0x6D)))

/-- SET_CERTIFICATE: stores the vendor's chain in slot 0 once, whether or not a GET_CSR came before (DESIGN CHOICE, log entry 68). -/
def execSetCertificate (slot : Nat) (chain : List Byte) (s : State) : Host.Outcome State Fault Refusal :=
  spdmNegotiated s (fun s =>
    if s.boot.provisioned then spdmUnsupported s
    else if slot ≠ 0 then spdmRefuse s
    else ({ s with boot := { s.boot with provisioned := true, chain := chain } }, some [0x12, 0x6E, 0, 0]))

/-- Every request outside the subset of Table 5.8. -/
def execSpdmUnsupportedRequest (_code : Byte) (s : State) : Host.Outcome State Fault Refusal :=
  spdm s spdmUnsupported

end Sys2Proof.Machine
end

