-- ==== Sys2Proof/Machine/GrainArray.lean ====
section
/-! DEFINITION. The grain array's commands (06): kernel images, launches, items, grain failures, takeovers and UNFENCE. -/

namespace Sys2Proof.Machine

/-- D04 must be ON (Table 2.4). -/
def needD04 (s : State) (_ : Cmd) : Option Nat := firstNotOn s [4]
/-- The die shutdown latch is set. -/
def dieHold (s : State) (_ : Cmd) : Bool := s.therm.latch.getLsbD 8

/-! ### Kernel images (R140, R141) -/

/-- KERNEL_LOAD from step 10 (R141). -/
def kernelLoadBody (dma : Option Nat) (s : State) (c : Cmd) : State :=
  let k := c.f 8 1
  let len := c.f 0x18 8
  let buf := c.f 0x10 8
  let x := getKslot s k
  if 0 < slotRunning s k then complete s c.seq { status := .busyGuarded }
  else if x.owner ≠ 255 ∧ x.owner ≠ c.tenant ∧ c.tenant ≠ 0 then complete s c.seq (refuse .notPermitted 5 2)
  else if imageFree s < len then complete s c.seq { status := .noSpace }
  else match dma with
    | some a => complete s c.seq (dmaReadErr a)
    | none =>
      let img := hostRead s buf len
      if !imgHeaderOk img len then complete s c.seq (refuse .dataError 5 1)
      else if !imgBodyOk img then complete s c.seq (refuse .dataError 5 2)
      else complete (count (setKslot s k ⟨c.tenant, img⟩) 103 { tenant := c.tenant }) c.seq (okR len)

/-- KERNEL_LOAD. -/
def execKernelLoad (c : Nat) (dma : Option Nat) (s : State) : Host.Outcome State Fault Refusal :=
  done (startCmd s c 0x60 none needD04 noHold (kernelLoadBody dma))

/-! ### Launches (R143, R144) -/

/-- Is a bed held by a launch, or in a domain transition (Table 6.6). -/
def bedTaken (s : State) (b : Nat) : Bool :=
  (getBed s b).holder.isSome || (getDom s (bedDom b)).phase ≠ .idle

/-- Checks of Table 6.6, in order; none where the launch may start. -/
def launchRefusal (s : State) (c : Cmd) : Option Result :=
  let x := getKslot s (c.f 8 1)
  let beds := (List.range (c.f 0xA 1)).map (fun i => c.f 9 1 + i)
  if x.owner = 255 then some (refuse .notPermitted 5 3)
  else if x.owner ≠ c.tenant ∧ c.tenant ≠ 0 then some (refuse .notPermitted 5 2)
  else if beds.any (fun b => !(getBed s b).inHost) then some (refuse .notPermitted 5 1)
  else match beds.find? (fun b => !domShowsOn s (bedDom b)) with
    | some b => some (refuse .notPermitted 4 (bedDom b))
    | none =>
      match beds.find? (bedTaken s) with
      | some b => some (refuse .busyGuarded 5 b)
      | none => if usableIn s beds = [] then some { status := .grainFault } else none

/-- KERNEL_LAUNCH from step 10: the launch starts, and the command gives up its kernel slot (R90). -/
def kernelLaunchBody (s : State) (c : Cmd) : State :=
  match launchRefusal s c with
  | some r => complete (count s 104 { tenant := c.tenant }) c.seq r
  | none =>
    let l : Launch := {
      id := s.garr.nextLaunch, cmd := some c.seq, tenant := c.tenant, qp := c.qp, cmdId := c.id,
      kslot := c.f 8 1, image := (getKslot s (c.f 8 1)).image,
      beds := (List.range (c.f 0xA 1)).map (fun i => c.f 9 1 + i), items := c.f 0xC 4,
      args := BitVec.ofNat 64 (c.f 0x10 8), failmap := c.f 0x18 8, seq := s.garr.launchSeq + 1, start := s.tick }
    startLaunch (releaseRes s c.seq) l

/-- KERNEL_LAUNCH. -/
def execKernelLaunch (c : Nat) (s : State) : Host.Outcome State Fault Refusal :=
  done (startCmd s c 0x61 none needD04 dieHold kernelLaunchBody)

/-- KERNEL_ABORT from step 10 (R149, Table 4.12): a running launch of the same tenant stops; one that has run out, or is
not there, gives OK_NOOP. -/
def kernelAbortBody (s : State) (c : Cmd) : State :=
  match s.garr.launches.find? (fun l => l.tenant = c.tenant && l.cmd.isSome && l.qp = c.f 8 1 && l.cmdId = c.f 0xA 2) with
  | none => complete s c.seq { status := .okNoop }
  | some l =>
    if launchOver s l then complete s c.seq { status := .okNoop }
    else
      let s := modLaunch (stopLaunch s l) l.id (fun x => { x with aborted := true })
      complete s c.seq (okR)

/-- KERNEL_ABORT. -/
def execKernelAbort (c : Nat) (s : State) : Host.Outcome State Fault Refusal :=
  done (startCmd s c 0x62 none noDoms noHold kernelAbortBody)

/-! ### Items (R145 to R147) -/

/-- Is a logical grain free to take an item: its physical grain has the launch's configuration, runs no item, is not
failing, and is no spare whose takeover still runs. -/
def grainFree (s : State) (l : Launch) (lg : Nat) : Bool :=
  let p := physOf s lg
  let g := getGrain s p
  let b := getBed s (p / 17)
  g.launch = some l.id && g.item.isNone && !g.fenced
  && !indexHeld s lg

/-- The launch block of an item (Table 6.8). -/
def launchBlock (s : State) (l : Launch) (item lg : Nat) : List Byte :=
  leBytes 4 item ++ leBytes 4 l.items ++ leBytes 8 l.args.toNat ++ leBytes 2 lg ++ leBytes 1 (lg / 16)
  ++ leBytes 1 (physOf s lg % 17) ++ leBytes 2 (16 * l.beds.headD 0) ++ leBytes 2 (16 * l.beds.length)
  ++ leBytes 1 l.tenant ++ leBytes 1 l.kslot ++ leBytes 1 s.crd.gclkApplied ++ [0] ++ leBytes 4 l.seq
  ++ List.replicate 32 0

/-- Starts an item on a logical grain: its launch block, and every thread of THREAD_MASK at its entry with zero registers
(R145, R186). -/
def startItem (s : State) (l : Launch) (item lg : Nat) : State :=
  let p := physOf s lg
  let g := getGrain s p
  let s := clearThreads (writeTarget s (.ls p 0x3F800) (launchBlock s l item lg)) p
  let s := (List.range 8).foldl (fun s t =>
    if (g.threadMask >>> t) % 2 = 1 then
      setThread s p t { live := true, pc := BitVec.ofNat 64 (g.entries.getD t 0) }
    else s) s
  modGrain (count s 97 { tenant := l.tenant }) p
    (fun g => { g with item := some item, slow := 0, itemStart := s.garr.cycles16, itemFailed := false })

/-- The next item of launch l goes to the lowest free usable grain. -/
def itemDispatch (l : Nat) (s : State) : State :=
  match findLaunch s l with
  | none => s
  | some x =>
    if x.aborted then s
    else match (usableIn s x.beds).find? (grainFree s x), x.todo with
      | none, _ => s
      | some lg, some (i :: is) =>
        startItem (modLaunch s l (fun y => { y with todo := some is })) x i lg
      | some _, some [] => s
      | some lg, none =>
        if x.next < x.items then startItem (modLaunch s l (fun y => { y with next := y.next + 1 })) x x.next lg else s

/-- ITEM_DISPATCH. -/
def execItemDispatch (l : Nat) (s : State) : Host.Outcome State Fault Refusal := done (itemDispatch l s)

/-- Have all threads of a grain's item ended, with its tile instructions and copies complete. -/
def itemOver (s : State) (p : Nat) : Bool :=
  (List.range 8).all (fun t => !(getThread s p t).live && (getThread s p t).copies.isEmpty)
  && (getGrain s p).queue.isEmpty && !(getBed s (p / 17)).failing.any (fun f => f.1 = p)

/-- An item ends once all its threads have ended; it has failed where one ended by a fatal exception (R146). -/
def itemEnd (p : Nat) (s : State) : State :=
  let g := getGrain s p
  match g.item, grainLaunch s p with
  | some i, some l =>
    if !itemOver s p then s
    else
      let s := clearThreads (drainGrain s p) p
      let s := modGrain s p (fun g => { g with item := none, itemFailed := false })
      if g.itemFailed then modLaunch (count s 98 (launchOcc l)) l.id (fun x => { x with failed := x.failed ++ [i] })
      else count s 15 { tenant := l.tenant, grain := logicalOf s p }
  | _, _ => s

/-- ITEM_END. -/
def execItemEnd (p : Fin 1088) (s : State) : Host.Outcome State Fault Refusal := done (itemEnd p.val s)

/-- A launch that has ended completes (R147); an internal launch hands its lost items to the batch (R231). -/
def launchComplete (l : Nat) (dma : Option Nat) (s : State) : State :=
  match findLaunch s l with
  | none => s
  | some x =>
    if !launchOver s x then s
    else if x.cmd.isSome then
      endLaunch s x x.status true (if x.failmap = 0 then none else dma)
    else internalEnd (releaseLaunch s x) x

/-- LAUNCH_COMPLETE. -/
def execLaunchComplete (l : Nat) (dma : Option Nat) (s : State) : Host.Outcome State Fault Refusal :=
  done (launchComplete l dma s)

/-! ### Grain failures (R153, R154) -/

/-- Grain address of a byte of a physical grain's local store: by its logical grain, or in the alias where it serves none. -/
def lsGrainAddr (s : State) (p off : Nat) : Nat :=
  match logicalOf s p with
  | some g => 0x100000000 + g * 0x40000 + off
  | none => off

/-- LOCAL_STORE_UE: the error is recorded and the grain fails. -/
def execLocalStoreUe (p : Fin 1088) (off : Nat) (s : State) : Host.Outcome State Fault Refusal :=
  done (if domOn s (bedDom (p.val / 17)) && !(getGrain s p.val).fenced then
    let s := count s 108 { tenant := (getGrain s p.val).tenant }
    let s := logRec s 0x41 3 2 (leBytes 8 0 ++ leBytes 8 (lsGrainAddr s p.val off) ++ leBytes 8 0)
    failGrain s p.val 1
  else s)

/-- TILE_PARITY_ERROR. -/
def execTileParityError (p : Fin 1088) (s : State) : Host.Outcome State Fault Refusal := done (failGrain s p.val 2)

/-- The item watchdog of a grain has expired: WDOG_LIMIT units of 65 536 GCLK cycles since the item's start (R145). -/
def watchdogDue (s : State) (p : Nat) : Bool :=
  let g := getGrain s p
  g.item.isSome && g.wdog ≠ 0 && g.wdog * 65536 ≤ grainCycles s g.itemStart

/-- ITEM_WATCHDOG_EXPIRY. -/
def execItemWatchdogExpiry (p : Fin 1088) (s : State) : Host.Outcome State Fault Refusal :=
  done (if watchdogDue s p.val then
    failGrain (count s 111 { tenant := (getGrain s p.val).tenant }) p.val 3 else s)

/-- TAKEOVER. -/
def execTakeover (bed : Fin 64) (s : State) : Host.Outcome State Fault Refusal := done (finishTakeover s bed.val)

/-- LOCAL_STORE_CE: corrected and counted; nothing is fenced (R153). -/
def execLocalStoreCe (p : Fin 1088) (s : State) : Host.Outcome State Fault Refusal :=
  done (if domOn s (bedDom (p.val / 17)) then
    ltAdd (count (count s 107 { tenant := (getGrain s p.val).tenant }) (320 + 2 * (p.val / 17)) {}) 28
  else s)

/-! ### UNFENCE (R158) -/

/-- A write of UNFENCE: it starts the test, or is dropped with REG_BUSY (Table 6.14, Table 6.11). A write while a test runs
or with the bed or D04 not ON is dropped too (log entry 26). -/
def unfenceWrite (v : Word) (s : State) : State :=
  let b := bf v 13 8
  let k := bf v 4 0
  if domOn s 4 && domOn s (bedDom b) && decide (k ≤ 16) && (getBed s b).fencedMask.getLsbD k && (getBed s b).holder.isNone
     && s.garr.unfencing.isNone then
    { s with garr := { s.garr with unfencing := some (17 * b + k), unfenceStatus := 1 } }
  else setBusy s 5

/-- The test of UNFENCE ends: on a pass the grain serves an absent logical index of its bed, the lowest, or becomes the
spare. -/
def unfenceEnd (pass : Bool) (s : State) : State :=
  match s.garr.unfencing with
  | none => s
  | some p =>
    let b := p / 17
    let k := p % 17
    let s := { s with garr := { s.garr with unfencing := none, unfenceStatus := if pass then 2 else 3 } }
    if !pass then count s 110 {}
    else
      let s := count s 109 {}
      let s := modBed (modGrain s p (fun g => { g with fenced := false })) b
        (fun x => { x with fencedMask := x.fencedMask &&& ~~~(1#17 <<< k) })
      match (List.range 16).find? (fun i => (getRemap s (16 * b + i)).absent) with
      | some i => setRemap s (16 * b + i) ⟨k, false⟩
      | none => s

/-- UNFENCE_TEST_END. -/
def execUnfenceTestEnd (pass : Bool) (s : State) : Host.Outcome State Fault Refusal := done (unfenceEnd pass s)

end Sys2Proof.Machine
end

