-- ==== Sys2Proof/Machine/QueueOps.lean ====
section
/-! DEFINITION. Queue control as operations (R72 to R106): heartbeats, doorbells, enabling a pair, acceptance, and the start and end of a
tenant reset. -/

namespace Sys2Proof.Machine

/-! ### Heartbeats (R18, R96) -/

/-- The host heartbeat is refreshed. -/
def refreshHost (s : State) : State := motorsFollow { s with qc := { s.qc with hostBeat := some s.tick } }
/-- The BMC heartbeat is refreshed. -/
def refreshBmc (s : State) : State := motorsFollow { s with qc := { s.qc with bmcBeat := some s.tick } }

/-- A HOST_HB write. -/
def hostHbWrite (s : State) (v : Word) : State := if v = 0x4842#32 then refreshHost s else setBusy s 2

/-- A heartbeat lapses: when both then have lapsed, HOLD takes the effective target in force before (R329). -/
def lapse (s s' : State) : State :=
  motorsFollow (if bothLapsed s' ∧ !bothLapsed s then { s' with motors := (motorsLapse s).motors } else s')

/-! ### Doorbells and enabling (R75 to R77, R87, R99, Table 4.12) -/

/-- Is function fn there: the PF, or an enabled VF (R72). -/
def fnEnabled (s : State) (fn : Nat) : Bool := fn = 0 || (fn ≤ s.qc.vfs && fn ≤ 63)

/-- A doorbell error: DB_ERR, and outside a tenant reset a DB_ERROR entry (R97). During one the write is dropped, which sets
REG_BUSY too (R59, R99). -/
def doorbellErr (s : State) (fn q detail : Nat) : State :=
  let s := modQp s fn q (fun p => { p with dbErr := true })
  if (getTen s fn).reset.isSome then setBusyFn s fn 2 else faultLog (count s 150 { tenant := fn }) fn 4 detail 0 q

/-- An SQ_TAIL write: bits 31:12 are reserved and ignored (R54). -/
def sqTailWrite (s : State) (fn q : Nat) (v : Word) : State :=
  let p := getQp s fn q
  let t := v.toNat % 4096
  if (getTen s fn).reset.isSome then doorbellErr s fn q v.toNat
  else if !p.en then setQp s fn q { p with sqTail := t }
  else if p.sqEntries ≤ t then doorbellErr s fn q v.toNat
  else setQp s fn q { p with sqTail := t }

/-- Completion entries of a pair not yet consumed. -/
def cqWaiting (p : Qp) : Nat := (p.cqTail + p.cqEntries - p.cqHead) % p.cqEntries

/-- A CQ_HEAD write: bits 31:12 are reserved and ignored (R54), and a value past CQ_TAIL is ignored. -/
def cqHeadWrite (s : State) (fn q : Nat) (v : Word) : State :=
  let p := getQp s fn q
  let h := v.toNat % 4096
  let by_ := (h + p.cqEntries - p.cqHead) % p.cqEntries
  if (getTen s fn).reset.isSome then doorbellErr s fn q (v.toNat + 2 ^ 32)
  else if !p.running then setQp s fn q { p with cqHead := h }
  else if p.cqEntries ≤ h ∨ cqWaiting p < by_ then doorbellErr s fn q (v.toNat + 2 ^ 32)
  else setQp s fn q { p with cqHead := h }

/-- Is a ring size valid (R75). -/
def ringSizeOk (n : Nat) : Bool := [16, 32, 64, 128, 256, 512, 1024, 2048, 4096].contains n

/-- A QP_CTRL write (Tables 4.12 and 4.14). -/
def qpCtrlWrite (s : State) (fn q : Nat) (v : Word) : State :=
  let p := getQp s fn q
  let en := v.getLsbD 0
  let set : Qp := { p with notifyAll := v.getLsbD 8, clsReg := bf v 5 4 }
  if en ∧ !p.en ∧ p.running then setBusyFn s fn 2
  else if en ∧ !p.en then
    (if ringSizeOk p.sqEntries ∧ ringSizeOk p.cqEntries ∧ bf v 5 4 ≠ 3 then
      setQp s fn q { set with en := true, running := true, cls := bf v 5 4, stopped := false, cqFail := false,
                              sqTail := 0, sqHead := 0, cqHead := 0, cqTail := 0, phase := true }
     else setQp s fn q { set with cfgErr := 0x11 })
  else if en then setQp s fn q set
  else runningCheck (setQp s fn q { set with en := false }) fn q

/-! ### Acceptance (R78, R86, R88, R92, R94) -/

/-- QC_STATUS.FETCH_PAUSED: the command table is full (R94), the input is lost (R288), or a trial drains (R121). -/
def fetchPaused (s : State) : Bool :=
  decide (4096 ≤ s.qc.cmds.length) || s.pow.inputLost || s.boot.drainUntil.isSome

/-- May an entry be accepted at all (R46, R94). -/
def mayAccept (s : State) : Bool := s.crd.phase = .running && s.crd.fwUp && !fetchPaused s

/-- Entries of a pair that wait: it is enabled and not stopped, its function is there, and no tenant reset runs. -/
def pairWaits (s : State) (fn q : Nat) : Bool :=
  let p := getQp s fn q
  p.en && !p.stopped && p.sqHead ≠ p.sqTail && fnEnabled s fn && (getTen s fn).reset.isNone

/-- Is a completion slot of a pair free (R92). -/
def slotFree (s : State) (fn q : Nat) : Bool :=
  let p := getQp s fn q
  decide (cqWaiting p + inflight s fn q + 1 < p.cqEntries)

/-- Entries of a T64 pair. -/
def t64Entries (s : State) (q : Nat) : List (List Byte) := if q = 0 then s.qc.t64.q0 else s.qc.t64.q1

/-- Does a T64 pair have an entry that waits. -/
def t64Waits (s : State) (q : Nat) : Bool := t64Entries s q ≠ [] && (getTen s 64).reset.isNone
/-- Is a completion slot of T64 free (R101). -/
def t64Free (s : State) : Bool := decide (s.qc.t64.cq.length + inflight64 s < 32)

/-- Does ORDER keep a command that is not refused waiting for an earlier one of its ring (R90; event 152, log entry 66). -/
def orderWaits (s : State) (c : Cmd) (v : Accept) : Bool :=
  (match v with | .refuse _ => false | _ => true)
  && s.qc.cmds.any (fun e => decide (e.seq < c.seq) && sameRing e c && (c.order || e.order))

/-- The effective target of the channel that a COOL_SET names, at its acceptance (R330). -/
def coolTarget (s : State) (raw : List Byte) : Nat := if leAt raw 0 1 = 0x30 then effTarget s (leAt raw 8 1) else 0

/-- An entry is accepted: it is copied, the heartbeat of its sender is refreshed, and steps 1 to 6 refuse it or let it wait. A
FW_CONFIRM accepted within the trial window ends the window (R122). -/
def acceptEntry (s : State) (t q cls : Nat) (raw : List Byte) : State :=
  let n := s.qc.nextSeq
  let c : Cmd := { seq := n, tenant := t, qp := q, cls := cls, raw := raw, acc := s.tick, rpmAt := coolTarget s raw }
  let v := acceptCheck s c
  let c' : Cmd := { c with noop := decide (v = .noop) }
  let s : State := { s with qc := { s.qc with nextSeq := n + 1, cmds := s.qc.cmds ++ [c'] } }
  let s := count s 144 { tenant := t, cls := some cls }
  let s := if orderWaits s c v then count s 152 { tenant := t, cls := some cls } else s
  let s := if t < 64 then refreshHost s else refreshBmc s
  match v with
  | .refuse r => complete s n r
  | .noop => s
  | .wait =>
    if c.op = 0x52 && (match s.boot.trialEnd with | some e => decide (s.tick < e) | none => false) then
      { s with boot := { s.boot with trialEnd := none, trialRun := false } }
    else s

/-- Accepts the next entry of a pair, where it may: the state, and whether it was accepted. -/
def acceptNext (s : State) (t q cls : Nat) : State × Bool :=
  if !mayAccept s then (s, false)
  else if t < 64 then
    (if pairWaits s t q ∧ slotFree s t q then
      let p := getQp s t q
      let raw := hostRead s (p.sqBase.toNat + 64 * p.sqHead) 64
      (acceptEntry (setQp s t q { p with sqHead := ringNext p.sqHead p.sqEntries }) t q cls raw, true)
    else (s, false))
  else if t64Waits s q ∧ t64Free s then
    let e := (t64Entries s q).headD []
    let x := s.qc.t64
    let x := if q = 0 then { x with q0 := x.q0.drop 1, head0 := ringNext x.head0 16 }
      else { x with q1 := x.q1.drop 1, head1 := ringNext x.head1 16 }
    (acceptEntry (setT64 s x) 64 q cls e, true)
  else (s, false)

/-- Accepts up to n entries of a pair. -/
def acceptUpTo (s : State) (t q cls : Nat) : Nat → State × Bool
  | 0 => (s, false)
  | n + 1 =>
    let r := acceptNext s t q cls
    if r.2 then ((acceptUpTo r.1 t q cls n).1, true) else r

/-- The pairs of a class, by tenant and then by q. -/
def classPairs (s : State) (k : Nat) : List (Nat × Nat) :=
  (s.qc.qps.filter (fun e => e.2.en && e.2.cls = k)).map (fun e => (e.1 / 8, e.1 % 8))
  ++ (if k = 0 then [(64, 0)] else if k = 2 then [(64, 1)] else [])

/-- The pairs of a class in the order of its turn: from the tenant after the one it served first, wrapping (R88). -/
def turnOrder (s : State) (k : Nat) : List (Nat × Nat) :=
  let from_ := match KMap.get (fun _ => none) s.qc.firstServed k with | some t => t + 1 | none => 0
  let ps := classPairs s k
  ps.filter (fun p => decide (from_ ≤ p.1)) ++ ps.filter (fun p => decide (p.1 < from_))

/-- Entries that a pair of a class gives in a round (R88). -/
def roundShare (k : Nat) : Nat := if k = 0 then 8 else if k = 1 then 4 else 1

/-- A class's turn. -/
def classTurn (s : State) (k : Nat) : State :=
  let r := (turnOrder s k).foldl (fun (a : State × Option Nat) p =>
    let x := acceptUpTo a.1 p.1 p.2 k (roundShare k)
    (x.1, if x.2 && a.2.isNone then some p.1 else a.2)) (s, none)
  match r.2 with
  | some t => { r.1 with qc := { r.1.qc with firstServed := KMap.set (fun _ => none) r.1.qc.firstServed k (some t) } }
  | none => r.1

/-- Does an entry wait for a completion slot. -/
def slotStarved (s : State) : Bool :=
  s.qc.qps.any (fun e => pairWaits s (e.1 / 8) (e.1 % 8) && !slotFree s (e.1 / 8) (e.1 % 8))
  || ((t64Waits s 0 || t64Waits s 1) && !t64Free s)

/-! ### Tenant resets (R98 to R100) -/

/-- A move of the tenant stops: a transfer at its next block, anything else at once, its stratum's home as it is. -/
def stopMove (s : State) (m : Move) : State :=
  if m.stage = .data then modMove s m.cmd (fun m => { m with stopping := true })
  else if m.stage = .ending then
    (let s := if m.spoke = 8 then sealRelease s (sealWho m.cmd) else s
     setPending (dropMove s m.cmd) m.handle 0)
  else abandonMove s m

/-- A window without a tenant's sessions; none where none is left. -/
def windowWithout (w : Window) (t : Nat) : Option Window :=
  let xs := w.sessions.filter (fun x => x.tenant ≠ t)
  if xs = [] then none else some { w with sessions := xs }

/-- The tenant's sessions leave: at once where no batch runs them, and a running batch before its commit. -/
def dropSessions (s : State) (t : Nat) : State :=
  let leave (s : State) (w : Window) : State :=
    let s := (w.sessions.filter (fun x => x.tenant = t)).foldl freeSession s
    if windowWithout w t = none then freeRows s w else s
  let s := (List.range 4).foldl (fun s m =>
    match getWindow s m with
    | some w => setWindow (leave s w) m (windowWithout w t)
    | none => s) s
  let q := s.strata.queue
  let s := q.foldl leave s
  let mark (x : Session) : Session := if x.tenant = t then { x with excluded := true } else x
  let b := s.strata.batch.map (fun b => { b with win := { b.win with sessions := b.win.sessions.map mark } })
  { s with strata := { s.strata with queue := q.filterMap (fun w => windowWithout w t), batch := b } }

/-- What goes on for commands that are dropped goes on without them: accelerators' transitions, slews and releases, and domain
sequences end. -/
def orphan (s : State) (gone : Nat → Bool) : State :=
  let keep (c : Option Nat) : Option Nat := match c with | some n => if gone n then none else some n | none => none
  let s := (List.range 8).foldl (fun s n =>
    let s := modAcc s n (fun a => { a with
      cmd := keep a.cmd, rails := a.rails.map (fun e => (e.1, { e.2 with slewing := keep e.2.slewing })) })
    setAccBoot s n { getAccBoot s n with relCmd := keep (getAccBoot s n).relCmd }) s
  { s with domSeqs := s.domSeqs.filter (fun q => !gone q.cmd) }

/-- What a tenant reset does as it starts (R99): the rings, the commands in flight without completions, the moves, launches and
sessions. T64's 4 KiB data buffer and its pointer stay (DESIGN CHOICE, log entry 68). -/
def stopTenant (s : State) (t : Nat) : State :=
  let gone := (s.qc.cmds.filter (fun c => c.tenant = t)).map (·.seq)
  let qps := s.qc.qps.filter (fun e => t = 64 || e.1 / 8 ≠ t)
  let s : State := { s with qc := { s.qc with cmds := s.qc.cmds.filter (fun c => c.tenant ≠ t), qps := qps } }
  let s := if t = 64 then setT64 s { s.qc.t64 with stage := [], q0 := [], q1 := [], cq := [], slot := 0, phase := true,
                                                   returned := false, head0 := 0, head1 := 0 } else s
  let s := (s.strata.moves.filter (fun m => m.tenant = t)).foldl stopMove s
  let s := dropLaunches s (fun l => l.cmd.isSome && l.tenant = t)
  let s := gone.foldl sealDrop s
  orphan (dropSessions s t) (fun c => gone.contains c)

/-- A cause of a tenant reset: it starts one, or merges with the one in progress (R100). `bit` is the cause's bit in DETAIL,
`issuer` the tenant of a TENANT_RESET. -/
def startTReset (s : State) (t bit issuer : Nat) (cmd : Option Nat) : State :=
  let cs := match cmd with | some c => [c] | none => []
  match (getTen s t).reset with
  | some r =>
    let r' : TReset := { r with causes := r.causes ||| 2 ^ bit, issuer := if issuer = 0xFF then r.issuer else issuer,
                                cmds := r.cmds ++ cs }
    modTen s t (fun x => { x with reset := some r' })
  | none =>
    let r : TReset := { causes := 2 ^ bit, issuer := issuer, start := s.tick, cmds := cs }
    modTen (stopTenant s t) t (fun x => { x with reset := some r })

/-- A tenant reset ends: its handles go, its key is destroyed by a new EPOCHn, its fault log holds one TENANT_RESET entry, and the
TENANT_RESET commands that named it complete. The cleared log numbers its entries from 1 again (DESIGN CHOICE, log entry 68). -/
def endTReset (s : State) (t : Nat) (r : TReset) : State :=
  let s := (s.strata.moves.filter (fun m => m.tenant = t && m.stopping)).foldl abandonMove s
  let s := ((s.strata.recs.filter (fun x => ownerOf x.handle = t)).map (·.handle)).foldl removeHandle s
  let s := if t < 64 then drawEpoch s t else s
  let s := modTen s t (fun x => { x with reset := none, log := [], logSeq := 1, spillSeq := 1 })
  let s := count (faultLog s t 6 (r.causes + 256 * r.issuer)) 156 { tenant := t }
  r.cmds.foldl (fun s c => complete s c (okR)) s

end Sys2Proof.Machine
end

