-- ==== Sys2Proof/Machine/TwoWireOps.lean ====
section
/-! DEFINITION. Two-wire ports as operations (R343 to R360): the conversions of R345, what a transaction sends, port errors, the
pass-through, and what W0 does with a write and a read. -/

namespace Sys2Proof.Machine

/-! ### PMBus values (R345) -/

/-- LINEAR11 Y × 2^N in a unit that is `scale` to the whole, rounded down. -/
def lin11 (w scale : Nat) : Int :=
  let n := sext 5 (w / 2048)
  let y := sext 11 w
  if 0 ≤ n then y * (2 : Int) ^ n.toNat * scale else Int.fdiv (y * scale) ((2 : Int) ^ (-n).toNat)

/-- A fraction rounded to nearest, an exact tie to even. -/
def nearestEven (num den : Nat) : Nat :=
  let q := num / den
  let r := num % den
  if 2 * r < den ∨ (2 * r = den ∧ q % 2 = 0) then q else q + 1

/-- VOUT_COMMAND of mV under a linear VOUT_MODE: volts × 2^−E. -/
def voutWord (mode mv : Nat) : Nat :=
  let e := sext 5 mode
  if 0 ≤ e then nearestEven mv (1000 * 2 ^ e.toNat) else nearestEven (mv * 2 ^ (-e).toNat) 1000

/-- Mantissa of mA in A at exponent i − 16, rounded down. -/
def ioutMantissa (ma i : Nat) : Nat := if i < 16 then ma * 2 ^ (16 - i) / 1000 else ma / (1000 * 2 ^ (i - 16))

/-- IOUT_OC_WARN_LIMIT of mA: the smallest exponent from −16 to 15 whose mantissa fits 11 signed bits. -/
def ioutWord (ma : Nat) : Nat :=
  let i := ((List.range 32).find? (fun i => decide (ioutMantissa ma i ≤ 1023))).getD 31
  ((i + 16) % 32) * 2048 + ioutMantissa ma i % 2048

/-! ### Bytes of a transaction (Table 14.3) -/

/-- PEC on port p. -/
def portPec (s : State) (p : Nat) : Bool := cfgF s (portCfg p) 1 1 = 1

/-- The bytes of a write: address, command and data, and PEC where the port has it. -/
def writeBytes (pec : Bool) (addr : Nat) (body : List Byte) : List Byte :=
  let bs := BitVec.ofNat 8 (2 * addr) :: body
  if pec then bs ++ [pec8 bs] else bs

/-- PAGE before a command to a rail, where RAIL_CFG.PAGE is not 0xFF (Table 14.3). -/
def pageBytes (s : State) (pec : Bool) (n r : Nat) : List (List Byte) :=
  let page := cfgF s (railBase n r) 15 8
  if page = 0xFF then [] else [writeBytes pec (cfgF s (railBase n r) 6 0) [0x00, BitVec.ofNat 8 page]]

/-! ### Pass-through (R356) -/

/-- XFER_CTRL. -/
def xferCtrl : Nat := 0x801000
/-- The port of the pass-through. -/
def xferPort (s : State) : Nat := cfgF s xferCtrl 27 24
/-- XFER_DATA. -/
def xferData (s : State) : List Byte := (List.range 8).flatMap (fun i => leBytes 4 (cfgN s (0x801020 + 4 * i)))
/-- Stores bytes into XFER_DATA. -/
def xferStore (s : State) (bs : List Byte) : State :=
  let all := bs ++ (xferData s).drop bs.length
  (List.range 8).foldl (fun s i => cfgSet s (0x801020 + 4 * i) (BitVec.ofNat 32 (leAt all (4 * i) 4))) s

/-- The pass-through ends with a code and a count of bytes. -/
def xferEnd (s : State) (code bytes : Nat) : State :=
  count { s with tw := { s.tw with xferBusy := false, xferCode := code, xferBytes := bytes } } 302 {}

/-- Bytes transferred where it failed: none where nothing was tried or no address was acknowledged; else the spec states no
number, a free value (log entry 8). -/
def xferFails (s : State) (code : Nat) : State :=
  if code = 1 ∨ code = 9 ∨ code = 0xB then xferEnd s code 0
  else
    let (v, s) := drawFree s
    xferEnd s code (v.toNat % 64)

/-- An XFER_CTRL write: dropped while BUSY where it starts or changes anything, for a port other than W9 to W11, and for a LEN that is
not 1 to 32. -/
def xferCtrlWrite (s : State) (v : Word) : State :=
  let fields := v &&& 0x0F7FFFFF#32
  let ok := 9 ≤ bf v 27 24 && bf v 27 24 ≤ 11 && 1 ≤ bf v 5 0 && bf v 5 0 ≤ 32
  if s.tw.xferBusy then (if v.getLsbD 31 ∨ fields ≠ cfgGet s xferCtrl then setBusy s 10 else s)
  else if !ok then setBusy s 10
  else
    let s := cfgSet s xferCtrl fields
    if v.getLsbD 31 then { s with tw := { s.tw with xferBusy := true } } else s

/-! ### W0 as target (R350, R351, R358) -/

/-- The W0 address (R343). -/
def w0Addr (s : State) : Nat := 0x4A + s.crd.w0Addr
/-- W0_CFG.PEC_REQ. -/
def pecReq (s : State) : Bool := cfgF s 0x800004 0 0 = 1

/-- A NACK of W0, with the code it records; code 0 stands for a NACK that Table 14.6 gives no code. -/
def w0Nack (s : State) (code : Nat) : State :=
  let s : State := { s with resp := .nack code, tw := { s.tw with nacks := satN 8 (s.tw.nacks + 1) } }
  if code = 0 then s else count { s with tw := { s.tw with w0Last := code } } 288 {}

/-- A write that W0 discards at STOP, recorded. -/
def w0Discard (s : State) (code : Nat) : State := count { s with tw := { s.tw with w0Last := code } } 288 {}

/-- W0_RESULT of a write acted on: its code, and 0 applied, 1 some bits dropped, 2 key wrong. -/
def w0Done (s : State) (code outcome : Nat) : State := { s with tw := { s.tw with result := code + 256 * outcome } }

/-- A write of W0 that carries `n` data bytes: the count of a block, an early STOP, and PEC are judged in the order of the bytes, and
at STOP `act` gets the data. A wrong PEC on 0x20 or 0x21 clears the staging buffer. A repeated START in place of STOP discards the
write (Table 14.5). -/
def w0Write (s : State) (code n : Nat) (block : Bool) (w : W0Write) (act : State → List Byte → State) : State :=
  let cnt : List Byte := if block then [BitVec.ofNat 8 w.count] else []
  let pec := if n < w.data.length then some (w.data.getD n 0) else w.pec
  let sum := pec8 ([BitVec.ofNat 8 (2 * w0Addr s), BitVec.ofNat 8 code] ++ cnt ++ w.data.take n)
  if s.crd.phase ≠ .running then { s with resp := .nack 0 }
  else if block ∧ w.count ≠ n then w0Nack s 0x22
  else if w.restart ∧ w.data.length < n then s
  else if w.stopEarly ∨ w.data.length < n then w0Discard s 0x27
  else match pec with
    | some p =>
      if p ≠ sum then
        let s : State := { s with tw := { s.tw with pecErrs := satN 8 (s.tw.pecErrs + 1) } }
        let s := if code = 0x20 ∨ code = 0x21 then setT64 s { s.qc.t64 with stage := [] } else s
        w0Nack s 0x23
      else if w.restart then s
      else act s (w.data.take n)
    | none => if w.restart then s else if pecReq s then w0Discard s 0x24 else act s (w.data.take n)

/-- What the BMC reads: the data, its count before it for a block, then PEC where PEC_REQ is 1, and 0xFF beyond. -/
def w0Reply (s : State) (code len : Nat) (block : Bool) (data : List Byte) : State :=
  let body := (if block then [BitVec.ofNat 8 data.length] else []) ++ data
  let sum := pec8 ([BitVec.ofNat 8 (2 * w0Addr s), BitVec.ofNat 8 code, BitVec.ofNat 8 (2 * w0Addr s + 1)] ++ body)
  let all := body ++ (if pecReq s then [sum] else [])
  { s with resp := .data (all.take len ++ List.replicate (len - all.length) 0xFF) }

/-- A read of W0: NACKed until TRIM_DONE (R71). -/
def w0Read (s : State) (f : State → State) : State :=
  if s.crd.phase ≠ .running then { s with resp := .nack 0 } else f s

end Sys2Proof.Machine
end

