-- ==== Sys2Proof/Machine/PmOps.lean ====
section
/-! DEFINITION. The performance monitor and the readers of the logs as operations (R373 to R380): sampling, the sample ring, counter
values, and the bytes of fault-log entries and sediment records. -/

namespace Sys2Proof.Machine

/-! ### Sampling (R377, R378) -/

/-- SAMP of group g as written. -/
def sampReg (g : Nat) : Nat := pmGroup g + 0x18
/-- SAMP of group g as latched at EN. -/
def sampOf (s : State) (g : Nat) : Word := KMap.get (fun _ => 0) s.pm.samp g
/-- Is sampling enabled for group g. -/
def sampling (s : State) (g : Nat) : Bool := s.pm.en && decide (g < 2) && decide (bf (sampOf s g) 5 4 ≠ 0)

/-- Seed of bed b's LFSR. -/
def lfsrSeed (s : State) (b : Nat) : BitVec 24 :=
  let x : BitVec 24 := BitVec.ofNat 24 (cfgF s 0xA00008 23 0) ^^^ BitVec.ofNat 24 b
  if x = 0 then 1 else x

/-- EN rises: SAMP and PERIOD are latched, the LFSRs seeded, and the sequence restarts. -/
def sampleStart (s : State) : State :=
  let latch (o : Nat) : KMap Word :=
    KMap.set (fun _ => 0) (KMap.set (fun _ => 0) [] 0 (cfgGet s (pmGroup 0 + o))) 1 (cfgGet s (pmGroup 1 + o))
  let seeds := (List.range 64).foldl (fun m b => KMap.set lfsr0 m b (lfsrSeed s b)) []
  { s with pm := { s.pm with en := true, samp := latch 0x18, period := latch 0x1C, sampCount := [], due := [], lfsr := seeds,
                             tagged := [], seq := 0 } }

/-- A PM_SAMP_CTRL write. -/
def sampCtrlWrite (s : State) (v : Word) : State :=
  if v.getLsbD 0 then (if s.pm.en then s else sampleStart s)
  else { s with pm := { s.pm with en := false } }

/-! ### Samples (R379, R380) -/

/-- FCLK cycles since power-on (log entry 14). -/
def fclkTime (s : State) : Nat := s.tick * 800
/-- Samples waiting in bed b. -/
def bedSamples (s : State) (b : Nat) : List Sample := KMap.get (fun _ => []) s.pm.queues b
/-- Counts a dropped sample. -/
def sampleLost (s : State) : State :=
  { s with pm := { s.pm with lost := satN 32 (s.pm.lost + 1), lostReport := s.pm.lostReport + 1 } }
/-- A sample joins its bed's queue of 4, or is dropped. -/
def sampleIntoBed (s : State) (b : Nat) (x : Sample) : State :=
  if (bedSamples s b).length < 4 then
    { s with pm := { s.pm with queues := KMap.set (fun _ => []) s.pm.queues b (bedSamples s b ++ [x]) } }
  else sampleLost s

/-- A sample of thread t of grain p. -/
def takeSample (s : State) (kind g p t skid pc : Nat) : Sample :=
  let gr := getGrain s p
  let l := s.garr.launches.find? (fun l => gr.launch = some l.id)
  { kind := kind, group := g, thread := t, skid := skid, grain := (logicalOf s p).getD (p % 17), tenant := gr.tenant,
    kslot := match l with | some l => l.kslot | none => 0xFF, time := fclkTime s, pc := pc, addr := 0, latency := 0,
    eflags := 0, item := gr.item.getD 0, launchSeq := match l with | some l => l.seq | none => 0, count := 0 }

/-- The 64 bytes of a sample record (Table 15.5). -/
def sampleBytes (x : Sample) (seq : Nat) : List Byte :=
  leBytes 1 x.kind ++ leBytes 1 x.group ++ leBytes 1 x.thread ++ leBytes 1 x.skid ++ leBytes 2 x.grain ++ leBytes 1 x.tenant
  ++ leBytes 1 x.kslot ++ leBytes 8 x.time ++ leBytes 8 x.pc ++ leBytes 8 x.addr ++ leBytes 4 x.latency ++ leBytes 2 x.eflags
  ++ [0, 0] ++ leBytes 4 x.item ++ leBytes 4 x.launchSeq ++ leBytes 8 x.count ++ leBytes 4 seq ++ [0, 0, 0, 0]

/-- Records the ring holds. -/
def ringRecords (s : State) : Nat := 2 ^ (cfgF s 0xA00018 4 0) / 64
/-- Records that still fit the ring: its size minus one, less those not yet read. -/
def ringRoom (s : State) : Nat :=
  let n := ringRecords s
  n - 1 - (s.pm.wptr + n - s.pm.rptr % n) % n

/-- Writes one record to the ring. -/
def ringPut (s : State) (x : Sample) : State :=
  let s := hostWrite s (cfgD s 0xA00010 / 4096 * 4096 + 64 * s.pm.wptr) (sampleBytes x s.pm.seq)
  { s with pm := { s.pm with wptr := (s.pm.wptr + 1) % ringRecords s, seq := s.pm.seq + 1 } }

/-- The record that says how many samples were dropped. -/
def lostSample (s : State) : Sample :=
  { kind := 3, group := 0, thread := 0, skid := 0, grain := 0, tenant := 0, kslot := 0, time := fclkTime s, pc := 0, addr := 0,
    latency := 0, eflags := 0, item := 0, launchSeq := 0, count := s.pm.lostReport }

/-- Writes a bed's oldest sample to the ring, behind a KIND 3 record where samples were lost. -/
def sampleOut (s : State) (b : Nat) (dma : Option Nat) : State :=
  match bedSamples s b with
  | [] => s
  | x :: rest =>
    let s : State := { s with pm := { s.pm with queues := KMap.set (fun _ => []) s.pm.queues b rest } }
    if dma.isSome then { s with pm := { s.pm with en := false, dmaErr := true } }
    else if ringRoom s = 0 then sampleLost s
    else
      let s := if s.pm.lostReport = 0 then s
        else
          let s := ringPut s (lostSample s)
          { s with pm := { s.pm with lostReport := 0 } }
      if ringRoom s = 0 then sampleLost s else ringPut s x

/-! ### Counter values (R374, R376) -/

/-- The value at a COUNTER_SNAPSHOT index. -/
def counterAt (s : State) (i : Nat) : Nat := if i < 448 then (pmGet s i).toNat else ltGet s (i - 0x1000)
/-- May a tenant see the value at an index (R376). -/
def counterShown (s : State) (t i : Nat) : Bool :=
  t = 0 || t = 64 || (i < 448 && bf (cfgGet s (pmGroup (i / 16))) 3 2 = 1 && bf (cfgGet s (pmGroup (i / 16))) 14 8 = t)

/-! ### Logs (R97, R373) -/

/-- The 32 bytes of a fault-log entry (Table 4.9). -/
def flBytes (e : FlEntry) : List Byte :=
  leBytes 4 e.seq ++ leBytes 2 e.code ++ leBytes 1 e.source ++ leBytes 1 e.severity ++ leBytes 8 e.time ++ leBytes 1 e.opcode
  ++ leBytes 1 e.qp ++ leBytes 2 e.cmdId ++ leBytes 1 e.status ++ [0, 0, 0] ++ leBytes 8 e.detail

/-- A queued record as LOG_READ returns it: bit 7 of SEVERITY set, COMMIT 0. -/
def queuedBytes (r : Rec) : List Byte := recBody { r with severity := r.severity + 128 } ++ [0, 0, 0, 0]

/-- Records in SEQ order: an insertion by SEQ. -/
def insertSeq (x : Nat × List Byte) : List (Nat × List Byte) → List (Nat × List Byte)
  | [] => [x]
  | y :: ys => if x.1 ≤ y.1 then x :: y :: ys else y :: insertSeq x ys

/-- The committed records in SEQ order. -/
def committedBySeq (s : State) : List (Nat × List Byte) :=
  ((committed s).map (fun x => (seqOf x.2, x.2))).foldr insertSeq []

/-- Writes what a LOG_READ or COUNTER_SNAPSHOT returns: to BUF, or from T64 to the start of the 4 KiB buffer. -/
def replyWrite (s : State) (c : Cmd) (bs : List Byte) : State :=
  if c.tenant = 64 then setT64 s { s.qc.t64 with buf := KMap.writeN mem0 s.qc.t64.buf 0 (bs.take 4096) }
  else hostWrite s (c.f 0x10 8) bs

end Sys2Proof.Machine
end

