-- ==== Sys2Proof/Machine/Strata.lean ====
section
/-! DEFINITION. STRATUM_PARK, RESTORE, DROP, SPILL and FETCH with the end of their transfers, model slots, and HBM errors
(R12, R208 to R222, R232, R256). -/

namespace Sys2Proof.Machine

/-! ### Checks shared by the stratum commands -/

/-- A refusal of R12 for a stratum whose home is not the one a command needs. -/
def homeRefusal (r : Stratum) (ok : Bool) : Option Result :=
  match r.home with
  | .lost => some { status := .dataError }
  | _ => if ok then none else some { status := .notPermitted }

/-- Is the home the accelerator n. -/
def homedOn (r : Stratum) (n : Nat) : Bool := r.home = .accelerator n

/-- ACC_NOT_READY of a move to or from An (R218 item 2, R411): cut, state, contract. -/
def accRefusal (s : State) (n : Nat) : Option Result :=
  let a := getAcc s n
  if a.cut then some (refuse .accNotReady 5 0x30)
  else if !accLive a then some (refuse .accNotReady 5 0x16)
  else if !(getSpoke s n).contract then some (refuse .accNotReady 5 0x14)
  else none

/-- Shape of the model in a slot. -/
def modelMatches (m : ModelSlot) (h : Shape) : Bool := m.loaded && m.shape = h

/-- No handle of that name (R74). -/
def noHandle : Result := badField 8

/-- Domains of a PARK or RESTORE (Table 2.4), and the internal pool where its blocks need grains (R142). -/
def moveDoms (grains : State → Cmd → Bool) (s : State) (c : Cmd) : Option Nat :=
  match firstNotOn s ([4, 6 + c.accN] ++ hbmDoms) with
  | some d => some d
  | none => if grains s c && (internalPool s).isEmpty then some 28 else none

/-- The thermal latch that covers the accelerator a command names. -/
def accHold (s : State) (c : Cmd) : Bool := s.therm.latch.getLsbD c.accN

/-- Strata that count against a quota: records, and parks under way that will create one. -/
def handleCount (s : State) (p : Nat → Bool) : Nat :=
  (s.strata.recs.filter (fun r => p (ownerOf r.handle))).length
  + (s.strata.moves.filter (fun m => m.op = 0x10 && m.stage ≠ .ending && (findRec s m.handle).isNone && p m.tenant)).length

/-- HANDLE_QUOTA of a tenant (Table 3.4); 0 is none. -/
def handleQuota (s : State) (t : Nat) : Nat := bf (getTen s t).priv 28 16

/-- May a PARK create one more handle of tenant t (R74). -/
def handleRoom (s : State) (t : Nat) : Bool :=
  handleCount s (fun _ => true) < 8192
  && (handleQuota s t = 0 || handleCount s (fun u => u = t) < handleQuota s t)

/-- The root of a stratum holds no valid copy (R232): LOST, with its entry, and DATA_ERROR value 0x06. -/
def rootBad (s : State) (h : Nat) (c : Cmd) : State := completeMove (loseRec s h) c (refuse .dataError 5 0x06)

/-- An uncorrectable error on a line of a stratum (R232): the status, the address, the handle, and the UE record. -/
def reportUe (s : State) (a h : Nat) : State :=
  let line := a - a % 64
  let s := { s with strata := { s.strata with
      hbmUe := true, ueAddr := BitVec.ofNat 64 line, ueHandle := BitVec.ofNat 64 h } }
  let s := logRec s 0x41 4 2 (leBytes 8 2 ++ leBytes 8 line ++ leBytes 8 h)
  count s (51 + 5 * hbmStack a) { addr := some a }

/-- The first failed line that a stratum's extents hold. -/
def badLineOf (s : State) (h : Nat) : Nat :=
  (s.strata.badLines.find? (fun a => s.strata.extents.any (fun e =>
    e.kind = 0 && e.key = h && Config.hbmBase + e.first * 0x10000 ≤ a && a < Config.hbmBase + (e.first + e.units) * 0x10000))).getD 0

/-- Registers a move on a spoke, with PENDING of its record; a PARK's SLOT is bound now (R218). -/
def beginMove (s : State) (c : Cmd) (spoke : Nat) (stage : MoveStage) : State :=
  let m : Move := {
    cmd := c.seq, tenant := c.tenant, spoke := spoke, op := c.op, raw := c.raw, stage := stage,
    model := if c.op = 0x10 ∧ c.f 0x12 1 ≠ 0xFF then getModel s (c.f 0x12 1) else {} }
  setPending { s with strata := { s.strata with moves := s.strata.moves ++ [m] } } c.handle c.op

/-! ### STRATUM_PARK (R218) -/

/-- Checks of R218 in order, the reservation apart. -/
def parkRefusal (s : State) (c : Cmd) : Option Result :=
  let n := c.accN
  let h := c.shape
  let slot := c.f 0x12 1
  let m := getModel s slot
  let home := match findRec s c.handle with
    | none => none
    | some r =>
      match homeRefusal r (homedOn r n) with
      | some x => some x
      | none => if r.shape ≠ h then some (refuse .badParam 5 0x01) else none
  match home, accRefusal s n with
  | some x, _ => some x
  | none, some x => some x
  | none, none =>
    if (getSpoke s n).exportSize.toNat < c.f 0x18 8 + c.f 0x14 4 * h.tokenBytes then some (refuse .badParam 5 0x03)
    else if c.f 0x11 1 = 2 ∧ slot = 0xFF then some (refuse .badParam 5 0x02)
    else if slot ≠ 0xFF ∧ !modelMatches m h then some (refuse .notPermitted 5 0x05)
    else if c.f 0x11 1 = 2 ∧ !m.rotations then some (refuse .badParam 5 0x02)
    else if (findRec s c.handle).isNone ∧ !handleRoom s c.tenant then some { status := .noSpace }
    else none

/-- Units to reserve for a PARK: the root, then each block (R218). -/
def parkUnits (h : Shape) (mode tokens : Nat) : List Nat :=
  3 :: (List.range (blockCount tokens)).map (fun b => unitsOf (reserveSize h mode (blockTokens tokens b)))

/-- STRATUM_PARK from step 10: the checks, the reservation, and BEGIN. -/
def parkBody (s : State) (c : Cmd) : State :=
  match parkRefusal s c with
  | some r => completeMove s c r
  | none =>
    match allocateAll s 3 c.seq (parkUnits c.shape (c.f 0x11 1) (c.f 0x14 4)) with
    | none => completeMove s c { status := .noSpace }
    | some (_, s) => postOrHold (beginMove s c c.accN .begin) c.seq c.accN

/-- STRATUM_PARK: it starts once the mover of its spoke is free (R220). -/
def execStratumPark (c : Nat) (s : State) : Host.Outcome State Fault Refusal :=
  done (match findCmd s c with
    | some cmd =>
      if (spokeMove s cmd.accN).isSome && !cmd.noop then s
      else startCmd s c 0x10 none (moveDoms (fun _ c => c.f 0x11 1 ≠ 0)) accHold parkBody
    | none => s)

/-! ### STRATUM_RESTORE (R219) -/

/-- The current block table of a record's root. -/
def recTable (s : State) (r : Stratum) : List BlockEntry :=
  match currentCopy s r.root with
  | some (k, h) => currentTable s r.root k h
  | none => []

/-- Does a RESTORE need grains: a block is stored in mode 1 or 2. -/
def restoreGrains (s : State) (c : Cmd) : Bool :=
  match findRec s c.handle with
  | some r => r.home = .steward && (recTable s r).any (fun e => e.bmode ≠ 0)
  | none => false

/-- Checks of R219. -/
def restoreRefusal (s : State) (c : Cmd) (r : Stratum) : Option Result :=
  match homeRefusal r (r.home = .steward), accRefusal s c.accN with
  | some x, _ => some x
  | none, some x => some x
  | none, none =>
    if (getSpoke s c.accN).exportSize.toNat < c.f 0x18 8 + r.tokens * r.shape.tokenBytes then some (refuse .badParam 5 0x03)
    else if r.mode = 2 ∧ !((getModel s r.slot).loaded && (getModel s r.slot).tag = r.modelTag) then
      some (refuse .notPermitted 5 0x06)
    else none

/-- STRATUM_RESTORE from step 10. -/
def restoreBody (s : State) (c : Cmd) : State :=
  match findRec s c.handle with
  | none => completeMove s c noHandle
  | some r =>
    match restoreRefusal s c r with
    | some x => completeMove s c x
    | none =>
      if (currentCopy s r.root).isNone then rootBad s r.handle c
      else postOrHold (beginMove s c c.accN .begin) c.seq c.accN

/-- STRATUM_RESTORE. -/
def execStratumRestore (c : Nat) (s : State) : Host.Outcome State Fault Refusal :=
  done (match findCmd s c with
    | some cmd =>
      if (spokeMove s cmd.accN).isSome then s
      else startCmd s c 0x11 none (moveDoms restoreGrains) accHold restoreBody
    | none => s)

/-! ### STRATUM_DROP (R12) -/

/-- STRATUM_DROP from step 10: the handle goes, whatever its home. -/
def dropBody (s : State) (c : Cmd) : State :=
  match findRec s c.handle with
  | none => completeMove s c noHandle
  | some _ => completeMove (removeHandle s c.handle) c (okR)

/-- STRATUM_DROP. -/
def execStratumDrop (c : Nat) (s : State) : Host.Outcome State Fault Refusal :=
  done (startCmd s c 0x13 none noDoms noHold dropBody)

/-! ### STRATUM_SPILL and STRATUM_FETCH (R221, R222) -/

/-- Domains of SPILL and FETCH. -/
def sealDoms (s : State) (_ : Cmd) : Option Nat := firstNotOn s ([2, 4] ++ hbmDoms)

/-- Plaintext of a spill: the current header copy, the table, each block as stored. -/
def spillPlain (s : State) (r : Stratum) : List Byte :=
  match currentCopy s r.root with
  | some (k, h) =>
    let tab := currentTable s r.root k h
    h ++ tab.flatMap BlockEntry.bytes ++ tab.flatMap (fun e => gmRead s e.addr e.len)
  | none => []

/-- Bytes of a spill's plaintext, from its table alone. -/
def spillLen (s : State) (r : Stratum) : Nat := 256 + (recTable s r).foldl (fun n e => n + 16 + e.len) 0
/-- Chunks of 1 MiB of a plaintext. -/
def spillChunks (len : Nat) : Nat := ceilDiv len 0x100000
/-- Bytes of a spill image. -/
def imageLen (len : Nat) : Nat := 256 + len + 16 * spillChunks len

/-- The 256-byte header of a spill image (Table 9.8). -/
def spillHeader (t h seq len : Nat) : List Byte :=
  (leBytes 4 0x4C505354 ++ leBytes 2 1 ++ leBytes 1 t ++ [0] ++ leBytes 8 h ++ leBytes 8 seq ++ leBytes 8 len
    ++ leBytes 4 (spillChunks len) ++ List.replicate 256 0).take 256

/-- "TZSEAL" ‖ n ‖ EPOCHn (R125). -/
def sealMessage (t : Nat) (epoch : Dword) : List Byte :=
  [0x54, 0x5A, 0x53, 0x45, 0x41, 0x4C] ++ leBytes 1 t ++ leBytes 8 epoch.toNat
/-- The sealing key of a tenant (R125): the first 32 bytes of the HMAC under the 48 bytes of SEAL_SECRET. -/
def tenantKey (s : State) (t : Nat) : List Byte :=
  let secret := (Config.sealSecret ++ List.replicate 48 0).take 48
  (digestBytes (hmac384 secret (sealMessage t (getTen s t).epoch))).take 32
/-- IV of chunk i. -/
def chunkIv (seq i : Nat) : List Byte := leBytes 8 seq ++ leBytes 4 i

/-- A sealed chunk with its tag. -/
def sealChunk (key hdr : List Byte) (seq i : Nat) (p : List Byte) : List Byte :=
  let c := gcmCrypt key (chunkIv seq i) p
  c ++ gcmTag key (chunkIv seq i) hdr c

/-- The whole spill image. -/
def spillImage (key : List Byte) (t h seq : Nat) (p : List Byte) : List Byte :=
  let hdr := spillHeader t h seq p.length
  let cs := chunks 0x100000 p
  hdr ++ (List.range cs.length).flatMap (fun i => sealChunk key hdr seq i (cs.getD i []))

/-- STRATUM_SPILL from step 10. -/
def spillBody (s : State) (c : Cmd) : State :=
  match findRec s c.handle with
  | none => completeMove s c noHandle
  | some r =>
    match homeRefusal r (r.home = .steward) with
    | some x => completeMove s c x
    | none =>
      if s.boot.keyLock then completeMove s c { status := .keysLocked }
      else if (currentCopy s r.root).isNone then rootBad s r.handle c
      else
        let size := imageLen (spillLen s r)
        if c.f 0x18 8 < size then
          completeMove s c { (refuse .noSpace 5 (unitsOf size)) with r0 := size }
        else sealAcquire (beginMove s c 8 .data) (sealWho c.seq) (spillChunks (spillLen s r))

/-- STRATUM_SPILL. -/
def execStratumSpill (c : Nat) (s : State) : Host.Outcome State Fault Refusal :=
  done (startCmd s c 0x14 none sealDoms noHold spillBody)

/-- STRATUM_FETCH from step 10; the image is read in the transfer. -/
def fetchBody (s : State) (c : Cmd) : State :=
  match findRec s c.handle with
  | none => completeMove s c noHandle
  | some r =>
    match homeRefusal r (r.home = .host) with
    | some x => completeMove s c x
    | none =>
      if s.boot.keyLock then completeMove s c { status := .keysLocked }
      else sealAcquire (beginMove s c 8 .data) (sealWho c.seq) (spillChunks (r.imageSize - 256))

/-- STRATUM_FETCH. -/
def execStratumFetch (c : Nat) (s : State) : Host.Outcome State Fault Refusal :=
  done (startCmd s c 0x15 none sealDoms noHold fetchBody)

/-! ### The end of a transfer (R213, Table 9.4) -/

/-- Cuts the extent at an address down to a number of units. -/
def shrinkExt (s : State) (addr units : Nat) : State :=
  let es := s.strata.extents.map (fun e =>
    if Config.hbmBase + e.first * 0x10000 = addr then { e with units := min e.units (max 1 units) } else e)
  { s with strata := { s.strata with extents := es } }

/-- Frees the extent at an address. -/
def freeAt (s : State) (addr : Nat) : State :=
  { s with strata := { s.strata with
      extents := s.strata.extents.filter (fun e => Config.hbmBase + e.first * 0x10000 ≠ addr) } }

/-- Stores one block of a PARK: its entry, or none where it does not fit (R218). -/
def storeBlock (s : State) (c : Cmd) (model : ModelSlot) (h : Shape) (mode n addr : Nat) (bs : List Byte) :
    Option (BlockEntry × State) :=
  let (bm, e) := encodeBlock h mode n (rotation s model h) bs
  let put (s : State) (a : Nat) : BlockEntry × State :=
    (⟨a, e.length, n, bm⟩, count (agentWrite s a e) (120 + bm) { tenant := c.tenant, cls := some 1 })
  if mode = 2 ∧ bm = 0 then
    (allocate (freeAt s addr) 3 c.seq (unitsOf e.length)).map (fun r => put r.2 r.1)
  else some (put (if mode = 1 then shrinkExt s addr (unitsOf e.length) else s) addr)

/-- Stores the blocks of a PARK in order. -/
def storeBlocks (c : Cmd) (model : ModelSlot) (h : Shape) (n : Nat) : List Nat → List Nat → State → Option (List BlockEntry × State)
  | [], _, s => some ([], s)
  | _, [], s => some ([], s)
  | b :: bs, a :: as, s =>
    let k := blockTokens (c.f 0x14 4) b
    let src := (getSpoke s n).exportBase + c.f 0x18 8 + 256 * b * h.tokenBytes
    match storeBlock s c model h (c.f 0x11 1) k a (accRead s n src (k * h.tokenBytes)) with
    | none => none
    | some (e, s) => (storeBlocks c model h n bs as s).map (fun r => (e :: r.1, r.2))

/-- Addresses reserved for a command, in order. -/
def reserved (s : State) (c : Nat) : List Nat :=
  (s.strata.extents.filter (fun e => e.kind = 3 && e.key = c)).map (fun e => Config.hbmBase + e.first * 0x10000)

/-- A PARK's data is in: the blocks, generation 1, home STEWARD, copy CURRENT; then END. -/
def parkEnd (s : State) (m : Move) : State :=
  let c := m.asCmd
  let n := m.spoke
  let h := c.shape
  let tokens := c.f 0x14 4
  match reserved s m.cmd with
  | [] => s
  | root :: as =>
    match storeBlocks c m.model h n (List.range (blockCount tokens)) as s with
    | none => failMove s m { status := .noSpace }
    | some (tab, s) =>
      let slot := c.f 0x12 1
      let stored := tab.foldl (fun k e => k + e.len) 0
      let old := findRec s m.handle
      let r : Stratum := {
        handle := m.handle, home := .steward, copy := .current, copyAcc := n, shape := h, mode := c.f 0x11 1,
        slot := slot, modelTag := m.model.tag, tokens := tokens,
        stored := stored, root := root, generation := 1,
        spillSeq := match old with | some x => x.spillSeq | none => 0, pending := 0x10 }
      let s := putRec (commitFirst (rekey s 3 m.cmd 0 m.handle) r tab) r
      let lines := tokens * h.tokenBytes / 64
      let s := count (count s 117 { tenant := m.tenant, cls := some 1 } lines) (192 + 4 * n) {} lines
      postOrHold (modMove s m.cmd (fun x => { x with stage := .ending, r0 := stored, r1 := tokens })) m.cmd n

/-- Decoded bytes of a stratum in export layout. -/
def exportBytes (s : State) (r : Stratum) : List Byte :=
  (recTable s r).flatMap (fun e => decodeBlock r.shape e.bmode e.tokens (rotation s (getModel s r.slot) r.shape) (gmRead s e.addr e.len))

/-- A RESTORE's data is out, with the read behind its last write returned: home the target, copy CURRENT; then END. A root that
has no valid copy any more makes the stratum LOST and leaves its copy state (R232). -/
def restoreEnd (s : State) (m : Move) : State :=
  match findRec s m.handle with
  | none => s
  | some r =>
    if (currentCopy s r.root).isNone then
      let s := failMove (loseRec s r.handle) m (refuse .dataError 5 0x06)
      mapRecs s (fun x => if x.handle = r.handle then { x with copy := r.copy } else x)
    else if hasBadLine s r.handle then failMove (reportUe s (badLineOf s r.handle) r.handle) m { status := .dataError }
    else
      let bytes := r.tokens * r.shape.tokenBytes
      let s := accWrite s m.spoke ((getSpoke s m.spoke).exportBase + m.asCmd.f 0x18 8) (exportBytes s r)
      let s := putRec (freeKey s 0 r.handle)
        { r with home := .accelerator m.spoke, copy := .current, copyAcc := m.spoke, pending := 0x11 }
      let s := count (count s 118 { tenant := m.tenant, cls := some 1 } (bytes / 64)) (193 + 4 * m.spoke) {} (bytes / 64)
      postOrHold (modMove s m.cmd (fun x => { x with stage := .ending, r0 := bytes, r1 := r.tokens })) m.cmd m.spoke

/-- A SPILL's image is out: home HOST, root and blocks freed. KEY_LOCK is looked at when a SPILL or FETCH starts; one already under
way when the lock is set goes on (DESIGN CHOICE, log entry 68). -/
def spillEnd (s : State) (m : Move) (dma : Option Nat) : State :=
  match findRec s m.handle with
  | none => s
  | some r =>
    if (currentCopy s r.root).isNone then failMove (loseRec s r.handle) m (refuse .dataError 5 0x06)
    else if hasBadLine s r.handle then failMove (reportUe s (badLineOf s r.handle) r.handle) m { status := .dataError }
    else
      let seq := (getTen s m.tenant).spillSeq
      let s := modTen s m.tenant (fun t => { t with spillSeq := t.spillSeq + 1 })
      match dma with
      | some a => failMove s m (dmaWriteErr a)
      | none =>
        let p := spillPlain s r
        let img := spillImage (tenantKey s m.tenant) m.tenant r.handle seq p
        let s := hostWrite s (m.asCmd.f 0x10 8) img
        let s := count s 161 { tenant := m.tenant } (spillChunks p.length)
        let s := count s 119 { tenant := m.tenant, cls := some 1 } (img.length / 64)
        let s := putRec (freeKey s 0 r.handle)
          { r with home := .host, spillSeq := seq, imageSize := img.length }
        finishMove s { m with r0 := img.length }

/-- Opens the chunks of an image: the plaintext, or the number of the chunk whose tag fails. -/
def openChunks (key hdr : List Byte) (seq : Nat) : Nat → Nat → List Byte → Nat ⊕ List Byte
  | 0, _, _ => .inr []
  | k + 1, i, bs =>
    let n := min 0x100000 (bs.length - 16)
    let c := bs.take n
    let tag := (bs.drop n).take 16
    if tag ≠ gcmTag key (chunkIv seq i) hdr c then .inl i
    else match openChunks key hdr seq k (i + 1) (bs.drop (n + 16)) with
      | .inl j => .inl j
      | .inr p => .inr (gcmCrypt key (chunkIv seq i) c ++ p)

/-- Entries of a fetched table at their new addresses. -/
def placeEntries (tab : List BlockEntry) (as : List Nat) : List BlockEntry :=
  List.zipWith (fun e a => { e with addr := a }) tab as

/-- Writes the blocks of a fetched image in order. -/
def writeBlocks : List BlockEntry → List Byte → State → State
  | [], _, s => s
  | e :: es, bs, s => writeBlocks es (bs.drop e.len) (agentWrite s e.addr (bs.take e.len))

/-- A FETCH's image is in (R222): checked, opened, and committed as a new root of generation 1 (log entry 35). -/
def fetchEnd (s : State) (m : Move) (dma : Option Nat) : State :=
  match findRec s m.handle with
  | none => s
  | some r =>
    let buf := m.asCmd.f 0x10 8
    let len := m.asCmd.f 0x18 8
    match dma with
    | some a => failMove s m (dmaReadErr a)
    | none =>
      let hdr := hostRead s buf 256
      let size := imageLen (leAt hdr 0x18 8)
      if len < 256 then failMove s m (refuse .dataError 5 0x05)
      else if leAt hdr 0 4 ≠ 0x4C505354 ∨ leAt hdr 6 1 ≠ m.tenant ∨ leAt hdr 8 8 ≠ m.handle ∨ leAt hdr 0x10 8 ≠ r.spillSeq then
        failMove s m (refuse .dataError 5 0x04)
      else if len < size then failMove s m (refuse .dataError 5 0x05)
      else match openChunks (tenantKey s m.tenant) hdr r.spillSeq (spillChunks (leAt hdr 0x18 8)) 0
          (hostRead s (buf + 256) (size - 256)) with
        | .inl i => failMove (count s 123 { tenant := m.tenant, cls := some 1 }) m (refuse .dataError 5 (0x100 + i))
        | .inr p =>
          let k := leAt p 0x1A 2
          let tab := tableOf ((p.drop 256).take (16 * k))
          match allocateAll s 0 m.handle (3 :: tab.map (fun e => unitsOf e.len)) with
          | none => failMove s m { status := .noSpace }
          | some ([], s) => s
          | some (root :: as, s) =>
            let tab := placeEntries tab as
            let r' := { r with home := .steward, root := root, generation := 1, tokens := leAt p 0x10 4, mode := leAt p 6 1,
                               slot := leAt p 0x17 1, modelTag := leAt p 0x30 8,
                               stored := tab.foldl (fun n e => n + e.len) 0 }
            let s := writeBlocks tab (p.drop (256 + 16 * k)) s
            let s := putRec (commitFirst s r' tab) r'
            let s := count s 161 { tenant := m.tenant } (spillChunks p.length)
            let s := count s 119 { tenant := m.tenant, cls := some 1 } (size / 64)
            finishMove s { m with r0 := size }

/-- The block transfer of a move ends: a tenant reset ends it with nothing committed; otherwise its commit point passes, or
its link or data fails it. A move that waits for its link or its seal context has no transfer to end. -/
def moveEnd (c : Nat) (dma : Option Nat) (s : State) : State :=
  match findMove s c with
  | none => s
  | some m =>
    if m.stage ≠ .data then s
    else if m.stopping then abandonMove s m
    else if m.spoke < 8 then
      if !spokeReady s m.spoke then s
      else if dma.isSome then failMove s m { status := .dataError }
      else if m.op = 0x10 then parkEnd s m else restoreEnd s m
    else if !sealHolds s (sealWho c) then s
    else if m.op = 0x14 then spillEnd s m dma else fetchEnd s m dma

/-- STRATUM_MOVE_END. -/
def execStratumMoveEnd (c : Nat) (dma : Option Nat) (s : State) : Host.Outcome State Fault Refusal := done (moveEnd c dma s)

/-! ### Model slots (R215 to R217) -/


/-- A model image's header is good (Table 9.5). -/
def modelHeaderOk (i : List Byte) (len : Nat) : Bool :=
  let hd := leAt i 0xA 2
  decide (64 ≤ len) && leAt i 0 4 = 0x4D524C54 && leAt i 4 2 = 1 && 1 ≤ leAt i 6 2 && leAt i 6 2 ≤ 256
  && 1 ≤ leAt i 8 1 && leAt i 8 1 ≤ 64 && 32 ≤ hd && hd ≤ 256 && hd % 32 = 0 && leAt i 0xC 1 ≤ 2
  && leAt i 0xD 1 ≤ 1 && zeroAt i 0x1C 32 && leAt i 0x3C 4 = (crc32 (i.take 0x3C)).toNat
  && 64 + 32 * leAt i 0xE 2 ≤ len

/-- A section as its table entry gives it: kind, index, offset, length, CRC. -/
structure Section where
  kind : Nat
  idx : Nat
  off : Nat
  len : Nat
  crc : Nat
deriving DecidableEq, Repr

/-- The section table of an image. -/
def modelSections (i : List Byte) : List Section :=
  (List.range (leAt i 0xE 2)).map (fun k =>
    let e := (i.drop (0x40 + 32 * k)).take 32
    ⟨leAt e 0 1, leAt e 2 2, leAt e 8 8, leAt e 0x10 8, leAt e 0x18 4⟩)

/-- Bytes of a section. -/
def sectionBytes (i : List Byte) (x : Section) : List Byte := (i.drop x.off).take x.len
/-- Sections of a kind. -/
def ofKind (xs : List Section) (k : Nat) : List Section := xs.filter (fun x => x.kind = k)
/-- Does a section go to HBM. -/
def inHbm (x : Section) : Bool := 4 ≤ x.kind && x.kind ≤ 6
/-- Is a kernel well formed (R140). -/
def kernelOk (i : List Byte) : Bool := imgHeaderOk i i.length && imgBodyOk i
/-- The phases of a phase table. -/
def phasesOf (bs : List Byte) : List (Nat × Nat × Nat) :=
  (chunks 16 bs).map (fun e => (leAt e 0 4, leAt e 4 4, leAt e 8 4))

/-- Structure of a model image (R215, R216 step 3). -/
def modelStructureOk (i : List Byte) (xs : List Section) (len : Nat) : Bool :=
  let layers := leAt i 6 2
  let hd := leAt i 0xA 2
  let one (k : Nat) : Bool := (ofKind xs k).length = 1
  let each (k : Nat) : Bool := (List.range layers).all (fun l => ((ofKind xs k).filter (fun x => x.idx = l)).length = 1)
    && (ofKind xs k).length = layers
  let pt := (ofKind xs 3).flatMap (sectionBytes i)
  let ps := phasesOf pt
  xs.all (fun x => 1 ≤ x.kind && x.kind ≤ 6 && x.off % 64 = 0 && x.off + x.len ≤ len)
  && one 1 && one 2 && one 3 && (ofKind xs 4).length ≤ 1 && each 5
  && (if leAt i 0xD 1 = 1 then each 6 && (ofKind xs 6).all (fun x => x.len = leAt i 8 1 * hd * hd * 2)
      else (ofKind xs 6).isEmpty)
  && ((ofKind xs 1) ++ (ofKind xs 2)).all (fun x => kernelOk (sectionBytes i x))
  && pt.length % 16 = 0 && 1 ≤ ps.length && ps.length ≤ 32
  && ps.all (fun p => p.2.1 ≤ 0x4000000 && 1 ≤ p.2.2 && p.2.2 ≤ 0x1000000
       && (ofKind xs 5).all (fun x => p.1 + p.2.1 ≤ x.len))

/-- The model's tag (R215). -/
def modelTag (i : List Byte) : Nat :=
  ofLe ((digestBytes (sha384 (i.take (0x40 + 32 * leAt i 0xE 2)))).take 8)

/-- Mode-2 strata bound to a slot, homed in the steward or host tier. -/
def boundTo (s : State) (slot : Nat) : List Stratum :=
  s.strata.recs.filter (fun r => r.mode = 2 && r.slot = slot && (r.home = .steward || r.home = .host))

/-- Free bytes of the model-kernel store of 2 MiB (R141). -/
def modelStoreFree (s : State) : Nat :=
  0x200000 - s.strata.models.foldl (fun n e => n + e.2.prologue.length + e.2.layerKernel.length) 0

/-- Domains of MODEL_LOAD and STRATUM_INGEST: a bed of the internal pool too. -/
def modelDoms (s : State) (_ : Cmd) : Option Nat :=
  match firstNotOn s ([4] ++ hbmDoms ++ loamDoms) with
  | some d => some d
  | none => if (internalPool s).isEmpty then some 28 else none

/-- MODEL_LOAD from step 10 (R216). A read of the header or table that fails ends it first; one of a section after the
checks that need no section. -/
def modelLoadBody (dma : Option Nat) (s : State) (c : Cmd) : State :=
  let slot := c.f 8 1
  let buf := c.f 0x10 8
  let len := c.f 0x18 8
  let hdr := hostRead s buf 0x40
  let head := 0x40 + 32 * leAt hdr 0xE 2
  let early := match dma with | some a => decide (a < buf + head) | none => false
  if (getModel s slot).loaded then complete s c.seq (refuse .notPermitted 5 0x01)
  else if early then complete s c.seq (dmaReadErr (dma.getD 0))
  else if !modelHeaderOk hdr len then complete s c.seq (refuse .dataError 5 0x01)
  else
    let top := hostRead s buf head
    let xs := modelSections top
    let tag := modelTag top
    let sizes := (xs.filter inHbm).map (·.len)
    let kern := ((xs.filter (fun x => x.kind = 1 || x.kind = 2)).map (·.len)).foldl (· + ·) 0
    if (boundTo s slot).any (fun r => r.modelTag ≠ tag) then complete s c.seq (refuse .notPermitted 5 0x07)
    else if modelStoreFree s < kern then complete s c.seq { status := .noSpace }
    else match allocateAll s 1 slot (sizes.map unitsOf) with
      | none => complete s c.seq { status := .noSpace }
      | some (as, s') =>
        match dma with
        | some a => complete s c.seq (dmaReadErr a)
        | none =>
          let img := hostRead s buf len
          if xs.any (fun x => x.crc ≠ (crc32 (sectionBytes img x)).toNat) then complete s c.seq (refuse .dataError 5 0x02)
          else if !modelStructureOk img xs len then complete s c.seq (refuse .dataError 5 0x03)
          else
            let hs := List.zip (xs.filter inHbm) as
            let s := hs.foldl (fun s p => agentWrite s p.2 (sectionBytes img p.1)) s'
            let m : ModelSlot := {
              loaded := true, shape := ⟨leAt img 6 2, leAt img 8 1, leAt img 0xA 2, leAt img 0xC 1⟩,
              rotations := leAt img 0xD 1 = 1, tag := tag, vocab := leAt img 0x10 4, maxTokens := leAt img 0x14 4,
              actBytes := leAt img 0x18 4, bytes := sizes.foldl (· + ·) 0,
              phases := phasesOf ((ofKind xs 3).flatMap (sectionBytes img)),
              prologue := (ofKind xs 1).flatMap (sectionBytes img),
              layerKernel := (ofKind xs 2).flatMap (sectionBytes img),
              sections := hs.map (fun p => (p.1.kind, p.1.idx, p.2, p.1.len)) }
            complete (setModel s slot m) c.seq (okR m.bytes m.shape.layers)

/-- MODEL_LOAD. -/
def execModelLoad (c : Nat) (dma : Option Nat) (s : State) : Host.Outcome State Fault Refusal :=
  done (startCmd s c 0x16 none modelDoms noHold (modelLoadBody dma))

/-- Sets UE of the running batch's session of a handle. -/
def markUe (s : State) (h : Nat) : State :=
  match s.strata.batch with
  | none => s
  | some b =>
    let w := { b.win with sessions := b.win.sessions.map (fun x => if x.handle = h then { x with ue := true } else x) }
    { s with strata := { s.strata with batch := some { b with win := w } } }

/-- Windows and batches of a slot. -/
def batchesOf (s : State) (slot : Nat) : Nat :=
  b2n (getWindow s slot).isSome + (s.strata.queue.filter (fun w => w.slot = slot)).length
  + (match s.strata.batch with | some b => b2n (b.win.slot = slot) | none => 0)

/-- MODEL_UNLOAD from step 10 (R217). -/
def modelUnloadBody (s : State) (c : Cmd) : State :=
  let slot := c.f 8 1
  if !(getModel s slot).loaded then complete s c.seq { status := .okNoop }
  else if 0 < batchesOf s slot then complete s c.seq (refuse .busyGuarded 5 0x01)
  else if (boundTo s slot) ≠ [] then complete s c.seq (refuse .busyGuarded 5 0x02)
  else complete (setModel (freeKey s 1 slot) slot {}) c.seq (okR)

/-- MODEL_UNLOAD. -/
def execModelUnload (c : Nat) (s : State) : Host.Outcome State Fault Refusal :=
  done (startCmd s c 0x17 none noDoms noHold modelUnloadBody)

/-! ### HBM errors (R232, R256) -/

/-- The stratum whose extent holds an address. -/
def stratumAt (s : State) (a : Nat) : Option Nat :=
  (s.strata.extents.find? (fun e =>
    e.kind = 0 && Config.hbmBase + e.first * 0x10000 ≤ a && a < Config.hbmBase + (e.first + e.units) * 0x10000)).map (·.key)

/-- An uncorrectable error on a read of an HBM line: the line keeps failing; a move that reads the stratum fails, and a
session of the running batch is excluded at the next phase launch. -/
def hbmUe (a : Nat) (s : State) : State :=
  if !(domOn s 14 && decide (Config.hbmBase ≤ a) && decide (a < Config.hbmBase + Config.hbmBytes)) then s
  else match stratumAt s a with
  | none => count (logRec s 0x41 4 2 (leBytes 8 2 ++ leBytes 8 (a - a % 64) ++ leBytes 8 0)) (51 + 5 * hbmStack a) { addr := some a }
  | some h =>
    let s := reportUe s a h
    let line := a - a % 64
    let bad := if s.strata.badLines.contains line then s.strata.badLines else s.strata.badLines ++ [line]
    let s := { s with strata := { s.strata with badLines := bad } }
    match s.strata.moves.find? (fun m => m.handle = h && m.stage = .data && (m.op = 0x11 || m.op = 0x14)) with
    | some m => if m.stopping then s else failMove s m { status := .dataError }
    | none => markUe s h

/-- A kernel's read meets a line that failed before (R232): it fails again. -/
def failAgain (a : Nat) (s : State) : State :=
  match stratumAt s a with
  | none => s
  | some h => markUe (reportUe s a h) h

/-- HBM_UE. -/
def execHbmUe (addr : Nat) (s : State) : Host.Outcome State Fault Refusal := done (hbmUe addr s)

/-- HBM_CE: corrected and counted. -/
def execHbmCe (addr : Nat) (s : State) : Host.Outcome State Fault Refusal :=
  done (if domOn s 14 && decide (Config.hbmBase ≤ addr) && decide (addr < Config.hbmBase + Config.hbmBytes) then
    ltAdd (count s (50 + 5 * hbmStack addr) { addr := some addr }) 29 else s)

/-- PATROL_SCRUB: every line of every stack is read and corrected, and counted as patrol lines. -/
def execPatrolScrub (s : State) : Host.Outcome State Fault Refusal :=
  done (if domOn s 14 then count s 78 {} (Config.hbmBytes / 64) else s)

end Sys2Proof.Machine
end

