-- ==== Sys2Proof/Machine/Power.lean ====
section
/-! DEFINITION. ACC_POWER_STATE, ACC_RAIL_SET and ACC_LIMIT_SET, rail steps and cuts, limits, telemetry, the tray governor and
the holdup bank (R262 to R293). -/

namespace Sys2Proof.Machine

/-! ### ACC_POWER_STATE (R264, R265, R271, R281, R282) -/

/-- Refusals of Table 11.3, in its order, and of R251. -/
def powerRefusal (s : State) (n : Nat) (dest : AccSt) : Option Result :=
  let a := getAcc s n
  let nr (v : Nat) : Option Result := some (refuse .accNotReady 5 v)
  let low := dest = .aux ∨ dest = .off
  if a.cut ∧ dest ≠ .off then nr 0x30
  else if s.therm.latch.getLsbD n ∧ (dest = .retain ∨ dest = .idle ∨ dest = .run) then some { status := .thermalHold }
  else if dest = .retain ∧ (a.st = .off ∨ a.st = .aux) then nr 0x32
  else if dest = .retain ∧ movesInFlight s n then nr 0x33
  else if low ∧ (a.st = .idle ∨ a.st = .run ∨ a.st = .retain) ∧ s.strata.recs.any (fun r => homedOn' r n) then nr 0x34
  else if low ∧ movesInFlight s n then nr 0x33
  else if (dest = .idle ∨ dest = .run) ∧ (ratedMa s n = 0 ∨ !hasReg s n 4) then nr 0x36
  else if dest = .retain ∧ a.st ≠ .retain ∧ !(getSpoke s n).contract then nr 0x14
  else none
where
  /-- Is a stratum homed on An. -/
  homedOn' (r : Stratum) (n : Nat) : Bool := decide (r.home = .accelerator n)

/-- The state a command moves An to: its STATE under the BMC's ceiling, or for T64 the new ceiling, AUX where RETAIN lacks
the contract (R281). -/
def powerTarget (s : State) (c : Cmd) : AccSt :=
  let n := c.accN
  let want := AccSt.ofCode (c.f 9 1)
  let a := getAcc s n
  if c.tenant = 64 then
    (if want = .retain ∧ !(getSpoke s n).contract then .aux else want)
  else if a.stateCeil.code < want.code then a.stateCeil
  else want

/-- Does a T64 ACC_POWER_STATE only record its ceiling: An is not above it (R281). -/
def onlyCeiling (s : State) (c : Cmd) : Bool :=
  c.tenant = 64 && decide ((getAcc s c.accN).st.code ≤ (AccSt.ofCode (c.f 9 1)).code)

/-- The spoke domain, for a host's move to IDLE or RUN (Table 2.4). T64's is checked once its ceiling is recorded (R281). -/
def powerDoms (s : State) (c : Cmd) : Option Nat :=
  let dest := powerTarget s c
  if c.tenant = 64 then none
  else if dest = .idle ∨ dest = .run then firstNotOn s [6 + c.accN]
  else none

/-- The domain that T64's move lacks (R29). -/
def moveLacks (s : State) (n : Nat) (dest : AccSt) : Option Nat := if dest = .idle ∨ dest = .run then firstNotOn s [6 + n] else none

/-- Moves An to a state, or refuses. -/
def powerMove (s : State) (c : Cmd) (dest : AccSt) : State :=
  let n := c.accN
  match powerRefusal s n dest with
  | some r => complete s c.seq r
  | none =>
    let a := getAcc s n
    if a.st = dest then
      complete (setAcc s n { a with target := dest, cut := a.cut && decide (dest ≠ .off) }) c.seq
        (okR (dest.code + 256 * dest.code))
    else startTransition s n dest (some c.seq)

/-- ACC_POWER_STATE from step 10. -/
def powerBody (s : State) (c : Cmd) : State :=
  let n := c.accN
  let want := AccSt.ofCode (c.f 9 1)
  let dest := powerTarget s c
  if c.tenant = 64 then
    let only := onlyCeiling s c
    let s := modAcc s n (fun a => { a with stateCeil := want })
    if only then
      let a := getAcc s n
      complete (setAcc s n { a with cut := a.cut && decide (want ≠ .off) }) c.seq (okR (a.st.code + 256 * a.st.code))
    else match moveLacks s n dest with
      | some d => complete s c.seq (refuse .notPermitted 4 d)
      | none => powerMove s c dest
  else powerMove (if dest = want then s else modCmd s c.seq (fun x => { x with clamped := true })) c dest

/-- ACC_POWER_STATE: one transition of An at a time. -/
def execAccPowerState (c : Nat) (s : State) : Host.Outcome State Fault Refusal :=
  done (match findCmd s c with
    | some cmd =>
      if (getAcc s cmd.accN).phase ≠ .none ∨ (getStop s cmd.accN).isSome then s
      else startCmd s c 0x20 none powerDoms noHold powerBody
    | none => s)

/-! ### Rail steps (R266 to R272) -/

/-- Is the next rail of an up-sequence due: at the later of UP_SPACE and the previous rail's power-good, with its stored setpoint
written (R266, R274). The first rail waits for its setpoint alone. -/
def enableDue (s : State) (n r : Nat) : Bool :=
  let a := getAcc s n
  a.upped.all (fun q => (getRail a q).pg) && (a.upped.isEmpty || decide (a.since + upSpace a ≤ s.tick)) && !storedDue s n r

/-- RAIL_ENABLE_STEP (R266). -/
def execRailEnableStep (n : Fin 8) (s : State) : Host.Outcome State Fault Refusal :=
  let a := getAcc s n.val
  done (match a.phase with
    | .up (r :: rest) =>
      if enableDue s n.val r then
        modAcc (enableRail s n.val r) n.val (fun a => { a with phase := .up rest })
      else s
    | _ => s)

/-- The rails a failed up-sequence still has to take down, one step on; with none left the command completes (R272). -/
def failStep (s : State) (n : Nat) (todo : List Nat) : State :=
  let excess (s : State) : State := endTransition s n (refuse .accNotReady 5 0x31)
  match todo with
  | [] => excess s
  | r :: rest =>
    let s := modAcc (disableRail s n r) n (fun a => { a with phase := .failed rest })
    if rest = [] then excess s else s

/-- RAIL_DISABLE_STEP (R267, R272): the next rail, DOWN_SPACE after the one before. -/
def execRailDisableStep (n : Fin 8) (s : State) : Host.Outcome State Fault Refusal :=
  let a := getAcc s n.val
  done (if a.since + downSpace a ≤ s.tick then
    (match a.phase with
     | .down todo => downStep s n.val todo
     | .failed todo => failStep s n.val todo
     | _ => s)
  else s)

/-- POWER_GOOD_RISE (R269): a rail's first rise arms it; the last rail of an up-sequence ends it. -/
def execPowerGoodRise (n : Fin 8) (r : Fin 5) (s : State) : Host.Outcome State Fault Refusal :=
  let x := getRail (getAcc s n.val) r.val
  done (if x.en ∧ !x.pg then
    let s := modRail s n.val r.val (fun x => { x with pg := true, armed := true, onSince := s.tick })
    let a := getAcc s n.val
    match a.phase with
    | .up [] =>
      if a.upped.all (fun q => (getRail a q).pg) then
        (if a.target = .aux then transitionOk (modAcc s n.val (fun a => { a with st := .aux })) n.val
         else modAcc s n.val (fun a => { a with phase := .link }))
      else s
    | _ => s
  else s)

/-- PG_TIMEOUT (R272): a rail enabled in an up-sequence is not good within PG_TIMEOUT, so the rails of this transition go
down in reverse order. -/
def execPgTimeout (n : Fin 8) (s : State) : Host.Outcome State Fault Refusal :=
  let a := getAcc s n.val
  let late := a.upped.any (fun q => !(getRail a q).pg && decide ((getRail a q).onSince + pgLimit a ≤ s.tick))
  done (match a.phase with
    | .up _ => if late then failStep s n.val a.upped.reverse else s
    | _ => s)

/-- RAIL_CUT (R270, R20): all five enables and SPERST_N low, OFF with CUT latched; commands in flight end with 0x30, the
strata on An are lost where VMEM was on, and the cut is recorded. -/
def railCut (s : State) (n : Nat) (fell : List (Fin 5)) : State :=
  let a := getAcc s n
  match lowest ((fell.map (·.val)).filter (fun r => (getRail a r).armed)) with
  | none => s
  | some r =>
    let vm := (getRail a 2).en
    let off (x : Rail) : Rail :=
      { x with en := false, pg := false, armed := false, moving := false, slewing := none, tries := 0, gaveUp := false }
    let s := setAcc s n { a with rails := (List.range 5).foldl
                                   (fun m q => KMap.set (fun _ => ({} : Rail)) m q (off (getRail a q))) a.rails,
                                 st := .off, phase := .none, cmd := none, upped := [], tries := 0, cut := true, cutRail := r }
    let stopping := (getStop s n).isSome
    let s := setStop (dropSpoke s n) n none
    let s := accLeft (failPowerCmds s n (refuse .accNotReady 5 0x30)) n 0x30
    let s := enterLow s n .off
    let s := if vm then loseAccStrata s n else s
    let s := if stopping then dieSpoke s n else s
    if hasReg s n r && s.crd.fwUp && portUp s (1 + n) then
      { s with tw := { s.tw with cuts := s.tw.cuts ++ [⟨n, r, a.st.code, false⟩] } }
    else cutRecord s n r a.st.code 0xFFFF

/-- RAIL_CUT. -/
def execRailCut (n : Fin 8) (fell : List (Fin 5)) (s : State) : Host.Outcome State Fault Refusal :=
  done (railCut s n.val fell)

/-! ### ACC_RAIL_SET and slews (R273 to R275, R281, R291) -/

/-- The target of a rail: the host's kept value limited by the BMC's ceiling; 0 where the host keeps none (R275). -/
def railTarget (x : Rail) : Nat := if x.hostMv = 0 then 0 else min x.hostMv x.ceilMv

/-- A rail's target changes with a slew (R274, R275): the command that slewed before completes SUPERSEDED with the applied
mV, and the new target takes effect at the next step point. A rail that is not enabled only stores its target. -/
def retarget (s : State) (n r slew : Nat) (owner : Option Nat) : State :=
  let x := getRail (getAcc s n) r
  let s := match x.slewing with
    | some c => complete (modCmd s c (fun y => { y with superseded := true })) c (okR x.applied)
    | none => s
  let t := railTarget x
  if x.en ∧ t ≠ 0 ∧ t ≠ x.applied then
    let now := some s.tick
    modRail s n r (fun x =>
      { x with target := t, slew := slew, slewing := owner, moving := true, tries := 0, lastStep := now })
  else
    let s := modRail s n r (fun x => 
      { x with target := t, slew := slew, slewing := none, moving := false, tries := 0, gaveUp := false })
    match owner with
    | some c => complete s c (okR (if x.en then x.applied else t))
    | none => s

/-- Has the regulator of a rail reported a VOUT_MODE that is not linear (R345). -/
def modeUnsupported (s : State) (n r : Nat) : Bool :=
  match KMap.get (fun _ => none) s.tw.voutMode (8 * n + r) with
  | some m => decide (m / 32 ≠ 0)
  | none => false

/-- ACC_RAIL_SET from step 10. A ceiling that leaves the target as it is leaves a slew as it is. -/
def railBody (s : State) (c : Cmd) : State :=
  let n := c.accN
  let r := c.f 9 1
  let mv := c.f 0xC 4
  let x := getRail (getAcc s n) r
  let range := cfgGet s (railBase n r + 4)
  let x' : Rail := if c.tenant = 64 then { x with ceilMv := mv } else { x with hostMv := mv }
  if !hasReg s n r ∨ bf range 31 16 = 0 then complete s c.seq (refuse .badParam 5 0x38)
  else if mv < bf range 15 0 ∨ bf range 31 16 < mv then complete s c.seq (badField 0xC)
  else if (getAcc s n).cut then complete s c.seq (refuse .accNotReady 5 0x30)
  else if modeUnsupported s n r then complete s c.seq (refuse .accNotReady 5 0x35)
  else if s.therm.latch.getLsbD n ∧ railTarget x < railTarget x' then complete s c.seq { status := .thermalHold }
  else
    let s := modRail s n r (fun _ => x')
    let s := if c.tenant ≠ 64 ∧ x.ceilMv < mv then modCmd s c.seq (fun y => { y with clamped := true }) else s
    let s := releaseRes s c.seq
    if c.tenant = 64 ∧ railTarget x' = x.target then complete s c.seq (okR (if x.en then x.applied else x.target))
    else retarget s n r (c.f 0x10 4) (some c.seq)

/-- ACC_RAIL_SET. -/
def execAccRailSet (c : Nat) (s : State) : Host.Outcome State Fault Refusal :=
  done (startCmd s c 0x21 none noDoms noHold railBody)

/-- Step size of a slew in mV (R274). -/
def slewStep (slew : Nat) : Nat := max 1 (slew * 50 / 1000)

/-- The setpoint after one step toward the target. A SLEW of 0, or a rail with no setpoint acknowledged yet, steps straight
to it (log entry 39). -/
def nextMv (x : Rail) : Nat :=
  let d := slewStep x.slew
  if x.slew = 0 ∨ x.applied = 0 then x.target
  else if x.applied < x.target then min x.target (x.applied + d)
  else max x.target (x.applied - d)

/-- Is a write of a rail due (R274, R348): a retry at once, and a step at a point of the 50 µs grid that has had none. -/
def stepDue (s : State) (x : Rail) : Bool :=
  x.moving && (decide (0 < x.tries)
    || (decide (s.tick % 50 = 0) && (match x.lastStep with | some t => decide (t / 50 < s.tick / 50) | none => true)))

/-- A slew ends where it is, and its command completes with a value of Table 11.3. -/
def slewFails (s : State) (n r : Nat) : State :=
  let x := getRail (getAcc s n) r
  let s := modRail s n r (fun x => { x with moving := false, slewing := none, tries := 0 })
  match x.slewing with
  | some c => complete s c { refuse .accNotReady 5 0x35 with r0 := x.applied }
  | none => s

/-- Is a setpoint write of a rail due, of a rail with a regulator (R263, R274). -/
def setpointDue (s : State) (n r : Nat) : Bool := hasReg s n r && (stepDue s (getRail (getAcc s n) r) || storedDue s n r)

/-- RAIL_SLEW_STEP (R274, R291, R348): the setpoint moves one step, unless the port's earlier write is not finished, or the stored
setpoint of a rail that is not enabled is written; a write is tried four times. A slew whose rail has no regulator any more ends as one
whose writes fail (R263, log entry 39). -/
def railSlewStep (n r : Nat) (portBusy acked : Bool) (s : State) : State :=
  let x := getRail (getAcc s n) r
  if portBusy then s
  else if storedDue s n r then storedWrite s n r acked
  else if !stepDue s x then s
  else if !hasReg s n r then slewFails s n r
  else if acked then
    let v := nextMv x
    let s := modRail (count s (225 + 4 * n) {}) n r (fun x => { x with applied := v, tries := 0, lastStep := some s.tick })
    if v = x.target then
      let s := modRail s n r (fun x => { x with moving := false, slewing := none })
      match x.slewing with
      | some c => complete s c (okR v)
      | none => s
    else s
  else if x.tries < 3 then modRail s n r (fun x => { x with tries := x.tries + 1 })
  else slewFails s n r

/-- RAIL_SLEW_STEP. -/
def execRailSlewStep (n : Fin 8) (r : Fin 5) (portBusy acked : Bool) (s : State) : Host.Outcome State Fault Refusal :=
  done (railSlewStep n.val r.val portBusy acked s)

/-! ### Limits (R277, R278, R281, R291) -/

/-- A limit field of ACC_LIMIT_SET: 0 leaves the limit unchanged (R278). -/
def limField (v old : Nat) : Nat := if v = 0 then old else v

/-- Current limit applied to An after the BMC's ceiling. -/
def ilimApplied (a : Acc) : Nat := min a.ilimHost a.ilimCeil
/-- Every share starts at the applied power limit as a tray limit is set (R280). -/
def startShares (s : State) : State :=
  (List.range 8).foldl (fun s n => modAcc s n (fun a => { a with share := plimApplied a })) s

/-- Records the current limit or ceiling of one accelerator. -/
def setIlim (s : State) (n v : Nat) (bmc : Bool) : State :=
  modAcc s n (fun a => if bmc then { a with ilimCeil := limField v a.ilimCeil } else { a with ilimHost := limField v a.ilimHost })

/-- ACC_LIMIT_SET from step 10: kept limits, or T64's ceilings; CLAMPED where a host limit set lies above its ceiling. -/
def limitBody (s : State) (c : Cmd) : State :=
  let n := c.f 8 1
  let p := c.f 0xC 4
  let i := c.f 0x10 4
  let bmc := decide (c.tenant = 64)
  if n = 0xFF then
    let s := { s with pow := (if bmc then { s.pow with trayPceil := limField p s.pow.trayPceil }
                              else { s.pow with trayPlim := limField p s.pow.trayPlim }) }
    let s := if p ≠ 0 ∧ trayApplied s ≠ noLimit then startShares s else s
    let s := if p ≠ 0 ∧ trayApplied s = noLimit then
        (List.range 8).foldl (fun s n => modAcc s n (fun a => { a with share := noLimit })) s
      else s
    let s := (List.range 8).foldl (fun s n => setIlim s n i bmc) s
    let cl := !bmc && ((p ≠ 0 && decide (s.pow.trayPceil < s.pow.trayPlim))
      || (i ≠ 0 && (List.range 8).any (fun n => decide ((getAcc s n).ilimCeil < (getAcc s n).ilimHost))))
    let s := modCmd s c.seq (fun x => { x with clamped := cl })
    complete s c.seq (okR (trayApplied s) (ilimApplied (getAcc s 0)))
  else
    let s := modAcc s n (fun a => if bmc then { a with plimCeil := limField p a.plimCeil }
                                  else { a with plimHost := limField p a.plimHost })
    let s := setIlim s n i bmc
    let a := getAcc s n
    let cl := !bmc && ((p ≠ 0 && decide (a.plimCeil < a.plimHost)) || (i ≠ 0 && decide (a.ilimCeil < a.ilimHost)))
    complete (modCmd s c.seq (fun x => { x with clamped := cl })) c.seq (okR (plimApplied a) (ilimApplied a))

/-- ACC_LIMIT_SET. -/
def execAccLimitSet (c : Nat) (s : State) : Host.Outcome State Fault Refusal :=
  done (startCmd s c 0x22 none noDoms noHold limitBody)

/-- The limit write of an IDLE and RUN transition, and its outcome (Table 11.2, R291); the share starts again as An enters IDLE (R280).
A VCORE with no regulator any more ends it as failed writes do (R263, log entry 39). -/
def limitTransition (s : State) (n : Nat) (acked : Bool) : State :=
  let a := getAcc s n
  if !hasReg s n 4 then endTransition s n (refuse .accNotReady 5 0x35)
  else if acked then
    let share := if a.target = .idle then plimApplied a else a.share
    let s := setAcc s n { a with ilimEff := limitIn s n a.target, st := a.target, share := share, failedMa := none, retryAt := none }
    transitionOk s n
  else if a.tries < 3 then setAcc s n { a with tries := a.tries + 1 }
  else endTransition s n (refuse .accNotReady 5 0x35)

/-- A limit write of the steward's own, and its outcome (R277, R291). -/
def limitWrite (s : State) (n : Nat) (acked : Bool) : State :=
  let a := getAcc s n
  let v := limitIn s n a.st
  if acked then setAcc s n { a with ilimEff := v, tries := 0, failedMa := none, retryAt := none }
  else if a.tries < 3 then setAcc s n { a with tries := a.tries + 1 }
  else accEvent (setAcc s n { a with tries := 0, pmbusErr := true, failedMa := some v,
                                     retryAt := some (s.tick + 100000) }) n 3

/-- Must a limit be written on its own: An is in IDLE or RUN, in no transition or in the handshake of one, and the limit in force
changed. -/
def limitDue (s : State) (n : Nat) : Bool :=
  let a := getAcc s n
  (a.phase = .none || a.phase = .handshake) && accLive a && hasReg s n 4 && limitIn s n a.st ≠ a.ilimEff

/-- EFFECTIVE_LIMIT_WRITE. -/
def execEffectiveLimitWrite (n : Fin 8) (acked : Bool) (s : State) : Host.Outcome State Fault Refusal :=
  let a := getAcc s n.val
  done (if a.phase = .limit then limitTransition s n.val acked
  else if limitDue s n.val ∧ a.failedMa ≠ some (limitIn s n.val a.st) then limitWrite s n.val acked
  else s)

/-- PMBUS_LIMIT_RETRY (R291): 100 ms after a write that failed. -/
def execPmbusLimitRetry (n : Fin 8) (acked : Bool) (s : State) : Host.Outcome State Fault Refusal :=
  let a := getAcc s n.val
  done (match a.retryAt with
    | some t => if t ≤ s.tick ∧ limitDue s n.val then limitWrite s n.val acked else s
    | none => s)

/-! ### Telemetry (R279, R284, R285) -/

/-- A telemetry subject: 0 to 7 accelerators, 8 the tray, 9 the steward. Takes a sample into its windows that have begun: after a warm
reset they begin at the next boundary (R292). -/
def sampleIn (s : State) (k v : Nat) : State :=
  let add (m : KMap TelemWin) : KMap TelemWin :=
    let w := KMap.get (fun _ => ({} : TelemWin)) m k
    if s.tick < w.start then m else KMap.set (fun _ => ({} : TelemWin)) m k { w with sum := w.sum + v, count := w.count + 1, peak := max w.peak v }
  { s with pow := { s.pow with avg := add s.pow.avg, peak := add s.pow.peak, gov := add s.pow.gov } }

/-- Energy of a sample in 0.1 W over µs, added to a lifetime count in a unit of `unit` × 0.1 µJ, with its remainder
(Table 15.1). -/
def addEnergy (s : State) (i dW us unit : Nat) : State :=
  let t := KMap.get (fun _ => 0) s.slog.energyRem i + dW * us
  ltAdd { s with slog := { s.slog with energyRem := KMap.set (fun _ => 0) s.slog.energyRem i (t % unit) } } i (t / unit)

/-- Sample period of a port in µs (R284): 1 ms at 400 kHz or faster, else 4 ms. -/
def samplePeriod (s : State) (port : Nat) : Nat := if cfgF s (0x800100 + 0x40 * port) 9 8 = 0 then 4000 else 1000

/-- A rail's power in a sample, from `others` in rail order without VCORE; a rail off or without regulator gives 0. -/
def otherPower (s : State) (n : Nat) (xs : List Nat) : Nat :=
  (List.range 4).foldl (fun t r => t + (if (getRail (getAcc s n) r).en && hasReg s n r then xs.getD r 0 else 0)) 0

/-- Is a telemetry sample due of subject k, an accelerator or the tray (8), on its port (R284). -/
def sampleDue (s : State) (k port : Nat) : Bool :=
  match KMap.get (fun _ => none) s.pow.sampleAt k with
  | some t => decide (t + samplePeriod s port ≤ s.tick)
  | none => true

/-- A sample of subject k is taken now. -/
def sampleTaken (s : State) (k : Nat) : State :=
  { s with pow := { s.pow with sampleAt := KMap.set (fun _ => none) s.pow.sampleAt k (some s.tick) } }

/-- A sample of An: its power, and the power-derived limit (R279); a failed read makes it missing (R284). With VCORE at 0 mV the spec
states no result, a free value (log entry 8). -/
def accSample (s : State) (n : Nat) (x : TelemIn) : State :=
  let (s, ok) := if (List.range 5).any (hasReg s n) then portRead s (1 + n) x.result else (s, true)
  if !ok then s
  else
    let core := if (getRail (getAcc s n) 4).en && hasReg s n 4 then x.vcoreMv * x.vcoreMa / 100000 else 0
    let other := otherPower s n x.others
    let s := addEnergy (sampleIn s n (core + other)) (3 + n) (core + other) (samplePeriod s (1 + n)) 10000000000
    let s := modAcc s n (fun a => { a with sample := some (other, x.vcoreMv) })
    let al := allowance s (getAcc s n)
    if al = noLimit then modAcc s n (fun a => { a with iPow := noLimit })
    else if x.vcoreMv = 0 then
      let (v, s) := drawFree s
      modAcc s n (fun a => { a with iPow := v.toNat % 2 ^ 32 })
    else modAcc s n (fun a => { a with iPow := iPowOf al other x.vcoreMv })

/-- A sample of the tray: the steward's own power, and READ_PIN of the tray input monitor where there is one. -/
def traySample (s : State) (x : TelemIn) : State :=
  let own := x.others.headD 0
  let s := addEnergy (sampleIn { s with pow := { s.pow with stewardPower := own } } 9 own) 1 own (samplePeriod s 9) 10000000
  if cfgF s 0x50001C 6 0 = 0 then s
  else
    let (s, ok) := portRead s 9 x.result
    if ok then addEnergy (sampleIn s 8 x.vcoreMa) 2 x.vcoreMa (samplePeriod s 9) 10000000000 else s

/-- TELEMETRY_SAMPLE, once each period of the port: an accelerator, or the tray input monitor with the steward's own power. -/
def execTelemetrySample (n : Option (Fin 8)) (x : TelemIn) (s : State) : Host.Outcome State Fault Refusal :=
  done (match n with
    | some n => if sampleDue s n.val (1 + n.val) then accSample (sampleTaken s n.val) n.val x else s
    | none => if sampleDue s 8 9 then traySample (sampleTaken s 8) x else s)

/-- What a window publishes for a subject (R285): 16-bit words, 32-bit for the tray. -/
def publishWin (k : Nat) (peak : Bool) (w : TelemWin) : Nat :=
  let top := if k = 8 then 0xFFFFFFFF else 0xFFFF
  if w.count = 0 then top else min (top - 1) (if peak then w.peak else w.sum / w.count)

/-- TELEMETRY_WINDOW_END (R285): at a multiple of the window's length, means or peaks are published, and the next window takes
the length written. -/
def telemetryWindowEnd (peak : Bool) (s : State) : State :=
  let ms := (if peak then cfgF s 0x500008 31 16 else cfgF s 0x500008 15 0) * 1000
  let wins := if peak then s.pow.peak else s.pow.avg
  let w (k : Nat) : TelemWin := KMap.get (fun _ => ({} : TelemWin)) wins k
  let len := (w 0).len
  if s.tick < (w 0).start + len then s
  else
    let pub := (List.range 10).foldl (fun m k => KMap.set (fun _ => 0) m k (publishWin k peak (w k)))
      (if peak then s.pow.pubPeak else s.pow.pubAvg)
    let fresh : TelemWin := { start := s.tick / ms * ms, len := ms }
    let next := (List.range 10).foldl (fun m k => KMap.set (fun _ => ({} : TelemWin)) m k fresh) wins
    if peak then { s with pow := { s.pow with pubPeak := pub, peak := next } }
    else { s with pow := { s.pow with pubAvg := pub, avg := next } }

/-- TELEMETRY_WINDOW_END. -/
def execTelemetryWindowEnd (peak : Bool) (s : State) : Host.Outcome State Fault Refusal := done (telemetryWindowEnd peak s)

/-! ### Tray governor (R280) -/

/-- Mean of a governor window, none without a sample. -/
def govMean (s : State) (k : Nat) : Option Nat :=
  let w := KMap.get (fun _ => ({} : TelemWin)) s.pow.gov k
  if w.count = 0 then none else some (w.sum / w.count)

/-- The shares against the mean tray power P of the last 10 ms and the tray limit L (R280). -/
def governShares (s : State) : State :=
  let l := trayApplied s
  let pn (n : Nat) : Nat := (govMean s n).getD 0
  let active := (List.range 8).filter (fun n => accLive (getAcc s n))
  let total := active.foldl (fun t n => t + pn n) 0
  let s' := { s with pow := { s.pow with gov := [], govAt := s.tick } }
  if l = noLimit ∨ cfgF s 0x50001C 6 0 = 0 then s'
  else match govMean s 8 with
    | none => s'
    | some p =>
      if l < p then
        active.foldl (fun s n => modAcc s n (fun a =>
          let cut := if total = 0 then 0 else (p - l) * pn n / total
          { a with share := max (plimApplied a / 4) (a.share - cut) })) s'
      else if p < l - l / 32 then
        (List.range 8).foldl (fun s n => modAcc s n (fun a =>
          { a with share := min (plimApplied a) (a.share + l / 64) })) s'
      else s'

/-- The governor's shares, with which a RUN limit still to be written is computed (Table 11.4). -/
def trayGovernor (s : State) : State :=
  (List.range 8).foldl (fun s n => if (getAcc s n).phase = .limit then freshIPow s n else s) (governShares s)

/-- TRAY_GOVERNOR: every 10 ms. -/
def execTrayGovernor (s : State) : Host.Outcome State Fault Refusal :=
  done (if s.pow.govAt + 10000 ≤ s.tick then trayGovernor s else s)

/-! ### Holdup bank (R287 to R289) -/

/-- Is the charger permitted to run: control, address, temperature of the board sensor and input (R287). A stop for temperature
ends only within 1.0 to 59.0 °C. -/
def chargePermit (s : State) : Bool × Bool :=
  let lo : Int := if s.pow.tempInhibit then 16 else 0
  let hi : Int := if s.pow.tempInhibit then 944 else 960
  let ok := match (getChan s (20 + cfgF s 0x50000C 11 4)).value with
    | some v => decide (lo ≤ v ∧ v ≤ hi)
    | none => false
  (cfgF s 0x50000C 0 0 = 1 && cfgF s 0x50000C 22 16 ≠ 0 && !s.pow.inputLost && ok, ok)

/-- The charger follows R287, at a sample of the board sensor or a change of input or control. -/
def chargerCheck (s : State) : State :=
  let (run, ok) := chargePermit s
  { s with pow := { s.pow with charging := run, tempInhibit := !ok && (s.pow.tempInhibit || s.pow.charging) } }

/-- IN_FAIL_N_RISE (R289): RIDE_THROUGH, an INPUT_RESTORED record, the erase resumes, and charging follows R287. -/
def execInFailNRise (s : State) : Host.Outcome State Fault Refusal :=
  done (if !s.pow.inputLost then s
  else
    let ms := satN 32 ((s.tick - s.pow.lostSince) / 1000)
    let s := { s with pow := { s.pow with inputLost := false, rideThrough := true } }
    chargerCheck (logRec s 0x04 5 0 (leBytes 4 ms)))

end Sys2Proof.Machine
end

