-- ==== Sys2Proof/Machine/Thermal.lean ====
section
/-! DEFINITION. Temperature samples, throttle steps, shutdown and its stops, the leak channels and LEAK_ARM (R294 to R314). -/

namespace Sys2Proof.Machine

/-! ### Neighbours (R298) -/

/-- The neighbours of a channel: adjacent die zones, or CH_XCHK. -/
def neighbours (s : State) (c : Nat) : List Nat :=
  (List.range 32).filter (fun k => k ≠ c &&
    (if c < 16 then
      k < 16 && k / 4 ≤ c / 4 + 1 && c / 4 ≤ k / 4 + 1 && k % 4 ≤ c % 4 + 1 && c % 4 ≤ k % 4 + 1
    else 16 ≤ k && (cfgN s (chanBase c + 0x1C) >>> k) % 2 = 1))

/-- Did a channel read 0x8000 or suspect at the sample before this one. -/
def wasOut (s : State) (k : Nat) : Bool :=
  let x := getChan s k
  if x.at_ = s.tick then x.wasOut else x.suspect || x.value.isNone

/-- Puts a value in its place of an ascending list. -/
def insertAsc (v : Int) : List Int → List Int
  | [] => [v]
  | x :: xs => if v ≤ x then v :: x :: xs else x :: insertAsc v xs

/-- The median of raw values: for an even count the mean of the middle two, rounded down. -/
def median (xs : List Int) : Int :=
  let ys := xs.foldl (fun l v => insertAsc v l) []
  let n := ys.length
  if n % 2 = 1 then ys.getD (n / 2) 0 else Int.fdiv (ys.getD (n / 2 - 1) 0 + ys.getD (n / 2) 0) 2

/-- The raw values that a channel's median takes; none with fewer than three. -/
def medianOf (s : State) (c : Nat) : Option Int :=
  let rs := (neighbours s c).filterMap (fun k => if wasOut s k then none else (getChan s k).raw)
  if rs.length < 3 then none else some (median rs)

/-- The cross-check of a channel's raw reading: suspect after three samples more than 12.0 K away, clear after three within. -/
def crossCheck (x : Chan) (raw : Int) (m : Option Int) : Chan :=
  match m with
  | none => { x with apart := 0, near := 0, value := if x.suspect then x.value else some raw }
  | some m =>
    let far := decide (192 < (raw - m).natAbs)
    let apart := if far then x.apart + 1 else 0
    let near := if far then 0 else x.near + 1
    let sus := if x.suspect then decide (near < 3) else decide (3 ≤ apart)
    { x with suspect := sus, apart := min apart 3, near := min near 3, value := some (if sus then m else raw) }

/-! ### A sample (R295 to R297) -/

/-- The value one rise window earlier; before the first sample, the first. -/
def windowAgo (c : Nat) (past : List Int) (v : Int) : Int :=
  match past[riseSamples c - 1]? with
  | some w => w
  | none => past.getLast?.getD v

/-- A level with hysteresis. -/
def withHyst (now : Bool) (v level hyst : Int) : Bool := if level ≤ v then true else if v < level - hyst then false else now

/-- The levels and RISE of a channel at value v. -/
def levelsAt (s : State) (c : Nat) (x : Chan) (v : Int) : Chan :=
  let d := v - windowAgo c x.past v
  let en := chanEn s c
  let lim := riseLimit s c
  { x with
    warn := en && withHyst x.warn v (chanLevel s c 0x04) (chanHystV s c),
    throt := en && withHyst x.throt v (chanLevel s c 0x08) (chanHystV s c),
    rise := en && decide (lim ≠ 0 ∧ (lim * 16 * riseMs c : Int) ≤ d * 10000),
    rise16 := d, past := (v :: x.past).take (riseSamples c) }

/-- Must An's grace be skipped by channel c (R304). -/
def skipBy (s : State) (c : Nat) (v : Int) (n : Nat) : Bool :=
  let crit := chanLevel s c 0x10
  let d := (getChan s c).rise16
  let win : Int := riseMs c
  let grace : Int := cfgN s (0x508108 + 0x40 * n)
  decide (crit ≤ v) || (decide (0 < d) && decide (crit * win ≤ v * win + d * grace))

/-- The shutdown tests of a channel: a value at SHUTDOWN sets the latches of its map; each later sample may skip a grace. -/
def shutdownAt (s : State) (c : Nat) (v : Int) : State :=
  if !chanEn s c then s
  else
    let s := if chanLevel s c 0x0C ≤ v then
        setLatches s (fun n => (shutMap s c >>> n) % 2 = 1) (decide (c < 16)) c (wrapInt 16 v) (skipBy s c v)
      else s
    (List.range 8).foldl (fun s n =>
      match getStop s n with
      | some x => if x.chans.contains c && skipBy s c v n then stopAccDie s n false else s
      | none => s) s

/-- DIE_CYCLES follows the hottest die zone (R363). -/
def dieCycles (s : State) : State :=
  match dieMax s with
  | none => s
  | some (v, _) =>
    match s.slog.dieHigh, s.slog.dieLow with
    | some h, _ =>
      if v ≤ h - 640 then { s with slog := { s.slog with dieHigh := none, dieLow := some v } }
      else { s with slog := { s.slog with dieHigh := some (max h v) } }
    | none, some l =>
      if l + 640 ≤ v then ltAdd { s with slog := { s.slog with dieLow := none, dieHigh := some v } } 11
      else { s with slog := { s.slog with dieLow := some (min l v) } }
    | none, none => { s with slog := { s.slog with dieLow := some v } }

/-- What follows every sample of channel c: throttle targets, the gates and the motors. -/
def afterSample (s : State) (c : Nat) : State :=
  let s := thrUpdate s
  let s := if c = 20 then flashGate s else s
  let s := if 20 ≤ c then chargerCheck s else dieCycles s
  motorsFollow s

/-- A channel at a sample takes its registers (R296), and remembers whether the sample before left it out of medians. -/
def sampled (s : State) (c : Nat) : Chan :=
  { getChan s c with
    wasOut := wasOut s c, at_ := s.tick,
    taken := some { clear := chanLevel s c 0x08 - chanHystV s c, throtMap := throtMap s c, shutMap := shutMap s c } }

/-- Channel c, x0 before, has value v at a sample: levels, rise, their counts, and shutdown. -/
def compareAt (s : State) (c : Nat) (x0 x1 : Chan) (v : Int) : State :=
  let x := levelsAt s c x1 v
  let s := setChan s c x
  let s := if x.suspect && !x0.suspect then count s 264 {} else s
  let s := if x.rise && !x0.rise then count s 265 {} else s
  let s := if x.warn && !x0.warn then count s 266 {} else s
  shutdownAt s c v

/-- A channel that reads 0x8000 changes none of its level states, but one with EN 0 asserts nothing (R295). Its counts of R298
restart, and the value of the sample is the last one for the rise. -/
def goneAt (s : State) (c : Nat) (x : Chan) : Chan :=
  let en := chanEn s c
  { x with raw := none, value := none, apart := 0, near := 0, warn := x.warn && en, throt := x.throt && en, rise := x.rise && en,
           past := match x.past with | [] => [] | p :: ps => (p :: p :: ps).take (riseSamples c) }

/-- A read that failed fewer than three times in a row: the channel keeps its value, or takes M anew where it is suspect, and
compares it; the counts of R298 restart. -/
def keptAt (s : State) (c : Nat) (x : Chan) : State :=
  let m := if x.suspect then medianOf s c else none
  let x := { x with fails := x.fails + 1, apart := 0, near := 0, value := m.or x.value }
  match x.value with
  | some v => compareAt s c (getChan s c) x v
  | none => setChan s c (goneAt s c x)

/-- A channel at a sample that gives no reading: an off-die read fails three times before the value goes (R295, R313). -/
def unreadable (s : State) (c : Nat) : State :=
  let x := sampled s c
  if c < 16 then setChan s c (goneAt s c x)
  else if cfgF s (chanBase c) 6 0 = 0 then setChan s c { goneAt s c x with fails := 0 }
  else if x.fails < 2 then keptAt s c x
  else
    let s' := setChan s c { goneAt s c x with fails := 3 }
    if x.fails = 2 then logRec s' 0x31 6 1 (leBytes 1 c) else s'

/-- A reading of channel c. -/
def readingAt (s : State) (c : Nat) (raw : Int) : State :=
  let x := { crossCheck (sampled s c) raw (medianOf s c) with raw := some raw, fails := 0 }
  match x.value with
  | none => setChan s c (goneAt s c x)
  | some v => compareAt s c (getChan s c) x v

/-- LOOP_CFG and LEAK_CFG take effect at a sample (Table 3.4). -/
def takeLoops (s : State) : State :=
  { s with therm := { s.therm with loopCfg := cfgN s 0x60000C, leakCfg := cfgN s 0x600804 } }

/-- TEMPERATURE_SAMPLE: sampling runs from TRIM_DONE (R314). -/
def temperatureSample (c : Nat) (raw : Option Int) (s : State) : State :=
  if s.crd.phase ≠ .running then s
  else
    let s := takeLoops s
    let addressed := c < 16 || cfgF s (chanBase c) 6 0 ≠ 0
    afterSample (match raw with
      | some v => if addressed ∧ -32768 < v ∧ v < 32768 then readingAt s c v else unreadable s c
      | none => unreadable s c) c

/-- TEMPERATURE_SAMPLE. -/
def execTemperatureSample (c : Fin 32) (raw : Option Int) (s : State) : Host.Outcome State Fault Refusal :=
  done (temperatureSample c.val raw s)

/-! ### Stops and the backstop (R302, R303) -/

/-- STOP_GRACE_EXPIRY: the grace of a stop counts from its latch. -/
def execStopGraceExpiry (n : Fin 8) (s : State) : Host.Outcome State Fault Refusal :=
  done (match getStop s n.val with
    | some x => if x.since + graceUs s n.val ≤ s.tick then handshakeFails s n.val 0x11 else s
    | none => s)

/-- BACKSTOP_TRIP: every latch and HW_TRIP, and every accelerator stops without grace; the record's VALUE is the trip, 120.0 °C. -/
def execBackstopTrip (s : State) : Host.Outcome State Fault Refusal :=
  done (if s.crd.phase = .por then s
  else
    let s := { s with therm := { s.therm with hwTrip := true } }
    motorsFollow (setLatches s (fun _ => true) true 0xFF 1920 (fun _ => true)))

/-! ### Throttle steps (R300) -/

/-- THROTTLE_STEP_DOWN: every 10 ms while the target stays throttled. -/
def execThrottleStepDown (k : Fin 9) (s : State) : Host.Outcome State Fault Refusal :=
  let x := getThr s k.val
  done (if x.throttled ∧ x.nextAt ≤ s.tick then
    let s := if 4 < x.k then count s 267 {} else s
    setThr s k.val { x with k := max 4 (x.k - 1), nextAt := s.tick + 10000 }
  else s)

/-- THROTTLE_STEP_UP: every 200 ms once it is no longer throttled. -/
def execThrottleStepUp (k : Fin 9) (s : State) : Host.Outcome State Fault Refusal :=
  let x := getThr s k.val
  done (if !x.throttled ∧ x.k < 16 ∧ x.nextAt ≤ s.tick then
    setThr (count s 268 {}) k.val { x with k := x.k + 1, nextAt := s.tick + 200000 }
  else s)

/-! ### Leaks (R308 to R311, R313) -/

/-- G_TRIP. -/
def gTrip (s : State) : Nat := cfgF s 0x600808 15 0
/-- Samples of CONFIRM_MS. -/
def confirmSamples (s : State) : Nat := cfgF s 0x600808 31 16

/-- LEAK_SAMPLE: a failed excitation, or a loop below 1 Ω, reads as open. LIVE fields of LEAK_CFG and LOOP_CFG take effect here. -/
def leakSample (l g ohm : Nat) (excFail : Bool) (s : State) : State :=
  if s.crd.phase ≠ .running then s
  else
    let s := takeLoops s
    let x := getLeak s l
    let sus := decide (gTrip s ≤ g)
    let excess := excFail || decide (ohm < 1) || decide (cfgF s 0x60080C 15 0 < ohm)
    let n := if excess then min 100 (x.openCount + 1) else 0
    let s := if sus then count s (256 + l) {} else s
    let s := setLeak s l { x with g := satN 16 g, ohm := satN 16 ohm, suspected := sus, count := if sus then x.count + 1 else 0,
                                  openCount := n, opened := x.opened && excess }
    motorsFollow (leaksAct s)

/-- LEAK_SAMPLE. -/
def execLeakSample (l : Fin 8) (g ohm : Nat) (excFail : Bool) (s : State) : Host.Outcome State Fault Refusal :=
  done (leakSample l.val g ohm excFail s)

/-- LEAK_CONFIRM: suspected at every sample of CONFIRM_MS; an armed channel's policy acts. -/
def execLeakConfirm (l : Fin 8) (s : State) : Host.Outcome State Fault Refusal :=
  let x := getLeak s l.val
  done (if x.suspected ∧ !x.confirmed ∧ confirmSamples s ≤ x.count then
    let s := setLeak s l.val { x with confirmed := true }
    motorsFollow (leaksAct (logRec s 0x32 6 1 (leBytes 1 l.val ++ [1] ++ leBytes 2 x.g)))
  else s)

/-- ROPE_OPEN: the loop has been over OPEN_OHM for 100 samples. -/
def execRopeOpen (l : Fin 8) (s : State) : Host.Outcome State Fault Refusal :=
  let x := getLeak s l.val
  done (if x.openCount = 100 ∧ !x.opened then
    logRec (setLeak s l.val { x with opened := true }) 0x32 6 1 (leBytes 1 l.val ++ [2] ++ leBytes 2 x.g)
  else s)

/-- The mask of armed channels. -/
def armedMask (s : State) : Nat := bitsN ((List.range 8).map (armed s))

/-- LEAK_ARM from step 10 (R73, R309): the channels of MASK, armed or disarmed by T0 or T64; CLAMPED where T0 disarms one that T64
keeps armed. -/
def leakArmBody (s : State) (c : Cmd) : State :=
  let mask := c.f 8 1
  let arm := decide (c.f 9 1 = 1)
  let named := (List.range 8).filter (fun l => (mask >>> l) % 2 = 1)
  let kept := decide (c.tenant ≠ 64) && !arm && named.any (fun l => (getLeak s l).armBmc)
  let s := named.foldl (fun s l =>
    let x := getLeak s l
    setLeak s l (if c.tenant = 64 then { x with armBmc := arm } else { x with armHost := arm })) s
  let s := if kept then modCmd s c.seq (fun x => { x with clamped := true }) else s
  let s := motorsFollow (leaksAct s)
  complete s c.seq (okR (armedMask s))

/-- LEAK_ARM. -/
def execLeakArm (c : Nat) (s : State) : Host.Outcome State Fault Refusal :=
  done (startCmd s c 0x32 none noDoms noHold leakArmBody)

end Sys2Proof.Machine
end

