-- ==== Sys2Proof/Machine/TwoWire.lean ====
section
/-! DEFINITION. The two-wire ports (R343 to R360): transactions of the controller ports, lost arbitration, bus clearing, Daxrin's loop
reads, Host Notify, and the command codes of W0 below the Horizon mirror. -/

namespace Sys2Proof.Machine

/-! ### Requests (R347) -/

/-- A request on a controller port: a setpoint, the VOUT_MODE that goes before it, a current limit, the charger, a temperature
channel, the pass-through, and STATUS_WORD and CLEAR_FAULTS after a cut. -/
inductive TwReq where
  | setpoint (n r : Nat)
  | mode (n r : Nat)
  | limit (n : Nat)
  | charger (on : Bool)
  | temp (c : Nat)
  | xfer
  | status (x : CutRead)
  | clear (x : CutRead)
deriving DecidableEq, Repr

/-- Is a current-limit write of An due (R277, R291). -/
def limitReq (s : State) (n : Nat) : Bool :=
  let a := getAcc s n
  (decide (a.phase = .limit) && hasReg s n 4)
  || (limitDue s n && (decide (a.failedMa ≠ some (limitIn s n a.st))
      || (match a.retryAt with | some t => decide (t ≤ s.tick) | none => false)))

/-- The request that arrived first of those due, each with when it fell due; of two at once the first in the list (log entry 63). -/
def oldest (xs : List (Nat × Nat)) : Option Nat :=
  (xs.foldl (fun acc x => match acc with
    | none => some x
    | some y => if x.2 < y.2 then some x else some y) none).map (·.1)

/-- When a rail's setpoint write fell due: a step follows the one before by 50 µs. -/
def setpointSince (s : State) (n r : Nat) : Nat := match (getRail (getAcc s n) r).lastStep with | some t => t / 50 * 50 + 50 | none => 0

/-- Level 1 on the port of An: its rails in order of arrival, then its limit. -/
def accReq (s : State) (n : Nat) : Option TwReq :=
  match oldest (((List.range 5).filter (setpointDue s n)).map (fun r => (r, setpointSince s n r))) with
  | some r =>
    if (KMap.get (fun _ => none) s.tw.voutMode (8 * n + r)).isNone then some (.mode n r) else some (.setpoint n r)
  | none => if limitReq s n then some (.limit n) else none

/-- Level 4 on the port of An: Daxrin reads STATUS_WORD after a cut, and clears the faults once it is logged (Table 14.3). -/
def cutReq (s : State) (n : Nat) : Option TwReq :=
  if s.crd.fwUp then (s.tw.cuts.find? (fun x => x.acc = n)).map (fun x => if x.logged then .clear x else .status x) else none

/-- Level 1 on W10: the charger follows R287. -/
def chargerReq (s : State) : Option TwReq :=
  if cfgF s 0x50000C 22 16 ≠ 0 ∧ s.tw.chargerOn ≠ s.pow.charging then some (.charger s.pow.charging) else none

/-- Level 2: the channel of a port that has been due the longest. -/
def tempReq (s : State) (cs : List Nat) : Option TwReq :=
  (oldest ((cs.filter (fun c => decide (cfgF s (chanBase c) 6 0 ≠ 0) && decide ((getChan s c).at_ + 10000 ≤ s.tick))).map
    (fun c => (c, (getChan s c).at_)))).map .temp

/-- Level 3: the pass-through. -/
def xferReq (s : State) (p : Nat) : Option TwReq := if s.tw.xferBusy ∧ xferPort s = p then some .xfer else none

/-- The next request of a port (R347). -/
def nextReq (s : State) (p : Nat) : Option TwReq :=
  if p = 0 then none
  else if p ≤ 8 then (accReq s (p - 1)).orElse (fun _ => cutReq s (p - 1))
  else if p = 9 then (tempReq s ((List.range 12).map (· + 20))).orElse (fun _ => xferReq s 9)
  else if p = 10 then (chargerReq s).orElse (fun _ => xferReq s 10)
  else (tempReq s [16, 17, 18, 19]).orElse (fun _ => xferReq s p)

/-! ### What a request sends (Tables 14.3 and 14.9) -/

/-- The limit that a write of An carries. -/
def limitSent (s : State) (n : Nat) : Nat :=
  let a := getAcc s n
  limitIn s n (if a.phase = .limit then a.target else a.st)

/-- Bytes of a read: address and command, then the address again after a repeated START. -/
def readBytes (addr cmd : Nat) : List (List Byte) :=
  [[BitVec.ofNat 8 (2 * addr), BitVec.ofNat 8 cmd], [BitVec.ofNat 8 (2 * addr + 1)]]

/-- VOUT_COMMAND of the next step: a value that does not fit 16 bits is stated nowhere, a free value (log entry 8). -/
def setpointWord (s : State) (n r : Nat) : Nat × State :=
  let m := (KMap.get (fun _ => none) s.tw.voutMode (8 * n + r)).getD 0
  let v := voutWord m (if storedDue s n r then (getRail (getAcc s n) r).target else nextMv (getRail (getAcc s n) r))
  if v < 65536 then (v, s)
  else
    let (f, s) := drawFree s
    (f.toNat % 65536, s)

/-- The bytes that a request sends. -/
def reqSent (s : State) (p : Nat) (q : TwReq) : State :=
  let pec := portPec s p
  let put (s : State) (bs : List (List Byte)) : State := modPort s p (fun x => { x with sent := bs })
  match q with
  | .setpoint n r =>
    let (v, s) := setpointWord s n r
    put s (pageBytes s pec n r ++ [writeBytes pec (cfgF s (railBase n r) 6 0) (0x21 :: leBytes 2 v)])
  | .mode n r => put s (pageBytes s pec n r ++ readBytes (cfgF s (railBase n r) 6 0) 0x20)
  | .limit n =>
    put s (pageBytes s pec n 4 ++ [writeBytes pec (cfgF s (railBase n 4) 6 0) (0x4A :: leBytes 2 (ioutWord (limitSent s n)))])
  | .charger on => put s [writeBytes pec (cfgF s 0x50000C 22 16) [0x01, if on then 0x80 else 0x00]]
  | .temp c => put s (readBytes (cfgF s (chanBase c) 6 0) 0x8D)
  | .status x => put s (pageBytes s pec x.acc x.rail ++ readBytes (cfgF s (railBase x.acc x.rail) 6 0) 0x79)
  | .clear x => put s (pageBytes s pec x.acc x.rail ++ [writeBytes pec (cfgF s (railBase x.acc x.rail) 6 0) [0x03]])
  | .xfer =>
    let a := cfgF s xferCtrl 22 16
    let cmd := cfgF s xferCtrl 15 8
    let len := cfgF s xferCtrl 5 0
    let c : Byte := BitVec.ofNat 8 cmd
    match cfgF s xferCtrl 7 6 with
    | 0 => put s [writeBytes pec a (c :: BitVec.ofNat 8 len :: (xferData s).take len)]
    | 2 => put s [writeBytes pec a (c :: (xferData s).take 1)]
    | _ => put s (readBytes a cmd)

/-- Data bytes that a request reads. -/
def reqReads (s : State) : TwReq → Nat
  | .mode _ _ => 1
  | .temp _ => 2
  | .status _ => 2
  | .xfer => if cfgF s xferCtrl 7 6 = 1 then cfgF s xferCtrl 5 0 else if cfgF s xferCtrl 7 6 = 3 then 2 else 0
  | _ => 0

/-! ### Outcomes (R345, R358) -/

/-- A current-limit write of An, and its outcome. -/
def limitOutcome (s : State) (n : Nat) (acked : Bool) : State :=
  if (getAcc s n).phase = .limit then limitTransition s n acked else limitWrite s n acked

/-- Daxrin is done with STATUS_WORD of a cut, or with CLEAR_FAULTS after it. -/
def cutDone (s : State) (x : CutRead) (next : List CutRead) : State :=
  { s with tw := { s.tw with cuts := next ++ s.tw.cuts.filter (fun y => decide (y ≠ x)) } }

/-- STATUS_WORD of a cut is logged: as read, with CLEAR_FAULTS to follow, or unread. -/
def statusLogged (s : State) (x : CutRead) (word : Option Nat) : State :=
  cutDone (cutRecord s x.acc x.rail x.before (word.getD 0xFFFF)) x (if word.isSome then [{ x with logged := true }] else [])

/-- A failed attempt goes by its owner's retry rule. -/
def reqFails (s : State) (code : Nat) : TwReq → State
  | .setpoint n r => railSlewStep n r false false s
  | .mode n r => railSlewStep n r false false s
  | .limit n => limitOutcome s n false
  | .charger _ => s
  | .temp c => temperatureSample c none s
  | .xfer => xferFails s code
  | .status x => statusLogged s x none
  | .clear x => cutDone s x []

/-- A VOUT_MODE is cached; one that is not linear sets PMBUS_ERR and ends the slew. -/
def modeRead (s : State) (n r m : Nat) : State :=
  let s : State := { s with tw := { s.tw with voutMode := KMap.set (fun _ => none) s.tw.voutMode (8 * n + r) (some m) } }
  if m / 32 = 0 then s else slewFails (modAcc s n (fun a => { a with pmbusErr := true })) n r

/-- A transaction that ended OK. -/
def reqOk (s : State) (data : List Byte) : TwReq → State
  | .setpoint n r => railSlewStep n r false true s
  | .mode n r => modeRead s n r (leAt data 0 1)
  | .limit n => limitOutcome s n true
  | .charger on => { s with tw := { s.tw with chargerOn := on } }
  | .temp c => temperatureSample c (some (lin11 (leAt data 0 2) 16)) s
  | .status x => statusLogged s x (some (leAt data 0 2))
  | .clear x => cutDone s x []
  | .xfer =>
    match cfgF s xferCtrl 7 6 with
    | 0 => xferEnd s 0 (cfgF s xferCtrl 5 0)
    | 2 => xferEnd s 0 1
    | _ => xferEnd (xferStore s data) 0 data.length

/-- TWO_WIRE_TRANSACTION: a port that is disabled or DOWN completes its request PORT_DOWN; else the request runs on the bus. -/
def twoWireTransaction (p : Nat) (r : TwResult) (data : List Byte) (s : State) : State :=
  let x := getPort s p
  match (if s.crd.phase = .running then nextReq s p else none) with
  | none => s
  | some q =>
    if !portEn s p ∨ x.st = 3 then reqFails (portErr s p 0xB) 0xB q
    else if x.st ≠ 0 then s
    else if r = .ok then
      (if data.length = reqReads s q then reqOk (modPort (reqSent s p q) p (fun x => { x with lastErr := 0, losses := 0 })) data q
       else s)
    else reqFails (portErr (modPort (reqSent s p q) p (fun x => { x with losses := 0 })) p (twCode r)) (twCode r) q

/-- TWO_WIRE_TRANSACTION. -/
def execTwoWireTransaction (p : Fin 12) (r : TwResult) (data : List Byte) (s : State) : Host.Outcome State Fault Refusal :=
  done (twoWireTransaction p.val r data s)

/-! ### Host Notify (R352, R353) -/

/-- The first pending notification loses arbitration. -/
def notifyLoses (s : State) : State :=
  match s.tw.hn with
  | h :: t => { s with tw := { s.tw with hn := { h with losses := h.losses + 1 } :: t } }
  | [] => s

/-- May Host Notify be sent. -/
def notifyOn (s : State) : Bool := s.crd.phase = .running && cfgF s 0x800004 1 1 = 1

/-- HOST_NOTIFY: the first pending notification goes to address 0x08 with the steward's address, its reason and its detail. -/
def execHostNotify (won acked : Bool) (s : State) : Host.Outcome State Fault Refusal :=
  done (match s.tw.hn with
    | h :: t =>
      if !notifyOn s then s
      else if !won then notifyLoses s
      else
        let s : State := { s with resp := .data [0x10, BitVec.ofNat 8 (2 * w0Addr s), BitVec.ofNat 8 h.reason, BitVec.ofNat 8 h.detail] }
        if acked then count { s with tw := { s.tw with hn := t } } 300 {} else s
    | [] => s)

/-- HOST_NOTIFY_DROP: not sent within 100 ms, or lost eight times. -/
def execHostNotifyDrop (s : State) : Host.Outcome State Fault Refusal :=
  let gone (h : Hn) : Bool := decide (h.since + 100000 ≤ s.tick ∨ 8 ≤ h.losses)
  let n := (s.tw.hn.filter gone).length
  done { s with tw := { s.tw with hn := s.tw.hn.filter (fun h => !gone h), hnDropped := satN 8 (s.tw.hnDropped + n) } }

/-! ### Lost arbitration, timeouts and bus clearing (R354, R355) -/

/-- The request under way on a usable port. -/
def running (s : State) (p : Nat) : Option TwReq :=
  if s.crd.phase = .running ∧ portEn s p ∧ (getPort s p).st = 0 then nextReq s p else none

/-- A port starts to clear its bus. -/
def startClear (s : State) (p : Nat) : State := modPort s p (fun x => { x with st := 2, attempts := 0, losses := 0 })

/-- A request ends with a code, and its bus is cleared: a pass-through completes with the clear (R355, log entry 63). -/
def failAndClear (s : State) (p code : Nat) (q : TwReq) : State :=
  startClear (if q = .xfer then { s with tw := { s.tw with xferWait := some code } } else reqFails s code q) p

/-- The bus of port p is clear, or stuck: the pass-through that waits for it ends with its own code, or BUS_STUCK. -/
def clearEnds (s : State) (p : Nat) (stuck : Bool) : State :=
  match s.tw.xferWait with
  | some c =>
    if xferPort s = p then xferFails { s with tw := { s.tw with xferWait := none } } (if stuck then 8 else c) else s
  | none => s

/-- The steward ends the transaction under way on port p at its next byte boundary: ABORTED (R349, Table 14.5). -/
def abortPort (under : Option TwReq) (p : Nat) (s : State) : State :=
  match under with
  | some q => reqFails (portErr (reqSent s p q) p 0xA) 0xA q
  | none => s

/-- ARB_LOST: W0 loses a Host Notify; a controller port retries, and the eighth loss in a row, or a loss in a STOP, is a failed
attempt. A pass-through is never retried. -/
def arbLost (p : Nat) (atStop : Bool) (s : State) : State :=
  if p = 0 then (if notifyOn s then notifyLoses s else s)
  else match running s p with
    | none => s
    | some q =>
      let code := if atStop then 4 else 3
      let s := portErr (reqSent s p q) p code
      let s := modPort s p (fun x => { x with arbLost := satN 8 (x.arbLost + 1), losses := x.losses + 1 })
      if atStop then failAndClear s p 4 q
      else if q = .xfer ∨ 8 ≤ (getPort s p).losses then reqFails (modPort s p (fun x => { x with losses := 0 })) 3 q
      else s

/-- ARB_LOST. -/
def execArbLost (p : Fin 12) (atStop : Bool) (s : State) : Host.Outcome State Fault Refusal := done (arbLost p.val atStop s)

/-- TWO_WIRE_TIMEOUT: the transaction ends, and the bus is cleared. -/
def execTwoWireTimeout (p : Fin 12) (s : State) : Host.Outcome State Fault Refusal :=
  done (match running s p.val with
    | none => s
    | some q => failAndClear (portErr (reqSent s p.val q) p.val 5) p.val 5 q)

/-- BUS_CLEAR (R355): an attempt frees the bus, or the next comes 1 ms later; after the fourth the port is DOWN. -/
def busClear (p : Nat) (sdaHigh : Bool) (s : State) : State :=
  let x := getPort s p
  if x.st ≠ 2 ∨ (x.attempts ≠ 0 ∧ s.tick < x.since + 1000) then s
  else if sdaHigh then clearEnds (count (setPort s p { x with st := 0, attempts := 0 }) 301 {}) p false
  else if x.attempts < 3 then setPort s p { x with attempts := x.attempts + 1, since := s.tick }
  else clearEnds (portErr (setPort s p { x with st := 3, attempts := 0, since := s.tick }) p 8) p true

/-- BUS_CLEAR. -/
def execBusClear (p : Fin 12) (sdaHigh : Bool) (s : State) : Host.Outcome State Fault Refusal := done (busClear p.val sdaHigh s)

/-- PORT_DOWN_RETRY (R355): every 1 s. -/
def execPortDownRetry (p : Fin 12) (sdaHigh : Bool) (s : State) : Host.Outcome State Fault Refusal :=
  let x := getPort s p.val
  done (if x.st = 3 ∧ x.since + 1000000 ≤ s.tick then
    (if sdaHigh then count (setPort s p.val { x with st := 0 }) 301 {} else setPort s p.val { x with since := s.tick })
  else s)

/-- W0_TIMEOUT (R358). -/
def execW0Timeout (s : State) : Host.Outcome State Fault Refusal :=
  done (if s.crd.phase = .running then
    count { s with tw := { s.tw with timeouts := satN 8 (s.tw.timeouts + 1), w0Last := 0x25 } } 288 {}
  else s)

/-! ### Input loss (R288, R349) -/

/-- IN_FAIL_N_FALL (R288): fetching pauses, the charger goes off, a flash erase is suspended, and a POWER_LOSS record is
created. -/
def execInFailNFall (s : State) : Host.Outcome State Fault Refusal :=
  done (if s.pow.inputLost then s
  else
    let s := abortPort (running s 10) 10 s
    let s := { s with pow := { s.pow with inputLost := true, charging := false, lostSince := s.tick } }
    let inc (i : Nat) : Nat := satN 32 (ltGet s i - KMap.get (fun _ => 0) s.slog.atCheckpoint i)
    logRec s 0x03 5 0 (powerLossCounts.flatMap (fun i => leBytes 4 (inc i))))

/-! ### Loop devices and charge level (R346) -/

/-- A reading in a 16-bit unit, up to `top`; where it does not fit, the spec states no value: a free value (log entry 8). -/
def loopValue (s : State) (w scale top : Nat) : Nat × State :=
  let v := lin11 w scale
  if 0 ≤ v ∧ v ≤ top then (v.toNat, s)
  else
    let (f, s) := drawFree s
    (f.toNat % 65536, s)

/-- Flow or pressure of a loop: without a device no flow (log entry 67) and 0xFFFF for no pressure, after a failed read the last
value. -/
def loopRead (s : State) (l : Nat) (isFlow : Bool) (x : DevRead) : State :=
  let dev := 0x800800 + 4 * l
  let put (s : State) (v : Nat) : State :=
    if isFlow then { s with tw := { s.tw with flow := KMap.set (fun _ => 0) s.tw.flow l v } }
    else { s with tw := { s.tw with press := KMap.set (fun _ => 0xFFFF) s.tw.press l v } }
  if (if isFlow then cfgF s dev 6 0 else cfgF s dev 22 16) = 0 then put s (if isFlow then 0 else 0xFFFF)
  else
    let (s, ok) := portRead s 11 x.result
    if ok then
      let (v, s) := loopValue s x.value (if isFlow then 100 else 10) (if isFlow then 65535 else 65534)
      put s v
    else s

/-- The charge level, read in hardware (R346, R347). -/
def chargeRead (s : State) (x : DevRead) : State :=
  if cfgF s 0x50000C 22 16 = 0 then s
  else
    let (s, ok) := portRead s 10 x.result
    if ok then { s with pow := { s.pow with chargePct := x.value % 256 } } else s

/-- Are the loops due: 100 ms after the last reads. -/
def loopsDue (s : State) : Bool := match s.tw.loopAt with | some t => decide (t + 100000 ≤ s.tick) | none => true

/-- LOOP_DEVICE_READ, every 100 ms: Daxrin reads flow and pressure of both loops on W11, and the charge level is read on W10. -/
def loopDeviceRead (flow press flow1 press1 charge : DevRead) (s : State) : State :=
  if s.crd.phase = .running ∧ loopsDue s then
    let s : State := { s with tw := { s.tw with loopAt := some s.tick } }
    let s := if s.crd.fwUp then
        loopRead (loopRead (loopRead (loopRead s 0 true flow) 0 false press) 1 true flow1) 1 false press1
      else s
    chargeRead s charge
  else s

/-- LOOP_DEVICE_READ. -/
def execLoopDeviceRead (flow press flow1 press1 charge : DevRead) (s : State) : Host.Outcome State Fault Refusal :=
  done (loopDeviceRead flow press flow1 press1 charge s)

/-! ### W0 command codes (Tables 4.11 and 14.4) -/

/-- W0_STAGE_LOW, code 0x20. -/
def execW0StageLow (w : W0Write) (s : State) : Host.Outcome State Fault Refusal :=
  done (w0Write s 0x20 32 true w (fun s d => w0Done (setT64 s { s.qc.t64 with stage := d }) 0x20 0))

/-- The T64 pair an entry goes to. -/
def t64Pair (op : Nat) : Nat := if opClass op = .any ∨ opClass op = .cls 0 then 0 else 1

/-- The low half of the entry as staged; a staging buffer that was cleared holds zeros. -/
def stagedLow (s : State) : List Byte := (s.qc.t64.stage ++ List.replicate 32 0).take 32

/-- Posts an entry to its T64 pair, and clears the staging buffer. -/
def postEntry (s : State) (d : List Byte) : State :=
  let e := stagedLow s ++ d
  let x := { s.qc.t64 with stage := [] }
  setT64 s (if t64Pair (leAt e 0 1) = 0 then { x with q0 := x.q0 ++ [e] } else { x with q1 := x.q1 ++ [e] })

/-- W0_POST_ENTRY, code 0x21: NACKed during a tenant reset of T64 and where the pair is full. -/
def execW0PostEntry (w : W0Write) (s : State) : Host.Outcome State Fault Refusal :=
  let q := t64Pair (leAt (stagedLow s) 0 1)
  done (if s.crd.phase ≠ .running then { s with resp := .nack 0 }
  else if (getTen s 64).reset.isSome then w0Nack s 0
  else if 16 ≤ (t64Entries s q).length then w0Nack s 0x26
  else w0Write s 0x21 32 true w (fun s d => w0Done (postEntry s d) 0x21 0))

/-- The reply of code 0x22 where no completion waits: EMPTY in CFLAGS. -/
def emptyReply : List Byte := [0, 0, 0, 0, 0, 0x80] ++ List.replicate 26 0

/-- W0_READ_COMPLETION, code 0x22. -/
def execW0ReadCompletion (len : Nat) (s : State) : Host.Outcome State Fault Refusal :=
  done (w0Read s (fun s =>
    match s.qc.t64.cq with
    | e :: _ => w0Reply (setT64 s { s.qc.t64 with returned := true }) 0x22 len true e
    | [] => w0Reply (setT64 s { s.qc.t64 with returned := false }) 0x22 len true emptyReply))

/-- W0_CONSUME_COMPLETION, code 0x23. -/
def execW0ConsumeCompletion (w : W0Write) (s : State) : Host.Outcome State Fault Refusal :=
  done (if s.crd.phase ≠ .running then { s with resp := .nack 0 }
  else if !s.qc.t64.returned then w0Nack s 0
  else w0Write s 0x23 0 false w (fun s _ =>
    w0Done (setT64 s { s.qc.t64 with cq := s.qc.t64.cq.drop 1, returned := false }) 0x23 0))

/-- W0_READ_BUFFER, code 0x24: 32 bytes at the pointer, which advances. -/
def execW0ReadBuffer (len : Nat) (s : State) : Host.Outcome State Fault Refusal :=
  done (w0Read s (fun s =>
    let x := s.qc.t64
    let d := KMap.readN mem0 x.buf (32 * x.ptr) 32
    w0Reply (setT64 s { x with ptr := (x.ptr + 1) % 128 }) 0x24 len true d))

/-- W0_SET_BUFFER_POINTER, code 0x25: a value above 127 is NACKed. -/
def execW0SetBufferPointer (w : W0Write) (s : State) : Host.Outcome State Fault Refusal :=
  done (w0Write s 0x25 2 false w (fun s d =>
    let v := leAt d 0 2
    if 127 < v then w0Nack s 0 else w0Done (setT64 s { s.qc.t64 with ptr := v }) 0x25 0))

/-- BMC_HB, code 0x26 (R96). -/
def execBmcHb (w : W0Write) (s : State) : Host.Outcome State Fault Refusal :=
  done (w0Write s 0x26 0 false w (fun s _ => w0Done (refreshBmc s) 0x26 0))

/-- KCP_RESET, code 0x2F (R98). -/
def execKcpReset (w : W0Write) (s : State) : Host.Outcome State Fault Refusal :=
  done (w0Write s 0x2F 0 false w (fun s _ =>
    let s := startTReset s 64 4 0xFF none
    w0Done (setT64 s { s.qc.t64 with stage := [] }) 0x2F 0))

/-- Outcome of a keyed clear: 2 for a wrong key, 1 where some bit was dropped. -/
def clearOutcome (keyOk dropped : Bool) : Nat := if !keyOk then 2 else if dropped then 1 else 0

/-- W0_TH_CLEAR, code 0x10 (R306). -/
def execW0ThClear (w : W0Write) (s : State) : Host.Outcome State Fault Refusal :=
  done (w0Write s 0x10 3 true w (fun s d =>
    let v : Word := BitVec.ofNat 32 (leAt d 0 1 + 65536 * leAt d 1 2)
    let o := clearOutcome (decide (leAt d 0 1 = 0x3C)) (thClearWord s v).2
    w0Done (motorsFollow (thClearWrite s v)) 0x10 o))

/-- W0_MC_CLEAR, code 0x11 (R337). -/
def execW0McClear (w : W0Write) (s : State) : Host.Outcome State Fault Refusal :=
  done (w0Write s 0x11 2 false w (fun s d =>
    let v : Word := BitVec.ofNat 32 (leAt d 0 2)
    let o := clearOutcome (decide (leAt d 0 1 = 0x6D)) (mcClearWord s v).2
    w0Done (motorsFollow (mcClearWrite s v)) 0x11 o))

/-- W0_RESULT, code 0x12. -/
def execW0Result (len : Nat) (s : State) : Host.Outcome State Fault Refusal :=
  done (w0Read s (fun s => w0Reply s 0x12 len false (leBytes 2 s.tw.result)))

/-- NOTIFY_MASK, code 0x18. -/
def execNotifyMask (w : W0Write) (s : State) : Host.Outcome State Fault Refusal :=
  done (w0Write s 0x18 4 true w (fun s d => w0Done (cfgSet s 0x800008 (BitVec.ofNat 32 (leAt d 0 4))) 0x18 0))

end Sys2Proof.Machine
end

