-- ==== Sys2Proof/Machine/RegView.lean ====
section
/-! DEFINITION. What the registers read: the Horizon page (Tables 3.6 to 3.9) and each block of PF BAR0, word by word. -/

namespace Sys2Proof.Machine

/-! ### The Horizon page (R61 to R66) -/

/-- A temperature in 1/16 °C as 16 bits; 0x8000 without a reading (R62). -/
def temp16 : Option Int → Nat
  | none => 0x8000
  | some v => wrapInt 16 v
/-- Two half-words. -/
def halves (lo hi : Nat) : Nat := lo % 65536 + hi % 65536 * 65536
/-- Bits of a test over 0 to n − 1. -/
def maskOf (n : Nat) (f : Nat → Bool) : Nat := bitsN ((List.range n).map f)
/-- The hottest of a list of channels. -/
def hottest (s : State) (cs : List Nat) : Option Int :=
  cs.foldl (fun a c => match a, (getChan s c).value with
    | none, v => v
    | some x, some v => some (max x v)
    | some x, none => some x) none

/-- HZ_FW. -/
def hzFw (s : State) : Nat :=
  b2n s.crd.fwUp + 2 * b2n (s.boot.started && s.boot.runSrc = 1) + 4 * b2n s.boot.trialRun + 256 * s.hz.marlResets
/-- A heartbeat's time left in units, rounded up; 0 only once it has lapsed. -/
def beatUnits (s : State) (beat : Option Nat) (len unit : Nat) : Nat :=
  if beat.isSome then max 1 (ceilDiv (beatLeft s beat len) unit) else 0
/-- HZ_HB. -/
def hzHb (s : State) : Nat :=
  beatUnits s s.qc.hostBeat 2000000 1000 + 65536 * beatUnits s s.qc.bmcBeat 10000000 100000
/-- Is a transition of An in progress; a stop's handshake is none. -/
def accMoving (s : State) (n : Nat) : Bool := (getAcc s n).phase ≠ .none && (getStop s n).isNone
/-- HZ_ACC bits 20:0, which ACC_STATUS repeats; TARGET stays after a transition (R272). -/
def hzAccLow (s : State) (n : Nat) : Nat :=
  let a := getAcc s n
  a.st.code + 8 * b2n (accMoving s n) + 16 * a.target.code
  + 2 ^ 8 * maskOf 5 (fun r => (getRail a r).en) + 2 ^ 16 * maskOf 5 (fun r => (getRail a r).pg)
/-- HZ_ACC.LINK_UP, as clock fallback holds it (R68). -/
def linkUpShown (s : State) (n : Nat) : Bool :=
  match s.hz.held with | some h => h.linkUp.getD n false | none => decide ((getSpoke s n).link = .l0)
/-- HZ_ACC.CONTRACT, as clock fallback holds it (R68). -/
def contractShown (s : State) (n : Nat) : Bool :=
  match s.hz.held with | some h => h.contract.getD n false | none => (getSpoke s n).contract
/-- HZ_ACC (Table 3.8). -/
def hzAcc (s : State) (n : Nat) : Nat :=
  hzAccLow s n + 2 ^ 24 * b2n (getAcc s n).cut + 2 ^ 25 * b2n (contractShown s n)
  + 2 ^ 26 * b2n (linkUpShown s n) + 2 ^ 27 * b2n (accThrottled s n)
/-- A published mean or peak: of An, 8 the tray, 9 the steward. -/
def pubPower (s : State) (peak : Bool) (k : Nat) : Nat :=
  KMap.get (fun _ => 0) (if peak then s.pow.pubPeak else s.pow.pubAvg) k
/-- HZ_DIE_MAX. -/
def hzDieMax (s : State) : Nat :=
  match dieMax s with
  | some (v, i) => temp16 (some v) + 65536 * i
  | none => 0x8000
/-- HZ_MOTOR (Table 3.9). -/
def hzMotor (s : State) (m : Nat) : Nat :=
  let x := getMotor s m
  min 65535 (motorSpeed s m) + 2 ^ 16 * x.st.code + 2 ^ 19 * b2n (bothLapsed s) + 2 ^ 20 * b2n (motorClamped s m)
  + 2 ^ 24 * min 255 (x.dutyActive * 255 / pwmPer s m)
/-- HZ_LEAK. -/
def hzLeak (s : State) : Nat :=
  maskOf 8 (fun l => (getLeak s l).confirmed) + 2 ^ 8 * maskOf 8 (armed s) + 2 ^ 16 * maskOf 8 (fun l => (getLeak s l).opened)
/-- HZ_GRAIN, as clock fallback holds it (R68). -/
def hzGrain (s : State) : Nat := match s.hz.held with | some h => h.grain | none => grainNow s
/-- HZ_GCLK, as clock fallback holds it (R68). -/
def hzGclk (s : State) : Nat := match s.hz.held with | some h => h.gclk | none => s.crd.gclkApplied
/-- HZ_QUEUE of the viewing tenant's pair q; T64 has one completion queue for its two pairs (R101). -/
def hzQueue (s : State) (view q : Nat) : Nat :=
  if view = 64 then
    (if q = 0 then halves s.qc.t64.head0 s.qc.t64.slot
     else if q = 1 then halves s.qc.t64.head1 s.qc.t64.slot else 0)
  else halves (getQp s view q).sqHead (getQp s view q).cqTail
/-- HZ_TENANT. -/
def hzTenant (s : State) (view : Nat) : Nat := min 65535 (unread s view) + 65536 * b2n (getTen s view).reset.isSome
/-- HZ_STRATA: the viewing tenant's handles, all tenants' in the PF view. -/
def hzStrata (s : State) (view : Nat) : Nat :=
  if view = 0 then s.hz.pub.strataTotal else KMap.get (fun _ => 0) s.hz.pub.strataOf view

/-- A word of the page as `view` sees it: 0 the PF, 1 to 63 a VF, 64 the BMC mirror. -/
def hzWord (s : State) (view o : Nat) : Nat :=
  let p := s.hz.pub
  match o with
  | 0x000 => 0x485A0100 + view
  | 0x004 => s.hz.frame % 2 ^ 32
  | 0x008 => s.tick % 2 ^ 32
  | 0x00C => s.tick / 2 ^ 32 % 2 ^ 32
  | 0x010 => (faultWord s view).toNat
  | 0x014 => s.hz.faultCount.toNat
  | 0x018 => hzFw s
  | 0x01C => hzHb s
  | 0x080 => pubPower s false 8
  | 0x084 => pubPower s true 8
  | 0x088 => halves (pubPower s false 9) (pubPower s true 9)
  | 0x100 => hzDieMax s
  | 0x104 => halves (temp16 (getChan s 16).value) (temp16 (getChan s 17).value)
  | 0x108 => halves (temp16 (getChan s 18).value) (temp16 (getChan s 19).value)
  | 0x10C => halves (temp16 (hottest s ((List.range 11).map (21 + ·)))) (temp16 (getChan s 20).value)
  | 0x130 => maskOf 32 (fun c => (getChan s c).suspect)
  | 0x1A0 => hzLeak s
  | 0x1A4 => halves p.flow0 p.flow1
  | 0x200 => hzGrain s
  | 0x204 => hzGclk s
  | 0x208 => p.strataMib
  | 0x20C => p.weightsMib
  | 0x210 => p.freeMib
  | 0x214 => p.models + 256 * p.batches
  | 0x218 => hzStrata s view
  | 0x320 => hzTenant s view
  | _ =>
    if 0x40 ≤ o ∧ o < 0x60 then hzAcc s ((o - 0x40) / 4)
    else if 0x60 ≤ o ∧ o < 0x80 then halves (pubPower s false ((o - 0x60) / 4)) (pubPower s true ((o - 0x60) / 4))
    else if 0x110 ≤ o ∧ o < 0x130 then
      halves (temp16 (getChan s ((o - 0x110) / 2)).value) (temp16 (getChan s ((o - 0x110) / 2 + 1)).value)
    else if 0x180 ≤ o ∧ o < 0x1A0 then hzMotor s ((o - 0x180) / 4)
    else if 0x300 ≤ o ∧ o < 0x320 then hzQueue s view ((o - 0x300) / 4)
    else 0

/-- Bytes of the page from an offset. -/
def hzBytes (s : State) (view off n : Nat) : List Byte :=
  (List.range n).map (fun i => BitVec.ofNat 8 (hzWord s view ((off + i) / 4 * 4) / 256 ^ ((off + i) % 4)))

/-! ### Blocks -/

/-- REG_BUSY in a block's status word. -/
def busyBit (s : State) (blk : Nat) : Nat := 256 * b2n (getBusy s blk)
/-- One word of a 64-bit register. -/
def wordOf (v : Nat) (hi : Bool) : Nat := if hi then v / 2 ^ 32 % 2 ^ 32 else v % 2 ^ 32
/-- Does an offset name the high word of an 8-aligned register. -/
def isHigh (o : Nat) : Bool := o % 8 = 4

/-- The five capability words, which every function has (Table 3.11). -/
def capWord (s : State) (i : Nat) : Nat :=
  match i with
  | 0 => Config.deviceIdent
  | 1 => grainsUsable s + 2 ^ 16 * 4 + 2 ^ 24 * 8
  | 2 => halves 288 320
  | 3 => 2 ^ 8 * 0xFF + 2 ^ 16 * maskOf 8 (fun n => (getSpoke s n).contract)
  | 4 => 0xF
  | _ => 0

/-- Identity block (Tables 3.11 and 16.12). -/
def idWord (s : State) (o : Nat) : Nat :=
  if o < 0x14 then capWord s (o / 4)
  else if o = 0x80 then busyBit s 1
  else if o = 0x200 then
    2 ^ 16 * s.crd.coreVid + 16 * b2n s.crd.testEn + 2 * s.crd.w0Addr + b2n s.crd.bootHost
  else cfgN s (0x10000 + o)

/-- A queue pair's registers (Table 4.14). -/
def qpWord (s : State) (fn q o : Nat) : Nat :=
  let p := getQp s fn q
  match o with
  | 0x00 => 2 ^ 8 * b2n p.notifyAll + 2 ^ 4 * p.clsReg + b2n p.en
  | 0x04 => 2 ^ 16 * p.cfgErr + 8 * b2n p.stopped + 4 * b2n p.dmaErr + 2 * b2n p.dbErr + b2n p.running
  | 0x08 => wordOf p.sqBase.toNat false
  | 0x0C => wordOf p.sqBase.toNat true
  | 0x10 => wordOf p.cqBase.toNat false
  | 0x14 => wordOf p.cqBase.toNat true
  | 0x18 => 2 ^ 16 * p.cqEntries + p.sqEntries
  | 0x20 => p.sqTail
  | 0x24 => p.sqHead
  | 0x28 => p.cqHead
  | 0x2C => 2 ^ 16 * b2n p.phase + p.cqTail
  | 0x30 => inflight s fn q
  | _ => 0

/-- Queue control of the PF (Table 4.13). -/
def qcWord (s : State) (o : Nat) : Nat :=
  if o = 0 then busyBit s 2 + b2n (fetchPaused s)
  else if o = 0x10 then s.qc.vfs
  else if 0x104 ≤ o ∧ o < 0x200 then (getTen s ((o - 0x100) / 4)).priv.toNat
  else if 0x1000 ≤ o ∧ o < 0x1200 then qpWord s 0 ((o - 0x1000) / 0x40) (o % 0x40)
  else 0

/-- DOM_CTRL of domain d (Table 2.13). -/
def domWord (s : State) (d : Nat) : Nat :=
  let x := getDom s d
  2 ^ 16 + 2 ^ 12 * x.err + 2 ^ 8 * b2n (domBusy s d) + 2 ^ 4 * x.cur.code + x.req.code

/-- Clocks, domains and reset (Tables 2.9 to 2.13). -/
def crdWord (s : State) (o : Nat) : Nat :=
  let c := s.crd
  match o with
  | 0x00 => bitsN [c.rootOk, c.pllLock, c.fallback, c.trimDone, c.trimRetried, c.trimDefaulted, c.fwUp, s.therm.latch.getLsbD 8,
                   getBusy s 3, c.domFault, c.rstRefused]
  | 0x04 => c.cause.toNat
  | 0x0C => 2 ^ 24 * b2n c.switching + 2 ^ 16 * c.gclkApplied + 2 ^ 8 * c.gclkCap + c.gclkReq
  | 0x20 => maskOf 32 (domShowsOn s)
  | 0x24 => maskOf 32 (fun i => domShowsOn s (32 + i))
  | 0x28 => maskOf 28 (fun i => domShowsOn s (64 + i))
  | _ => if 0x100 ≤ o ∧ o < 0x270 then domWord s ((o - 0x100) / 4) else 0

/-- KEY_STATUS. -/
def keyStatus (s : State) : Nat :=
  let b := s.boot
  2 ^ 8 * b.revoked + 2 ^ 7 * b2n b.hostLocked + 2 ^ 6 * b2n b.unverifiedRan + 2 ^ 4 * b.keySlot + 4 * b2n b.provisioned
  + b2n b.keyLock
/-- TRIAL_LEFT, in seconds rounded up. -/
def trialLeft (s : State) : Nat := match s.boot.trialEnd with | some e => ceilDiv (e - s.tick) 1000000 | none => 0

/-- Boot and trust (Table 5.12). -/
def bootWord (s : State) (o : Nat) : Nat :=
  if o = 0 then bootStatus s
  else if o / 8 = 4 then wordOf (slotVersion s 0) (isHigh o)
  else if o / 8 = 5 then wordOf (slotVersion s 1) (isHigh o)
  else if o / 8 = 6 then wordOf s.boot.runVer.toNat (isHigh o)
  else if o = 0x38 then trialLeft s
  else if 0x40 ≤ o ∧ o < 0x70 then leAt (digestBytes (BitVec.ofNat 384 s.boot.runDigest)) (o - 0x40) 4
  else if o = 0x80 then keyStatus s
  else cfgN s (0x200000 + o)

/-- KSLOT_INFO. -/
def kslotWord (s : State) (k : Nat) : Nat :=
  2 ^ 24 * (getKslot s k).owner + 2 ^ 20 * min 15 (slotRunning s k) + (getKslot s k).image.length
/-- BED_HOLD. -/
def bedHold (s : State) (b : Nat) : Nat :=
  match bedLaunch s b with
  | some l => 2 ^ 16 * (if l.cmd.isSome then l.cmdId else 0) + l.tenant
  | none => 0x7F

/-- Tilth (Tables 6.13 and 6.14). -/
def tilthWord (s : State) (o : Nat) : Nat :=
  if o = 0 then busyBit s 5 + 2 * b2n (s.garr.beds.any (fun e => e.2.takeovers ≠ [])) + b2n (s.garr.launches ≠ [])
  else if o = 0x14 then imageFree s
  else if o = 0x1C then s.garr.unfenceStatus
  else if 0x40 ≤ o ∧ o < 0x80 then kslotWord s ((o - 0x40) / 4)
  else if 0x100 ≤ o ∧ o < 0x300 then
    let b := (o - 0x100) / 8
    if isHigh o then bedHold s b else 2 ^ 24 * b2n (spareOf s b).isSome + (getBed s b).fencedMask.toNat
  else if 0x400 ≤ o ∧ o < 0x1400 then
    let r := getRemap s ((o - 0x400) / 4)
    2 ^ 8 * b2n r.absent + r.phys
  else cfgN s (0x300000 + o)

/-- RES_RESULT of a record. -/
def resResult (r : Stratum) : Nat :=
  let copy := match r.copy with | .none => 0 | .current => 1 | .stale => 2
  let copyAcc := if r.copy = .none then 0 else r.copyAcc
  let (home, acc) := match r.home with
    | .accelerator n => (1, n)
    | .steward => (2, copyAcc)
    | .host => (3, copyAcc)
    | .lost => (4, copyAcc)
  2 ^ 31 + 2 ^ 16 * r.pending + 2 ^ 12 * r.mode + 2 ^ 8 * copy + 2 ^ 4 * acc + home
/-- RES_BYTES of a record. -/
def resBytes (r : Stratum) : Nat := match r.home with | .steward => r.stored | .host => r.imageSize | _ => 0
/-- The record of the handle last written to RES_QUERY. -/
def queried (s : State) : Option Stratum := findRec s (cfgD s 0x400010)
/-- MiB of HBM held by extents of a kind and key. -/
def heldMib (s : State) (p : Extent → Bool) : Nat := (s.strata.extents.filter p).foldl (fun n e => n + e.units) 0 / 16
/-- SLOT_INFO of slot k. -/
def slotInfo (s : State) (k : Nat) : Nat :=
  let m := getModel s k
  2 ^ 32 * heldMib s (fun e => e.kind = 1 && e.key = k) + 2 ^ 16 * m.shape.layers + 2 ^ 8 * min 255 (batchesOf s k)
  + 2 * b2n (boundTo s k ≠ []) + b2n m.loaded
/-- BATCH_STATUS. -/
def batchStatus (s : State) : Nat :=
  2 ^ 24 * min 255 s.strata.queue.length
  + (match s.strata.batch with
     | some b => 2 ^ 16 * (b.phase % 256) + 2 ^ 4 * (b.layer % 512) + b.win.slot
     | none => 0xF)

/-- Stratum engine (Tables 9.13 and 9.14). -/
def seWord (s : State) (o : Nat) : Nat :=
  if o = 0 then 2 ^ 9 * b2n s.strata.hbmUe + busyBit s 6 + b2n s.strata.batch.isSome
  else if o = 0x18 then (match queried s with | some r => resResult r | none => 0)
  else if o = 0x1C then (match queried s with | some r => r.tokens | none => 0)
  else if o / 8 = 4 then wordOf (match queried s with | some r => resBytes r | none => 0) (isHigh o)
  else if o / 8 = 5 then wordOf s.strata.ueAddr.toNat (isHigh o)
  else if o / 8 = 6 then wordOf s.strata.ueHandle.toNat (isHigh o)
  else if 0x40 ≤ o ∧ o < 0x60 then wordOf (slotInfo s ((o - 0x40) / 8)) (isHigh o)
  else if o = 0x60 then batchStatus s
  else cfgN s (0x400000 + o)

/-- An accelerator's registers (Table 11.5). -/
def accWord (s : State) (n o : Nat) : Nat :=
  let a := getAcc s n
  let x := getRail a ((o - 0x40) / 0x10)
  match o with
  | 0x00 => 2 ^ 28 * b2n a.pmbusErr + 2 ^ 25 * a.cutRail + 2 ^ 24 * b2n a.cut + hzAccLow s n
  | 0x10 => a.ilimHost
  | 0x14 => a.ilimCeil
  | 0x18 => a.ilimEff
  | 0x20 => a.plimHost
  | 0x24 => a.plimCeil
  | 0x28 => allowance s a
  | 0x2C => 2 ^ 8 * (getThr s n).k + a.stateCeil.code
  | _ =>
    if 0x40 ≤ o ∧ o < 0x90 ∧ o % 0x10 = 8 then halves x.hostMv x.ceilMv
    else if 0x40 ≤ o ∧ o < 0x90 ∧ o % 0x10 = 0xC then halves x.applied x.target
    else cfgN s (accBase n + o)

/-- SPOKE_STATUS. -/
def spokeStatus (x : Spoke) : Nat :=
  2 ^ 24 * x.recoveries + 2 ^ 16 * x.inboundUr + 2 ^ 15 * b2n x.contractTimeout + 2 ^ 14 * b2n x.mbxErr + 2 ^ 13 * b2n x.memKept
  + 2 ^ 12 * b2n x.enumErr + 2 ^ 11 * b2n x.contract + 2 ^ 10 * b2n x.linkDown + 2 ^ 9 * b2n (x.ready && x.link = .l0)
  + 2 ^ 4 * x.width + x.rate

/-- Link registers (Table 10.7). -/
def linkWord (s : State) (o : Nat) : Nat :=
  let u := s.links.u
  if o = 0x8000 then
    2 ^ 12 * u.recoveries + 2 ^ 10 * b2n u.l0p + 2 ^ 9 * b2n (u.l0 && !u.recovering) + 2 ^ 4 * u.width + u.rate
  else if 0x8100 ≤ o ∧ o < 0x8300 then
    let x := getSpoke s ((o - 0x8100) / 0x40)
    match o % 0x40 with
    | 0x00 => spokeStatus x
    | 0x10 => if x.contract then wordOf x.exportSize.toNat false else 0
    | 0x14 => if x.contract then wordOf x.exportSize.toNat true else 0
    | 0x18 => if x.contract then x.bootSize.toNat else 0
    | _ => cfgN s (0x500000 + o)
  else 0

/-- HOLDUP_STATUS. -/
def holdupStatus (s : State) : Nat :=
  2 ^ 12 * b2n s.pow.rideThrough + 2 ^ 11 * b2n s.pow.inputLost + 2 ^ 10 * b2n s.pow.tempInhibit + 2 ^ 9 * b2n s.pow.charging
  + 2 ^ 8 * b2n (90 ≤ s.pow.chargePct) + s.pow.chargePct

/-- Accelerator power (Tables 10.7 and 11.5). -/
def apWord (s : State) (o : Nat) : Nat :=
  match o with
  | 0x00 => busyBit s 7
  | 0x04 => b2n s.pow.lock
  | 0x10 => holdupStatus s
  | 0x14 => s.pow.trayPlim
  | 0x18 => s.pow.trayPceil
  | _ =>
    if 0x100 ≤ o ∧ o < 0x900 then accWord s ((o - 0x100) / 0x100) (o % 0x100)
    else if 0x8000 ≤ o ∧ o < 0x9000 then linkWord s o
    else cfgN s (0x500000 + o)

/-- LEAK_STATUS. -/
def leakStatus (s : State) : Nat :=
  2 ^ 24 * maskOf 8 (fun l => (getLeak s l).suspected) + 2 ^ 16 * maskOf 8 (fun l => (getLeak s l).opened)
  + 2 ^ 8 * maskOf 8 (armed s) + maskOf 8 (fun l => (getLeak s l).confirmed)

/-- Thermal (Tables 12.6 and 12.7). -/
def thWord (s : State) (o : Nat) : Nat :=
  match o with
  | 0x00 => busyBit s 8 + 4 * b2n s.therm.flashInhibit + 2 * b2n s.therm.hwTrip + b2n (s.therm.latch.getLsbD 8)
  | 0x04 => s.therm.latch.toNat
  | 0x10 => (getThr s 8).k
  | 0x20 => maskOf 32 (fun c => (getChan s c).warn)
  | 0x24 => maskOf 32 (fun c => (getChan s c).throt)
  | 0x28 => maskOf 32 (fun c => (getChan s c).rise)
  | 0x2C => maskOf 32 (fun c => (getChan s c).suspect)
  | 0x800 => leakStatus s
  | 0x810 => maskOf 8 (fun l => (getLeak s l).armHost) + 2 ^ 8 * maskOf 8 (fun l => (getLeak s l).armBmc)
  | _ =>
    if 0x100 ≤ o ∧ o < 0x300 ∧ o % 0x20 = 0x1C then (neighbours s ((o - 0x100) / 0x20)).foldl (fun n c => n + 2 ^ c) 0
    else if 0x600 ≤ o ∧ o < 0x680 then
      halves (temp16 (getChan s ((o - 0x600) / 4)).value) (temp16 (getChan s ((o - 0x600) / 4)).raw)
    else if 0x820 ≤ o ∧ o < 0x840 then halves (getLeak s ((o - 0x820) / 4)).g (getLeak s ((o - 0x820) / 4)).ohm
    else cfgN s (0x600000 + o)

/-- A motor channel's registers (Table 13.8). -/
def motorWord (s : State) (m o : Nat) : Nat :=
  let x := getMotor s m
  match o with
  | 0x00 => 2 ^ 18 * x.failsafe + 2 ^ 16 * x.mode + cfgN s (motorBase m)
  | 0x04 => chStatus s m
  | 0x10 => x.duty
  | 0x14 => x.dutyActive
  | 0x18 => x.gateMan
  | 0x34 => halves (floorRpm s m) x.hostRpm
  | 0x38 => halves (min 65535 (motorSpeed s m)) (effTarget s m)
  | 0x3C => x.tp % 2 ^ 32
  | 0x40 => 2 ^ 24 * x.noise + 2 ^ 16 * x.synths + 2 ^ 8 * x.stalls + x.desats
  | _ => cfgN s (motorBase m + o)

/-- Motors (Table 13.7). -/
def mcWord (s : State) (o : Nat) : Nat :=
  if o = 0 then 2 ^ 16 * maskOf 8 (fun m => (getMotor s m).st = .lockout) + busyBit s 9
  else if 0x100 ≤ o ∧ o < 0x900 then motorWord s ((o - 0x100) / 0x100) (o % 0x100)
  else 0

/-- PENDING of HN_STATUS. -/
def hnPending (s : State) : Nat := maskOf 3 (fun i => s.tw.hn.any (fun h => h.reason = i + 1))

/-- Two-wire (Table 14.8). -/
def twWord (s : State) (o : Nat) : Nat :=
  match o with
  | 0x00 => busyBit s 10
  | 0x04 => 2 ^ 16 * w0Addr s + cfgN s 0x800004
  | 0x0C => 2 ^ 24 * s.tw.pecErrs + 2 ^ 16 * s.tw.nacks + 2 ^ 8 * s.tw.timeouts + s.tw.w0Last
  | 0x10 => 2 ^ 8 * s.tw.hnDropped + hnPending s
  | 0x810 => KMap.get (fun _ => 0xFFFF) s.tw.press 0
  | 0x814 => KMap.get (fun _ => 0xFFFF) s.tw.press 1
  | 0x1000 => 2 ^ 30 * b2n s.tw.xferBusy + cfgN s 0x801000
  | 0x1004 => 2 ^ 8 * s.tw.xferBytes + s.tw.xferCode
  | _ =>
    if 0x140 ≤ o ∧ o < 0x400 ∧ o % 0x40 = 4 then
      let p := getPort s ((o - 0x100) / 0x40)
      let st := if (running s ((o - 0x100) / 0x40)).isSome then 1 else p.st
      2 ^ 24 * p.errs + 2 ^ 16 * p.arbLost + 2 ^ 12 * st + p.lastErr
    else cfgN s (0x800000 + o)

/-- The lowest SEQ in flash, and 0 where it holds none. -/
def oldestSeq (s : State) : Nat := match committedBySeq s with | x :: _ => x.1 | [] => 0

/-- Lifetime log and counters (Table 15.7). -/
def logWord (s : State) (o : Nat) : Nat :=
  let l := s.slog
  match o with
  | 0x00 => busyBit s 11 + bitsN [l.queue ≠ [], l.erasing.isSome && !l.eraseHeld && !eraseSuspended s, l.unclean, l.restored,
                                  l.flashErr]
  | 0x04 => 2 ^ 16 * l.dropped + min 2047 l.queue.length
  | 0x08 => l.headSeq
  | 0x0C => oldestSeq s
  | 0x10 => 2 ^ 24 * l.headSeg + min (2 ^ 24 - 1) (l.erases.foldl (fun n e => max n e.2) 0)
  | 0x14 => l.torn
  | 0x20 => wordOf l.calendar false
  | 0x24 => wordOf l.calendar true
  | _ => if 0x100 ≤ o ∧ o < 0x220 then wordOf (ltGet s ((o - 0x100) / 8)) (isHigh o) else cfgN s (0x900000 + o)

/-- Performance monitor (Table 15.8). -/
def pmWord (s : State) (o : Nat) : Nat :=
  match o with
  | 0x00 => busyBit s 12 + 2 * b2n s.pm.dmaErr + b2n (sampling s 0 || sampling s 1)
  | 0x04 => b2n s.pm.en
  | 0x0C => s.pm.lost
  | 0x1C => s.pm.wptr
  | 0x20 => s.pm.rptr
  | _ => if 0x4000 ≤ o ∧ o < 0x4E00 then wordOf (pmGet s ((o - 0x4000) / 8)).toNat (isHigh o) else cfgN s (0xA00000 + o)

/-- Message states in the suspend store: suspended messages and the running digests of pushes (R128). -/
def suspendedStates (s : State) : Nat :=
  s.sealEng.suspended.length + (s.sealEng.accs.filter (fun e => e.2.windowOpen && e.2.pushed ≠ [])).length

/-- SEAL_STATUS (Table 5.13). -/
def sealWord (s : State) (o : Nat) : Nat :=
  if o = 0 then
    2 ^ 12 * min 15 s.sealEng.waiting.length + 2 ^ 8 * min 15 (suspendedStates s) + 2 ^ 4 * b2n s.sealEng.bootReserved
    + (b2n s.sealEng.ctx0.isSome + b2n s.sealEng.ctx1.isSome)
  else 0

/-- Are the registers of a block in a domain that is in RETENTION or OFF (Table 2.3): Tilth and the stratum engine in D04. -/
def blockOff (s : State) (blk : Nat) : Bool :=
  (blk = 5 || blk = 6) && ((getDom s 4).cur = .off || (getDom s 4).cur = .retention)

/-- A word of PF BAR0 as its block's domain lets it be read: its reset value where the domain is OFF, but REG_BUSY as it is. -/
def pfWord (s : State) (off : Nat) : Nat :=
  let o := off - blockBase (blockOf off)
  match blockOf off with
  | 0 => if off < 0x1000 then hzWord s 0 off else 0
  | 1 => idWord s o
  | 2 => qcWord s o
  | 3 => crdWord s o
  | 4 => bootWord s o
  | 5 => if blockOff s 5 then tilthWord State.reset o + (if o = 0 then busyBit s 5 else 0) else tilthWord s o
  | 6 => if blockOff s 6 then seWord State.reset o + (if o = 0 then busyBit s 6 else 0) else seWord s o
  | 7 => apWord s o
  | 8 => thWord s o
  | 9 => mcWord s o
  | 10 => twWord s o
  | 11 => logWord s o
  | 12 => pmWord s o
  | 13 => sealWord s o
  | _ => 0

/-- A word of a VF's BAR0 (Table 3.2). -/
def vfWord (s : State) (fn off : Nat) : Nat :=
  if off = 0 then 256 * b2n (KMap.get (fun _ => false) s.regs.vfBusy fn)
  else if 0x40 ≤ off ∧ off < 0x54 then capWord s ((off - 0x40) / 4)
  else if 0x1000 ≤ off ∧ off < 0x2000 then hzWord s fn (off - 0x1000)
  else if 0x2000 ≤ off ∧ off < 0x2200 then qpWord s fn ((off - 0x2000) / 0x40) (off % 0x40)
  else 0

/-- A word as function fn reads it: the PF, a VF, or 64 for an internal thread, which reads PF BAR0 (R137). -/
def regWord (s : State) (fn off : Nat) : Nat := if fn = 0 ∨ fn = 64 then pfWord s off else vfWord s fn off

end Sys2Proof.Machine
end

