-- ==== Sys2Proof/Machine/RegWrite.lean ====
section
/-! DEFINITION. What a register write does, block by block (R55 to R59 and the register tables of each chapter): W1C and W1S
bits, guarded and locked fields, ranges, and the writes that act. -/

namespace Sys2Proof.Machine

/-- A write of function fn that is dropped: REG_BUSY of the block, or of the VF (R59). The page and the seal engine have none. -/
def dropWrite (s : State) (fn off : Nat) : State :=
  let b := blockOf off
  if fn ≠ 0 ∧ fn ≠ 64 then setBusyFn s fn 2 else if b = 0 ∨ b = 13 ∨ b = 14 then s else setBusy s b

/-- Is bit i of a written word 1. -/
def wbit (v i : Nat) : Bool := (v >>> i) % 2 = 1
/-- Field [hi:lo] of a written word. -/
def wf (v hi lo : Nat) : Nat := (v >>> lo) % 2 ^ (hi - lo + 1)
/-- W1C of REG_BUSY. -/
def ackBusy (s : State) (blk v : Nat) : State := if wbit v 8 then clrBusy s blk else s
/-- Does a number lie in a range. -/
def inRange (v lo hi : Nat) : Bool := decide (lo ≤ v) && decide (v ≤ hi)

/-- Stores the writable bits of a configuration word. -/
def putCfg (s : State) (off v : Nat) : State := cfgSet s off (BitVec.ofNat 32 (v &&& (cfgSpec off).rw))
/-- Would a write change the bits of a mask. -/
def changes (s : State) (off v mask : Nat) : Bool := decide (v &&& mask ≠ cfgN s off &&& mask)
/-- A write of a configuration word: dropped whole where `ok` is false or it changes the frozen bits (R58). -/
def cfgWrite (s : State) (off v : Nat) (ok : Bool) (frozen : Nat := 0) : State :=
  if !ok || changes s off v frozen then dropWrite s 0 off else putCfg s off v
/-- Stores a 64-bit configuration register. -/
def putCfg64 (s : State) (off v : Nat) : State := putCfg (putCfg s off (v % 2 ^ 32)) (off + 4) (v / 2 ^ 32)

/-! ### 32-bit registers -/

/-- Identity block. -/
def wrId (s : State) (o v : Nat) : State :=
  if o = 0x80 then ackBusy s 1 v else if o = 0x108 then putCfg s 0x10108 v else s

/-- A queue pair's registers (Table 4.14): DMA_ERR and DB_ERR are W1C, and the sizes are guarded while the pair runs. -/
def qpWrite (s : State) (fn q o v : Nat) : State :=
  let p := getQp s fn q
  let w := BitVec.ofNat 32 v
  match o with
  | 0x00 => qpCtrlWrite s fn q w
  | 0x04 => setQp s fn q { p with dmaErr := p.dmaErr && !wbit v 2, dbErr := p.dbErr && !wbit v 1 }
  | 0x18 =>
    if p.running then setBusyFn s fn 2 else setQp s fn q { p with cqEntries := wf v 28 16, sqEntries := wf v 12 0 }
  | 0x20 => sqTailWrite s fn q w
  | 0x28 => cqHeadWrite s fn q w
  | _ => s

/-- Queue control of the PF. -/
def wrQc (s : State) (o v : Nat) : State :=
  if o = 0 then ackBusy s 2 v
  else if o = 4 then hostHbWrite s (BitVec.ofNat 32 v)
  else if 0x104 ≤ o ∧ o < 0x200 then modTen s ((o - 0x100) / 4) (fun t => { t with priv := BitVec.ofNat 32 (v &&& 0x1FFFFF07) })
  else if 0x1000 ≤ o ∧ o < 0x1200 then qpWrite s 0 ((o - 0x1000) / 0x40) (o % 0x40) v
  else s

/-- Clocks, domains and reset. -/
def wrCrd (s : State) (o v : Nat) : State :=
  let w := BitVec.ofNat 32 v
  match o with
  | 0x00 =>
    let s : State := { s with crd := { s.crd with rstRefused := s.crd.rstRefused && !wbit v 10,
                                                  domFault := s.crd.domFault && !wbit v 9 } }
    ackBusy s 3 v
  | 0x04 => { s with crd := { s.crd with cause := s.crd.cause &&& ~~~(BitVec.ofNat 10 v) } }
  | 0x08 => resetCtrlWrite s w
  | 0x0C => gclkWrite s w
  | _ => if 0x100 ≤ o ∧ o < 0x270 then domCtrlWrite s ((o - 0x100) / 4) w else s

/-- Boot and trust. -/
def wrBoot (s : State) (o v : Nat) : State :=
  let w := BitVec.ofNat 32 v
  match o with
  | 0x00 =>
    let s : State := { s with boot := { s.boot with trialFailed := s.boot.trialFailed && !wbit v 5 } }
    ackBusy s 4 v
  | 0x10 => if loaderBusy s then setBusy s 4 else putCfg s 0x200010 v
  | 0x18 => bootReleaseWrite s w
  | 0x80 => keyLockWrite s w
  | _ => s

/-- Does a window of a first unit and a size lie in a reserve of `res` of `top` units; a size of 0 is no window (R139). -/
def windowIn (first size res top : Nat) : Bool := size = 0 || (decide (top - res ≤ first) && decide (first + size ≤ top))
/-- Does a KWIN value lie inside a reserve of Loam MiB and HBM GiB. -/
def kwinIn (w loam hbm : Nat) : Bool :=
  windowIn (w % 512) ((w >>> 16) % 512) loam 320 && windowIn ((w >>> 32) % 512) ((w >>> 48) % 512) hbm 288
/-- Is a KERNEL_RESERVE acceptable (R139): inside the memories, over no space in use, and no window left outside. -/
def reserveOk (s : State) (v : Nat) : Bool :=
  let loam := wf v 24 16
  let hbm := wf v 8 0
  decide (loam ≤ 320) && decide (hbm ≤ 288)
  && s.strata.extents.all (fun e => decide (e.first + e.units ≤ (288 - hbm) * 16384))
  && (s.strata.batch.isNone || decide (loam ≤ cfgF s 0x300020 24 16))
  && (List.range 64).all (fun t => kwinIn (kwin s t) loam hbm)
/-- Does a launch run, tenant or internal. -/
def launching (s : State) : Bool := s.garr.launches ≠ []
/-- Does a launch of tenant t run (Table 6.11). -/
def tenantLaunching (s : State) (t : Nat) : Bool := s.garr.launches.any (fun l => decide (l.tenant = t))

/-- Tilth. -/
def wrTilth (s : State) (o v : Nat) : State :=
  match o with
  | 0x00 => ackBusy s 5 v
  | 0x10 => putCfg s 0x300010 v
  | 0x18 => unfenceWrite (BitVec.ofNat 32 v) s
  | 0x20 => cfgWrite s 0x300020 v (!launching s && reserveOk s v)
  | _ => s

/-- Stratum engine. -/
def wrSe (s : State) (o v : Nat) : State :=
  match o with
  | 0x00 =>
    let s : State := { s with strata := { s.strata with hbmUe := s.strata.hbmUe && !wbit v 9 } }
    ackBusy s 6 v
  | 0x04 => putCfg s 0x400004 v
  | 0x08 => cfgWrite s 0x400008 v (inRange (wf v 8 0) 1 256)
  | _ => s

/-- Are the fields of SEQ_CFG in range. -/
def seqCfgOk (v : Nat) : Bool := decide (1 ≤ wf v 31 24) && decide (10 ≤ wf v 23 16) && decide (10 ≤ wf v 15 8)
/-- An accelerator's registers (Table 11.5). A RAIL_CFG write forgets the cached VOUT_MODE of its rail (R345). -/
def wrAcc (s : State) (n o v : Nat) : State :=
  let off := accBase n + o
  let frozen := if s.pow.lock then (cfgSpec off).rw else 0
  if o = 0 then (if wbit v 28 then modAcc s n (fun a => { a with pmbusErr := false }) else s)
  else if o = 4 then cfgWrite s off v ((getAcc s n).phase = .none && seqCfgOk v)
  else if o = 8 then cfgWrite s off v true frozen
  else if o = 0xC then putCfg s off v
  else if 0x40 ≤ o ∧ o < 0x90 ∧ o % 0x10 = 0 then
    (if changes s off v frozen then dropWrite s 0 off
     else
      let k := 8 * n + (o - 0x40) / 0x10
      putCfg { s with tw := { s.tw with voutMode := KMap.set (fun _ => none) s.tw.voutMode k none } } off v)
  else if 0x40 ≤ o ∧ o < 0x90 ∧ o % 0x10 = 4 then cfgWrite s off v true frozen
  else s

/-- SPOKE_CTRL (Table 10.7): without L0P_EN the link carries traffic on its whole width; a retrain is dropped unless An is in IDLE or
RUN, and starts Recovery; what it trains toward is latched then (R241, Table 10.6). -/
def spokeCtrlWrite (s : State) (n v : Nat) : State :=
  let w := wf v 12 8
  let live := (getAcc s n).st = .idle || (getAcc s n).st = .run
  if !(w = 1 || w = 4 || w = 8 || w = 16) || !inRange (wf v 3 0) 1 6 || (wbit v 16 && !live) then setBusy s 7
  else
    let s := putCfg s (0x508104 + 0x40 * n) v
    let s := if wbit v 4 then s else modSpoke s n (fun x => { x with lanes := x.width })
    if wbit v 16 ∧ (getSpoke s n).link = .l0 then enterRecovery (modSpoke s n (latchTraining s n)) n else s

/-- Link registers (Table 10.7). -/
def wrLink (s : State) (o v : Nat) : State :=
  if 0x8100 ≤ o ∧ o < 0x8300 then
    let n := (o - 0x8100) / 0x40
    match o % 0x40 with
    | 0x00 => modSpoke s n (fun x => { x with contractTimeout := x.contractTimeout && !wbit v 15, mbxErr := x.mbxErr && !wbit v 14 })
    | 0x04 => spokeCtrlWrite s n v
    | 0x08 => cfgWrite s (0x500000 + o) v (inRange (wf v 15 0) 1 1000)
    | 0x0C => cfgWrite s (0x500000 + o) v (inRange (wf v 15 0) 10 65535)
    | _ => s
  else s

/-- Accelerator power. -/
def wrAp (s : State) (o v : Nat) : State :=
  match o with
  | 0x00 => ackBusy s 7 v
  | 0x04 => if wbit v 0 then { s with pow := { s.pow with lock := true } } else s
  | 0x08 => cfgWrite s 0x500008 v (inRange (wf v 31 16) 10 10000 && inRange (wf v 15 0) 10 10000)
  | 0x0C => chargerCheck (cfgWrite s 0x50000C v true (if s.pow.lock then 0x7F0000 else 0))
  | 0x10 => if wbit v 12 then { s with pow := { s.pow with rideThrough := false } } else s
  | 0x1C => cfgWrite s 0x50001C v true (if s.pow.lock then 0x7F else 0)
  | _ =>
    if 0x100 ≤ o ∧ o < 0x900 then wrAcc s ((o - 0x100) / 0x100) (o % 0x100) v
    else if 0x8000 ≤ o ∧ o < 0x9000 then wrLink s o v
    else s

/-- W1C of CONFIRMED: a channel that is still suspected keeps it (R308). -/
def ackLeaks (s : State) (v : Nat) : State :=
  (List.range 8).foldl (fun s l =>
    let x := getLeak s l
    if wbit v l && x.confirmed && !x.suspected then setLeak s l { x with confirmed := false } else s) s

/-- A temperature channel's registers (R315): a die zone has no ADDR and its neighbours are fixed, and no channel names itself or a
die zone as its neighbour. -/
def wrChan (s : State) (c o v : Nat) : State :=
  let off := chanBase c + o
  if o = 0 then cfgWrite s off v (decide (16 ≤ c) || decide (wf v 6 0 = 0))
  else if o = 0x1C then cfgWrite s off v (decide (16 ≤ c) && decide (v % 65536 = 0) && !wbit v c)
  else putCfg s off v

/-- Thermal. LOOP_CFG, LEAK_CFG, levels and maps take effect at the next sample (Table 3.4). -/
def wrTh (s : State) (o v : Nat) : State :=
  match o with
  | 0x00 => ackBusy s 8 v
  | 0x08 => motorsFollow (thClearWrite s (BitVec.ofNat 32 v))
  | 0x0C => putCfg s 0x60000C v
  | 0x800 => motorsFollow (ackLeaks s v)
  | 0x804 => cfgWrite s 0x600804 v (wf v 17 16 ≠ 3 && wf v 19 18 ≠ 3)
  | 0x808 => cfgWrite s 0x600808 v (inRange (wf v 31 16) 1 60000)
  | 0x80C => putCfg s 0x60080C v
  | _ => if 0x100 ≤ o ∧ o < 0x500 then wrChan s ((o - 0x100) / 0x20) (o % 0x20) v else s

/-- Are the fields of a motor register in range (Table 13.8). -/
def motorRange (o v : Nat) : Bool :=
  match o with
  | 0x00 => wf v 2 1 ≠ 3 && decide (wf v 11 8 ≤ 12)
  | 0x08 => inRange (wf v 13 0) 3334 10000
  | 0x0C => inRange (wf v 23 16) 8 56 && decide (5 ≤ wf v 15 8) && decide (2 ≤ wf v 7 0)
  | 0x20 => decide (1 ≤ wf v 23 16)
  | 0x24 => decide (1 ≤ wf v 15 0)
  | 0x30 => decide (10 ≤ wf v 15 0)
  | 0x48 => decide (wf v 4 0 ≤ 16)
  | _ => true
/-- Registers of a motor channel that are guarded whole. -/
def motorGuarded (o : Nat) : Bool := [0x08, 0x0C, 0x1C, 0x20, 0x24, 0x44, 0x4C].contains o

/-- CH_STATUS W1C. -/
def ackMotor (x : Motor) (v : Nat) : Motor :=
  { x with blankedSeen := x.blankedSeen && !wbit v 26, hallInvalid := x.hallInvalid && !wbit v 25, stall := x.stall && !wbit v 24,
           phasePhase := x.phasePhase && !wbit v 23, desat := x.desat &&& (7 ^^^ wf v 22 20), ocSoft := x.ocSoft && !wbit v 19,
           ocHard := x.ocHard && !wbit v 18, shoot := x.shoot && !wbit v 17 }

/-- May EN be written 1 (Table 13.4): MAX_RPM is set, and POLE_PAIRS is 1 to 12. -/
def enOk (s : State) (m v : Nat) : Bool := !wbit v 0 || (decide (maxRpm s m ≠ 0) && inRange (wf v 11 8) 1 12)

/-- CH_CTRL: EN 0 acts at once, EN 1 at the next PWM reload (R342). -/
def ctrlWrite (s : State) (m v : Nat) (run : Bool) : State :=
  let s := cfgWrite s (motorBase m) v (motorRange 0 v && enOk s m v) (if run then 0xF1E else 0)
  if cfgF s (motorBase m) 0 0 = 1 then s else modMotor s m (fun x => { x with en := false })

/-- A motor channel's registers (R321, R342): guarded while the channel is not STOPPED; DUTY and GATE_MAN each in its DRIVE. -/
def wrMotor (s : State) (m o v : Nat) : State :=
  let x := getMotor s m
  let off := motorBase m + o
  let run := x.st ≠ .stopped
  match o with
  | 0x00 => ctrlWrite s m v run
  | 0x04 => setMotor s m (ackMotor x v)
  | 0x10 => if motorDrive s m = 1 then setMotor s m { x with duty := wf v 13 0 } else setBusy s 9
  | 0x18 => if motorDrive s m = 2 then setMotor s m { x with gateMan := wf v 5 0 } else setBusy s 9
  | _ => cfgWrite s off v (motorRange o v && !(run && motorGuarded o))

/-- Does a motor channel have a writable register at an offset. -/
def motorHas (o : Nat) : Bool := o = 4 || o = 0x10 || o = 0x18 || (cfgSpec (motorBase 0 + o)).rw ≠ 0

/-- Motors. A channel follows its target after the write. -/
def wrMc (s : State) (o v : Nat) : State :=
  if o = 0 then ackBusy s 9 v
  else if o = 4 then mcClearWrite s (BitVec.ofNat 32 v)
  else if 0x100 ≤ o ∧ o < 0x900 ∧ motorHas (o % 0x100) then
    motorFollow (wrMotor s ((o - 0x100) / 0x100) (o % 0x100) v) ((o - 0x100) / 0x100)
  else s

/-- Forgets the cached VOUT_MODE of the rails on port p as it is enabled (R345). -/
def portEnabled (s : State) (p : Nat) : State :=
  if 1 ≤ p ∧ p ≤ 8 then
    { s with tw := { s.tw with voutMode := s.tw.voutMode.filter (fun e => decide (e.1 / 8 ≠ p - 1)) } }
  else s

/-- PORT_CFG: SPEED is guarded while a transaction is on the port; EN 0 ends the transaction under way (Table 14.5). -/
def portCfgWrite (s : State) (p v : Nat) : State :=
  let was := portEn s p
  let u := cfgWrite s (portCfg p) v (wf v 9 8 ≠ 3) (if (running s p).isSome then 0x300 else 0)
  if portEn u p && !was then portEnabled u p
  else if was && !portEn u p then abortPort (running s p) p u
  else u

/-- Two-wire. -/
def wrTw (s : State) (o v : Nat) : State :=
  match o with
  | 0x00 => ackBusy s 10 v
  | 0x04 => putCfg s 0x800004 v
  | 0x08 => putCfg s 0x800008 v
  | 0x800 => putCfg s 0x800800 v
  | 0x804 => putCfg s 0x800804 v
  | 0x1000 => xferCtrlWrite s (BitVec.ofNat 32 v)
  | _ =>
    if 0x140 ≤ o ∧ o < 0x400 ∧ o % 0x40 = 0 then portCfgWrite s ((o - 0x100) / 0x40) v
    else if 0x1020 ≤ o ∧ o < 0x1040 then cfgWrite s (0x800000 + o) v (!s.tw.xferBusy)
    else s

/-- Lifetime log. -/
def wrLog (s : State) (o v : Nat) : State :=
  match o with
  | 0x00 =>
    let s : State := { s with slog := { s.slog with flashErr := s.slog.flashErr && !wbit v 4 } }
    ackBusy s 11 v
  | 0x18 => cfgWrite s 0x900018 v (inRange (wf v 16 0) 60 86400)
  | _ => s

/-- A group's registers (Table 15.8, R377). -/
def wrGroup (s : State) (g o v : Nat) : State :=
  let off := pmGroup g + o
  if o < 8 then cfgWrite s off v (!sampling s g)
  else if o = 0x18 then
    cfgWrite s off v (decide (g < 2) && decide (wf v 5 4 ≤ 2) && !(g = 1 && wf v 5 4 = 2) && inRange (wf v 12 8) 4 20)
  else if o = 0x1C then cfgWrite s off v (decide (g < 2) && decide (1024 ≤ v))
  else s

/-- Performance monitor. -/
def wrPm (s : State) (o v : Nat) : State :=
  match o with
  | 0x00 =>
    let s : State := { s with pm := { s.pm with dmaErr := s.pm.dmaErr && !wbit v 1 } }
    ackBusy s 12 v
  | 0x04 => sampCtrlWrite s (BitVec.ofNat 32 v)
  | 0x08 => putCfg s 0xA00008 v
  | 0x18 => cfgWrite s 0xA00018 v (!s.pm.en && inRange (wf v 4 0) 12 26)
  | 0x20 => { s with pm := { s.pm with rptr := wf v 19 0 } }
  | _ => if 0x100 ≤ o ∧ o < 0x480 then wrGroup s ((o - 0x100) / 0x20) (o % 0x20) v else s

/-- A write of a 32-bit register of PF BAR0, or of one whose domain is OFF, which is dropped (Table 2.3). -/
def pfWrite (s : State) (off v : Nat) : State :=
  let o := off - blockBase (blockOf off)
  let blk := blockOf off
  if blockOff s blk then setBusy s blk
  else match blk with
  | 1 => wrId s o v
  | 2 => wrQc s o v
  | 3 => wrCrd s o v
  | 4 => wrBoot s o v
  | 5 => wrTilth s o v
  | 6 => wrSe s o v
  | 7 => wrAp s o v
  | 8 => wrTh s o v
  | 9 => wrMc s o v
  | 10 => wrTw s o v
  | 11 => wrLog s o v
  | 12 => wrPm s o v
  | _ => s

/-- A write of a 32-bit register of a VF (Table 3.2). -/
def vfWrite (s : State) (fn off v : Nat) : State :=
  if off = 0 then
    (if wbit v 8 then { s with regs := { s.regs with vfBusy := KMap.set (fun _ => false) s.regs.vfBusy fn false } } else s)
  else if 0x2000 ≤ off ∧ off < 0x2200 then qpWrite s fn ((off - 0x2000) / 0x40) (off % 0x40) v
  else s

/-! ### 64-bit registers -/

/-- Where function fn sees its queue pairs. -/
def qpBase (fn : Nat) : Nat := if fn = 0 ∨ fn = 64 then 0x21000 else 0x2000
/-- Does an offset lie among a function's queue pairs. -/
def isQp (fn off : Nat) : Bool := qpBase fn ≤ off && off < qpBase fn + 0x200

/-- Is the 8-aligned offset a writable 64-bit register. -/
def wide (fn off : Nat) : Bool :=
  if off % 8 ≠ 0 then false
  else if isQp fn off then off % 0x40 = 8 || off % 0x40 = 0x10
  else if fn ≠ 0 ∧ fn ≠ 64 then false
  else off = 0x10100 || off = 0x200008 || off = 0x300008 || (0x301400 ≤ off && off < 0x301600) || (0x301800 ≤ off && off < 0x301900)
    || off = 0x400010 || off = 0xA00010
    || (0xA00100 ≤ off && off < 0xA00480 && (off % 0x20 = 8 || off % 0x20 = 0x10))

/-- Is the 8-aligned offset a 64-bit register (R57). -/
def wideRead (fn off : Nat) : Bool :=
  wide fn off
  || (if off % 8 ≠ 0 then false
      else if fn ≠ 0 ∧ fn ≠ 64 then off = 0x1008
      else off = 0x8 || off = 0x200020 || off = 0x200028 || off = 0x200030 || off = 0x400020 || off = 0x400028 || off = 0x400030
        || (0x400040 ≤ off && off < 0x400060) || (0x508100 ≤ off && off < 0x508300 && off % 0x40 = 0x10) || off = 0x900020
        || (0x900100 ≤ off && off < 0x900220) || (0xA04000 ≤ off && off < 0xA04E00))

/-- Does [a, a + n) lie inside one spoke window or the host window (Table 6.4). -/
def inOneWindow (a n : Nat) : Bool :=
  (List.range 8).any (fun k => decide (0xC000000000 + k * 0x1000000000 ≤ a) && decide (a + n ≤ 0xC000000000 + (k + 1) * 0x1000000000))
  || (decide (0x14000000000 ≤ a) && decide (a + n ≤ 0x18000000000))
/-- May an entry of the region table be stored (R207). -/
def regionOk (v : Nat) : Bool :=
  let lg := (v >>> 8) % 64
  let a := ((v >>> 16) % 2 ^ 32) * 65536
  v % 2 = 0 || (inRange lg 16 36 && decide ((v >>> 4) % 4 ≠ 3) && decide (a % 2 ^ lg = 0) && inOneWindow a (2 ^ lg))
/-- May an address comparator be stored: an enabled one has a size of 2^6 to 2^40. -/
def acmpOk (v : Nat) : Bool := (v >>> 63) % 2 = 0 || inRange ((v >>> 48) % 64) 6 40

/-- A ring base of a queue pair: guarded while the pair runs. -/
def ringBaseWrite (s : State) (fn off v : Nat) : State :=
  let q := (off - qpBase fn) / 0x40
  let t := if fn = 64 then 0 else fn
  let p := getQp s t q
  let base := BitVec.ofNat 64 (v / 4096 * 4096)
  if p.running then dropWrite s fn off
  else setQp s t q (if off % 0x40 = 8 then { p with sqBase := base } else { p with cqBase := base })

/-- Applies a writable 64-bit register as one setting. -/
def wideWrite (s : State) (fn off v : Nat) : State :=
  let put (ok : Bool) : State := if ok then putCfg64 s off v else dropWrite s fn off
  if blockOff s (blockOf off) && !isQp fn off then dropWrite s fn off
  else if isQp fn off then ringBaseWrite s fn off v
  else if off = 0x200008 then put (!loaderBusy s)
  else if off = 0x10100 then put (v / 2 ^ 20 * 2 ^ 20 % s.regs.bar2Size = 0)
  else if off = 0x300008 then poolUpdate (put true)
  else if off < 0x301600 ∧ 0x301400 ≤ off then 
    put (!tenantLaunching s ((off - 0x301400) / 8) && kwinIn v (cfgF s 0x300020 24 16) (cfgF s 0x300020 8 0))
  else if off < 0x301900 ∧ 0x301800 ≤ off then put (!launching s && regionOk v)
  else if off = 0xA00010 then put (!s.pm.en)
  else if 0xA00100 ≤ off then put (!sampling s ((off - 0xA00100) / 0x20) && acmpOk v)
  else put true

end Sys2Proof.Machine
end

