-- ==== Sys2Proof/Machine/Regs.lean ====
section
/-! DEFINITION. The access rules of BAR0 (R50 to R57): reads with their side effects, the latch and the staging of 64-bit registers,
and what the steward drops or completes as unsupported. -/

namespace Sys2Proof.Machine

/-! ### Reads -/

/-- Key of a function's 64-bit register in the latch and the staging store. -/
def wideKey (fn off : Nat) : Nat := fn * 2 ^ 32 + off

/-- What reading a register clears (RC, Table 3.3). -/
def rcClear (s : State) (fn off : Nat) : State :=
  if fn ≠ 0 ∧ fn ≠ 64 then s
  else if 0x508100 ≤ off ∧ off < 0x508300 ∧ off % 0x40 = 0 then
    modSpoke s ((off - 0x508100) / 0x40) (fun x => { x with recoveries := 0, inboundUr := 0 })
  else if 0x700100 ≤ off ∧ off < 0x700900 ∧ off % 0x100 = 0x40 then
    modMotor s ((off - 0x700100) / 0x100) (fun x => { x with noise := 0, synths := 0, stalls := 0, desats := 0 })
  else if off = 0x80000C then { s with tw := { s.tw with pecErrs := 0, nacks := 0, timeouts := 0 } }
  else if off = 0x800010 then { s with tw := { s.tw with hnDropped := 0 } }
  else if 0x800140 ≤ off ∧ off < 0x800400 ∧ off % 0x40 = 4 then
    modPort s ((off - 0x800100) / 0x40) (fun p => { p with errs := 0, arbLost := 0 })
  else if off = 0x900004 then { s with slog := { s.slog with dropped := 0 } }
  else if off = 0x900014 then { s with slog := { s.slog with torn := 0 } }
  else if off = 0xA0000C then { s with pm := { s.pm with lost := 0 } }
  else s

/-- Latches the high word of a 64-bit register for a function, or forgets it. -/
def setLatch (s : State) (fn off : Nat) (w : Option Word) : State :=
  { s with regs := { s.regs with latched := KMap.set (fun _ => none) s.regs.latched (wideKey fn off) w } }
/-- The high word latched for a function. -/
def getLatch (s : State) (fn off : Nat) : Option Word := KMap.get (fun _ => none) s.regs.latched (wideKey fn off)

/-- A 4-byte read of an aligned word (R57): the low word of a 64-bit register latches the high word, and the high word returns
what was latched. -/
def readWord (s : State) (fn off : Nat) : Nat × State :=
  if wideRead fn off then (regWord s fn off, setLatch s fn off (some (BitVec.ofNat 32 (regWord s fn (off + 4)))))
  else if off % 8 = 4 && wideRead fn (off - 4) then
    match getLatch s fn (off - 4) with
    | some w => (w.toNat, setLatch s fn (off - 4) none)
    | none => (regWord s fn off, s)
  else (regWord s fn off, rcClear s fn off)

/-- An 8-byte read: both words of a 64-bit register, or two 4-byte reads (R53). -/
def readWide (s : State) (fn off : Nat) : Nat × State :=
  if wideRead fn off then (regWord s fn off + 2 ^ 32 * regWord s fn (off + 4), s)
  else
    let (lo, s) := readWord s fn off
    let (hi, s) := readWord s fn (off + 4)
    (lo + 2 ^ 32 * hi, s)

/-- Is a read or write of n bytes one that BAR0 takes (R53). -/
def accessOk (off n : Nat) : Bool :=
  if n = 8 then off % 8 = 0 else if n = 4 then off % 4 = 0 else 1 ≤ n && n < 4 && off % 4 + n ≤ 4

/-- Does BAR0 of the PF lack the offset (R50). -/
def beyond (fn off : Nat) : Bool := (fn = 0 || fn = 64) && 0xC00000 ≤ off
/-- Is an access one that a function's BAR0 takes: anything else is an unsupported request. -/
def taken (fn off n : Nat) : Bool := !beyond fn off && accessOk off n

/-- A read of n bytes: the value and the state after it; none is an unsupported request. -/
def regRead (s : State) (fn off n : Nat) : Option Nat × State :=
  if !taken fn off n then (none, count (logAer s) 186 {})
  else if n = 8 then
    let r := readWide s fn off
    (some r.1, r.2)
  else if n = 4 then
    let r := readWord s fn off
    (some r.1, r.2)
  else
    let a := off / 4 * 4
    (some (regWord s fn a / 256 ^ (off % 4) % 256 ^ n), rcClear s fn a)

/-! ### Writes -/

/-- Stages the low word of a 64-bit register for a function, or discards it. -/
def setStaged (s : State) (fn off : Nat) (w : Option Word) : State :=
  { s with regs := { s.regs with staged := KMap.set (fun _ => none) s.regs.staged (wideKey fn off) w } }
/-- The low word staged by a function. -/
def getStaged (s : State) (fn off : Nat) : Option Word := KMap.get (fun _ => none) s.regs.staged (wideKey fn off)

/-- Is an offset in the Horizon page of a function, whose writes are dropped without error (R65). -/
def onPage (fn off : Nat) : Bool := if fn = 0 ∨ fn = 64 then off < 0x1000 else 0x1000 ≤ off && off < 0x2000

/-- A 4-byte write of an aligned word (R57). -/
def writeWord (s : State) (fn off v : Nat) : State :=
  if onPage fn off then s
  else if wide fn off then
    (if blockOff s (blockOf off) && !isQp fn off then dropWrite s fn off else setStaged s fn off (some (BitVec.ofNat 32 v)))
  else if off % 8 = 4 && wide fn (off - 4) then
    let lo := match getStaged s fn (off - 4) with | some w => w.toNat | none => regWord s fn (off - 4)
    wideWrite (setStaged s fn (off - 4) none) fn (off - 4) (lo + 2 ^ 32 * v)
  else if fn = 0 ∨ fn = 64 then pfWrite s off v
  else vfWrite s fn off v

/-- An 8-byte write: a 64-bit register as one setting, or two 4-byte writes. -/
def writeWide (s : State) (fn off v : Nat) : State :=
  if wide fn off && !onPage fn off then wideWrite (setStaged s fn off none) fn off v
  else writeWord (writeWord s fn off (v % 2 ^ 32)) fn (off + 4) (v / 2 ^ 32)

/-- One word of an 8-byte write by its byte enables: no byte, the whole word, or a partial write, which is dropped. -/
def writeHalf (s : State) (fn off be v : Nat) : State :=
  if be = 0 then s else if be = 15 then writeWord s fn off v else dropWrite s fn off

/-- A register write of a function (R50, R53). A write to the page, of whatever form, is dropped without error (R65). -/
def regWrite (s : State) (fn off size be v : Nat) (poisoned : Bool) : State :=
  if onPage fn off then s
  else if !taken fn off size then logAer s
  else if poisoned then count (logAer (dropWrite s fn off)) 187 {}
  else if size = 8 then
    (if be = 255 then writeWide s fn off v
     else writeHalf (writeHalf s fn off (be % 16) (v % 2 ^ 32)) fn (off + 4) (be / 16) (v / 2 ^ 32))
  else if size = 4 ∧ be = 15 then writeWord s fn off v
  else dropWrite s fn off

/-! ### An internal thread's device window (R137) -/

/-- A load of n bytes from the device window, one that BAR0 takes. -/
def devRead (s : State) (off n : Nat) : Nat × State :=
  let r := regRead s 64 off n
  (r.1.getD 0, r.2)

/-- A store of bytes to the device window. -/
def devWrite (s : State) (off : Nat) (bs : List Byte) : State :=
  regWrite s 64 off bs.length (2 ^ bs.length - 1) (ofLe bs) false

/-! ### The host's accesses -/

/-- May function fn access its BAR: U is in L0 (R71), and the function is there (R72). -/
def hostMay (s : State) (fn : Nat) : Bool := s.links.u.l0 && !s.links.u.recovering && fnEnabled s fn

/-- A 4-byte register write of a function by a row of its own, dropped where U does not carry it. -/
def hostWrites (s : State) (fn off : Nat) (v : Word) : State :=
  if hostMay s fn then regWrite s fn off 4 15 v.toNat false else s

/-- Does the page take a read: naturally aligned, of 4 to 64 bytes, or 1 to 3 bytes within a word (R53, R64). -/
def pageTakes (off n : Nat) : Bool := if [4, 8, 16, 32, 64].contains n then off % n = 0 else accessOk off n

/-- A read of the page by function fn at page offset off: one snapshot; a 4-byte read latches as R57 gives. -/
def pageRead (s : State) (fn off n : Nat) : State :=
  let s := count s 180 {}
  if !pageTakes off n then { (count (logAer s) 186 {}) with resp := .unsupported }
  else if n = 4 then
    let r := readWord s fn (off + (if fn = 0 then 0 else 0x1000))
    { r.2 with resp := .data (leBytes 4 r.1) }
  else { s with resp := .data (hzBytes s fn off n) }

/-- A read of n bytes of a function's BAR0 (R53): what regRead gives it, and the page's own answer where it names the page. -/
def hostReads (s : State) (fn off n : Nat) : State :=
  if hostMay s fn && (fn = 0 || off < 0x10000) then
    if onPage fn off then pageRead s fn (off % 0x1000) n
    else
      let r := regRead s fn off n
      { r.2 with resp := match r.1 with | some v => .value n (v % 256 ^ n) | none => .unsupported }
  else s

end Sys2Proof.Machine
end

