-- ==== Sys2Proof/Machine/GrainAccess.lean ====
section
/-! DEFINITION. Loads, stores, atomics, reservations, block copies, fences and synchronisation of the grains (R172 to R180,
R189 to R199, R204, R205). -/

namespace Sys2Proof.Machine

/-! ### Addresses -/

/-- A + OFF14 (R172). -/
def addrM (th : Thread) (w : Word) : Nat := (gpr th (fA w) + BitVec.ofInt 64 (sext 14 (bf w 13 0))).toNat
/-- A + 64 × OFF11 (R172). -/
def addrVm (th : Thread) (w : Word) : Nat := (gpr th (fA w) + BitVec.ofInt 64 (64 * sext 11 (bf w 10 0))).toNat

/-- Does [a, a+n) lie in grain p's own local store, through the alias or its own entry. -/
def ownLs (s : State) (p a n : Nat) : Bool :=
  match resolve s p a with
  | .ls ph off => ph = p && off + n ≤ 0x40000
  | _ => false

/-- Counts an access (Table 15.4, group 1). -/
def countAccess (s : State) (p a : Nat) (write : Bool) : State :=
  let e := match resolve s p a with
    | .ls ph _ => if ph = p then (if write then 17 else 16) else 18
    | .gm b => if isLoam b then 19 else 20
    | _ => 21
  count s e (grainOcc s p (some a))

/-- Holds a thread at an access until its link is ready or its index's takeover is over; a hold on a link is counted. -/
def holdAccess (s : State) (p t a : Nat) : State :=
  modThread (if isWindow (resolve s p a) then count s 31 (grainOcc s p (some a)) else s) p t
    (fun x => { x with wait := .held (holdKey s p a) a s.tick })

/-- Checks an access at issue: ALIGN, ACCESS, DATA_ERROR, a hold on a link or a takeover, or the access itself (R152, R172, R173, R204,
R205). -/
def guarded (s : State) (p t : Nat) (w : Word) (a n : Nat) (write normalOnly : Bool) (go : State → State) : State :=
  if a % (if n = 256 then 64 else n) ≠ 0 then takeExc s p t 3 w.toNat a
  else
    let r := reach s p a n write
    if r = 2 ∨ (normalOnly && !allNormal s p a n) then takeExc s p t 2 w.toNat a
    else if r = 4 then takeExc (count s 29 (grainOcc s p (some a))) p t 4 w.toNat a
    else if r = 1 then holdAccess s p t a
    else go (countAccess s p a write)

/-- A fence or a Device access ends the merging of a thread's earlier Normal stores (R198). -/
def closeMerges (s : State) (p t : Nat) : State :=
  modThread s p t (fun x => { x with stores := x.stores.map (fun st => { st with merges := false }) })

/-- A data error of a read or of a Device-Strict store at an address (R185, R204); reads of the own local store have none. -/
def dataError (s : State) (p t : Nat) (w : Word) (a : Nat) : State :=
  takeExc (count s 29 (grainOcc s p (some a))) p t 4 w.toNat a

/-- Does an access of the device window meet an unsupported request (R50, R53), which raises DATA_ERROR (R204). -/
def devRefused (s : State) (p a n : Nat) : Bool :=
  match resolve s p a with
  | .dev off => !taken 64 off (min n 8)
  | _ => false

/-! ### Loads -/

/-- Bytes that a load of a register form reads; device registers read through their own rules. -/
def readAny (s : State) (p t a n : Nat) : Nat × State :=
  match resolve s p a with
  | .dev off => devRead (closeMerges (drainThread s p t) p t) off n
  | _ =>
    let r := loadBytes (if regionType s p a = 0 then s else closeMerges s p t) p t a n
    (ofLe r.1, r.2)

/-- The failed HBM line that a read of n bytes at an address meets (R232). -/
def badLineAt (s : State) (p a n : Nat) : Option Nat :=
  match resolve s p a with
  | .gm b => s.strata.badLines.find? (fun l => decide (l < b + n) && decide (b < l + 64))
  | _ => none

/-- A read that meets an uncorrectable error, or a failed line again, raises DATA_ERROR in its thread (R185, R232); else it goes on. -/
def readGuard (s : State) (p t : Nat) (w : Word) (a n : Nat) (err : Bool) (go : State → State) : State :=
  match badLineAt s p a n with
  | some l => dataError (failAgain l s) p t w a
  | none => if err && !ownLs s p a n || devRefused s p a n then dataError s p t w a else go s

/-- LDB to LDWU: the value is read at issue and retires in program order (R190, log entry 12). With 8 loads outstanding the thread is
not ready. -/
def loadInsn (p t : Nat) (err : Bool) (s0 : State) : State :=
  issue s0 p t (fun k => k = .load) (fun w => [fA w])
    (fun s w =>
      let th := getThread s p t
      let op := fOp4 w
      let n := 2 ^ (op % 4)
      let a := addrM th w
      if 8 ≤ th.loads.length then s0
      else guarded s p t w a n false false (fun s => readGuard s p t w a n err (fun s =>
        let (v, s) := readAny s p t a n
        let v : Dword := if op < 4 then BitVec.ofInt 64 (sext (8 * n) v) else BitVec.ofNat 64 v
        modThread s p t (fun x => advance { x with loads := x.loads ++ [⟨fD w, v⟩] }))))

/-- LOAD. -/
def execLoad (p : Fin 1088) (t : Fin 8) (err : Bool) (s : State) : Host.Outcome State Fault Refusal :=
  done (loadInsn p.val t.val err s)

/-- VP field of vector memory. -/
def fVpM (w : Word) : Nat := bf w 13 11

/-- An LDV reads the pieces it has not read yet and writes VD; lanes off keep their old value (Table 7.9). -/
def vectorRetire (p t : Nat) (s : State) : State :=
  match (getThread s p t).wait with
  | .vector w a got =>
    let (bs, s) := loadBytes s p t a 256
    let bs := got ++ bs.drop got.length
    modThread (count s 27 (grainOcc s p)) p t (fun x =>
      let pred := vpr x (fVpM w)
      advance { (List.range 64).foldl (fun x i =>
        if pred.getLsbD i then setVlane x (fD w) i (BitVec.ofNat 32 (leAt bs (4 * i) 4)) else x) x with wait := .ready })
  | _ => s

/-- The oldest outstanding load of a thread retires; an LDV, at which its thread waits, is the last one. -/
def loadRetire (p t : Nat) (s : State) : State :=
  let th := getThread s p t
  match th.loads with
  | [] => vectorRetire p t s
  | l :: ls => setThread (count s 27 (grainOcc s p)) p t { setGpr th l.reg l.value with loads := ls }

/-- LOAD_RETIRE. -/
def execLoadRetire (p : Fin 1088) (t : Fin 8) (s : State) : Host.Outcome State Fault Refusal :=
  done (loadRetire p.val t.val s)

/-- LDP: D and D + 1 (Table 7.9). -/
def ldpInsn (p t : Nat) (err : Bool) (s : State) : State :=
  issue s p t (fun k => k = .ldp) (fun w => [fA w])
    (fun s w =>
      let a := addrM (getThread s p t) w
      guarded s p t w a 16 false false (fun s => readGuard s p t w a 16 err (fun s =>
        let (lo, s) := readAny s p t a 8
        let (hi, s) := readAny s p t (a + 8) 8
        modThread (count s 27 (grainOcc s p)) p t (fun x =>
          advance (setGpr (setGpr x (fD w) (BitVec.ofNat 64 lo)) (fD w + 1) (BitVec.ofNat 64 hi))))))

/-- LDP. -/
def execLdp (p : Fin 1088) (t : Fin 8) (err : Bool) (s : State) : Host.Outcome State Fault Refusal :=
  done (ldpInsn p.val t.val err s)

/-- LDV: its thread waits while its 32 pieces are read, in ascending order (R193); it retires with LOAD_RETIRE. -/
def ldvInsn (p t : Nat) (err : Bool) (s : State) : State :=
  issue s p t (fun k => k = .ldv) (fun w => [fA w])
    (fun s w =>
      let a := addrVm (getThread s p t) w
      guarded s p t w a 256 false true (fun s => readGuard s p t w a 256 err (fun s =>
        modThread s p t (fun x => { x with wait := .vector w a [] }))))

/-- LDV. -/
def execLdv (p : Fin 1088) (t : Fin 8) (err : Bool) (s : State) : Host.Outcome State Fault Refusal :=
  done (ldvInsn p.val t.val err s)

/-! ### Stores -/

/-- Bytes of a store over those of an earlier one in its 64-byte line. -/
def mergeBytes (line : Nat) (old new : PendStore) : List (Option Byte) :=
  let part (st : PendStore) (i : Nat) : Option Byte := if st.addr ≤ line + i then st.bytes.getD (line + i - st.addr) none else none
  (List.range 64).map (fun i => (part new i).orElse (fun _ => part old i))

/-- A Normal store to a window joins its thread's buffer, or merges into an earlier, not yet issued one of its 64-byte line where a
free value says so (R198, R199). -/
def pushNormal (s : State) (p t : Nat) (st : PendStore) : State :=
  let line := st.addr / 64 * 64
  let open? (x : PendStore) : Bool :=
    x.merges && decide (x.stage < 3) && x.addr / 64 * 64 = line && storeLink s p x = storeLink s p st
  match (getThread s p t).stores.findIdx? open? with
  | none => modThread s p t (fun x => { x with stores := x.stores ++ [st] })
  | some k =>
    let (f, s) := drawFree s
    modThread s p t (fun x =>
      match x.stores[k]? with
      | some old =>
        if f.toNat % 2 = 1 then { x with stores := x.stores.set k { old with addr := line, bytes := mergeBytes line old st } }
        else { x with stores := x.stores ++ [st] }
      | none => x)

/-- A store of pieces, in order, enters its thread's buffer, or a device register takes it, or a Device-Strict store holds the thread
(R198). -/
def putStore (s : State) (p t : Nat) (w : Word) (a : Nat) (pieces : List (List (Option Byte))) (err : Bool) : State :=
  let at' (i : Nat) : Nat := a + ((pieces.take i).map List.length).sum
  let mk (i : Nat) (strict merges : Bool) : PendStore :=
    { addr := at' i, bytes := pieces.getD i [], strict := strict, merges := merges, since := s.tick }
  match resolve s p a with
  | .dev off =>
    let s := closeMerges (drainThread s p t) p t
    if err || devRefused s p a pieces.flatten.length then dataError s p t w a
    else modThread ((List.range pieces.length).foldl (fun s i =>
      devWrite s (off + (at' i - a)) ((pieces.getD i []).filterMap id)) s) p t advance
  | tg =>
    if isWindow tg then
      let ty := regionType s p a
      if ty = 0 then
        modThread ((List.range pieces.length).foldl (fun s i => pushNormal s p t (mk i false true)) s) p t advance
      else if ty = 2 && err then dataError (drainThread s p t) p t w a
      else modThread (closeMerges s p t) p t (fun x =>
        let x := { x with stores := x.stores ++ (List.range pieces.length).map (fun i => mk i (decide (ty = 2)) false) }
        if ty = 2 then { x with wait := .strict a } else advance x)
    else modThread s p t (fun x => advance { x with
      stores := x.stores ++ ((List.range pieces.length).map (fun i => mk i false false)).filter (fun st => st.bytes.any Option.isSome) })

/-- STB to STD. -/
def storeInsn (p t : Nat) (err : Bool) (s : State) : State :=
  issue s p t (fun k => k = .store) (fun w => [fD w, fA w])
    (fun s w =>
      let th := getThread s p t
      let n := 2 ^ fOp4 w
      let a := addrM th w
      guarded s p t w a n true false (fun s =>
        putStore s p t w a [(leBytes n (gpr th (fD w)).toNat).map some] err))

/-- STORE. -/
def execStore (p : Fin 1088) (t : Fin 8) (err : Bool) (s : State) : Host.Outcome State Fault Refusal :=
  done (storeInsn p.val t.val err s)

/-- STP: 16 bytes from D and D + 1, one access in the steward's memories; in a window, and on device registers, two pieces of 8 bytes
(R173, R194). -/
def stpInsn (p t : Nat) (err : Bool) (s : State) : State :=
  issue s p t (fun k => k = .stp) (fun w => [fD w, fD w + 1, fA w])
    (fun s w =>
      let th := getThread s p t
      let a := addrM th w
      let lo := (leBytes 8 (gpr th (fD w)).toNat).map some
      let hi := (leBytes 8 (gpr th (fD w + 1)).toNat).map some
      guarded s p t w a 16 true false (fun s =>
        let whole := match resolve s p a with | .ls .. => true | .gm _ => true | _ => false
        putStore s p t w a (if whole then [lo ++ hi] else [lo, hi]) err))

/-- STP. -/
def execStp (p : Fin 1088) (t : Fin 8) (err : Bool) (s : State) : Host.Outcome State Fault Refusal :=
  done (stpInsn p.val t.val err s)

/-- STV: 256 bytes from VD in 32 pieces (R193); lanes off are not written. -/
def stvInsn (p t : Nat) (s : State) : State :=
  issue s p t (fun k => k = .stv) (fun w => [fA w])
    (fun s w =>
      let th := getThread s p t
      let a := addrVm th w
      let pred := vpr th (fVpM w)
      let lane (i : Nat) : List (Option Byte) :=
        let l := leBytes 4 (vlane th (fD w) i).toNat
        if pred.getLsbD i then l.map some else List.replicate 4 none
      guarded s p t w a 256 true true (fun s =>
        putStore s p t w a ((List.range 32).map (fun i => lane (2 * i) ++ lane (2 * i + 1))) false))

/-- STV. -/
def execStv (p : Fin 1088) (t : Fin 8) (s : State) : Host.Outcome State Fault Refusal := done (stvInsn p.val t.val s)

/-- The stores of a thread that may go on now, the oldest on each link (R199). -/
def heads (s : State) (p : Nat) : List Nat → List PendStore → List PendStore
  | _, [] => []
  | seen, st :: rest =>
    let l := storeLink s p st
    if seen.contains l then heads s p seen rest
    else if storeHeld s p st then heads s p (l :: seen) rest
    else st :: heads s p (l :: seen) rest

/-- A store goes on: to the steward's memories it is performed; an outbound one is issued onto its link, and once issued it completes at
its endpoint (Table 8.1, Table 8.3). -/
def storeGoesOn (s : State) (p t : Nat) (st : PendStore) : State :=
  if storeLink s p st = 9 ∨ st.stage = 3 then performIn s p t st
  else modThread s p t (fun x => { x with stores := x.stores.map (fun y => if y = st then { y with stage := 3 } else y) })

/-- The oldest store of a thread goes on, of one link where several have one: which is a free value, as links are not ordered among
themselves (R191, R198, R199). Held stores wait (R205). -/
def storeAcknowledged (p t : Nat) (s : State) : State :=
  match heads s p [] (getThread s p t).stores with
  | [] => s
  | [st] => recheck (storeGoesOn s p t st) p t
  | st :: sts =>
    let (f, s) := drawFree s
    recheck (storeGoesOn s p t ((st :: sts).getD (f.toNat % (sts.length + 1)) st)) p t

/-- STORE_ACKNOWLEDGED. -/
def execStoreAcknowledged (p : Fin 1088) (t : Fin 8) (s : State) : Host.Outcome State Fault Refusal :=
  done (storeAcknowledged p.val t.val s)

/-- The posted write that fails (R204): the oldest issued one that covers the address goes without effect. -/
def dropPosted (s : State) (p t addr : Nat) : State :=
  modThread s p t (fun x => { x with stores := x.stores.eraseP (fun st =>
    st.stage = 3 && !st.strict && decide (st.addr ≤ addr) && decide (addr < st.addr + st.bytes.length)) })

/-- OUTBOUND_WRITE_ERROR: the address of the first failed posted write is kept for FENCE.C or END; each is counted (R204). -/
def execOutboundWriteError (p : Fin 1088) (t : Fin 8) (addr : Nat) (s : State) : Host.Outcome State Fault Refusal :=
  done (if (getThread s p.val t.val).live then
    recheck (modThread (dropPosted (count s 30 (grainOcc s p.val (some addr))) p.val t.val addr) p.val t.val
      (fun x => { x with postErr := some (x.postErr.getD addr) })) p.val t.val
  else s)

/-- When a link stopped being ready. -/
def linkDownSince (s : State) (link : Nat) : Nat := if link = 8 then s.links.u.downSince else (getSpoke s link).downSince

/-- Has an access issued at a time been held on a link for 10 ms (R205). -/
def heldLong (s : State) (link since : Nat) : Bool := max since (linkDownSince s link) + 10000 ≤ s.tick

/-- A copy under way over a link fails: of what it reads there as COPY_ERROR, of what it writes as a failed posted write (R205). -/
def dropCopies (s : State) (p link : Nat) (th : Thread) : Thread :=
  let bad (a : Nat) : Bool := isWindow (resolve s p a) && linkOf (resolve s p a) = link
  let lost := th.copies.filter (fun c => (bad c.src || bad c.dst) && heldLong s link c.since)
  lost.foldl (fun th c =>
    let th := { th with copies := th.copies.erase c }
    if bad c.src then { th with copyErr := some (th.copyErr.getD c.src) }
    else { th with postErr := some (th.postErr.getD c.dst) }) th

/-- Accesses of a thread that a link has held for 10 ms fail (R205): a held load or Device-Strict store raises DATA_ERROR, held posted
writes are discarded and reported. -/
def holdExpire (s : State) (p t link : Nat) : State :=
  let th := getThread s p t
  let due (st : PendStore) : Bool := storeLink s p st = link && heldLong s link st.since
  let lost := th.stores.filter (fun st => due st && !st.strict)
  let strictLost := th.stores.find? (fun st => due st && st.strict)
  let th := dropCopies s p link { th with
    stores := th.stores.filter (fun st => !due st),
    postErr := match th.postErr, lost with | some a, _ => some a | none, st :: _ => some st.addr | none, [] => none }
  let s := lost.foldl (fun s st => count s 30 (grainOcc s p (some st.addr))) s
  let fails (a : Nat) : State := dataError (setThread s p t { th with wait := .ready }) p t (wordAt s p t) a
  match th.wait, strictLost with
  | .held l a since, _ => if l = link ∧ heldLong s link since then fails a else setThread s p t th
  | .strict a, some _ => fails a
  | _, _ => recheck (setThread s p t th) p t

/-- LINK_HOLD_EXPIRY. -/
def execLinkHoldExpiry (link : LinkId) (s : State) : Host.Outcome State Fault Refusal :=
  let l := match link with | .u => 8 | .spoke n => n.val
  let up := if l = 8 then uAccess s = 0 else spokeAccess s l = 0
  done (if up then s else (liveThreads s).foldl (fun s e => holdExpire s e.1 e.2 l) s)

/-! ### Atomics and reservations (Table 7.10) -/

/-- The value an atomic of a kind leaves, on n-byte operands. -/
def atomicNew (k n mem b c : Nat) : Nat :=
  let m := 8 * n
  match k with
  | 0 => (mem + b) % 2 ^ m
  | 1 => mem &&& b
  | 2 => mem ||| b
  | 3 => mem ^^^ b
  | 4 => b
  | 5 => if sext m mem < sext m b then mem else b
  | 6 => if sext m mem < sext m b then b else mem
  | 7 => min mem b
  | 8 => max mem b
  | 9 => if mem = c then b else mem
  | _ => mem

/-- Scalar registers that an atomic reads, by its operation. -/
def atomicRegs (k : Nat) (w : Word) : List Nat :=
  if k = 9 then [fA w, fB w, fC w] else if k = 10 then [fA w] else [fA w, fB w]

/-- Issues class 0x5 with its operation number and checks: an endpoint outside the steward's memories raises ACCESS (R174). -/
def atomicIssue (p t k : Nat) (s : State) (body : State → Word → Nat → Nat → State) : State :=
  issue s p t (fun x => x = .atomic k) (atomicRegs k)
    (fun s w =>
      let a := (gpr (getThread s p t) (fA w)).toNat
      let n := if fFunc w % 2 = 1 then 8 else 4
      match resolve s p a with
      | .ls .. => guarded s p t w a n (k ≠ 10) true (fun s => body (count s 22 (grainOcc s p (some a))) w a n)
      | .gm _ => guarded s p t w a n (k ≠ 10) true (fun s => body (count s 22 (grainOcc s p (some a))) w a n)
      | _ => if a % n ≠ 0 then takeExc s p t 3 w.toNat a else takeExc s p t 2 w.toNat a)

/-- Issues onto their links the outbound stores of a thread that may go (an atomic acts as a FENCE.S, R192). -/
def issueOutbound (s : State) (p t : Nat) : State :=
  modThread s p t (fun x => { x with stores := x.stores.map (fun st => if storeLink s p st = 9 then st else { st with stage := 3 }) })

/-- AADD to ACAS: performed at the endpoint with every earlier store of the thread before it (R192); one that is held keeps the thread
from issuing. A compare that fails writes nothing, and clears the granule's reservations all the same (R175). -/
def atomicInsn (p t k : Nat) (err : Bool) (s0 : State) : State :=
  atomicIssue p t k s0 (fun s w a n => readGuard s p t w a n err (fun s =>
    if heldOn s p t (fun _ => true) then s0
    else
      let s := issueOutbound (drainLinks s p t (fun l => l = 9)) p t
      let tg := resolve s p a
      let s := meet (forceScoped s p t tg n) tg n true
      let th := getThread s p t
      let mem := ofLe (readTarget s tg n)
      let b := (gpr th (fB w)).toNat % 2 ^ (8 * n)
      let c := (gpr th (fC w)).toNat % 2 ^ (8 * n)
      let s := if k = 9 ∧ mem ≠ c then touchRsvs s tg n else writeTarget s tg (leBytes n (atomicNew k n mem b c))
      modThread s p t (fun x => advance (setGpr x (fD w) (BitVec.ofInt 64 (sext (8 * n) mem))))))

/-- AADD. -/
def execAadd (p : Fin 1088) (t : Fin 8) (err : Bool) (s : State) : Host.Outcome State Fault Refusal :=
  done (atomicInsn p.val t.val 0 err s)
/-- AAND. -/
def execAand (p : Fin 1088) (t : Fin 8) (err : Bool) (s : State) : Host.Outcome State Fault Refusal :=
  done (atomicInsn p.val t.val 1 err s)
/-- AOR. -/
def execAor (p : Fin 1088) (t : Fin 8) (err : Bool) (s : State) : Host.Outcome State Fault Refusal :=
  done (atomicInsn p.val t.val 2 err s)
/-- AXOR. -/
def execAxor (p : Fin 1088) (t : Fin 8) (err : Bool) (s : State) : Host.Outcome State Fault Refusal :=
  done (atomicInsn p.val t.val 3 err s)
/-- ASWAP. -/
def execAswap (p : Fin 1088) (t : Fin 8) (err : Bool) (s : State) : Host.Outcome State Fault Refusal :=
  done (atomicInsn p.val t.val 4 err s)
/-- AMIN. -/
def execAmin (p : Fin 1088) (t : Fin 8) (err : Bool) (s : State) : Host.Outcome State Fault Refusal :=
  done (atomicInsn p.val t.val 5 err s)
/-- AMAX. -/
def execAmax (p : Fin 1088) (t : Fin 8) (err : Bool) (s : State) : Host.Outcome State Fault Refusal :=
  done (atomicInsn p.val t.val 6 err s)
/-- AMINU. -/
def execAminu (p : Fin 1088) (t : Fin 8) (err : Bool) (s : State) : Host.Outcome State Fault Refusal :=
  done (atomicInsn p.val t.val 7 err s)
/-- AMAXU. -/
def execAmaxu (p : Fin 1088) (t : Fin 8) (err : Bool) (s : State) : Host.Outcome State Fault Refusal :=
  done (atomicInsn p.val t.val 8 err s)
/-- ACAS. -/
def execAcas (p : Fin 1088) (t : Fin 8) (err : Bool) (s : State) : Host.Outcome State Fault Refusal :=
  done (atomicInsn p.val t.val 9 err s)

/-- Sets a thread's reservation at its endpoint (R195): a full table drops its oldest entry of at least 1024 FCLK cycles; with
none that old, no reservation is set. Commands take no time, so that the eighth attempt in a row finds the oldest entry old enough
(R196, log entry 30). -/
def setRsv (s : State) (p t a : Nat) : State :=
  match granuleOf s p a with
  | none => s
  | some g =>
    let s := dropOwnRsv s p t
    let e := endpointOf g
    let mine := s.garr.rsvs.filter (fun r => endpointOf r.granule = e)
    let add (s : State) : State :=
      let s := { s with garr := { s.garr with rsvs := s.garr.rsvs ++ [⟨g, p, t, s.tick⟩] } }
      modThread s p t (fun x => { x with rsv := some (a / 64), rsvMiss := 0 })
    if mine.length < endpointCap e then add s
    else match mine.find? (fun r => decide (r.since + 2 ≤ s.tick) || decide (7 ≤ (getThread s p t).rsvMiss)) with
      | some r =>
        let s := dropOwnRsv (count s 24 (grainOcc s r.grain)) r.grain r.thread
        add (if e < 1000 then count s 79 {} else s)
      | none => modThread s p t (fun x => { x with rsvMiss := x.rsvMiss + 1 })

/-- LDR.RSV: a load that sets the thread's reservation. -/
def ldrRsvInsn (p t : Nat) (err : Bool) (s : State) : State :=
  atomicIssue p t 10 s (fun s w a n => readGuard s p t w a n err (fun s =>
    let (bs, s) := loadBytes s p t a n
    let s := setRsv s p t a
    modThread s p t (fun x => advance (setGpr x (fD w) (BitVec.ofInt 64 (sext (8 * n) (ofLe bs)))))))

/-- LDR_RSV. -/
def execLdrRsv (p : Fin 1088) (t : Fin 8) (err : Bool) (s : State) : Host.Outcome State Fault Refusal :=
  done (ldrRsvInsn p.val t.val err s)

/-- Does a thread hold a reservation on the granule of an address. -/
def rsvHeld (s : State) (p t a : Nat) : Bool :=
  match granuleOf s p a with
  | none => false
  | some g => s.garr.rsvs.any (fun r => r.granule = g && r.grain = p && r.thread = t)

/-- STC: with the reservation held on the granule it stores, else it fails; the reservation goes (R175, R195, log entry 30). It is
ordered as a store, after the thread's earlier stores to the steward's memories, and as a load where it fails (R192). -/
def stcInsn (p t : Nat) (s0 : State) : State :=
  atomicIssue p t 11 s0 (fun s w a n =>
    if heldOn s p t (fun l => l = 9) then s0
    else
      let tg := resolve s p a
      let s := forceScoped s p t tg n
      let s := if rsvHeld s p t a then drainLinks s p t (fun l => l = 9) else s
      let ok := rsvHeld s p t a
      let s := dropOwnRsv s p t
      let s := if ok then writeTarget (meet s tg n true) tg (leBytes n (gpr (getThread s p t) (fB w)).toNat)
        else count s 23 (grainOcc s p (some a))
      modThread s p t (fun x => advance (setGpr x (fD w) (if ok then 0 else 1))))

/-- STC. -/
def execStc (p : Fin 1088) (t : Fin 8) (s : State) : Host.Outcome State Fault Refusal := done (stcInsn p.val t.val s)

/-! ### Block copies (R176) -/

/-- Is one side of a copy in reach and Normal, over its whole range. -/
def copySide (s : State) (p a n : Nat) (write : Bool) : Nat := if allNormal s p a n then reach s p a n write else 2

/-- BCOPY: its reads and writes follow the thread's earlier accesses (R193). -/
def bcopyInsn (p t : Nat) (s0 : State) : State :=
  issue s0 p t (fun k => k = .copy) (fun w => [fD w, fA w, fB w])
    (fun s w =>
      let th := getThread s p t
      let dst := (gpr th (fD w)).toNat
      let src := (gpr th (fA w)).toNat
      let n := (gpr th (fB w)).toNat
      if src % 64 ≠ 0 then takeExc s p t 3 w.toNat src
      else if dst % 64 ≠ 0 then takeExc s p t 3 w.toNat dst
      else if n % 64 ≠ 0 ∨ 0x100000 < n then takeExc s p t 3 w.toNat 0
      else if n = 0 then retireTo s p t th
      else if !(ownLs s p src n || ownLs s p dst n) then takeExc s p t 2 w.toNat dst
      else
        let rs := copySide s p src n false
        let rd := copySide s p dst n true
        if rs = 2 then takeExc s p t 2 w.toNat src
        else if rd = 2 then takeExc s p t 2 w.toNat dst
        else if rs = 4 then dataError s p t w src
        else if rd = 4 then dataError s p t w dst
        else if rs = 1 then holdAccess s p t src
        else if rd = 1 then holdAccess s p t dst
        else if heldOn s p t (fun l => l = 9) then s0
        else
          let s := drainThread s p t
          modThread s p t (fun x => advance { x with copies := x.copies ++ [{ src := src, dst := dst, len := n, since := s.tick }] }))

/-- BCOPY. -/
def execBcopy (p : Fin 1088) (t : Fin 8) (s : State) : Host.Outcome State Fault Refusal := done (bcopyInsn p.val t.val s)

/-- Is a side of a copy held on a link or a takeover. -/
def copyHeld (s : State) (p : Nat) (c : PendCopy) : Bool :=
  storeHeld s p { addr := c.src, bytes := [] } || storeHeld s p { addr := c.dst, bytes := [] }

/-- The oldest copy of a thread completes: what is left of its pieces is copied, and its lines are counted. A data error, and a failed
line of HBM again (R232), is kept for the thread's next BWAIT or END. A copy over a link that is not ready waits (R205). -/
def bcopyComplete (p t : Nat) (err : Option Nat) (s : State) : State :=
  let th := getThread s p t
  match th.copies with
  | [] => s
  | c :: rest =>
    if copyHeld s p c then s
    else
      let fails (s : State) (a : Nat) : State :=
        modThread (setThread s p t { th with copies := rest }) p t (fun x => { x with copyErr := some (x.copyErr.getD a) })
      recheck (match err, badLineAt s p c.src c.len with
        | some a, _ => fails s a
        | none, some l => fails (failAgain l s) c.src
        | none, none =>
          let s := forceScoped (forceScoped s p t (resolve s p c.src) c.len) p t (resolve s p c.dst) c.len
          let c := (getThread s p t).copies.headD c
          let s := modThread s p t (fun x => { x with copies := x.copies.tail })
          let s := meet (meet s (resolve s p c.src) c.len false) (resolve s p c.dst) c.len true
          count (copyRest s p c c.len) 25 (grainOcc s p (some c.src)) (c.len / 64)) p t

/-- BCOPY_COMPLETE. -/
def execBcopyComplete (p : Fin 1088) (t : Fin 8) (err : Option Nat) (s : State) : Host.Outcome State Fault Refusal :=
  done (bcopyComplete p.val t.val err s)

/-! ### Fences and synchronisation (Table 7.11, Table 8.1) -/

/-- Performs the thread's stores up to the last one of its own local store, as far as none is held. -/
def drainOwn (s : State) (p t : Nat) : State :=
  let sts := openStores s p (fun l => l = 9) [] (getThread s p t).stores
  let last := (List.range sts.length).foldl (fun k i =>
    match sts[i]? with | some st => if storesOwn s p st then i + 1 else k | none => k) 0
  (sts.take last).foldl (fun s st => performIn s p t st) s

/-- FENCE.G and FENCE.B: the thread's stores of its own local store are performed, and its others have entered the mesh port, or passed
the bed router (Table 8.1, log entry 11). -/
def scopedFence (p t kind : Nat) (s : State) : State :=
  issue s p t (fun k => k = .sys kind) (fun _ => [])
    (fun s _ => recheck (modThread (closeMerges (drainOwn s p t) p t) p t (fun x => { x with wait := .fence kind })) p t)

/-- FENCE_G. -/
def execFenceG (p : Fin 1088) (t : Fin 8) (s : State) : Host.Outcome State Fault Refusal := done (scopedFence p.val t.val 0 s)
/-- FENCE_B. -/
def execFenceB (p : Fin 1088) (t : Fin 8) (s : State) : Host.Outcome State Fault Refusal := done (scopedFence p.val t.val 1 s)

/-- FENCE.S and FENCE.C hold the thread until their condition holds. -/
def fullFence (p t kind : Nat) (s : State) : State :=
  issue s p t (fun k => k = .sys kind) (fun _ => [])
    (fun s _ => recheck (modThread (closeMerges s p t) p t (fun x => { x with wait := .fence kind })) p t)

/-- FENCE_S. -/
def execFenceS (p : Fin 1088) (t : Fin 8) (s : State) : Host.Outcome State Fault Refusal := done (fullFence p.val t.val 2 s)
/-- FENCE_C. -/
def execFenceC (p : Fin 1088) (t : Fin 8) (s : State) : Host.Outcome State Fault Refusal := done (fullFence p.val t.val 3 s)

/-- GSYNC (R178). -/
def gsyncInsn (p t : Nat) (s : State) : State :=
  issue s p t (fun k => k = .sys 8) (fun w => [fB w])
    (fun s w =>
      let m := (gpr (getThread s p t) (fB w)).toNat % 256
      if (m >>> t) % 2 = 0 then takeExc s p t 1 w.toNat 0
      else gsyncCheck (modThread s p t (fun x => { x with wait := .gsync m })) p)

/-- GSYNC. -/
def execGsync (p : Fin 1088) (t : Fin 8) (s : State) : Host.Outcome State Fault Refusal := done (gsyncInsn p.val t.val s)

/-- BSYNC (R179): a barrier number above 15 is no barrier and counts as illegal (log entry 27). -/
def bsyncInsn (p t : Nat) (s : State) : State :=
  issue s p t (fun k => k = .sys 9) (fun w => [fA w, fB w])
    (fun s w =>
      let th := getThread s p t
      let k := (gpr th (fA w)).toNat
      let n := (gpr th (fB w)).toNat
      if 4096 < n ∨ 15 < k then takeExc s p t 1 w.toNat 0
      else if n = 0 then retireTo s p t (setGpr th (fD w) 0)
      else
        let b := p / 17
        let x := KMap.get (fun _ => ({} : Barrier)) (getBed s b).barriers k
        let x : Barrier := if x.count = 0 then ⟨n, 1⟩ else { x with count := x.count + 1 }
        let put (s : State) (y : Barrier) : State :=
          modBed s b (fun z => { z with barriers := KMap.set (fun _ => ({} : Barrier)) z.barriers k y })
        let s := setThread s p t { th with wait := .bsync k (fD w) }
        if x.target ≤ x.count then releaseBsync (put s {}) b 0 (some k) else put s x)

/-- BSYNC. -/
def execBsync (p : Fin 1088) (t : Fin 8) (s : State) : Host.Outcome State Fault Refusal := done (bsyncInsn p.val t.val s)

/-- WAIT (R180). Its thread's earlier stores to the steward's memories are performed first (log entry 12). -/
def waitInsn (p t : Nat) (s0 : State) : State :=
  issue s0 p t (fun k => k = .sys 10) (fun w => [fA w, fB w])
    (fun s w =>
      let th := getThread s p t
      let a := (gpr th (fA w)).toNat
      let v := gpr th (fB w)
      if a % 8 ≠ 0 ∨ !ownLs s p a 8 then takeExc s p t 2 w.toNat a
      else if heldOn s p t (fun l => l = 9) then s0
      else
        let (bs, s) := loadBytes (drainLinks s p t (fun l => l = 9)) p t a 8
        let th := getThread s p t
        if ofLe bs ≠ v.toNat then retireTo s p t (setGpr th (fD w) 0)
        else setThread s p t { th with wait := .sleep (a % 0x40000) v (fD w) s.garr.cycles16 })

/-- WAIT. -/
def execWait (p : Fin 1088) (t : Fin 8) (s : State) : Host.Outcome State Fault Refusal := done (waitInsn p.val t.val s)

/-- A sleeping thread wakes with D = 1 after 65 536 cycles. -/
def waitTimeout (p t : Nat) (s : State) : State :=
  let th := getThread s p t
  match th.wait with
  | .sleep _ _ reg since =>
    if 65536 ≤ grainCycles s since then retireTo s p t { setGpr th reg 1 with wait := .ready } else s
  | _ => s

/-- WAIT_TIMEOUT. -/
def execWaitTimeout (p : Fin 1088) (t : Fin 8) (s : State) : Host.Outcome State Fault Refusal :=
  done (waitTimeout p.val t.val s)

/-- BWAIT n (R176). -/
def bwaitInsn (p t : Nat) (s : State) : State :=
  issue s p t (fun k => k = .sys 11) (fun _ => [])
    (fun s w => recheck (modThread s p t (fun x => { x with wait := .bwait (fC w) })) p t)

/-- BWAIT. -/
def execBwait (p : Fin 1088) (t : Fin 8) (s : State) : Host.Outcome State Fault Refusal := done (bwaitInsn p.val t.val s)

/-! ### System registers, exceptions' return, BRK and END -/

/-- The four flags of a tile: INV, OVF, NARROW, SAT from high to low (Table 7.14). -/
def tileFlagsOf (x : Tile) : Nat := b2n x.sat + 2 * b2n x.narrow + 4 * b2n x.ovf + 8 * b2n x.inv
/-- TFLAGS. -/
def tflags (g : Grain) : Nat := (List.range 4).foldl (fun n i => n + tileFlagsOf (getTile g i) * 2 ^ (4 * i)) 0

/-- GCLK cycles since the start of a grain's launch, as the beds' clock counts them (R187, R301, log entry 18). -/
def launchCycles (s : State) (p : Nat) : Nat :=
  match grainLaunch s p with
  | some l => grainCycles s l.cycles
  | none => 0

/-- SYSR (Table 7.14): TFLAGS waits for the tile instructions of the grain (R171). -/
def sysrInsn (p t : Nat) (s0 : State) : State :=
  issue s0 p t (fun k => k = .sys 0x10) (fun _ => [])
    (fun s w =>
      let th := getThread s p t
      let g := getGrain s p
      let ret (s : State) (v : Dword) : State := retireTo s p t (setGpr th (fD w) v)
      match fC w with
      | 0 => ret s (BitVec.ofNat 64 t)
      | 1 => ret s (BitVec.ofNat 64 (launchCycles s p))
      | 2 => ret s th.xvec
      | 3 => ret s (if th.xactive then 1 else 0)
      | 4 => if g.queue.isEmpty then ret s (BitVec.ofNat 64 (tflags g)) else s0
      | 5 => ret s (BitVec.ofNat 64 (copyPending th))
      | 6 => ret s (match th.rsv with | some r => BitVec.ofNat 64 (r * 64 + 1) | none => 0)
      | _ => ret s 0)

/-- SYSR. -/
def execSysr (p : Fin 1088) (t : Fin 8) (s : State) : Host.Outcome State Fault Refusal := done (sysrInsn p.val t.val s)

/-- SYSW: XVEC alone; any other index raises ILLEGAL (R187). -/
def syswInsn (p t : Nat) (s : State) : State :=
  issue s p t (fun k => k = .sys 0x11) (fun w => [fA w])
    (fun s w =>
      let th := getThread s p t
      if fC w = 2 then retireTo s p t { th with xvec := gpr th (fA w) } else takeExc s p t 1 w.toNat 0)

/-- SYSW. -/
def execSysw (p : Fin 1088) (t : Fin 8) (s : State) : Host.Outcome State Fault Refusal := done (syswInsn p.val t.val s)

/-- XRET (R182). -/
def xretInsn (p t : Nat) (s : State) : State :=
  issue s p t (fun k => k = .sys 0x18) (fun _ => [])
    (fun s w =>
      if !(getThread s p t).xactive then takeExc s p t 1 w.toNat 0
      else
        let s := drainThread s p t
        let base := frameBase t
        let pc := BitVec.ofNat 64 (ofLe (lsRead s p (base + 8) 8))
        let g31 := BitVec.ofNat 64 (ofLe (lsRead s p (base + 0x18) 8))
        modThread s p t (fun x => { setGpr x 31 g31 with xactive := false, pc := pc }))

/-- XRET. -/
def execXret (p : Fin 1088) (t : Fin 8) (s : State) : Host.Outcome State Fault Refusal := done (xretInsn p.val t.val s)

/-- BRK. -/
def brkInsn (p t : Nat) (s : State) : State :=
  issue s p t (fun k => k = .sys 0x19) (fun _ => []) (fun s w => takeExc s p t 6 w.toNat 0)

/-- BRK. -/
def execBrk (p : Fin 1088) (t : Fin 8) (s : State) : Host.Outcome State Fault Refusal := done (brkInsn p.val t.val s)

/-- END: the thread ends once its tile instructions and copies complete. -/
def endInsn (p t : Nat) (s : State) : State :=
  issue s p t (fun k => k = .sys 0x1A) (fun _ => [])
    (fun s _ => recheck (modThread s p t (fun x => { x with wait := .ending })) p t)

/-- END. -/
def execEndThread (p : Fin 1088) (t : Fin 8) (s : State) : Host.Outcome State Fault Refusal := done (endInsn p.val t.val s)

end Sys2Proof.Machine
end

