-- ==== Sys2Proof/Machine/Ingest.lean ====
section
/-! DEFINITION. STRATUM_INGEST, admission windows, and the batch: its phases, re-runs and commit (R223 to R231). Where Daxrin
places buffers in Loam is its own choice (log entry 34). -/

namespace Sys2Proof.Machine

/-! ### Admission (R223 to R225) -/

/-- Bytes of one layer of n tokens of a shape. -/
def layerBytes (h : Shape) (n : Nat) : Nat := n * (2 * h.kvHeads * h.headDim * dtypeBytes h.dtype)

/-- Tokens of a partial last block, 0 where the last block is full. -/
def partialTokens (tokens : Nat) : Nat := tokens % 256

/-- Tokens of each new block of a session that adds `new` tokens to `old` (R211): the first takes a partial block's old
tokens with it. -/
def newBlocks (old new : Nat) : List Nat :=
  let total := partialTokens old + new
  (List.range (blockCount total)).map (blockTokens total)

/-- Bytes reserved for the activations and token IDs of n rows, with the room to align the IDs. -/
def rowBytes (m : ModelSlot) (n : Nat) : Nat := n * (m.actBytes + 4) + 64

/-- Checks 1 to 4 of R223. -/
def ingestRefusal (s : State) (c : Cmd) (r : Stratum) : Option Result :=
  let slot := c.f 0x10 1
  let m := getModel s slot
  let n := c.f 0x14 4
  let new := if c.f 0x11 1 % 2 = 1 then n else n - 1
  match homeRefusal r (r.home = .steward) with
  | some x => some x
  | none =>
    if !m.loaded then some (refuse .notPermitted 5 0x05)
    else if r.shape ≠ m.shape then some (refuse .badParam 5 0x01)
    else if r.slot ≠ 0xFF ∧ r.slot ≠ slot then some (refuse .badParam 5 0x04)
    else if 65536 < n ∨ m.maxTokens < r.tokens + new ∨ 1048576 < r.tokens + new then some (refuse .badParam 5 0x02)
    else none

/-- The open window of a slot that n more tokens join (R224). -/
def joined (s : State) (slot n : Nat) : Option Window :=
  match getWindow s slot with
  | some w => if 65536 < w.sessions.foldl (fun k x => k + x.ingested) 0 + n then none else some w
  | none => none

/-- Tokens of a window. -/
def windowTokens (w : Window) : Nat := w.sessions.foldl (fun n x => n + x.ingested) 0

/-- A window closes into a batch (R224). -/
def closeWindow (s : State) (w : Window) (event : Nat) : State :=
  let s := count (setWindow s w.slot none) event {}
  { s with strata := { s.strata with queue := s.strata.queue ++ [w] } }

/-- Reserves the rows of a window that n more tokens join, in one extent for all of them (R223): its place, or none where HBM has no
room. The rows hold nothing before the batch starts, so that the extent may move. -/
def reserveRows (s : State) (m : ModelSlot) (w : Option Window) (cmd n : Nat) : Option (Nat × State) :=
  let (id, before) := match w with | some w => (w.id, windowTokens w) | none => (cmd, 0)
  allocate (freeKey s 2 id) 2 id (unitsOf (rowBytes m (before + n)))

/-- Admits a session into its slot's open window (R224), whose rows lie at `rowsAt`. -/
def addSession (s : State) (slot : Nat) (x : Session) (rowsAt : Nat) : State :=
  let s := match getWindow s slot with
    | some w => if 65536 < windowTokens w + x.ingested then closeWindow s w 131 else s
    | none => s
  let w : Window := match getWindow s slot with
    | some w => { w with sessions := w.sessions ++ [x], rowsAt := rowsAt }
    | none => { id := x.cmd, rowsAt := rowsAt, slot := slot, opened := s.tick, lengthUs := cfgF s 0x400004 15 0, maxSessions := cfgF s 0x400008 8 0,
                sessions := [x] }
  let s := count (count s 128 { tenant := x.tenant }) 134 { tenant := x.tenant } x.heldBack
  if w.maxSessions ≤ w.sessions.length then closeWindow s w 130
  else if w.lengthUs = 0 then closeWindow s w 129
  else setWindow s slot (some w)

/-- STRATUM_INGEST from step 10. -/
def ingestBody (s : State) (c : Cmd) : State :=
  match findRec s c.handle with
  | none => completeMove s c noHandle
  | some r =>
    match ingestRefusal s c r with
    | some x => complete s c.seq x
    | none =>
      let slot := c.f 0x10 1
      let m := getModel s slot
      let n := c.f 0x14 4
      let new := if c.f 0x11 1 % 2 = 1 then n else n - 1
      if new = 0 then complete s c.seq (okR (2 ^ 32) r.tokens)
      else if (currentCopy s r.root).isNone then rootBad s r.handle c
      else
        let bs := newBlocks r.tokens new
        let old := if r.mode = 0 then [] else [unitsOf (layerBytes r.shape r.tokens)]
        match allocateAll s 3 c.seq (bs.map (fun k => unitsOf (k * r.shape.tokenBytes)) ++ old) with
        | none => complete s c.seq { status := .noSpace }
        | some (as, u) =>
          match reserveRows u m (joined u slot new) c.seq new with
          | none => complete s c.seq { status := .noSpace }
          | some (rowsAt, u) =>
            let k := bs.length
            let x : Session := {
              cmd := c.seq, tenant := c.tenant, handle := c.handle, ingested := new, heldBack := n - new, buf := c.f 0x18 8,
              blocks := List.zip (as.take k) bs, oldStage := as.getD k 0 }
            addSession (setPending u c.handle 0x12) slot x rowsAt

/-- STRATUM_INGEST. -/
def execStratumIngest (c : Nat) (s : State) : Host.Outcome State Fault Refusal :=
  done (startCmd s c 0x12 none modelDoms (fun s _ => s.therm.latch.getLsbD 8) ingestBody)

/-- WINDOW_CLOSE: the window's length has passed. -/
def windowClose (slot : Nat) (s : State) : State :=
  match getWindow s slot with
  | some w => if w.opened + w.lengthUs ≤ s.tick then closeWindow s w 129 else s
  | none => s

/-- WINDOW_CLOSE. -/
def execWindowClose (slot : Fin 4) (s : State) : Host.Outcome State Fault Refusal := done (windowClose slot.val s)

/-! ### Descriptors (R227) -/

/-- The Loam address of weight buffer k. -/
def weightBuf (k : Nat) : Nat := Config.loamBase + k * 0x4000000
/-- Where the batch descriptor lies. -/
def descAt : Nat := Config.loamBase + 0x8000000
/-- Where the run tables lie. -/
def runsAt : Nat := Config.loamBase + 0x8010000
/-- First address of the kernel reserve of Loam (R139). -/
def loamEnd (s : State) : Nat := Config.loamBase + Config.loamBytes - min Config.loamBytes (cfgF s 0x300020 24 16 * 0x100000)
/-- Where the kernel's scratch lies: after run tables of n bytes. -/
def scratchAt (n : Nat) : Nat := runsAt + roundUp n 0x100
/-- Bytes of scratch: up to the kernel reserve of Loam. -/
def scratchLen (s : State) (n : Nat) : Nat := loamEnd s - scratchAt n

/-- A run entry (Table 9.11). -/
def runBytes (addr n t0 cnt : Nat) : List Byte := leBytes 8 addr ++ leBytes 2 n ++ leBytes 2 t0 ++ leBytes 2 cnt ++ [0, 0]

/-- Runs of a session's old tokens in a layer: its blocks, or decoded staging. -/
def oldRuns (r : Stratum) (layer stage : Nat) : List BlockEntry → Nat → List (List Byte)
  | [], _ => []
  | e :: es, off =>
    let n := layerBytes r.shape e.tokens
    runBytes (if r.mode = 0 then e.addr + layer * n else stage + off) e.tokens 0 e.tokens :: oldRuns r layer stage es (off + n)

/-- Runs of a session's new tokens in a layer. -/
def newRuns (h : Shape) (layer k0 : Nat) : List (Nat × Nat) → List (List Byte)
  | [] => []
  | (a, k) :: bs => runBytes (a + layer * layerBytes h k) k k0 (k - k0) :: newRuns h layer 0 bs

/-- A session entry (Table 9.10) and its run tables, which lie at `at`. -/
def sessionEntry (s : State) (layer place : Nat) (x : Session) : List Byte × List Byte :=
  match findRec s x.handle with
  | none => (List.replicate 64 0, [])
  | some r =>
    let olds := if layer = 0xFFFF then [] else oldRuns r layer x.oldStage (recTable s r) 0
    let news := if layer = 0xFFFF then [] else newRuns r.shape layer (partialTokens r.tokens) x.blocks
    (leBytes 4 r.tokens ++ leBytes 4 x.ingested ++ leBytes 4 x.row0 ++ leBytes 2 olds.length
      ++ leBytes 1 (b2n x.excluded) ++ leBytes 1 news.length ++ leBytes 8 place ++ leBytes 8 (place + 16 * olds.length)
      ++ List.replicate 32 0,
     olds.flatten ++ news.flatten)

/-- All session entries and run tables of a batch. -/
def sessionEntries (s : State) (layer : Nat) : List Session → Nat → List Byte × List Byte
  | [], _ => ([], [])
  | x :: xs, place =>
    let (e, t) := sessionEntry s layer place x
    let r := sessionEntries s layer xs (place + t.length)
    (e ++ r.1, t ++ r.2)

/-- Does what a batch stages in Loam lie below the kernel reserve (R139): the weight buffers, the descriptor and the run tables, which
are the longest in the layers. -/
def loamFits (s : State) (xs : List Session) : Bool :=
  decide (descAt + 64 + 64 * xs.length ≤ runsAt) && decide (scratchAt (sessionEntries s 0 xs runsAt).2.length ≤ loamEnd s)

/-- Writes the batch descriptor for a launch (Table 9.9). -/
def writeDesc (s : State) (b : Batch) (m : ModelSlot) (wLen wAddr : Nat) : State :=
  let (es, ts) := sessionEntries s b.layer b.win.sessions runsAt
  let shared := match sectionOf m 4 0 with | some (a, _) => a | none => 0
  let h := leBytes 2 b.layer ++ leBytes 1 b.phase ++ leBytes 1 b.win.slot ++ leBytes 2 b.win.sessions.length ++ [0, 0]
    ++ leBytes 4 b.rows ++ leBytes 4 wLen ++ leBytes 8 wAddr ++ leBytes 8 b.actAt ++ leBytes 8 shared
    ++ leBytes 8 (scratchAt ts.length) ++ leBytes 4 (scratchLen s ts.length) ++ [0, 0, 0, 0] ++ leBytes 8 b.idsAt
  agentWrite (agentWrite s runsAt ts) descAt (h ++ es)

/-! ### Internal launches (R142, R226) -/

/-- Stores the running batch. -/
def setBatch (s : State) (b : Option Batch) : State := { s with strata := { s.strata with batch := b } }

/-- Starts an internal launch of the running batch on every bed of the internal pool; with no usable grain there the batch
fails (R231). -/
def internalLaunch (s : State) (b : Batch) (image : List Byte) (items : Nat) (todo : Option (List Nat)) : State :=
  let beds := (internalPool s).filter (fun x => (getBed s x).holder.isNone)
  if usableIn s beds = [] then failBatch s .grainFault
  else
    let l : Launch := {
      id := s.garr.nextLaunch, cmd := none, tenant := 65, qp := 0, cmdId := 0, kslot := 0xFF, image := image, beds := beds,
      items := items, args := BitVec.ofNat 64 descAt, failmap := 0, todo := todo, seq := s.garr.launchSeq + 1,
      start := s.tick }
    startLaunch (setBatch s (some { b with launch := some l.id, redo := [] })) l

/-! ### The prologue (R226 item 1) -/

/-- A session leaves its batch with a result, its stratum unchanged. -/
def leaveBatch (s : State) (x : Session) (r : Result) : State := complete (freeSession s x) x.cmd r

/-- Gives rows to sessions in order. -/
def giveRows : List Session → Nat → List Session
  | [], _ => []
  | x :: xs, n => { x with row0 := n } :: giveRows xs (n + x.ingested)

/-- Token t of run r among `n` in export layout of a shape: places the `k` tokens of a block among the first of an n-token
block, the rest 0. -/
def widen (h : Shape) (k n : Nat) (bs : List Byte) : List Byte :=
  let u := h.headDim * dtypeBytes h.dtype
  (chunks (k * u) bs).flatMap (fun run => run ++ List.replicate ((n - k) * u) 0)

/-- A failed line of a block, which a read of the block meets again (R232). -/
def failedLine (s : State) (e : BlockEntry) : Option Nat :=
  s.strata.badLines.find? (fun l => decide (l < e.addr + e.len) && decide (e.addr < l + 64))

/-- Copies a partial last block forward into the session's first new block (R211); a line of it that failed fails again, and the
session's INGEST with it (R232). -/
def copyForward (s : State) (x : Session) : Session × State :=
  match findRec s x.handle with
  | none => (x, s)
  | some r =>
    if partialTokens r.tokens = 0 then (x, s)
    else match (recTable s r).getLast?, x.blocks with
      | some e, (a, k) :: _ =>
        (match failedLine s e with
        | some l => ({ x with ue := true }, reportUe s l r.handle)
        | none =>
          let old := decodeBlock r.shape e.bmode e.tokens (rotation s (getModel s r.slot) r.shape) (gmRead s e.addr e.len)
          (x, agentWrite s a (widen r.shape e.tokens k old)))
      | _, _ => (x, s)

/-- A step of each session in order. -/
def eachSession (f : State → Session → Session × State) : List Session → State → List Session × State
  | [], s => ([], s)
  | x :: xs, s =>
    let (y, s) := f s x
    let r := eachSession f xs s
    (y :: r.1, r.2)

/-- Sessions that stay after their IDs are read and checked against VOCAB; the others complete. `dmaBad`: the commands whose read
fails, with the bus address that failed (R85). -/
def readIds (dmaBad : List (Nat × Nat)) (m : ModelSlot) : List Session → State → List Session × State
  | [], s => ([], s)
  | x :: xs, s =>
    let n := x.ingested + x.heldBack
    let ids := (List.range n).map (fun i => leAt (hostRead s (x.buf + 4 * i) 4) 0 4)
    match dmaBad.find? (fun e => e.1 = x.cmd) with
    | some e => readIds dmaBad m xs (leaveBatch s x (dmaReadErr e.2))
    | none =>
      if ids.any (fun i => m.vocab ≤ i) then
        readIds dmaBad m xs (leaveBatch (count s 143 { tenant := x.tenant }) x (refuse .badParam 5 0x03))
      else
        let r := readIds dmaBad m xs s
        (x :: r.1, r.2)

/-- Starts the batch of a window: IDs, rows, activations, copies forward, and the prologue kernel with one item (log entry
33). With no room for its staging below the kernel reserve of Loam, its sessions complete NO_SPACE (log entry 34). -/
def startBatch (dmaBad : List (Nat × Nat)) (s : State) (w : Window) : State :=
  let m := getModel s w.slot
  let (live, s) := readIds dmaBad m w.sessions s
  let xs := giveRows live 0
  let rows := windowTokens { w with sessions := xs }
  let s := count (count s 132 {}) 133 {} rows
  if xs = [] then freeRows s w
  else if !loamFits s xs then failSessions (freeRows s w) xs .noSpace
  else
    let ids := w.rowsAt + roundUp (rows * m.actBytes) 64
    let s := xs.foldl (fun s x => agentWrite s (ids + 4 * x.row0) (hostRead s x.buf (4 * x.ingested))) s
    let (xs, s) := eachSession copyForward xs s
    let b : Batch := { win := { w with sessions := xs }, layer := 0xFFFF, phase := 0, idsAt := ids, actAt := w.rowsAt, rows := rows }
    let s := setBatch s (some b)
    internalLaunch (count (writeDesc s b m 0 0) 135 {}) b m.prologue 1 none

/-- BATCH_START: the next queued batch, once none runs; under a set die latch its sessions complete THERMAL_HOLD, and where the
operation cannot run any more (R29, R216) they are refused as at the start of the command. -/
def batchStart (dmaBad : List (Nat × Nat)) (s : State) : State :=
  match s.strata.batch, s.strata.queue with
  | none, w :: ws =>
    let s := { s with strata := { s.strata with queue := ws } }
    if s.therm.latch.getLsbD 8 then failSessions (freeRows s w) w.sessions .thermalHold
    else match firstNotOn s (4 :: (hbmDoms ++ loamDoms)) with
      | some d => failSessionsR (freeRows s w) w.sessions (refuse .notPermitted 4 d)
      | none =>
        if (getModel s w.slot).loaded then startBatch dmaBad s w else failSessions (freeRows s w) w.sessions .notPermitted
  | _, _ => s

/-- BATCH_START. -/
def execBatchStart (dmaBad : List (Nat × Nat)) (s : State) : Host.Outcome State Fault Refusal := done (batchStart dmaBad s)

/-! ### Phases (R226 items 2 and 3) -/

/-- The layer and phase after the one that has run; none after the last. -/
def nextPhase (m : ModelSlot) (b : Batch) : Option (Nat × Nat) :=
  if b.layer = 0xFFFF then (if m.phases = [] then none else some (0, 0))
  else if b.phase + 1 < m.phases.length then some (b.layer, b.phase + 1)
  else if b.layer + 1 < m.shape.layers then some (b.layer + 1, 0)
  else none

/-- Excludes the sessions of which a line has failed in this batch (R232). -/
def excludeBad (xs : List Session) : List Session × Nat :=
  let ys := xs.map (fun x => if x.ue then { x with excluded := true } else x)
  (ys, (ys.filter (fun y => y.excluded)).length - (xs.filter (fun x => x.excluded)).length)

/-- The built-in decode phase of a session: its old tokens of a layer in export layout (R226 item 2). A failed line fails again
(R232). -/
def decodeOld (layer : Nat) (s : State) (x : Session) : Session × State :=
  match findRec s x.handle with
  | none => (x, s)
  | some r =>
    let tab := recTable s r
    if r.mode = 0 ∨ x.excluded ∨ x.ue then (x, s)
    else match tab.findSome? (failedLine s) with
      | some l => ({ x with ue := true }, reportUe s l r.handle)
      | none => (x, (tab.foldl (fun (p : State × Nat) e =>
          let n := layerBytes r.shape e.tokens
          let bs := decodeBlock r.shape e.bmode e.tokens (rotation s (getModel s r.slot) r.shape) (gmRead s e.addr e.len)
          (agentWrite p.1 p.2 ((bs.drop (layer * n)).take n), p.2 + n)) (s, x.oldStage)).1)

/-- The sessions of a batch before the launch of a phase: at a layer's first one, the decode phase runs. -/
def oldTokens (layer phase : Nat) (xs : List Session) (s : State) : List Session × State :=
  if phase = 0 then eachSession (decodeOld layer) xs s else (xs, s)

/-- The next phase of the running batch starts. -/
def phaseLaunch (s : State) : State :=
  match s.strata.batch with
  | none => s
  | some b =>
    let m := getModel s b.win.slot
    if b.launch.isSome ∨ b.redo ≠ [] then s
    else match nextPhase m b with
      | none => s
      | some (layer, phase) =>
        let (w, l, items) := m.phases.getD phase (0, 0, 1)
        let (xs, s) := oldTokens layer phase b.win.sessions s
        let (xs, k) := excludeBad xs
        let s := count s 138 {} k
        let buf := weightBuf ((layer * m.phases.length + phase) % 2)
        let s := match sectionOf m 5 layer with
          | some (a, _) => if l = 0 then s else agentWrite s buf (gmRead s (a + w) l)
          | none => s
        let s := count s 139 {} (l / 64)
        let b := { b with win := { b.win with sessions := xs }, layer := layer, phase := phase, failures := [] }
        let s := setBatch s (some b)
        internalLaunch (count (writeDesc s b m l (if l = 0 then 0 else buf)) 135 {}) b m.layerKernel items none

/-- PHASE_LAUNCH. -/
def execPhaseLaunch (s : State) : Host.Outcome State Fault Refusal := done (phaseLaunch s)

/-- ITEM_RERUN: a launch of the failed item numbers only (R231). -/
def itemRerun (s : State) : State :=
  match s.strata.batch with
  | none => s
  | some b =>
    let m := getModel s b.win.slot
    if b.launch.isSome ∨ b.redo = [] then s
    else
      let (img, items) := if b.layer = 0xFFFF then (m.prologue, 1)
        else (m.layerKernel, (m.phases.getD b.phase (0, 0, 1)).2.2)
      internalLaunch (count s 136 {} b.redo.length) b img items (some b.redo)

/-- ITEM_RERUN. -/
def execItemRerun (s : State) : Host.Outcome State Fault Refusal := done (itemRerun s)

/-! ### Commit (R226 item 4, R229) -/

/-- The tokens from t0 on of an n-token block in export layout, as a block of their own. -/
def tailTokens (h : Shape) (n t0 : Nat) (bs : List Byte) : List Byte :=
  let u := h.headDim * dtypeBytes h.dtype
  (chunks (n * u) bs).flatMap (fun run => run.drop (t0 * u))

/-- Mode 2 bytes of old tokens and new ones, vector run by vector run (Table 9.3). -/
def mergeRuns (v k0 k1 : Nat) (old new : List Byte) : List Byte :=
  (List.zipWith (· ++ ·) (chunks (k0 * v) old) (chunks (k1 * v) new)).flatten

/-- Packs a new block of k tokens from its export layout, with the partial block it copied forward, if any. -/
def packNew (s : State) (r : Stratum) (old : Option BlockEntry) (k : Nat) (bs : List Byte) : Nat × List Byte :=
  let h := r.shape
  let rots := rotation s (getModel s r.slot) h
  match old with
  | some e =>
    if r.mode = 2 ∧ e.bmode = 2 then
      let k1 := k - e.tokens
      match encode2 h k1 rots (tailTokens h k e.tokens bs) with
      | some n => (2, mergeRuns (h.headDim / 32 * 17) e.tokens k1 (gmRead s e.addr e.len) n)
      | none => (0, bs)
    else encodeBlock h r.mode k rots bs
  | none => encodeBlock h r.mode k rots bs

/-- Packs a session's new blocks in place: their entries. -/
def packBlocks (r : Stratum) : Option BlockEntry → List (Nat × Nat) → State → List BlockEntry × State
  | _, [], s => ([], s)
  | old, (a, k) :: bs, s =>
    let p := packNew s r old k (gmRead s a (k * r.shape.tokenBytes))
    let s := if r.mode = 0 then s else shrinkExt (agentWrite s a p.2) a (unitsOf p.2.length)
    let q := packBlocks r none bs s
    (⟨a, p.2.length, k, p.1⟩ :: q.1, q.2)

/-- Commits one session: a new generation of its stratum, and its completion (R211, R229). -/
def commitSession (s : State) (x : Session) : State :=
  match findRec s x.handle with
  | none => freeSession s x
  | some r =>
    if x.excluded ∨ x.ue then leaveBatch s x { status := .dataError }
    else match currentCopy s r.root with
      | none => complete (loseRec (freeSession s x) r.handle) x.cmd (refuse .dataError 5 0x06)
      | some (k, hdr) =>
        let tab := currentTable s r.root k hdr
        let partialE := if partialTokens r.tokens = 0 then none else tab.getLast?
        let (news, s) := packBlocks r partialE x.blocks s
        let s := freeWhere s 3 x.cmd (fun a => !(x.blocks.map (·.1)).contains a)
        let s := rekey s 3 x.cmd 0 x.handle
        let tab' := (if partialE.isNone then tab else tab.dropLast) ++ news
        let r' := { r with
          tokens := r.tokens + x.ingested, stored := tab'.foldl (fun n e => n + e.len) 0,
          generation := headerGen hdr + 1, copy := if r.copy = .current then .stale else r.copy, pending := 0 }
        let s := putRec (commitRoot s r' (1 - k) r'.generation tab') r'
        let s := match partialE with | some e => freeAt s e.addr | none => s
        let s := ltAdd (count s 142 { tenant := x.tenant }) 35 x.ingested
        complete s x.cmd (okR (x.ingested + 2 ^ 32 * x.heldBack) r'.tokens)

/-- BATCH_COMMIT: after the last layer, the sessions commit in admission order and the batch ends. -/
def batchCommit (s : State) : State :=
  match s.strata.batch with
  | none => s
  | some b =>
    if b.launch.isSome ∨ b.redo ≠ [] ∨ b.layer = 0xFFFF ∨ (nextPhase (getModel s b.win.slot) b).isSome then s
    else freeRows (b.win.sessions.foldl commitSession (setBatch s none)) b.win

/-- BATCH_COMMIT. -/
def execBatchCommit (s : State) : Host.Outcome State Fault Refusal := done (batchCommit s)

end Sys2Proof.Machine
end

