-- ==== Sys2Proof/Machine/Isa.lean ====
section
/-! DEFINITION. Scalar operations, branches and vector operations of the grains (R164, Tables 7.3 to 7.5). -/

namespace Sys2Proof.Machine

/-! ### Scalar operations (Table 7.3) -/

/-- A 32-bit result, sign-extended to 64 bits (R164). -/
def signW (v : Nat) : Dword := BitVec.ofInt 64 (sext 32 v)

/-- A shift: kind 0 left, 1 right, 2 arithmetic right, of an n-bit value. An amount of n or more has no stated result (log
entry 28). -/
def shiftN (kind n v amt : Nat) : Nat :=
  if n ≤ amt then Config.shiftOver kind n v amt % 2 ^ n
  else if kind = 0 then (v <<< amt) % 2 ^ n
  else if kind = 1 then (v % 2 ^ n) >>> amt
  else wrapInt n ((sext n v) / (2 ^ amt : Int))

/-- Leading zeros of a 64-bit value. -/
def clz64 (v : Nat) : Nat := 64 - bitLen (v % 2 ^ 64)
/-- Trailing zeros of a 64-bit value. -/
def ctz64 (v : Nat) : Nat := ((List.range 64).find? (fun i => v.testBit i)).getD 64

/-- Is an operation of the immediate class. -/
def scalarImm : ScalarOp → Bool
  | .addi | .andi | .ori | .xori | .shli | .shri | .sari | .slti | .build => true
  | _ => false

/-- Scalar registers that an operation reads. -/
def scalarRegs (op : ScalarOp) (w : Word) : List Nat :=
  match op with
  | .illegal => []
  | .sel => [fA w, fB w, fC w]
  | .clz | .ctz | .popc => [fA w]
  | _ => if scalarImm op then [fA w] else [fA w, fB w]

/-- Result of a scalar operation on A, B, C and the signed IMM14 (Table 7.3). -/
def scalarEval (op : ScalarOp) (a b c : Dword) (imm : Int) : Dword :=
  let ai := a.toInt
  let bi := b.toInt
  let i : Dword := BitVec.ofInt 64 imm
  let sh (kind n v amt : Nat) : Dword := if n = 64 then BitVec.ofNat 64 (shiftN kind 64 v amt) else signW (shiftN kind 32 v amt)
  match op with
  | .add => a + b
  | .sub => a - b
  | .and => a &&& b
  | .or => a ||| b
  | .xor => a ^^^ b
  | .addW => signW (a + b).toNat
  | .subW => signW (a - b).toNat
  | .addi => a + i
  | .andi => a &&& i
  | .ori => a ||| i
  | .xori => a ^^^ i
  | .shl => sh 0 64 a.toNat b.toNat
  | .shr => sh 1 64 a.toNat b.toNat
  | .sar => sh 2 64 a.toNat b.toNat
  | .shlW => sh 0 32 a.toNat b.toNat
  | .shrW => sh 1 32 a.toNat b.toNat
  | .sarW => sh 2 32 a.toNat b.toNat
  | .shli => sh 0 64 a.toNat i.toNat
  | .shri => sh 1 64 a.toNat i.toNat
  | .sari => sh 2 64 a.toNat i.toNat
  | .slt => if ai < bi then 1 else 0
  | .sltu => if a.toNat < b.toNat then 1 else 0
  | .min => if ai < bi then a else b
  | .max => if ai < bi then b else a
  | .minu => if a.toNat < b.toNat then a else b
  | .maxu => if a.toNat < b.toNat then b else a
  | .slti => if ai < imm then 1 else 0
  | .sel => if c ≠ 0 then a else b
  | .clz => BitVec.ofNat 64 (clz64 a.toNat)
  | .ctz => BitVec.ofNat 64 (ctz64 a.toNat)
  | .popc => BitVec.ofNat 64 (popCount 64 a.toNat)
  | .build => (a <<< 14) ||| BitVec.ofNat 64 (wrapInt 14 imm)
  | .mul => a * b
  | .mulh => BitVec.ofInt 64 (ai * bi / (2 ^ 64 : Int))
  | .mulhu => BitVec.ofNat 64 (a.toNat * b.toNat / 2 ^ 64)
  | .mulW => signW (a * b).toNat
  | .illegal => 0

/-- Scalar ALU: the row's operation stands for FUNC or FUNC4, which the spec does not number (log entry 10); `illegal` is a
word with a reserved FUNC. -/
def scalarAlu (p t : Nat) (op : ScalarOp) (s : State) : State :=
  issue s p t (fun k => if op = .illegal then k = .scalarR || k = .scalarI
                        else if scalarImm op then k = .scalarI else k = .scalarR)
    (scalarRegs op)
    (fun s w =>
      if op = .illegal then takeExc s p t 1 w.toNat 0
      else
        let th := getThread s p t
        let v := scalarEval op (gpr th (fA w)) (gpr th (fB w)) (gpr th (fC w)) (sext 14 (bf w 13 0))
        retireTo s p t (setGpr th (fD w) v))

/-- SCALAR_ALU. -/
def execScalarAlu (p : Fin 1088) (t : Fin 8) (op : ScalarOp) (s : State) : Host.Outcome State Fault Refusal :=
  done (scalarAlu p.val t.val op s)

/-- Result of a division (R164): by zero all ones and the dividend; signed division truncates (log entry 29). -/
def divEval (op : DivOp) (a b : Dword) : Dword :=
  match op with
  | .div => if b = 0 then BitVec.allOnes 64 else BitVec.ofInt 64 (Int.tdiv a.toInt b.toInt)
  | .divu => if b = 0 then BitVec.allOnes 64 else BitVec.ofNat 64 (a.toNat / b.toNat)
  | .rem => if b = 0 then a else BitVec.ofInt 64 (Int.tmod a.toInt b.toInt)
  | .remu => if b = 0 then a else BitVec.ofNat 64 (a.toNat % b.toNat)

/-- Divide: its 34 cycles count (Table 7.3, event 3). -/
def divide (p t : Nat) (op : DivOp) (s : State) : State :=
  issue s p t (fun k => k = .scalarR) (fun w => [fA w, fB w])
    (fun s w =>
      let th := getThread s p t
      retireTo (count s 3 (grainOcc s p) 34) p t (setGpr th (fD w) (divEval op (gpr th (fA w)) (gpr th (fB w)))))

/-- DIVIDE. -/
def execDivide (p : Fin 1088) (t : Fin 8) (op : DivOp) (s : State) : Host.Outcome State Fault Refusal :=
  done (divide p.val t.val op s)

/-! ### Branches (Table 7.4) -/

/-- Is a branch taken. -/
def branchTaken (cond : Nat) (a b : Dword) : Bool :=
  match cond with
  | 0 => a = b
  | 1 => a ≠ b
  | 2 => a.toInt < b.toInt
  | 3 => b.toInt ≤ a.toInt
  | 4 => a.toNat < b.toNat
  | 5 => b.toNat ≤ a.toNat
  | _ => true

/-- Scalar registers that a branch reads: JAL none, JR its base. -/
def branchRegs (w : Word) : List Nat :=
  if bf w 27 25 = 7 then [] else if bf w 27 25 = 6 then [bf w 24 20] else [bf w 24 20, bf w 19 15]

/-- Branches. -/
def branch (p t : Nat) (s : State) : State :=
  issue s p t (fun k => k = .branch)
    branchRegs
    (fun s w =>
      let th := getThread s p t
      let cond := bf w 27 25
      let a := gpr th (bf w 24 20)
      let b := gpr th (bf w 19 15)
      let off15 : Dword := BitVec.ofInt 64 (4 * sext 15 (bf w 14 0))
      let off20 : Dword := BitVec.ofInt 64 (4 * sext 20 (bf w 19 0))
      if branchTaken cond a b then
        let s := count s 2 (grainOcc s p)
        if cond = 7 then setThread s p t { setGpr th (bf w 24 20) (th.pc + 4) with pc := th.pc + off20 }
        else if cond = 6 then setThread s p t { th with pc := a + off15 }
        else setThread s p t { th with pc := th.pc + off15 }
      else retireTo s p t th)

/-- BRANCH. -/
def execBranch (p : Fin 1088) (t : Fin 8) (s : State) : Host.Outcome State Fault Refusal := done (branch p.val t.val s)

/-! ### Vector operations (Table 7.5) -/

/-- Element width in bits of a WIDTH code. -/
def widthBits (c : Nat) : Nat := if c = 0 then 32 else if c = 1 then 16 else 8

/-- Element j of n bits of a lane word. -/
def elemOf (n j : Nat) (x : Word) : Nat := (x.toNat >>> (n * j)) % 2 ^ n
/-- A lane word made of its elements. -/
def laneOf (n : Nat) (f : Nat → Nat) : Word :=
  BitVec.ofNat 32 ((List.range (32 / n)).foldl (fun v j => v + (f j % 2 ^ n) <<< (n * j)) 0)

/-- Integer operation on elements of n bits (signed minimum, maximum and compare: log entry 29). -/
def vecInt (op : VecOp) (n a b : Nat) : Nat :=
  match op with
  | .add => a + b
  | .sub => a + 2 ^ n - b
  | .mul => a * b
  | .min => if sext n a < sext n b then a else b
  | .max => if sext n a < sext n b then b else a
  | .and => a &&& b
  | .or => a ||| b
  | .xor => a ^^^ b
  | .shl => shiftN 0 n a b
  | .shr => shiftN 1 n a b
  | .sar => shiftN 2 n a b
  | _ => 0

/-- A free binary32 result: any NaN is the canonical one (R164). -/
def freeF32 (v : Nat) : Nat := if (FpFmt.f32.decode (v % 2 ^ 32)).isNan then 0x7FC00000 else v % 2 ^ 32

/-- VFMIN and VFMAX: where a NaN or zeros of both signs leave the result open it is a free value (log entry 17). -/
def fMinMax (mx : Bool) (a b : Nat) : Nat :=
  let x := FpFmt.f32.decode a
  let y := FpFmt.f32.decode b
  if x.isNan || y.isNan || (x.isZero && y.isZero && a ≠ b) then freeF32 (Config.vfminmax a b)
  else if (x.lt y) != mx then a else b

/-- VRCP: some result within the bound; NaN for NaN; free where 1/x is not finite (log entry 17). -/
def fRcp (a : Nat) : Nat :=
  let x := FpFmt.f32.decode a
  let r := freeF32 (Config.vrcp a)
  if x.isNan then 0x7FC00000
  else if x.isFin && !x.isZero then (if rcpWithin x (FpFmt.f32.decode r) then r else rcpExact x)
  else r
/-- VRSQRT, likewise. -/
def fRsqrt (a : Nat) : Nat :=
  let x := FpFmt.f32.decode a
  let r := freeF32 (Config.vrsqrt a)
  if x.isNan then 0x7FC00000
  else if x.isFin && !x.isZero && !x.sign then (if rsqrtWithin x (FpFmt.f32.decode r) then r else rsqrtExact x)
  else r
/-- VEXP2: 0 below −126, NaN for NaN, else some result within the bound; free where 2^x is past the format (log entry 17). -/
def fExp2 (a : Nat) : Nat :=
  let x := FpFmt.f32.decode a
  let r := freeF32 (Config.vexp2 a)
  if x.isNan then 0x7FC00000
  else if x.lt (.fin true 126 0) then 0
  else if x.lt (.fin false 128 0) then (if exp2Within x (FpFmt.f32.decode r) then r else exp2Near x)
  else r

/-- FP operation on binary32 lanes, with the old lane of VD. -/
def vecFp (op : VecOp) (a b d : Nat) : Nat :=
  match op with
  | .fadd => f32Add a b
  | .fsub => f32Sub a b
  | .fmul => f32Mul a b
  | .fma => f32Fma a b d
  | .fmin => fMinMax false a b
  | .fmax => fMinMax true a b
  | .exp2 => fExp2 a
  | .rcp => fRcp a
  | .rsqrt => fRsqrt a
  | _ => 0

/-- Which group of Table 7.5 an operation is of. -/
inductive VecGroup where
  | int | fp | cmpInt | cmpFp | sel | mov | bcast | ext | reduce | perm | cvt | illegal
deriving DecidableEq, Repr

/-- The group of an operation. -/
def vecGroup : VecOp → VecGroup
  | .add | .sub | .mul | .min | .max | .and | .or | .xor | .shl | .shr | .sar => .int
  | .fadd | .fsub | .fmul | .fma | .fmin | .fmax | .exp2 | .rcp | .rsqrt => .fp
  | .cmpEq | .cmpLt | .cmpLe => .cmpInt
  | .fcmpEq | .fcmpLt | .fcmpLe => .cmpFp
  | .sel => .sel
  | .mov => .mov
  | .bcast => .bcast
  | .ext => .ext
  | .rsum | .rmax => .reduce
  | .perm => .perm
  | .cvt .. => .cvt
  | .illegal => .illegal

/-- A compare of one element. An FP compare of 16-bit or 8-bit elements, whose format the spec does not state, gives a free value (log
entry 28). -/
def vecCmp (op : VecOp) (n a b : Nat) : Bool :=
  let x := FpFmt.f32.decode a
  let y := FpFmt.f32.decode b
  match op with
  | .cmpEq => a = b
  | .cmpLt => sext n a < sext n b
  | .cmpLe => sext n a ≤ sext n b
  | .fcmpEq => if n = 32 then x.eqv y else Config.fcmpNarrow 0 n a b
  | .fcmpLt => if n = 32 then x.lt y else Config.fcmpNarrow 1 n a b
  | .fcmpLe => if n = 32 then x.lt y || x.eqv y else Config.fcmpNarrow 2 n a b
  | _ => false

/-- The predicate bit of a lane: every element, or a free value where its elements disagree (log entry 28). -/
def cmpLane (op : VecOp) (n : Nat) (a b : Word) : Bool :=
  let rs := (List.range (32 / n)).map (fun j => vecCmp op n (elemOf n j a) (elemOf n j b))
  if rs.all id then true else if rs.any id then Config.cmpMixed a.toNat b.toNat else false

/-- Bits of an element of a number format. -/
def fmtBits : NumFmt → Nat
  | .fp32 | .int32 => 32
  | .bf16 | .int16 => 16
  | .e4m3 | .e5m2 | .int8 => 8

/-- The FP format of a number format, if it is one. -/
def fmtFp : NumFmt → Option FpFmt
  | .fp32 => some .f32
  | .bf16 => some .bf16
  | .e4m3 => some .e4m3
  | .e5m2 => some .e5m2
  | _ => none

/-- VCVT of one element: to nearest even; integers and E4M3 saturate, an infinity too (log entry 28). -/
def cvtElem (src dst : NumFmt) (v : Nat) : Nat :=
  let x : FpVal := match fmtFp src with
    | some f => f.decode v
    | none => FpVal.ofInt (sext (fmtBits src) v)
  match fmtFp dst with
  | some f =>
    (match x with
     | .inf n => if f.ieee then (f.encode x).w else f.signBit n + f.maxMag
     | _ => (f.encode x (match fmtFp src with | some g => g.neg v | none => false)).w)
  | none =>
    let n := fmtBits dst
    let lo : Int := -((2 ^ (n - 1) : Nat) : Int)
    let hi : Int := ((2 ^ (n - 1) : Nat) : Int) - 1
    match x with
    | .nan => Config.cvtNan v % 2 ^ n
    | .inf neg => wrapInt n (if neg then lo else hi)
    | _ => wrapInt n (clampInt lo hi ((x.toIntRne).getD 0))

/-- Pairs of neighbours reduced by f, until one stands (fixed tree order). -/
def treeReduce (f : Nat → Nat → Nat) : Nat → List Nat → List Nat
  | 0, l => l
  | k + 1, l => treeReduce f k ((List.range (l.length / 2)).map (fun i => f (l.getD (2 * i) 0) (l.getD (2 * i + 1) 0)))

/-- Bit i of a 64-bit mask set to a Bool. -/
def putBit (m : Dword) (i : Nat) (b : Bool) : Dword := if b then m ||| (1#64 <<< i) else m &&& ~~~(1#64 <<< i)

/-- VP field of the vector ALU. -/
def fVp (w : Word) : Nat := bf w 12 10

/-- Are the register fields and the WIDTH of a vector word in range for an operation (R163, Table 7.5). -/
def vecLegal (op : VecOp) (w : Word) : Bool :=
  let wd := bf w 9 8
  let vd : Bool := match vecGroup op with
    | .cmpInt => fD w < 8
    | .cmpFp => fD w < 8
    | .ext => true
    | _ => fD w < 16
  let va : Bool := match vecGroup op with | .bcast => true | _ => fA w < 16
  let vb : Bool := fB w < 16
  let wok : Bool := match vecGroup op with
    | .fp | .reduce | .perm => wd = 0
    | _ => true
  vd && va && vb && wok && op ≠ .illegal

/-- The lanes that an operation writes, before its predicate. -/
def vecLanes (op : VecOp) (w : Word) (th : Thread) : List Word :=
  let n := widthBits (bf w 9 8)
  let a := vlane th (fA w)
  let b := vlane th (fB w)
  let d := vlane th (fD w)
  (List.range 64).map (fun i =>
    match op with
    | .mov => a i
    | .bcast => laneOf n (fun _ => (gpr th (fA w)).toNat)
    | .sel => if (vpr th (fVp w)).getLsbD i then a i else b i
    | .perm => if (b i).toNat < 64 then a (b i).toNat else BitVec.ofNat 32 (Config.permOver (b i).toNat)
    | .cvt src dst =>
      laneOf (fmtBits dst) (fun j =>
        let e := (32 / fmtBits dst) * i + j
        let per := 32 / fmtBits src
        if e < 64 * per then cvtElem src dst (elemOf (fmtBits src) (e % per) (a (e / per)))
        else elemOf (fmtBits dst) j (d i))
    | _ =>
      if vecGroup op = .fp then BitVec.ofNat 32 (vecFp op (a i).toNat (b i).toNat (d i).toNat)
      else laneOf n (fun j => vecInt op n (elemOf n j (a i)) (elemOf n j (b i))))

/-- Writes the lanes whose predicate bit is 1. -/
def putLanes (th : Thread) (v : Nat) (pred : Dword) (ls : List Word) : Thread :=
  (List.range 64).foldl (fun x i => if pred.getLsbD i then setVlane x v i (ls.getD i 0) else x) th

/-- Reduction into lane 0 (Table 7.5). -/
def reduceLanes (op : VecOp) (w : Word) (th : Thread) : Word :=
  let f := if op = .rsum then f32Add else fMinMax true
  BitVec.ofNat 32 ((treeReduce f 6 ((List.range 64).map (fun i => (vlane th (fA w) i).toNat))).headD 0)

/-- What VEXT gives, from a free value: an element of VA, which one the spec does not state, nor how it fills D (log entry 28). -/
def vextValue (w : Word) (th : Thread) (free : Dword) : Dword :=
  let n := widthBits (bf w 9 8)
  let i := free.toNat % (2048 / n)
  BitVec.ofNat 64 (free.toNat / 2 ^ n * 2 ^ n + elemOf n (i % (32 / n)) (vlane th (fA w) (i / (32 / n))))

/-- Effect of a vector ALU operation on its thread, with a free value drawn for VEXT. -/
def vecEffect (op : VecOp) (w : Word) (th : Thread) (free : Dword) : Thread :=
  let pred := vpr th (fVp w)
  match vecGroup op with
  | .cmpInt | .cmpFp =>
    let n := widthBits (bf w 9 8)
    setVpr th (fD w) ((List.range 64).foldl (fun m i =>
      if pred.getLsbD i then putBit m i (cmpLane op n (vlane th (fA w) i) (vlane th (fB w) i)) else m) (vpr th (fD w)))
  | .ext => setGpr th (fD w) (vextValue w th free)
  | .reduce => if pred.getLsbD 0 then setVlane th (fD w) 0 (reduceLanes op w th) else th
  | .sel => putLanes th (fD w) (BitVec.allOnes 64) (vecLanes op w th)
  | _ => putLanes th (fD w) pred (vecLanes op w th)

/-- Scalar registers that a vector operation reads. -/
def vecRegs (op : VecOp) (w : Word) : List Nat :=
  match vecGroup op with
  | .bcast => [fA w]
  | _ => []

/-- Vector ALU. -/
def vectorAlu (p t : Nat) (op : VecOp) (s : State) : State :=
  issue s p t (fun k => k = .vector) (vecRegs op)
    (fun s w =>
      if !vecLegal op w then takeExc s p t 1 w.toNat 0
      else
        let th := getThread s p t
        let s := count s 4 (grainOcc s p)
        let (free, s) := if op = .ext then drawFree s else (0, s)
        retireTo s p t (vecEffect op w th free))

/-- VECTOR_ALU. -/
def execVectorAlu (p : Fin 1088) (t : Fin 8) (op : VecOp) (s : State) : Host.Outcome State Fault Refusal :=
  done (vectorAlu p.val t.val op s)

end Sys2Proof.Machine
end

