-- ==== Sys2Proof/Machine/Jtag.lean ====
section
/-! DEFINITION. The test access port (R388, R389, Table 16.3): its instructions, which act on the pins only while TEST_EN is high. -/

namespace Sys2Proof.Machine

/-- IDCODE (R389). -/
def idcodeWord : Nat := 0x20880A6F

/-- Loads an instruction that leaves the pins to their function. -/
def tapPlain (s : State) (i : TapInstr) : State :=
  { s with jtag := { s.jtag with instr := i, driving := false, floating := false, lanes := false } }

/-- Loads an instruction that takes the pins: with TEST_EN low it acts as BYPASS, and no pin changes. -/
def tapTest (s : State) (i : TapInstr) (driving floating lanes : Bool) : State :=
  if s.crd.testEn then { s with jtag := { s.jtag with instr := i, driving := driving, floating := floating, lanes := lanes } }
  else tapPlain s .bypass

/-- BYPASS: the one-bit bypass register stands between TDI and TDO. -/
def execBypass (s : State) : Host.Outcome State Fault Refusal := done (tapPlain s .bypass)

/-- IDCODE: its word is shifted out. -/
def execIdcode (s : State) : Host.Outcome State Fault Refusal :=
  done { tapPlain s .idcode with resp := .value 4 idcodeWord }

/-- SAMPLE/PRELOAD: the boundary register takes the cells a tester shifts in. -/
def execSamplePreload (cells : List Bool) (s : State) : Host.Outcome State Fault Refusal :=
  let s := tapPlain s .samplePreload
  done { s with jtag := { s.jtag with cells := cells } }

/-- EXTEST: the cells drive the pins. -/
def execExtest (s : State) : Host.Outcome State Fault Refusal := done (tapTest s .extest true false false)

/-- CLAMP: the cells drive the pins, with the bypass register selected. -/
def execClamp (s : State) : Host.Outcome State Fault Refusal := done (tapTest s .clamp true false false)

/-- HIGHZ: the pins float. -/
def execHighz (s : State) : Host.Outcome State Fault Refusal := done (tapTest s .highz false true false)

/-- EXTEST_PULSE: the lanes of U and S0 to S7 are driven with a pulse. -/
def execExtestPulse (s : State) : Host.Outcome State Fault Refusal := done (tapTest s .extestPulse true false true)

/-- EXTEST_TRAIN: the lanes of U and S0 to S7 are driven with a pulse train. -/
def execExtestTrain (s : State) : Host.Outcome State Fault Refusal := done (tapTest s .extestTrain true false true)

end Sys2Proof.Machine
end

