-- ==== Sys2Proof/Machine/LogPm.lean ====
section
/-! DEFINITION. Calendar, sediment log and performance monitor (R361 to R383): LOG_READ, COUNTER_SNAPSHOT, CLOCK_SET, checkpoints, the
log's writes in flash, and samples. -/

namespace Sys2Proof.Machine

/-! ### Calendar (R361) -/

/-- CALENDAR_TICK: 1 000 000 TICK cycles after the set, and again after each as many. -/
def execCalendarTick (s : State) : Host.Outcome State Fault Refusal :=
  done (if s.slog.calendar ≠ 0 ∧ s.slog.calSince + 1000000 ≤ s.tick then
    { s with slog := { s.slog with calendar := (s.slog.calendar + 1) % 2 ^ 64, calSince := s.slog.calSince + 1000000 } }
  else s)

/-- CLOCK_SET from step 10: the record carries the old calendar (Table 15.6). -/
def clockSetBody (s : State) (c : Cmd) : State :=
  let old := s.slog.calendar
  let new := c.f 8 8
  let s := logRec (count s 317 {}) 0x12 9 0 (leBytes 8 old ++ leBytes 8 new ++ leBytes 1 c.tenant)
  complete { s with slog := { s.slog with calendar := new, calSince := s.tick } } c.seq (okR old)

/-- CLOCK_SET. -/
def execClockSet (c : Nat) (s : State) : Host.Outcome State Fault Refusal :=
  done (startCmd s c 0x72 none noDoms noHold clockSetBody)

/-! ### LOG_READ (R97, R102, R373) -/

/-- The error of a host buffer: T64 has none (R102). -/
def bufError (c : Cmd) (dma : Option Nat) : Option Nat := if c.tenant = 64 then none else dma

/-- LOG_READ of the own fault log from step 10: unread entries oldest first, then marked read. -/
def faultLogBody (dma : Option Nat) (s : State) (c : Cmd) : State :=
  let ten := getTen s c.tenant
  let todo := ten.log.filter (fun e => !e.read)
  let n := min (c.f 0xC 4) (if c.tenant = 64 then 128 else todo.length)
  let out := todo.take n
  let next := match todo.drop n with | e :: _ => e.seq | [] => ten.logSeq
  if todo = [] then complete s c.seq { status := .okNoop, r1 := next }
  else match bufError c dma with
    | some a => complete s c.seq (dmaWriteErr a)
    | none =>
      let s := replyWrite s c (out.flatMap flBytes)
      let mark (e : FlEntry) : FlEntry := if out.any (fun x => x.seq = e.seq) then { e with read := true } else e
      let s := modTen s c.tenant (fun x => { x with log := x.log.map mark })
      complete (count s 316 {} out.length) c.seq (okR out.length next)

/-- LOG_READ with LOG = 0. -/
def execLogReadFaultLog (c : Nat) (dma : Option Nat) (s : State) : Host.Outcome State Fault Refusal :=
  done (startCmd s c 0x70 (some 0) noDoms noHold (faultLogBody dma))

/-- LOG_READ of the sediment log from step 10. `flashTimeout` is the number of records written before a flash read times out. -/
def sedimentBody (dma flashTimeout : Option Nat) (s : State) (c : Cmd) : State :=
  let start := c.f 0x18 8
  let flash := (committedBySeq s).filter (fun x => start ≤ x.1)
  let queued := (s.slog.queue.filter (fun r => start ≤ r.seq)).map (fun r => (r.seq, queuedBytes r))
  let n := min (c.f 0xC 4) (if c.tenant = 64 then 64 else (flash ++ queued).length)
  let out := (flash ++ queued).take n
  let after (xs : List (Nat × List Byte)) : Nat := match xs.getLast? with | some x => x.1 + 1 | none => start
  let late := match flashTimeout with | some k => decide (k < min n flash.length) | none => false
  if late then
    let part := out.take (flashTimeout.getD 0)
    complete (count (replyWrite s c (part.flatMap (·.2))) 316 {} part.length) c.seq
      { refuse .dataError 5 0x01 with r0 := part.length, r1 := after part }
  else if out = [] then complete s c.seq { status := .okNoop, r1 := start }
  else match bufError c dma with
    | some a => complete s c.seq (dmaWriteErr a)
    | none => complete (count (replyWrite s c (out.flatMap (·.2))) 316 {} out.length) c.seq (okR out.length (after out))

/-- LOG_READ with LOG = 1. A timeout beyond the flash records read does not come about. -/
def execLogReadSedimentLog (c : Nat) (dma : Option Nat) (flashTimeout : Option Nat) (s : State) :
    Host.Outcome State Fault Refusal :=
  done (startCmd s c 0x70 (some 1) noDoms noHold (sedimentBody dma flashTimeout))

/-! ### COUNTER_SNAPSHOT (R376) -/

/-- COUNTER_SNAPSHOT from step 10. -/
def snapshotBody (dma : Option Nat) (s : State) (c : Cmd) : State :=
  let n := min (c.f 0xA 2) (if c.tenant = 64 then 512 else 448)
  let is := (List.range n).map (fun k => c.f 8 2 + k)
  let value (i : Nat) : Nat := if counterShown s c.tenant i then counterAt s i else 2 ^ 64 - 1
  match bufError c dma with
  | some a => complete s c.seq (dmaWriteErr a)
  | none => complete (replyWrite s c (is.flatMap (fun i => leBytes 8 (value i)))) c.seq (okR n)

/-- COUNTER_SNAPSHOT. -/
def execCounterSnapshot (c : Nat) (dma : Option Nat) (s : State) : Host.Outcome State Fault Refusal :=
  done (startCmd s c 0x71 none noDoms noHold (snapshotBody dma))

/-! ### The log in flash (R364, R367, R368, R370, R382) -/

/-- CHECKPOINT: every CHECKPOINT_S seconds of TICK. -/
def execCheckpoint (s : State) : Host.Outcome State Fault Refusal :=
  done (if s.crd.fwUp ∧ s.slog.restored ∧ s.slog.lastCheckpoint + cfgF s 0x900018 16 0 * 1000000 ≤ s.tick then checkpointNow s
  else s)

/-- SEGMENT_ENTRY: the head segment is full, and the next one is erased. -/
def execSegmentEntry (s : State) : Host.Outcome State Fault Refusal :=
  done (if logWritable s ∧ 1024 ≤ s.slog.headSlot ∧ s.slog.erasing.isNone then enterSegment s else s)

/-- RECORD_WRITE. -/
def execRecordWrite (ended : RecordEnd) (s : State) : Host.Outcome State Fault Refusal :=
  done (if logWritable s ∧ 1 ≤ s.slog.headSlot ∧ s.slog.headSlot < 1024 then writeRecord s ended else s)

/-- SEGMENT_ERASE_END: an erase that fails makes the log skip its segment and erase the one after. -/
def segmentEraseEnd (ok : Bool) (s : State) : State :=
  match s.slog.erasing with
  | none => s
  | some k =>
    if s.slog.eraseHeld || eraseSuspended s then s
    else if ok then
      let s := flashErase s (slotAddr (1024 * k)) (slotAddr (1024 * (k + 1)))
      count { s with slog := { s.slog with erasing := none, eraseHeld := false } } 312 {}
    else
      let s : State := { s with slog := { s.slog with skipped := s.slog.skipped ++ [k] } }
      startErase s (nextSegment s)

/-- SEGMENT_ERASE_END. -/
def execSegmentEraseEnd (ok : Bool) (s : State) : Host.Outcome State Fault Refusal := done (segmentEraseEnd ok s)

/-- LOG_HEAD_SEARCH_RETRY: once every 60 s. -/
def execLogHeadSearchRetry (timeout : Bool) (s : State) : Host.Outcome State Fault Refusal :=
  done (match s.slog.retryAt with
    | some t =>
      if !s.crd.fwUp ∨ s.tick < t then s
      else if timeout then { s with slog := { s.slog with retryAt := some (s.tick + 60000000) } }
      else checkpointNow (restoreCounts (headSearch s))
    | none => s)

/-! ### Samples (R377 to R380) -/

/-- Is an event of groups 0 and 1 one that no instruction causes (R377). -/
def noCause (g e : Nat) : Bool := g = 0 && (e = 0 || (8 ≤ e && e ≤ 12))

/-- OVERFLOW_SAMPLE: the next instruction of a thread of the grain where a PERIOD-th occurrence happened. -/
def overflowSample (g p t skid : Nat) (s : State) : State :=
  let e := bf (sampOf s g) 3 0
  let due := KMap.get (fun _ => []) s.pm.due g
  match due.find? (fun lg => decide (lg = 1024) || decide (logicalOf s p = some lg)) with
  | none => s
  | some lg =>
    let skidOk := if noCause g e then decide (skid = 0xFF) else decide (skid ≤ 40)
    if sampling s g && skidOk then
      let s : State := { s with pm := { s.pm with due := KMap.set (fun _ => []) s.pm.due g (due.erase lg) } }
      let x := takeSample s 1 g p t skid (getThread s p t).pc.toNat
      sampleIntoBed s (p / 17) { x with count := (pmGet s (16 * g + e)).toNat }
    else s

/-- OVERFLOW_SAMPLE. -/
def execOverflowSample (g : Fin 2) (p : Fin 1088) (t : Fin 8) (skid : Nat) (s : State) : Host.Outcome State Fault Refusal :=
  done (overflowSample g.val p.val t.val skid s)

/-- TAG_SAMPLE: the tagged instruction retires. -/
def tagSample (p t addr latency eflags : Nat) (s : State) : State :=
  match KMap.get (fun _ => none) s.pm.tagged p with
  | some (u, pc) =>
    if u = t then
      let s : State := { s with pm := { s.pm with tagged := KMap.set (fun _ => none) s.pm.tagged p none } }
      let x := takeSample s 2 0 p t 0 pc
      sampleIntoBed s (p / 17) { x with addr := addr, latency := latency, eflags := eflags }
    else s
  | none => s

/-- TAG_SAMPLE. -/
def execTagSample (p : Fin 1088) (t : Fin 8) (addr latency eflags : Nat) (s : State) : Host.Outcome State Fault Refusal :=
  done (tagSample p.val t.val addr latency eflags s)

/-- SAMPLE_WRITE. -/
def execSampleWrite (bed : Fin 64) (dma : Option Nat) (s : State) : Host.Outcome State Fault Refusal :=
  done (sampleOut s bed.val dma)

end Sys2Proof.Machine
end

