-- ==== Sys2Proof/Machine/Motor.lean ====
section
/-! DEFINITION. The motor channels' events, and COOL_SET and COOL_TABLE_LOAD (R318 to R336). -/

namespace Sys2Proof.Machine

/-- Does a channel run six-step commutation: DRIVE is not GATES. -/
def sixStep (s : State) (m : Nat) : Bool := motorDrive s m ≠ 2

/-! ### PWM (R318, R334) -/

/-- The LIVE fields of a channel take effect at its reload (R342). -/
def liveTaken (s : State) (m : Nat) : State :=
  modMotor s m (fun x => { x with en := decide (cfgF s (motorBase m) 0 0 = 1), accel := cfgF s (motorBase m + 0x28) 15 0,
                                  gains := cfgN s (motorBase m + 0x2C), pause := cfgF s (motorBase m + 0x30) 15 0 })

/-- PWM_RELOAD: LIVE fields take effect; the shadow is copied, capped at PWM_PER; throughout a ramp the duty is START_DUTY's (R325). A
soft-level hold ends. -/
def pwmReload (m : Nat) (s : State) : State :=
  if s.crd.phase ≠ .running then s
  else
    let s := motorFollow (liveTaken s m) m
    let s := modMotor s m (fun x => { x with
      dutyActive := if x.st = .ramp then rampDuty s m else min x.duty (pwmPer s m), softHeld := false })
    if (getMotor s m).drive ∧ !sixStep s m then gatesLoad s m else s

/-- PWM_RELOAD. -/
def execPwmReload (m : Fin 8) (s : State) : Host.Outcome State Fault Refusal := done (pwmReload m.val s)

/-! ### Position (R322, R323, R325) -/

/-- POSITION_EDGE: a Hall change, or a crossing of the floating phase, at PCLK time t. -/
def positionEdge (m t hall : Nat) (s : State) : State :=
  let x := getMotor s m
  if sensorless s m then
    if x.st = .ramp ∧ !x.aligning then openCrossing s m t
    else if x.st = .running ∧ sixStep s m then judgeEdge s m t
    else s
  else if hall = x.lastHall then s
  else
    let s := setMotor s m { x with lastHall := hall }
    if hall = 0 ∨ hall = 7 then noiseAt (modMotor s m (fun x => { x with hallInvalid := true })) m
    else if (x.st = .ramp ∨ x.st = .running) ∧ sixStep s m then judgeEdge s m t
    else s

/-- POSITION_EDGE. -/
def execPositionEdge (m : Fin 8) (t : PclkTime) (hall : Fin 8) (s : State) : Host.Outcome State Fault Refusal :=
  done (positionEdge m.val t hall.val s)

/-- COMMUTATION_DUE: a scheduled commutation of a sensorless channel in RUNNING. -/
def execCommutationDue (m : Fin 8) (t : PclkTime) (s : State) : Host.Outcome State Fault Refusal :=
  let x := getMotor s m.val
  done (match x.pendingComm with
    | some (due, _) => if x.st = .running ∧ sensorless s m.val ∧ due ≤ t then firePending s m.val else s
    | none => s)

/-- SYNTHETIC_TOOTH: at 150 % of T_P without an edge; after two in a row the channel stalls. -/
def syntheticTooth (m t : Nat) (s : State) : State :=
  let x := getMotor s m
  let judged := x.st = .running ∨ (x.st = .ramp ∧ !sensorless s m)
  if judged ∧ sixStep s m ∧ x.tp ≠ 0 ∧ x.last + x.tp * 3 / 2 ≤ t then
    if x.synth = 2 then motorStall s m t
    else
      let s := match x.pendingComm with
        | some (due, _) => if due ≤ t then firePending s m else s
        | none => s
      let s := modMotor s m (fun x => { x with synth := x.synth + 1, synths := satN 8 (x.synths + 1) })
      tooth s m (x.last + x.tp) x.tp t true
  else s

/-- SYNTHETIC_TOOTH. -/
def execSyntheticTooth (m : Fin 8) (t : PclkTime) (s : State) : Host.Outcome State Fault Refusal :=
  done (syntheticTooth m.val t s)

/-! ### Ramps (R325, R326) -/

/-- The imposed interval, τ PCLK cycles into the open loop: the speed rises linearly from HANDOFF_RPM / 4 to HANDOFF_RPM over
RAMP_MS. -/
def openInterval (s : State) (m tau : Nat) : Nat :=
  let r := rampCycles s m
  let h := handoff s m
  2000000000 * 4 * r / (h * (r + 3 * min tau r) * polePairs s m)

/-- The next open-loop commutation, `now` PCLK cycles. -/
def openSchedule (s : State) (m now : Nat) : State :=
  let x := getMotor s m
  let iv := openInterval s m (now - x.rampStart)
  setMotor s m { x with last := now, tp := iv, pendingComm := if iv = 0 then none else some (now + iv, nextStep s m x.step) }

/-- ALIGN_END: the open loop begins. -/
def execAlignEnd (m : Fin 8) (t : PclkTime) (s : State) : Host.Outcome State Fault Refusal :=
  let x := getMotor s m.val
  done (if x.st = .ramp ∧ x.aligning ∧ x.rampStart + alignCycles s m.val ≤ t then
    openSchedule (setMotor s m.val { x with aligning := false, rampStart := t, good := 0 }) m.val t
  else s)

/-- OPEN_LOOP_STEP: an imposed interval elapses. -/
def execOpenLoopStep (m : Fin 8) (t : PclkTime) (s : State) : Host.Outcome State Fault Refusal :=
  let x := getMotor s m.val
  done (match x.pendingComm with
    | some (due, _) =>
      if x.st = .ramp ∧ sensorless s m.val ∧ !x.aligning ∧ due ≤ t then openSchedule (firePending s m.val) m.val due else s
    | none => s)

/-- RAMP_TIMEOUT: RAMP_MS ended without a handoff. -/
def execRampTimeout (m : Fin 8) (s : State) : Host.Outcome State Fault Refusal :=
  let x := getMotor s m.val
  done (if x.st = .ramp ∧ sensorless s m.val ∧ !x.aligning ∧ x.rampStart + rampCycles s m.val ≤ pclkNow s then
    motorStall s m.val (pclkNow s)
  else s)

/-- STALL_PAUSE_END: the channel ramps again, from the Hall code it reads. -/
def execStallPauseEnd (m : Fin 8) (t : PclkTime) (hall : Fin 8) (s : State) : Host.Outcome State Fault Refusal :=
  let x := getMotor s m.val
  done (if x.st = .restart ∧ x.pauseStart + pauseCycles s m.val ≤ t then
    let s := setMotor s m.val { x with lastHall := hall.val }
    if runTarget s m.val = 0 then motorStop s m.val else motorStart s m.val t
  else s)

/-! ### Speed (R327, R328) -/

/-- The ramped target after one ms, in 0.001 rpm. -/
def rampedNext (s : State) (m : Nat) : Nat :=
  let x := getMotor s m
  let goal := runTarget s m * 1000
  let a := x.accel
  if a = 0 then goal
  else if x.ramped < goal then min goal (x.ramped + a)
  else max goal (x.ramped - a)

/-- SPEED_CONTROL: one step of the PI controller. -/
def speedControl (m : Nat) (s : State) : State :=
  let x := getMotor s m
  if x.st ≠ .running ∨ motorDrive s m ≠ 0 then s
  else
    let r := rampedNext s m
    let per := pwmPer s m
    let e : Int := (r / 1000 : Nat) - (motorSpeed s m : Int)
    let kp : Int := (x.gains / 2 ^ 16 : Nat)
    let ki : Int := (x.gains % 2 ^ 16 : Nat)
    let i2 := x.integral + ki * e
    let d := Int.fdiv ((kp * e + i2) * per) 65536
    let lo : Int := rampDuty s m
    let c := max lo (min d per)
    setMotor s m { x with ramped := r, integral := if c = d then i2 else x.integral, duty := c.toNat }

/-- SPEED_CONTROL. -/
def execSpeedControl (m : Fin 8) (s : State) : Host.Outcome State Fault Refusal := done (speedControl m.val s)

/-- TABLE_EVALUATION: the table value, and the target that follows it. -/
def execTableEvaluation (m : Fin 8) (s : State) : Host.Outcome State Fault Refusal :=
  done (if s.crd.phase ≠ .running then s
  else motorFollow (modMotor s m.val (fun x => { x with tableVal := tableValue s m.val })) m.val)

/-! ### Faults (R332 to R336) -/

/-- Events discarded at blanking end are counted in BLANKED. -/
def discard (s : State) (m n : Nat) : State :=
  if n = 0 then s else count (modMotor s m (fun x => { x with blankedSeen := true })) (272 + 2 * m) {} n

/-- BLANKING_END: of the legs and the soft level whose blanking ends, a latched event acts where its input is still asserted and is
discarded elsewhere. -/
def blankingEnd (m t : Nat) (ended still : List Nat) (softEnded softStill : Bool) (s : State) : State :=
  let x := getMotor s m
  let mine := x.latchedLegs.filter ended.contains
  let judged := mine.filter still.contains
  let soft := x.latchedSoft && softEnded
  let s := setMotor s m { x with
    latchedLegs := x.latchedLegs.filter (fun l => !ended.contains l), latchedSoft := x.latchedSoft && !softEnded,
    desatIn := if ended = [] then x.desatIn else decide (still ≠ []) }
  let s := discard s m (mine.length - judged.length + b2n (soft && !softStill))
  let s := if soft && softStill then softEvent s m else s
  desatEvent s m t judged

/-- BLANKING_END. -/
def execBlankingEnd (m : Fin 8) (t : PclkTime) (ended still : List (Fin 3)) (softEnded softStill : Bool) (s : State) :
    Host.Outcome State Fault Refusal :=
  done (blankingEnd m.val t (ended.map (·.val)) (still.map (·.val)) softEnded softStill s)

/-- OC_HARD: never blanked; LOCKOUT. Its release only ends the input. -/
def execOcHard (m : Fin 8) (level : Bool) (s : State) : Host.Outcome State Fault Refusal :=
  done (if level then motorLockout (modMotor s m.val (fun x => { x with hardIn := true, ocHard := true })) m.val
  else modMotor s m.val (fun x => { x with hardIn := false }))

/-- OC_SOFT: latched in blanking, else judged at once. -/
def execOcSoft (m : Fin 8) (blanked : Bool) (s : State) : Host.Outcome State Fault Refusal :=
  done (if blanked then modMotor s m.val (fun x => { x with latchedSoft := true }) else softEvent s m.val)

/-- DESATURATION on legs (none: the inputs are released): latched in blanking, else judged at once. -/
def execDesaturation (m : Fin 8) (t : PclkTime) (legs : List (Fin 3)) (blanked : Bool) (s : State) :
    Host.Outcome State Fault Refusal :=
  let ls := legs.map (·.val)
  let s := modMotor s m.val (fun x => { x with desatIn := decide (legs ≠ []) })
  done (if blanked then modMotor s m.val (fun x => { x with latchedLegs := (x.latchedLegs ++ ls).eraseDups })
  else desatEvent s m.val t ls)

/-! ### COOL_SET and COOL_TABLE_LOAD (R330, R331) -/

/-- A COOL_SET of a pump on a loop with a leak ends the drive whose target the pump kept (R311). -/
def leakReleases (s : State) (m : Nat) : State :=
  if leakOn s (pumpLoop s m) then
    { s with therm := { s.therm with pump6 := if m = 6 then 0 else s.therm.pump6, pump7 := if m = 7 then 0 else s.therm.pump7 } }
  else s

/-- COOL_SET from step 10: T0 sets the host mode, T64 the floor, which HOLD sets to the effective target at acceptance. -/
def coolBody (s : State) (c : Cmd) : State :=
  let m := c.f 8 1
  let mode := c.f 9 1
  let rpm := c.f 0xC 4
  if maxRpm s m < rpm then complete s c.seq (badField 0xC)
  else
    let now := effTarget s m
    let s := modMotor (leakReleases s m) m (fun x =>
      if c.tenant = 64 then
        { x with floor := if mode = 0 then .rpm rpm else if mode = 1 then .table else .rpm c.rpmAt }
      else { x with
        mode := mode, hostRpm := if mode = 0 then rpm else x.hostRpm, holdRpm := if mode = 2 then some now else x.holdRpm,
        failsafe := if c.f 0xA 1 = 0 then x.failsafe else c.f 0xA 1 })
    let s := motorFollow s m
    let s := modCmd s c.seq (fun y => { y with clamped := motorClamped s m })
    complete s c.seq (okR (effTarget s m))

/-- COOL_SET. -/
def execCoolSet (c : Nat) (s : State) : Host.Outcome State Fault Refusal :=
  done (startCmd s c 0x30 none noDoms noHold coolBody)

/-- Are a table's points good: temperatures strictly ascending, every rpm at most MAX_RPM. -/
def pointsOk (top : Nat) : List (Int × Nat) → Bool
  | [] => true
  | (_, r) :: [] => decide (r ≤ top)
  | (t, r) :: (t', r') :: ps => decide (r ≤ top) && decide (t < t') && pointsOk top ((t', r') :: ps)

/-- COOL_TABLE_LOAD from step 10. -/
def coolTableBody (dma : Option Nat) (s : State) (c : Cmd) : State :=
  let m := c.f 8 1
  let n := c.f 9 1
  match dma with
  | some a => complete s c.seq (dmaReadErr a)
  | none =>
    let ws := (List.range n).map (fun i => leAt (hostRead s (c.f 0x10 8 + 4 * i) 4) 0 4)
    if !pointsOk (maxRpm s m) (ws.map (fun w => (sext 16 (w % 65536), w / 65536))) then complete s c.seq (badField 0x10)
    else
      let s := cfgSetF s (motorBase m + 0x48) 15 8 (c.f 0xA 2)
      let s := (List.range n).foldl (fun s i => cfgSet s (motorBase m + 0x80 + 4 * i) (BitVec.ofNat 32 (ws.getD i 0))) s
      let s := cfgSetF s (motorBase m + 0x48) 4 0 n
      complete s c.seq (okR)

/-- COOL_TABLE_LOAD. -/
def execCoolTableLoad (c : Nat) (dma : Option Nat) (s : State) : Host.Outcome State Fault Refusal :=
  done (startCmd s c 0x31 none noDoms noHold (coolTableBody dma))

end Sys2Proof.Machine
end

