-- ==== Sys2Proof/Machine/Queue.lean ====
section
/-! DEFINITION. Queues and tenants (R72 to R107): NOP, ECHO and TENANT_RESET, arbitration, deadlines, errors of the rings, heartbeat
lapses and function-level resets. -/

namespace Sys2Proof.Machine

/-- NOP (R84). -/
def execNop (c : Nat) (s : State) : Host.Outcome State Fault Refusal :=
  done (startCmd s c 0x00 none noDoms noHold (fun s c => complete s c.seq (okR)))

/-- ECHO (R84, Table 4.5). -/
def execEcho (c : Nat) (s : State) : Host.Outcome State Fault Refusal :=
  done (startCmd s c 0x01 none noDoms noHold (fun s c =>
    complete s c.seq { status := .ok, r0 := c.f 8 8, r1 := c.f 16 8, r2 := c.tenant }))

/-- TENANT_RESET from step 10 (R98): it completes when the reset ends. -/
def tenantResetBody (s : State) (c : Cmd) : State := startTReset s (c.f 8 1) 0 c.tenant (some c.seq)

/-- TENANT_RESET. -/
def execTenantReset (c : Nat) (s : State) : Host.Outcome State Fault Refusal :=
  done (startCmd s c 0x7F none noDoms noHold tenantResetBody)

/-- TENANT_RESET_END (R99, R100): Daxrin ends it. -/
def execTenantResetEnd (t : Nat) (s : State) : Host.Outcome State Fault Refusal :=
  done (match (getTen s t).reset with
    | some r => if s.crd.fwUp ∧ t ≤ 64 then endTReset s t r else s
    | none => s)

/-- Every enabled VF takes a tenant reset for a cause. -/
def resetVfs (s : State) (bit : Nat) : State :=
  (List.range s.qc.vfs).foldl (fun s i => startTReset s (i + 1) bit 0xFF none) s

/-- An FLR of the PF returns EN, WPTR and RPTR to reset and discards queued samples (Table 15.6). -/
def resetSampling (s : State) : State :=
  { s with pm := { s.pm with en := false, wptr := 0, rptr := 0, queues := [], due := [], tagged := [] } }

/-- FLR (R98, R236): of a VF, its tenant; of the PF, T0 and every enabled VF. -/
def execFlr (fn : Nat) (s : State) : Host.Outcome State Fault Refusal :=
  done (if !s.links.u.l0 ∨ !fnEnabled s fn then s
  else if fn = 0 then resetSampling (resetVfs (startTReset s 0 2 0xFF none) 2)
  else startTReset s fn 1 0xFF none)

/-- VF_ENABLE_CLEARED (R98): every VF that was enabled takes a tenant reset; the host may then enable another number of VFs (log entry
31). -/
def execVfEnableCleared (vfs : Nat) (s : State) : Host.Outcome State Fault Refusal :=
  done (if s.links.u.l0 ∧ vfs ≤ 63 then
    let s := resetVfs s 3
    { s with qc := { s.qc with vfs := vfs } }
  else s)

/-- ARBITRATION_ROUND (R88): CONTROL, DATA, MAINT. -/
def execArbitrationRound (s : State) : Host.Outcome State Fault Refusal :=
  done (if mayAccept s then
    let s := [0, 1, 2].foldl classTurn s
    if slotStarved s then count s 148 {} else s
  else s)

/-- DEADLINE_EXPIRY (R81, Table 4.12): a command not started within its deadline completes TIMEOUT; at its very end a start
wins. -/
def execDeadlineExpiry (c : Nat) (s : State) : Host.Outcome State Fault Refusal :=
  done (match findCmd s c with
    | some cmd =>
      let excess := deadlinePassed s cmd || (cmd.deadline ≠ 0 && decide (cmd.acc + cmd.deadline * 1000 = s.tick) && !eligible s cmd)
      if !cmd.started && !cmd.noop && excess then timeOut s cmd else s
    | none => s)

/-- SUBMISSION_FETCH_ERROR (R104). -/
def execSubmissionFetchError (fn q addr : Nat) (s : State) : Host.Outcome State Fault Refusal :=
  done (if mayAccept s ∧ fn < 64 ∧ q < 8 ∧ pairWaits s fn q ∧ slotFree s fn q then
    let s := modQp s fn q (fun p => { p with dmaErr := true, stopped := true })
    faultLog (count s 151 { tenant := fn }) fn 5 addr 0 q
  else s)

/-- COMPLETION_WRITE_ERROR (R104): no further completion is written on the pair. -/
def execCompletionWriteError (fn q addr : Nat) (cmdId : Half) (s : State) : Host.Outcome State Fault Refusal :=
  done (if fn < 64 ∧ q < 8 ∧ (getQp s fn q).running then
    let s := modQp s fn q (fun p => { p with dmaErr := true, stopped := true, cqFail := true })
    faultLog (count s 151 { tenant := fn }) fn 5 addr 0 q cmdId.toNat
  else s)

/-- HOST_HEARTBEAT_LAPSE (R18): 2 s after the last refresh. -/
def execHostHeartbeatLapse (s : State) : Host.Outcome State Fault Refusal :=
  done (match s.qc.hostBeat with
    | some t => if t + 2000000 ≤ s.tick then lapse s { s with qc := { s.qc with hostBeat := none } } else s
    | none => s)

/-- BMC_HEARTBEAT_LAPSE (R18): 10 s after the last refresh. -/
def execBmcHeartbeatLapse (s : State) : Host.Outcome State Fault Refusal :=
  done (match s.qc.bmcBeat with
    | some t => if t + 10000000 ≤ s.tick then lapse s { s with qc := { s.qc with bmcBeat := none } } else s
    | none => s)

end Sys2Proof.Machine
end

