-- ==== Sys2Proof/Machine/RegRows.lean ====
section
/-! DEFINITION. The commands of the register rules (R50 to R71): the host's register writes and reads, the Horizon page with its
publishing and its mirror, and BAR2. A write with a row of its own goes through the same rules as any other. -/

namespace Sys2Proof.Machine

/-! ### Register writes and reads -/

/-- Offset of a register of queue pair q in its function's BAR0. -/
def qpOff (fn q o : Nat) : Nat := qpBase fn + 0x40 * q + o

/-- SQ_TAIL (R77). -/
def execSqTail (fn q : Nat) (v : Word) (s : State) : Host.Outcome State Fault Refusal := done (hostWrites s fn (qpOff fn q 0x20) v)
/-- CQ_HEAD (R92). -/
def execCqHead (fn q : Nat) (v : Word) (s : State) : Host.Outcome State Fault Refusal := done (hostWrites s fn (qpOff fn q 0x28) v)
/-- QP_CTRL_EN (R75). -/
def execQpCtrlEn (fn q : Nat) (v : Word) (s : State) : Host.Outcome State Fault Refusal := done (hostWrites s fn (qpOff fn q 0) v)
/-- HOST_HB (R96). -/
def execHostHb (v : Word) (s : State) : Host.Outcome State Fault Refusal := done (hostWrites s 0 0x20004 v)
/-- RESET_CTRL with WARM (R32). -/
def execResetCtrlWarm (v : Word) (s : State) : Host.Outcome State Fault Refusal := done (hostWrites s 0 0x100008 v)
/-- RESET_CTRL with MARL (R35). -/
def execResetCtrlMarl (v : Word) (s : State) : Host.Outcome State Fault Refusal := done (hostWrites s 0 0x100008 v)
/-- RESET_CTRL with DOM_GO (R36). -/
def execResetCtrlDomGo (v : Word) (s : State) : Host.Outcome State Fault Refusal := done (hostWrites s 0 0x100008 v)
/-- DOM_CTRL (R49). -/
def execDomCtrl (d : Fin 92) (v : Word) (s : State) : Host.Outcome State Fault Refusal :=
  done (hostWrites s 0 (0x100100 + 4 * d.val) v)
/-- GCLK_CTRL (R23). -/
def execGclkReq (v : Word) (s : State) : Host.Outcome State Fault Refusal := done (hostWrites s 0 0x10000C v)
/-- REGISTER_WRITE (R53, R58): any register, of any size and byte enables. A VF's BAR0 ends at 64 KiB. -/
def execRegisterWrite (w : RegAccess) (s : State) : Host.Outcome State Fault Refusal :=
  done (if hostMay s w.fn && (w.fn = 0 || w.off < 0x10000) then
    regWrite s w.fn w.off w.size w.be w.val.toNat w.poisoned
  else s)
/-- RC_READ (R53, R55): a read of a register, of any size and alignment. -/
def execRcRead (fn : Nat) (r : Span) (s : State) : Host.Outcome State Fault Refusal := done (hostReads s fn r.off r.len)
/-- LOW_WORD_READ (R57): a 4-byte read of the low word of a 64-bit register. -/
def execLowWordRead (fn off : Nat) (s : State) : Host.Outcome State Fault Refusal := done (hostReads s fn off 4)
/-- BOOT_RELEASE (R119). -/
def execBootRelease (v : Word) (s : State) : Host.Outcome State Fault Refusal := done (hostWrites s 0 0x200018 v)
/-- KEY_LOCK (R133): a VF's BAR0 has no such register. -/
def execKeyLock (fn : Nat) (v : Word) (s : State) : Host.Outcome State Fault Refusal :=
  done (if fn = 0 then hostWrites s fn 0x200080 v else s)
/-- UNFENCE (R158). -/
def execUnfence (v : Word) (s : State) : Host.Outcome State Fault Refusal := done (hostWrites s 0 0x300018 v)
/-- SPOKE_CTRL with RETRAIN (R261). -/
def execRetrain (n : Fin 8) (v : Word) (s : State) : Host.Outcome State Fault Refusal :=
  done (hostWrites s 0 (0x508104 + 0x40 * n.val) v)
/-- TH_CLEAR (R306). -/
def execThClear (v : Word) (s : State) : Host.Outcome State Fault Refusal := done (hostWrites s 0 0x600008 v)
/-- MC_CLEAR (R337). -/
def execMcClear (v : Word) (s : State) : Host.Outcome State Fault Refusal := done (hostWrites s 0 0x700004 v)
/-- XFER_CTRL with GO (R356). -/
def execXferCtrlGo (v : Word) (s : State) : Host.Outcome State Fault Refusal := done (hostWrites s 0 0x801000 v)
/-- PM_SAMP_CTRL (R377): a VF's BAR0 has no such register. -/
def execSamplingEnable (fn : Nat) (v : Word) (s : State) : Host.Outcome State Fault Refusal :=
  done (if fn = 0 then hostWrites s fn 0xA00004 v else s)

/-! ### Horizon page (R61 to R71) -/

/-- HORIZON_PAGE_READ. -/
def execHorizonPageRead (fn off len : Nat) (s : State) : Host.Outcome State Fault Refusal :=
  done (if hostMay s fn && decide (off < 0x1000) then pageRead s fn off len else s)

/-- The FW fields as Daxrin fills them (Table 3.6). -/
def frameNow (s : State) : HzFrame :=
  { flow0 := KMap.get (fun _ => 0) s.tw.flow 0, flow1 := KMap.get (fun _ => 0) s.tw.flow 1,
    strataMib := heldMib s (fun e => e.kind = 0), weightsMib := heldMib s (fun e => e.kind = 1), freeMib := unitsFree s / 16,
    models := (s.strata.models.filter (fun e => e.2.loaded)).length, batches := b2n s.strata.batch.isSome,
    strataTotal := s.strata.recs.length,
    strataOf := s.strata.recs.foldl (fun m r =>
      KMap.set (fun _ => 0) m (ownerOf r.handle) (KMap.get (fun _ => 0) m (ownerOf r.handle) + 1)) [],
    deferred := s.slog.queue ≠ [] }

/-- Is a page word one that Daxrin publishes (Table 3.6, FW). -/
def fwWord (o : Nat) : Bool := [0x004, 0x010, 0x1A4, 0x208, 0x20C, 0x210, 0x214, 0x218].contains o

/-- HORIZON_PUBLISH (R63): every 10 ms while Daxrin runs; in clock fallback the last frame stays (R68). -/
def execHorizonPublish (s : State) : Host.Outcome State Fault Refusal :=
  done (if s.crd.fwUp ∧ !s.crd.fallback ∧ s.hz.lastPub + 10000 ≤ s.tick then
    count { s with hz := { s.hz with frame := s.hz.frame + 1, pub := frameNow s, lastPub := s.tick, stale := false,
                                     mirrorBad := s.hz.mirrorBad.filter (fun e => !fwWord (4 * e.1)) } } 306 {}
  else s)

/-- FW_DOWN (R63): 100 ms without a publish. -/
def execFwDown (s : State) : Host.Outcome State Fault Refusal :=
  done (if s.hz.lastPub + 100000 ≤ s.tick then { s with hz := { s.hz with stale := true } } else s)

/-- MIRROR_REFRESH (R70): every word of the mirror is rewritten from its source. -/
def execMirrorRefresh (s : State) : Host.Outcome State Fault Refusal :=
  done (if s.crd.phase = .running then { s with hz := { s.hz with mirrorBad := [] } } else s)

/-- Is a word of the mirror bad: its parity failed, and its source has not written it since, as its value shows (R70). -/
def wordBad (s : State) (w : Nat) : Bool := s.hz.mirrorBad.contains (w, hzWord s 64 (4 * w))

/-- Bytes of the mirror: a word whose parity is bad reads all ones (R70). -/
def mirrorBytes (s : State) (off n : Nat) : List Byte :=
  (List.range n).map (fun i => if wordBad s ((off + i) / 4) then 0xFF else (hzBytes s 64 (off + i) 1).headD 0)

/-- Mirror words whose parity has failed since they were written. -/
def parityFails (s : State) (bad : List Nat) : State :=
  let still := s.hz.mirrorBad.filter (fun e => wordBad s e.1)
  { s with hz := { s.hz with mirrorBad := still ++ bad.map (fun w => (w, hzWord s 64 (4 * w))) } }

/-- HORIZON_MIRROR_READ (R67): codes 0x80 to 0xFF of W0. -/
def execHorizonMirrorRead (code : Nat) (r : MirrorRead) (s : State) : Host.Outcome State Fault Refusal :=
  done (if 0x80 ≤ code ∧ code ≤ 0xFF then
    w0Read (parityFails s r.bad) (fun s => w0Reply s code r.len true (mirrorBytes s (32 * (code - 0x80)) 32))
  else s)

/-! ### BAR2 (R29, R52) -/

/-- The grain address of a BAR2 offset. -/
def bar2Addr (s : State) (off : Nat) : Nat := cfgD s 0x10100 + off
/-- Does [a, a + n) lie in Loam or in HBM. -/
def inMemory (a n : Nat) : Bool :=
  (decide (Config.loamBase ≤ a) && decide (a + n ≤ Config.loamBase + Config.loamBytes))
  || (decide (Config.hbmBase ≤ a) && decide (a + n ≤ Config.hbmBase + Config.hbmBytes))
/-- Are the domains of a BAR2 access ON (Table 2.4). -/
def bar2On (s : State) (a n : Nat) : Bool :=
  domOn s 4 && (if isLoam a then domOn s (20 + loamSlice a) && domOn s (20 + loamSlice (a + n - 1)) else hbmDoms.all (domOn s))
/-- Does BAR2 answer an access at all. -/
def bar2Takes (s : State) (off n : Nat) : Bool := cfgF s 0x10108 0 0 = 1 && inMemory (bar2Addr s off) n
/-- Does a line of [a, a + n) keep failing. -/
def badLineIn (s : State) (a n : Nat) : Bool := s.strata.badLines.any (fun l => decide (l < a + n) && decide (a < l + 64))

/-- A BAR2 read; `ue` says that it meets an uncorrectable error of HBM. -/
def bar2ReadAt (s : State) (off n : Nat) (ue : Bool) : State :=
  let s := count s 181 {}
  let a := bar2Addr s off
  if !bar2Takes s off n then { (count (logAer s) 186 {}) with resp := .unsupported }
  else if !bar2On s a n then { (logAer s) with resp := .data (List.replicate n 0xFF) }
  else if (ue && !isLoam a) || badLineIn s a n then { (count s 187 {}) with resp := .poisoned }
  else
    let s := meet s (.gm a) n false
    { s with resp := .data (gmRead s a n) }

/-- BAR2_READ. An access outside the BAR does not reach the steward. -/
def execBar2Read (off len : Nat) (ue : Bool) (s : State) : Host.Outcome State Fault Refusal :=
  done (if hostMay s 0 && decide (off + len ≤ s.regs.bar2Size) then bar2ReadAt s off len ue else s)

/-- A BAR2 write: unsupported as a read is; dropped where a domain is not ON; else it goes to memory and clears reservations. -/
def bar2WriteAt (s : State) (off : Nat) (bs : List Byte) : State :=
  let s := count s 182 {}
  let a := bar2Addr s off
  if !bar2Takes s off bs.length then logAer s
  else if bar2On s a bs.length then agentWrite s a bs
  else s

/-- BAR2_WRITE. -/
def execBar2Write (off : Nat) (bytes : List Byte) (s : State) : Host.Outcome State Fault Refusal :=
  done (if hostMay s 0 && decide (off + bytes.length ≤ s.regs.bar2Size) then bar2WriteAt s off bytes else s)

end Sys2Proof.Machine
end

