-- ==== Sys2Proof/Machine/Reset.lean ====
section
/-! DEFINITION. Resets, supplies, clocks and domains (R22 to R49, R394): the events of pins and monitors, and DOMAIN_STATE. -/

namespace Sys2Proof.Machine

/-! ### Power-on (R32, R44, R47, R394, Table 2.8) -/

/-- POR_N_LOW: power-on reset is asserted. -/
def execPorNLow (s : State) : Host.Outcome State Fault Refusal :=
  done (powerOn { s with crd := { s.crd with porN := false } })

/-- SUPPLY_MONITOR_RESET (R394): the internal monitor asserts power-on reset; straps stay as sampled. -/
def execSupplyMonitorReset (s : State) : Host.Outcome State Fault Refusal :=
  done (powerOn { s with crd := { s.crd with supplyOk := false } })

/-- SUPPLY_MONITOR_RELEASE (R394). -/
def execSupplyMonitorRelease (s : State) : Host.Outcome State Fault Refusal :=
  done (leavePor { s with crd := { s.crd with supplyOk := true } })

/-- POR_N_RISE (R44): the straps are sampled. -/
def execPorNRise (bootHost : Bool) (w0Addr : Fin 4) (testEn : Bool) (s : State) : Host.Outcome State Fault Refusal :=
  done (if s.crd.porN then s
  else
    leavePor { s with crd := { s.crd with porN := true, bootHost := bootHost, w0Addr := w0Addr.val, testEn := testEn } })

/-- ROOT_OK: ROOT is qualified and TICK runs; in clock fallback ROOT is present again. -/
def execRootOk (s : State) : Host.Outcome State Fault Refusal :=
  done (if s.crd.phase = .por ∨ s.crd.rootOk then s
  else
    let crd := { s.crd with rootOk := true, rootSince := s.tick }
    { s with crd := if crd.phase = .qualifying then { crd with phase := .locking } else crd })

/-- PLL_LOCK (R41, Table 2.8): the trim load starts, or a warm reset that waits in fallback may go on. -/
def execPllLock (s : State) : Host.Outcome State Fault Refusal :=
  done (if !s.crd.rootOk ∨ s.crd.pllLock then s
  else
    let crd := { s.crd with pllLock := true }
    { s with crd := if crd.phase = .locking ∧ !crd.fallback then { crd with phase := .trim } else crd })

/-- TRIM_PASS_END (R38). -/
def execTrimPassEnd (words : List Word) (coreVid : Nat) (inRange : Bool) (s : State) : Host.Outcome State Fault Refusal :=
  done (trimPass s words coreVid inRange)

/-! ### Warm and Marl-only resets (R32, R35, R41, R237) -/

/-- PERST_N: its fall is a warm reset; its rise lets U train (R45). -/
def execPerstN (asserted : Bool) (s : State) : Host.Outcome State Fault Refusal :=
  let s' := { s with crd := { s.crd with perstN := !asserted } }
  done (if asserted ∧ s.crd.perstN then warmReset s' 1 else s')

/-- WARM_N low for 1 µs. -/
def execWarmN (s : State) : Host.Outcome State Fault Refusal := done (warmReset s 3)

/-- HOT_RESET: in band, so only while U is in L0. -/
def execHotReset (s : State) : Host.Outcome State Fault Refusal := done (if s.links.u.l0 then warmReset s 2 else s)

/-- DL_DOWN (R237): U falls out of L0. -/
def execDlDown (s : State) : Host.Outcome State Fault Refusal := done (if s.links.u.l0 then warmReset s 2 else s)

/-- WARM_RESET_AFTER_FALLBACK (R41): ROOT has been present for 10 ms and the PLL has locked. -/
def execWarmResetAfterFallback (s : State) : Host.Outcome State Fault Refusal :=
  done (if s.crd.fallback ∧ s.crd.warmWaiting ∧ s.crd.rootOk ∧ s.crd.rootSince + 10000 ≤ s.tick ∧ s.crd.pllLock then warmClear s
  else s)

/-- The record of an uncorrectable error in Marl's SRAM (Table 15.3), whose address the command does not carry: a free value (log entry
8). -/
def marlSramUe (s : State) : State :=
  let (v, s) := drawFree s
  logRec s 0x41 2 2 (leBytes 8 3 ++ leBytes 8 v.toNat ++ leBytes 8 0)

/-- MARL_WATCHDOG: the watchdog's expiry or Marl's LOCKUP. Whether an uncorrectable error in code SRAM caused it, which the next fast
wake finds (R131), the command does not carry: a free value (log entry 8). -/
def execMarlWatchdog (s : State) : Host.Outcome State Fault Refusal :=
  done (if s.crd.phase ≠ .running ∨ s.crd.warmWaiting then s
  else
    let (v, s) := drawFree s
    marlReset (if v.toNat % 2 = 1 then marlSramUe { s with boot := { s.boot with codeBad := true } } else s) 5)

/-! ### Clocks (R23, R40) -/

/-- GCLK_SWITCH: GCLK_APPLIED takes the capped request. -/
def execGclkSwitch (s : State) : Host.Outcome State Fault Refusal :=
  done (if s.crd.switching ∧ !s.crd.fallback then
    { s with crd := { s.crd with switching := false, gclkApplied := min s.crd.gclkReq s.crd.gclkCap } }
  else s)

/-- CLOCK_LOSS. -/
def execClockLoss (rootGone : Bool) (s : State) : Host.Outcome State Fault Refusal := done (clockLost s rootGone)

/-! ### Domains (R30, R31, R36, R42) -/

/-- DOMAIN_STATE from step 10: a part of D14 to D19 is refused as a whole; otherwise the domains are taken in order, D14 to D19 as
one. -/
def domainStateBody (s : State) (c : Cmd) : State :=
  let t := DomSt.ofCode (c.f 0xA 1)
  let all := (List.range (c.f 9 1)).map (fun i => c.f 8 1 + i)
  let hbm := all.filter isHbm
  let d := hbm.headD 14
  if hbm ≠ [] ∧ hbm.length < 6 then complete (setErr s d 1) c.seq (refuse .notPermitted 5 (d * 256 + 1))
  else
    let up := decide (t = .on)
    let ds := all.filter (fun d => !isHbm d || d = (if up then 14 else 19))
    let ds := if up then ds else ds.reverse
    seqRun s { cmd := c.seq, target := t, todo := ds } ds

/-- DOMAIN_STATE. -/
def execDomainState (c : Nat) (s : State) : Host.Outcome State Fault Refusal :=
  done (startCmd s c 0x40 none noDoms noHold domainStateBody)

/-- DOMAIN_TRANSITION_STEP: a power switch is good, an initialisation ends, or a leg ends; D14 to D19 step as one. A bed's march
names its bad grains (R159). -/
def execDomainTransitionStep (d : Fin 92) (marchBad : List (Fin 17)) (s : State) : Host.Outcome State Fault Refusal :=
  done (if s.crd.phase = .running then
    seqPump ((unitOf d.val).foldl (fun s k => stepDom s k (marchBad.map (·.val))) s)
  else s)

/-- Twice the power-switch time of Table 2.5, in µs. -/
def switchUs (d : Nat) : Nat :=
  if isHbm d then 12000 else if isSpoke d then 1000 else if d = 4 then 100 else 80

/-- A power switch did not report good in time (R42): the domain is OFF, with ERR 7, and the command on it completes TIMEOUT. -/
def switchFails (s : State) (d : Nat) : State :=
  let q := s.domSeqs.filterMap (fun q => (q.moving.find? (fun m => (unitOf m.1).contains d)).map (fun m => (q, m)))
  let s := (unitOf d).foldl (fun s k => modDom s k (fun x => { x with cur := .off, phase := .idle, target := .off })) s
  let s := { setErr s d 7 with crd := { s.crd with domFault := true } }
  let s := if isBed d then bedAbsent s (d - 28) else s
  let s := logRec s 0x42 1 1 (leBytes 1 d)
  seqPump (q.foldl (fun s m => seqFails s m.1 d m.2.2 7) s)

/-- POWER_SWITCH_TIMEOUT. -/
def execPowerSwitchTimeout (d : Fin 92) (s : State) : Host.Outcome State Fault Refusal :=
  let x := getDom s d.val
  done (if x.phase = .switching ∧ x.since + switchUs d.val ≤ s.tick then switchFails s d.val else s)

/-- DOMAIN_RESET_END (R36): BUSY returns to 0. -/
def execDomainResetEnd (d : Fin 92) (s : State) : Host.Outcome State Fault Refusal :=
  done (if (getDom s d.val).phase = .resetting then seqPump (modDom s d.val (fun x => { x with phase := .idle })) else s)

end Sys2Proof.Machine
end

