-- ==== Sys2Proof/Machine/Spoke.lean ====
section
/-! DEFINITION. Links, enumeration and the spoke contract's handshakes (R236 to R261), and ACC_FW_PUSH and ACC_RELEASE (R126,
R127, R253). -/

namespace Sys2Proof.Machine

/-! ### U -/

/-- A rate code and a width that a link can have (Table 10.1, Table 10.7). -/
def linkForm (rate width : Nat) : Bool :=
  1 ≤ rate && rate ≤ 6 && (width = 1 || width = 4 || width = 8 || width = 16)

/-- The host's configuration writes that no row of the table is: it enables VFs where none is enabled (R98), and sizes BAR2 (R52). -/
def hostConfigures (s : State) (vfs bar2Bits : Nat) : State :=
  let s : State := if s.qc.vfs = 0 ∧ vfs ≤ Config.totalVfs then { s with qc := { s.qc with vfs := vfs } } else s
  if 20 ≤ bar2Bits ∧ bar2Bits ≤ 36 then { s with regs := { s.regs with bar2Size := 2 ^ bar2Bits } } else s

/-- Can a link in L0 of one width carry its traffic on another: the L0p steps x16, x8 and x4 (Table 10.1). -/
def l0pStep (width lanes : Nat) : Bool := (lanes = 4 || lanes = 8 || lanes = 16) && decide (lanes ≤ width)

/-- Is a report of U's link an L0p width change: it stays in L0 at its rate (Table 10.6, log entry 31). -/
def uL0p (u : ULink) (rate width : Nat) : Bool := u.l0 && !u.recovering && decide (rate = u.rate) && l0pStep u.width width

/-- U in L0 at a rate and width; an L0p change keeps the negotiated width. -/
def uUp (u : ULink) (rate width : Nat) : ULink :=
  if uL0p u rate width then { u with l0p := decide (width < u.width) }
  else { u with l0 := true, rate := rate, width := width, recovering := false, l0p := false }

/-- U_LINK_UP (R45, R241): U is in L0 at a rate and width, once trim is done and PERST_N is high, and the host configures it (log
entry 31). -/
def execULinkUp (rate width vfs bar2Bits : Nat) (s : State) : Host.Outcome State Fault Refusal :=
  done (if s.crd.phase = .running ∧ !s.crd.fallback ∧ s.crd.perstN ∧ linkForm rate width then
    hostConfigures (linkResume { s with links := { s.links with u := uUp s.links.u rate width } } 8) vfs bar2Bits
  else s)

/-- The SR-IOV capability of the PF (R236), by the dword offsets of PCIe 6.0: InitialVFs and TotalVFs, NumVFs, First VF Offset and VF
Stride. No row of the table reads it (log entry 31). -/
def sriovDword (s : State) (off : Nat) : Nat :=
  match off with
  | 0x0C => Config.totalVfs + 2 ^ 16 * Config.totalVfs
  | 0x10 => s.qc.vfs
  | 0x14 => Config.vfStride + 2 ^ 16 * Config.vfStride
  | _ => 0

/-- D3HOT (R235, Table 10.1): accepted; no domain and no accelerator changes. -/
def execD3hot (s : State) : Host.Outcome State Fault Refusal :=
  done { s with links := { s.links with u := { s.links.u with d3hot := true } } }

/-- U leaves L0's normal operation for a cause, and accesses through it are held: a Recovery counts, a PLL relock does not, and a
corrected error counts as one too (Table 10.7, Table 15.1, Table 15.4). -/
def uLeaves (s : State) (why : LinkCause) : State :=
  let u := s.links.u
  let n := if why = .relock then 0 else 1
  let s := { s with links := { s.links with u := { u with recovering := true, downSince := s.tick, recoveries := satN 8 (u.recoveries + n) } } }
  match why with
  | .relock => s
  | .recovery => count s 183 {}
  | .corrected => ltAdd (count (count s 183 {}) 184 {}) 31

/-- U_RECOVERY (R205, R242): U enters Recovery or relocks its PLL; the return to L0 lets accesses go on. -/
def execURecovery (event : Option LinkCause) (s : State) : Host.Outcome State Fault Refusal :=
  done (match event with
    | some why => if s.links.u.l0 ∧ !s.links.u.recovering then uLeaves s why else s
    | none =>
      if s.links.u.recovering then linkResume { s with links := { s.links with u := { s.links.u with recovering := false } } } 8
      else s)

/-! ### Training (R240 to R243, R259) -/

/-- SPERST_N_DEASSERT (R240): no sooner than 100 µs after the reference clock runs and VCORE is good. -/
def execSperstNDeassert (n : Fin 8) (s : State) : Host.Outcome State Fault Refusal :=
  let a := getAcc s n.val
  let x := getSpoke s n.val
  done (if a.phase = .link ∧ !x.sperstHigh ∧ refClock s n.val ∧ x.clkSince + 100 ≤ s.tick
      ∧ (getRail a 4).onSince + 100 ≤ s.tick then
    (if domOn s (6 + n.val) then
      setSpoke s n.val (latchTraining s n.val { x with sperstHigh := true, link := .training, since := s.tick })
     else setSpoke s n.val { x with sperstHigh := true })
  else s)

/-- Is a report of spoke n's link an L0p width change: it stays in L0 at its rate; L0P_EN permits a width below the negotiated one
(Tables 10.1 and 10.7). -/
def spokeL0p (s : State) (n rate width : Nat) : Bool :=
  let x := getSpoke s n
  decide (x.link = .l0) && x.locked && decide (rate = x.rate) && l0pStep x.width width
  && (decide (width = x.width) || decide (cfgF s (0x508104 + 0x40 * n) 4 4 = 1))

/-- A spoke's link in L0 at a rate and width, its PLL locked. -/
def linkAt (x : Spoke) (rate width : Nat) : Spoke := { x with link := .l0, rate := rate, width := width, lanes := width, locked := true }

/-- SPOKE_LINK_UP (R241, R242, R246): L0 after training, when enumeration waits for the readiness message; L0 again after Recovery or
a PLL relock, when an enumerated spoke is ready; or an L0p width change. -/
def execSpokeLinkUp (n : Fin 8) (rate width : Nat) (s : State) : Host.Outcome State Fault Refusal :=
  let x := getSpoke s n.val
  done (if !(linkForm rate width) ∨ x.maxRate < rate ∨ x.maxWidth < width ∨ !domOn s (6 + n.val) then s
  else if x.link = .training then
    setSpoke s n.val { linkAt x rate width with since := s.tick, enum := .readiness, trained := true }
  else if x.link = .recovery ∨ (x.link = .l0 ∧ !x.locked) then
    let s := setSpoke s n.val (linkAt x rate width)
    if x.enum = .done then linkResume (spokeBecameReady s n.val) n.val else s
  else if spokeL0p s n.val rate width then setSpoke s n.val { x with lanes := width }
  else s)

/-- SPOKE_RECOVERY: the spoke enters Recovery, or relocks its PLL in L0 (R242); a corrected error counts (R259, Tables 15.1 and
15.4). -/
def execSpokeRecovery (e : LinkEvent) (s : State) : Host.Outcome State Fault Refusal :=
  let n := e.spoke.val
  done (match e.why with
    | .recovery => enterRecovery s n
    | .corrected => if (getSpoke s n).link = .l0 then enterRecovery (ltAdd (count s (195 + 4 * n) {}) 31) n else s
    | .relock =>
      if (getSpoke s n).link = .l0 then spokeNotReady (modSpoke s n (fun x => { x with locked := false })) n .l0 else s)

/-- SPOKE_LINK_DOWN (R243): a spoke of an accelerator in IDLE or RUN falls to Detect. -/
def execSpokeLinkDown (n : Fin 8) (s : State) : Host.Outcome State Fault Refusal :=
  let x := getSpoke s n.val
  done (if (x.link = .l0 ∨ x.link = .recovery) ∧ accLive (getAcc s n.val) then
    spokeNotReady (setSpoke s n.val { x with linkDown := true, enum := .none, rate := 0, width := 0,
                                             retryAt := some (s.tick + 100000) }) n.val .detect
  else s)

/-- SPOKE_TRAINING_RETRY (R243): every 100 ms, until the link returns or An leaves IDLE and RUN. -/
def execSpokeTrainingRetry (n : Fin 8) (s : State) : Host.Outcome State Fault Refusal :=
  let x := getSpoke s n.val
  done (match x.retryAt with
    | some t =>
      if x.linkDown ∧ x.link ≠ .l0 ∧ t ≤ s.tick ∧ accLive (getAcc s n.val) then
        setSpoke s n.val (latchTraining s n.val { x with link := .training, since := s.tick,
                                                         retryAt := some (s.tick + 100000) })
      else s
    | none => s)

/-- SPOKE_TRAINING_TIMEOUT (R259): 20 ms after SPERST_N with no L0, the command completes LINK_NOT_READY; the rails stay, so An
is in IDLE (log entry 38). -/
def execSpokeTrainingTimeout (n : Fin 8) (s : State) : Host.Outcome State Fault Refusal :=
  let x := getSpoke s n.val
  let a := getAcc s n.val
  done (if a.phase = .link ∧ x.link = .training ∧ x.since + 20000 ≤ s.tick then
    let s := setAcc s n.val { a with st := .idle, share := plimApplied a }
    let s := if a.before = .off ∨ a.before = .aux then setAccBoot s n.val { windowOpen := true } else s
    endTransition s n.val { status := .linkNotReady }
  else s)

/-- SPOKE_FATAL_ERROR (R259, R85): the transactions of the spoke fail, and the port retrains without SPERST_N. -/
def execSpokeFatalError (n : Fin 8) (s : State) : Host.Outcome State Fault Refusal :=
  done (if (getSpoke s n.val).link = .l0 then
    let s := modSpoke s n.val (fun x => { x with aer := x.aer + 1 })
    let s := match spokeMove s n.val with
      | some m => if m.stage = .data then failMove s m { status := .dataError } else s
      | none => s
    enterRecovery s n.val
  else s)

/-- SPOKE_HOLD_EXPIRY (R242): a command held for 10 ms completes LINK_NOT_READY with nothing committed; a move past its
commit point completes OK with its END failed (R250). -/
def spokeHoldExpiry (c : Nat) (s : State) : State :=
  match findCmd s c with
  | none => s
  | some cmd =>
    match cmd.holdSince with
    | none => s
    | some t =>
      if s.tick < t + 10000 then s
      else
        let s := modCmd s c (fun x => { x with held := true, holdSince := none })
        let r : Result := { status := .linkNotReady }
        if cmd.op = 0x20 then endTransition s cmd.accN r
        else match findMove s c with
          | some m => if m.stage = .ending then mbxFailed s m 0x20 else failMove s m r
          | none => complete (sealDrop s c) c r

/-- SPOKE_HOLD_EXPIRY. -/
def execSpokeHoldExpiry (c : Nat) (s : State) : Host.Outcome State Fault Refusal := done (spokeHoldExpiry c s)

/-- INBOUND_REQUEST (R239): Unsupported Request, counted and logged under the spoke's AER. -/
def execInboundRequest (n : Fin 8) (s : State) : Host.Outcome State Fault Refusal :=
  done (if (getSpoke s n.val).link = .l0 then
    modSpoke s n.val (fun x => { x with inboundUr := satN 8 (x.inboundUr + 1), aer := x.aer + 1 })
  else s)

/-! ### Enumeration and the contract (R238, R244 to R246, R252) -/

/-- DEVICE_READINESS_STATUS (R246): configuration requests may proceed. -/
def execDeviceReadinessStatus (n : Fin 8) (s : State) : Host.Outcome State Fault Refusal :=
  let x := getSpoke s n.val
  done (if x.link = .l0 ∧ x.enum = .readiness then setSpoke s n.val { x with enum := .enumerate } else s)

/-- Enumeration has completed, with or without the contract: the spoke is ready, the exit from RETAIN that it belongs to copies
MEM_KEPT and records a 0 (R252), and a waiting transition goes on (Table 11.2). -/
def enumDone (s : State) (n : Nat) (contract memKept : Bool) : State :=
  let wake := (getSpoke s n).waking
  let s := modSpoke s n (fun x => { x with contract := contract, enum := .done, waking := false,
                                           memKept := if wake then memKept else x.memKept })
  let s := if wake && !memKept then accEvent s n 1 else s
  linkDone (linkResume (spokeBecameReady s n) n) n

/-- The BAR of a number. -/
def barAt (e : EnumIn) (k : Nat) : Option BarIn := e.bars.find? (fun b => b.index = k && b.size ≠ 0)

/-- The address that a location register names: the base of the BAR in [2:0], and the offset (R248). A BAR that function 0 lacks has
base 0. -/
def barAddr (e : EnumIn) (loc off : Nat) : Nat := ((barAt e (loc % 8)).map BarIn.base).getD 0 + off

/-- The end of the spoke bus addresses that a BAR may have (R238). -/
def barEnd (b : BarIn) : Nat := if b.wide then 2 ^ 36 else 2 ^ 32

/-- Do the BARs fit: sizes are powers of two, aligned to themselves, so the 32-bit ones fit where they sum to 4 GiB at most and all of
them where they sum to 64 GiB at most (R238). -/
def barsFit (bs : List BarIn) : Bool :=
  decide (((bs.filter (fun b => !b.wide)).map BarIn.size).sum ≤ 2 ^ 32) && decide ((bs.map BarIn.size).sum ≤ 2 ^ 36)

/-- Is a BAR placed as R238 says: aligned to its size, within its range, and beside every other of a list. -/
def barPlaced (b : BarIn) (rest : List BarIn) : Bool :=
  b.base % b.size = 0 && decide (b.base + b.size ≤ barEnd b)
  && rest.all (fun c => c.size = 0 || decide (b.base + b.size ≤ c.base) || decide (c.base + c.size ≤ b.base))

/-- Are the BARs placed as R238 says. The rule leaves the steward the places, so the command brings them (log entry 38). -/
def barsPlaced : List BarIn → Bool
  | [] => true
  | b :: rest => (b.size = 0 || barPlaced b rest) && barsPlaced rest

/-- The spoke contract's capability among those of function 0 (R244). -/
def contractCap (e : EnumIn) : Option DvsecIn :=
  e.caps.find? (fun c => c.vendor = Config.vendorId && c.id = 0x0A80 && c.revision = 0)

/-- Does an enumeration find the contract (R244): its capability, in a BAR there is, and a KC_ID of signature 0x4B43 and major
version 1. -/
def findsContract (e : EnumIn) : Bool :=
  match contractCap e with
  | some c => (barAt e (c.loc % 8)).isSome && e.kcId / 2 ^ 8 = 0x4B4301
  | none => false

/-- The windows of the contract block, at the BARs' places (R244, R248). -/
def contractWindows (e : EnumIn) (x : Spoke) : Spoke :=
  let kc := match contractCap e with | some c => barAddr e c.loc (c.loc / 2 ^ 12 * 2 ^ 12 + c.locHi * 2 ^ 32) | none => 0
  { x with kcBase := kc, exportBase := barAddr e e.exportLoc (e.exportLoc / 2 ^ 16 * 2 ^ 16),
           bootBase := barAddr e e.bootLoc (e.bootLoc / 2 ^ 16 * 2 ^ 16),
           exportSize := BitVec.ofNat 64 e.exportSize, bootSize := BitVec.ofNat 32 e.bootSize }

/-- May configuration requests be made of spoke n (R246): after the readiness message, or 100 ms after L0, which an accelerator that
shows no contract always waits for. -/
def mayEnumerate (s : State) (n : Nat) (e : EnumIn) : Bool :=
  let x := getSpoke s n
  decide (x.link = .l0) && x.locked
  && ((decide (x.enum = .enumerate) && barsFit e.bars && findsContract e)
      || ((decide (x.enum = .enumerate) || decide (x.enum = .readiness)) && decide (x.since + 100000 ≤ s.tick)))

/-- SPOKE_ENUMERATION (R238, R244): BARs that do not fit leave memory decode off; else it is on, and the contract is looked for. -/
def execSpokeEnumeration (n : Fin 8) (e : EnumIn) (s : State) : Host.Outcome State Fault Refusal :=
  let x := getSpoke s n.val
  done (if !mayEnumerate s n.val e then s
  else if !barsFit e.bars then enumDone (setSpoke s n.val { x with enumErr := true, memSpace := false }) n.val false false
  else if !barsPlaced e.bars then s
  else
    let x := { contractWindows e x with enumErr := false, memSpace := true, since := s.tick }
    if findsContract e then setSpoke s n.val { x with enum := .poll } else enumDone (setSpoke s n.val x) n.val false false)

/-- CONTRACT_POLL (R244): KC_STAT.READY reads 1 within 1.0 ms. -/
def execContractPoll (n : Fin 8) (ready memKept : Bool) (s : State) : Host.Outcome State Fault Refusal :=
  let x := getSpoke s n.val
  done (if x.link = .l0 ∧ x.locked ∧ x.enum = .poll ∧ ready ∧ s.tick ≤ x.since + 1000 then enumDone s n.val true memKept else s)

/-- CONTRACT_TIMEOUT (R245). -/
def execContractTimeout (n : Fin 8) (s : State) : Host.Outcome State Fault Refusal :=
  let x := getSpoke s n.val
  done (if x.enum = .poll ∧ x.since + 1000 ≤ s.tick then
    enumDone (accEvent (setSpoke s n.val { x with contractTimeout := true }) n.val 4) n.val false false
  else s)

/-! ### Mailbox (R249, R250) -/

/-- Outcome of a mailbox poll that reads the descriptor's SEQ with a STATUS. -/
def mbxAnswer (s : State) (m : Move) (status : Nat) : State :=
  if status = 0 then
    (if m.stage = .ending then finishMove s m else modMove s m.cmd (fun x => { x with stage := .data }))
  else mbxFailed s m (if status = 2 then 0x12 else 0x11)

/-- Does a move wait for its descriptor's answer. -/
def mbxWaits (m : Move) : Bool := (m.stage = .begin || m.stage = .ending) && !m.unposted

/-- When the polling of a move's descriptor ends: MBX_TIMEOUT after it was posted (R249). -/
def mbxEnd (s : State) (n : Nat) (m : Move) : Nat := m.since + cfgF s (0x50810C + 0x40 * n) 15 0

/-- MBX_ACK_POLL (R249): a reply with another SEQ is ignored, and polling ends with MBX_TIMEOUT. -/
def execMbxAckPoll (n : Fin 8) (seq status : Nat) (s : State) : Host.Outcome State Fault Refusal :=
  done (match spokeMove s n.val with
    | some m =>
      if mbxWaits m && m.mbxSeq = seq && spokeReady s n.val && decide (s.tick ≤ mbxEnd s n.val m) then mbxAnswer s m status else s
    | none => s)

/-- MBX_TIMEOUT (R250). -/
def execMbxTimeout (n : Fin 8) (s : State) : Host.Outcome State Fault Refusal :=
  done (match spokeMove s n.val with
    | some m =>
      if mbxWaits m && decide (mbxEnd s n.val m ≤ s.tick) then mbxFailed s m 0x20 else s
    | none => s)

/-! ### RETAIN handshake (R251, Table 10.6) -/

/-- When the grace of the handshake on An began: with its command, or with the latch of a stop. -/
def graceFrom (s : State) (n : Nat) : Nat :=
  match getStop s n with
  | some x => x.since
  | none => (getAcc s n).since

/-- RETAIN_POLL: RETAIN_READY takes the group-B rails away, at any poll up to the grace's end; REFUSED ends the handshake, and its
REASON is logged (Table 10.2, log entry 38). -/
def execRetainPoll (n : Fin 8) (ready : Bool) (refused : Option Byte) (s : State) : Host.Outcome State Fault Refusal :=
  done (if (getAcc s n.val).phase = .handshake ∧ spokeReady s n.val ∧ s.tick ≤ graceFrom s n.val + graceUs s n.val then
    (if ready then
      (if (getStop s n.val).isSome then stopAccDie s n.val true else startDown s n.val)
     else match refused with
       | some r => handshakeFails (modSpoke s n.val (fun x => { x with reason := r })) n.val 0x11
       | none => s)
  else s)

/-- RETAIN_GRACE_EXPIRY: a command's handshake has no answer within RETAIN_GRACE. -/
def execRetainGraceExpiry (n : Fin 8) (s : State) : Host.Outcome State Fault Refusal :=
  done (if (getAcc s n.val).phase = .handshake ∧ (getStop s n.val).isNone
      ∧ graceFrom s n.val + graceUs s n.val ≤ s.tick then handshakeFails s n.val 0x12
  else s)

/-! ### Boot window (R126, R127, R253) -/

/-- The spoke domain of the accelerator named (Table 2.4). -/
def bootDoms (s : State) (c : Cmd) : Option Nat := firstNotOn s [6 + c.accN]

/-- ACC_NOT_READY of ACC_FW_PUSH and ACC_RELEASE (R126, R411). -/
def bootRefusal (s : State) (c : Cmd) : Option Result :=
  let n := c.accN
  let a := getAcc s n
  if a.cut then some (refuse .accNotReady 5 0x30)
  else if !accLive a then some (refuse .accNotReady 5 0x16)
  else if !(getAccBoot s n).windowOpen then some (refuse .accNotReady 5 0x17)
  else if !(getSpoke s n).contract then some (refuse .accNotReady 5 0x14)
  else if c.op = 0x23 ∧ (getSpoke s n).bootSize.toNat < c.f 0x20 8 + c.f 0x18 8 then some (refuse .accNotReady 5 0x18)
  else none

/-- Holds a command whose spoke is not ready (R242). -/
def holdCmd (s : State) (c : Nat) : State := modCmd s c (fun x => { x with holdSince := some (x.holdSince.getD s.tick) })

/-- ACC_FW_PUSH with a seal context copies LEN bytes to boot-window offset WIN and feeds them to the running digest; a failed read of
the buffer gives DATA_ERROR. -/
def fwPushRun (dma : Option Nat) (c : Cmd) (s : State) : State :=
  let n := c.accN
  match dma with
  | some a => complete s c.seq (dmaReadErr a)
  | none =>
    let len := c.f 0x18 8
    let bs := hostRead s (c.f 0x10 8) len
    let s := accWrite s n ((getSpoke s n).bootBase + c.f 0x20 8) bs
    let b := getAccBoot s n
    let s := setAccBoot s n { b with pushed := b.pushed ++ bs }
    let s := count s 167 { tenant := c.tenant } (ceilDiv len 64)
    let s := count s 160 { tenant := c.tenant } (ceilDiv len 4096)
    complete s c.seq (okR len)

/-- ACC_FW_PUSH waits for a seal context (R128), or runs with one. The state of its running digest is in the suspend store already
where a push came before. -/
def fwPushCopy (dma : Option Nat) (s : State) (c : Cmd) : State :=
  sealServe s (sealWho c.seq) (ceilDiv (c.f 0x18 8) 0x100000) (getAccBoot s c.accN).pushed.isEmpty (fwPushRun dma c)

/-- ACC_FW_PUSH from step 10. -/
def fwPushBody (dma : Option Nat) (s : State) (c : Cmd) : State :=
  match bootRefusal s c with
  | some r => complete s c.seq r
  | none => if spokeReady s c.accN then fwPushCopy dma s c else holdCmd s c.seq

/-- ACC_FW_PUSH: it starts, or it goes on once the spoke it was held for is ready. -/
def execAccFwPush (c : Nat) (dma : Option Nat) (s : State) : Host.Outcome State Fault Refusal :=
  done (match findCmd s c with
    | some cmd =>
      if cmd.started ∧ cmd.op = 0x23 then (if spokeReady s cmd.accN then fwPushCopy dma s cmd else holdCmd s c)
      else startCmd s c 0x23 none bootDoms noHold (fwPushBody dma)
    | none => s)

/-- ACC_RELEASE from step 10. -/
def releaseBody (s : State) (c : Cmd) : State :=
  match bootRefusal s c with
  | some r => complete s c.seq r
  | none => if spokeReady s c.accN then postRelease s c.accN c.seq else holdCmd s c.seq

/-- ACC_RELEASE. -/
def execAccRelease (c : Nat) (s : State) : Host.Outcome State Fault Refusal :=
  done (startCmd s c 0x24 none bootDoms noHold releaseBody)

/-- RELEASE_POLL (R253, R127): RELEASED within 100 ms fixes the running digest as the measurement and closes the window; 100 ms without
it give value 0x15. -/
def releasePoll (n : Nat) (released : Bool) (s : State) : State :=
  let b := getAccBoot s n
  match b.relCmd with
  | none => s
  | some c =>
    if !spokeReady s n ∨ (findCmd s c).isNone then s
    else if released ∧ s.tick ≤ b.relSince + 100000 then
      let s := setAccBoot s n { b with windowOpen := false, released := true, relCmd := none,
                                       measurement := (sha384 b.pushed).toNat }
      complete s c (okR)
    else if b.relSince + 100000 ≤ s.tick then
      complete (setAccBoot s n { b with relCmd := none }) c (refuse .accNotReady 5 0x15)
    else s

/-- RELEASE_POLL. -/
def execReleasePoll (n : Fin 8) (released : Bool) (s : State) : Host.Outcome State Fault Refusal :=
  done (releasePoll n.val released s)

end Sys2Proof.Machine
end

