-- ==== Sys2Proof/Machine/Tile.lean ====
section
/-! DEFINITION. The tile engine of the grains (R165 to R171): issue into the queue, start by pipe, and the effect of each
tile instruction as it completes. -/

namespace Sys2Proof.Machine

/-! ### Issue (R165, R166) -/

/-- TOP of a tile word. -/
def tTop (w : Word) : Nat := bf w 27 24
/-- TILE of a tile word. -/
def tTile (w : Word) : Nat := bf w 23 22
/-- FMT of a tile word. -/
def tFmt (w : Word) : Nat := bf w 11 8
/-- MOD of a tile word. -/
def tMod (w : Word) : Nat := bf w 7 0
/-- Field A of a tile word. -/
def tA (w : Word) : Nat := bf w 21 17
/-- Field B of a tile word. -/
def tB (w : Word) : Nat := bf w 16 12

/-- Operand checks of R166: 64-byte alignment, then the whole tile in the own local store below 0x3_F000. The local store
offset, or the exception's cause. -/
def tileAddr (s : State) (p a n : Nat) : Nat ⊕ Nat :=
  if a % 64 ≠ 0 then .inr 3
  else match resolve s p a with
    | .ls ph off => if ph = p ∧ off + n ≤ 0x3F000 then .inl off else .inr 2
    | _ => .inr 2

/-- Puts an instruction into the tile queue. Stores the thread has issued to the steward's memories are performed first (R193,
Table 7.15). -/
def enqueue (s : State) (p t : Nat) (w : Word) (a b : Nat) : State :=
  let s := drainLinks s p t (fun l => l = 9)
  let s := count s 5 (grainOcc s p)
  let s := modGrain s p (fun g => { g with queue := g.queue ++
    [{ thread := t, top := tTop w, tile := tTile w, addrA := a, addrB := b, fmt := tFmt w, modf := tMod w }] })
  modThread s p t (fun x => advance { x with tileOps := x.tileOps + 1 })

/-- Scalar registers that a tile instruction reads, by its TOP. -/
def tileRegs (k : Nat) (w : Word) : List Nat :=
  match k with
  | 1 => [tA w]
  | 2 => [tA w]
  | 3 => [tA w, tB w]
  | _ => []

/-- Is the tile queue full: 16 instructions that no pipe has taken (R165). -/
def tileQueueFull (s : State) (p : Nat) : Bool := 16 ≤ ((getGrain s p).queue.filter (fun o => !o.started)).length

/-- Issues a tile instruction that names an operand size for A and one for B (0: no operand). -/
def tileIssue (top sizeA sizeB : Word → Nat) (k p t : Nat) (s0 : State) : State :=
  issue s0 p t (fun x => x = .tile k) (tileRegs k)
    (fun s w =>
      if tileQueueFull s p ∨ heldOn s p t (fun l => l = 9) then s0
      else
        let th := getThread s p t
        let side (r size : Nat) : Nat ⊕ Nat :=
          if size = 0 then .inl 0 else tileAddr s p (gpr th r).toNat (1024 * size)
        match side (tA w) (sizeA w), side (tB w) (sizeB w) with
        | .inr 3, _ => takeExc s p t 3 w.toNat (gpr th (tA w)).toNat
        | _, .inr 3 => takeExc s p t 3 w.toNat (gpr th (tB w)).toNat
        | .inr c, _ => takeExc s p t c w.toNat (gpr th (tA w)).toNat
        | _, .inr c => takeExc s p t c w.toNat (gpr th (tB w)).toNat
        | .inl a, .inl b =>
          let s := if top w = 0 then s else count s (top w) (grainOcc s p)
          enqueue s p t w a b)

/-- No operand, or no event of its own. -/
def noOp (_ : Word) : Nat := 0

/-- TZERO. -/
def execTzero (p : Fin 1088) (t : Fin 8) (s : State) : Host.Outcome State Fault Refusal :=
  done (tileIssue noOp noOp noOp 0 p.val t.val s)
/-- TLOAD. -/
def execTload (p : Fin 1088) (t : Fin 8) (s : State) : Host.Outcome State Fault Refusal :=
  done (tileIssue noOp (fun w => tloadSize (tFmt w)) noOp 1 p.val t.val s)
/-- TSTORE. -/
def execTstore (p : Fin 1088) (t : Fin 8) (s : State) : Host.Outcome State Fault Refusal :=
  done (tileIssue noOp (fun w => tstoreSize (tFmt w)) noOp 2 p.val t.val s)
/-- TMMA: counted as 8-bit or BF16 (Table 15.4). -/
def execTmma (p : Fin 1088) (t : Fin 8) (s : State) : Host.Outcome State Fault Refusal :=
  done (tileIssue (fun w => if tFmt w = 8 then 7 else 6) (fun w => tmmaSize (tFmt w)) (fun w => tmmaSize (tFmt w)) 3
    p.val t.val s)
/-- TFCLR. -/
def execTfclr (p : Fin 1088) (t : Fin 8) (s : State) : Host.Outcome State Fault Refusal :=
  done (tileIssue noOp noOp noOp 5 p.val t.val s)

/-- TSYNC: the thread is not ready until its earlier tile instructions have completed. -/
def tsyncInsn (p t : Nat) (s : State) : State :=
  issue s p t (fun x => x = .tile 4) (fun _ => [])
    (fun s _ => recheck (modThread (count s 5 (grainOcc s p)) p t (fun x => { x with wait := .tsync })) p t)

/-- TSYNC. -/
def execTsync (p : Fin 1088) (t : Fin 8) (s : State) : Host.Outcome State Fault Refusal := done (tsyncInsn p.val t.val s)

/-! ### Start (R165) -/

/-- The pipe of a tile instruction: TMMA runs in the multiply pipe, every other in the move pipe. -/
def TileOp.mul (o : TileOp) : Bool := o.top = 3

/-- May the instruction at the head of `rest` start, with `before` the instructions issued earlier and not complete: no
started one in its pipe, none earlier that waits for its pipe, none earlier naming its tile. -/
def mayStart (q before : List TileOp) (o : TileOp) : Bool :=
  !o.started && !q.any (fun x => x.started && x.mul = o.mul) && !before.any (fun x => !x.started && x.mul = o.mul)
  && !before.any (fun x => x.tile = o.tile)

/-- Starts the first instruction in issue order that may start. -/
def startFirst (q : List TileOp) : List TileOp → List TileOp → List TileOp
  | before, [] => before
  | before, o :: rest =>
    if mayStart q before o then before ++ { o with started := true } :: rest
    else startFirst q (before ++ [o]) rest

/-- TILE_INSTRUCTION_START. -/
def execTileInstructionStart (p : Fin 1088) (s : State) : Host.Outcome State Fault Refusal :=
  done (modGrain s p.val (fun g => { g with queue := startFirst g.queue [] g.queue }))

/-! ### Completion (R168) -/

/-- Writes accumulator tile i of a grain. -/
def setTile (g : Grain) (i : Nat) (x : Tile) : Grain :=
  { g with tiles := KMap.set (fun _ => ({} : Tile)) g.tiles i x }

/-- The bytes that a completing instruction has read of its grain's local store: pieces it read earlier as they were then. -/
def tileRead (s : State) (p : Nat) (o : TileOp) (a n : Nat) : List Byte :=
  let bs := lsRead s p a n
  if o.got = [] then bs
  else (List.range n).map (fun i =>
    match o.got.find? (fun e => decide (e.1 ≤ a + i) && decide (a + i < e.1 + 8)) with
    | some e => e.2.getD (a + i - e.1) 0
    | none => bs.getD i 0)

/-- A TSTORE writes the pieces of its tile that it has not written yet. -/
def tileWrite (s : State) (p : Nat) (o : TileOp) (bs : List Byte) : State :=
  if o.done = [] then writeTarget s (.ls p o.addrA) bs
  else (List.range (bs.length / 8)).foldl (fun s i =>
    if o.done.contains i then s else writeTarget s (.ls p (o.addrA + 8 * i)) ((bs.drop (8 * i)).take 8)) s

/-- The effect of a tile instruction; `true` where it raises TILE_MODE and changes nothing (R168). -/
def tileEffect (s : State) (p : Nat) (o : TileOp) : State × Bool :=
  let x := getTile (getGrain s p) o.tile
  let put (y : Tile) : State := modGrain s p (fun g => setTile g o.tile y)
  match o.top with
  | 0 => (put (tzeroEffect o.fmt), false)
  | 1 => (put (tloadEffect o.fmt (tileRead s p o o.addrA (1024 * tloadSize o.fmt))), false)
  | 2 =>
    if tstoreMatch o.fmt x then
      let r := tstoreEffect o.fmt o.modf x
      (tileWrite (put r.2) p o r.1, false)
    else (s, true)
  | 3 =>
    if tmmaMatch o.fmt x then
      let n := 1024 * tmmaSize o.fmt
      (put (tmmaEffect o.fmt (tileRead s p o o.addrA n) (tileRead s p o o.addrB n) x), false)
    else (s, true)
  | _ => (put (tfclrEffect o.modf x), false)

/-- Before a tile instruction has its effect: the stores of other threads that scoped fences made visible to its thread (R184), and the
pieces of other accesses in progress (R193). -/
def tileMeets (s : State) (p : Nat) (o : TileOp) : State :=
  let rs := if o.top = 2 then [(o.addrA, 1024 * tstoreSize o.fmt)] else tileReads o
  rs.foldl (fun s r => meet (forceScoped s p o.thread (.ls p r.1) r.2) (.ls p r.1) r.2 (decide (o.top = 2))) s

/-- The tile instruction in a pipe completes: its effect, then its thread's count and any TILE_MODE, which the thread takes
at its next boundary (R168). -/
def tileComplete (p : Nat) (mulPipe : Bool) (s : State) : State :=
  match (getGrain s p).queue.find? (fun o => o.started && o.mul = mulPipe) with
  | none => s
  | some o =>
    let s := modGrain s p (fun g => { g with queue := g.queue.filter (fun x => !(x.started && x.mul = mulPipe)) })
    let (s, bad) := tileEffect (tileMeets s p o) p o
    let s := modThread s p o.thread (fun x =>
      { x with tileOps := x.tileOps - 1, tileErrs := if bad && x.live then x.tileErrs ++ [o.tile] else x.tileErrs })
    recheck s p o.thread

/-- TILE_INSTRUCTION_COMPLETE. -/
def execTileInstructionComplete (p : Fin 1088) (mulPipe : Bool) (s : State) : Host.Outcome State Fault Refusal :=
  done (tileComplete p.val mulPipe s)

end Sys2Proof.Machine
end

