-- ==== Sys2Proof/Machine/Dispatch.lean ====
section
/-! DEFINITION. One arm for each command of the table: its meaning. -/

namespace Sys2Proof.Machine

/-- The effect of a command on everything but the queue. -/
def exec (i : Instr) (s : State) : Host.Outcome State Fault Refusal :=
  match i with
  | .nop c => Sys2Proof.Machine.execNop c s
  | .echo c => Sys2Proof.Machine.execEcho c s
  | .stratumPark c => Sys2Proof.Machine.execStratumPark c s
  | .stratumRestore c => Sys2Proof.Machine.execStratumRestore c s
  | .stratumIngest c => Sys2Proof.Machine.execStratumIngest c s
  | .stratumDrop c => Sys2Proof.Machine.execStratumDrop c s
  | .stratumSpill c => Sys2Proof.Machine.execStratumSpill c s
  | .stratumFetch c => Sys2Proof.Machine.execStratumFetch c s
  | .modelLoad c dma => Sys2Proof.Machine.execModelLoad c dma s
  | .modelUnload c => Sys2Proof.Machine.execModelUnload c s
  | .accPowerState c => Sys2Proof.Machine.execAccPowerState c s
  | .accRailSet c => Sys2Proof.Machine.execAccRailSet c s
  | .accLimitSet c => Sys2Proof.Machine.execAccLimitSet c s
  | .accFwPush c dma => Sys2Proof.Machine.execAccFwPush c dma s
  | .accRelease c => Sys2Proof.Machine.execAccRelease c s
  | .coolSet c => Sys2Proof.Machine.execCoolSet c s
  | .coolTableLoad c dma => Sys2Proof.Machine.execCoolTableLoad c dma s
  | .leakArm c => Sys2Proof.Machine.execLeakArm c s
  | .domainState c => Sys2Proof.Machine.execDomainState c s
  | .fwStage c dma ended => Sys2Proof.Machine.execFwStage c dma ended s
  | .fwCommitTrial c => Sys2Proof.Machine.execFwCommitTrial c s
  | .fwConfirm c => Sys2Proof.Machine.execFwConfirm c s
  | .kernelLoad c dma => Sys2Proof.Machine.execKernelLoad c dma s
  | .kernelLaunch c => Sys2Proof.Machine.execKernelLaunch c s
  | .kernelAbort c => Sys2Proof.Machine.execKernelAbort c s
  | .logReadFaultLog c dma => Sys2Proof.Machine.execLogReadFaultLog c dma s
  | .logReadSedimentLog c dma flashTimeout => Sys2Proof.Machine.execLogReadSedimentLog c dma flashTimeout s
  | .counterSnapshot c dma => Sys2Proof.Machine.execCounterSnapshot c dma s
  | .clockSet c => Sys2Proof.Machine.execClockSet c s
  | .tenantReset c => Sys2Proof.Machine.execTenantReset c s
  | .tenantResetEnd t => Sys2Proof.Machine.execTenantResetEnd t s
  | .flr fn => Sys2Proof.Machine.execFlr fn s
  | .vfEnableCleared vfs => Sys2Proof.Machine.execVfEnableCleared vfs s
  | .sqTail fn q v => Sys2Proof.Machine.execSqTail fn q v s
  | .cqHead fn q v => Sys2Proof.Machine.execCqHead fn q v s
  | .qpCtrlEn fn q v => Sys2Proof.Machine.execQpCtrlEn fn q v s
  | .hostHb v => Sys2Proof.Machine.execHostHb v s
  | .arbitrationRound => Sys2Proof.Machine.execArbitrationRound s
  | .deadlineExpiry c => Sys2Proof.Machine.execDeadlineExpiry c s
  | .submissionFetchError fn q addr => Sys2Proof.Machine.execSubmissionFetchError fn q addr s
  | .completionWriteError fn q addr cmdId => Sys2Proof.Machine.execCompletionWriteError fn q addr cmdId s
  | .hostHeartbeatLapse => Sys2Proof.Machine.execHostHeartbeatLapse s
  | .bmcHeartbeatLapse => Sys2Proof.Machine.execBmcHeartbeatLapse s
  | .porNLow => Sys2Proof.Machine.execPorNLow s
  | .supplyMonitorReset => Sys2Proof.Machine.execSupplyMonitorReset s
  | .porNRise bootHost w0Addr testEn => Sys2Proof.Machine.execPorNRise bootHost w0Addr testEn s
  | .rootOk => Sys2Proof.Machine.execRootOk s
  | .pllLock => Sys2Proof.Machine.execPllLock s
  | .trimPassEnd words coreVid inRange => Sys2Proof.Machine.execTrimPassEnd words coreVid inRange s
  | .perstN asserted => Sys2Proof.Machine.execPerstN asserted s
  | .warmN => Sys2Proof.Machine.execWarmN s
  | .hotReset => Sys2Proof.Machine.execHotReset s
  | .dlDown => Sys2Proof.Machine.execDlDown s
  | .resetCtrlWarm v => Sys2Proof.Machine.execResetCtrlWarm v s
  | .warmResetAfterFallback => Sys2Proof.Machine.execWarmResetAfterFallback s
  | .resetCtrlMarl v => Sys2Proof.Machine.execResetCtrlMarl v s
  | .marlWatchdog => Sys2Proof.Machine.execMarlWatchdog s
  | .resetCtrlDomGo v => Sys2Proof.Machine.execResetCtrlDomGo v s
  | .domainResetEnd d => Sys2Proof.Machine.execDomainResetEnd d s
  | .domCtrl d v => Sys2Proof.Machine.execDomCtrl d v s
  | .gclkReq v => Sys2Proof.Machine.execGclkReq v s
  | .gclkSwitch => Sys2Proof.Machine.execGclkSwitch s
  | .domainTransitionStep d marchBad => Sys2Proof.Machine.execDomainTransitionStep d marchBad s
  | .powerSwitchTimeout d => Sys2Proof.Machine.execPowerSwitchTimeout d s
  | .clockLoss rootGone => Sys2Proof.Machine.execClockLoss rootGone s
  | .registerWrite w => Sys2Proof.Machine.execRegisterWrite w s
  | .rcRead fn span => Sys2Proof.Machine.execRcRead fn span s
  | .horizonPageRead fn off len => Sys2Proof.Machine.execHorizonPageRead fn off len s
  | .horizonPublish => Sys2Proof.Machine.execHorizonPublish s
  | .fwDown => Sys2Proof.Machine.execFwDown s
  | .mirrorRefresh => Sys2Proof.Machine.execMirrorRefresh s
  | .bar2Read off len ue => Sys2Proof.Machine.execBar2Read off len ue s
  | .bar2Write off bytes => Sys2Proof.Machine.execBar2Write off bytes s
  | .loaderRun flash => Sys2Proof.Machine.execLoaderRun flash s
  | .bootRelease v => Sys2Proof.Machine.execBootRelease v s
  | .fwUp => Sys2Proof.Machine.execFwUp s
  | .keyLock fn v => Sys2Proof.Machine.execKeyLock fn v s
  | .trialDrainEnd => Sys2Proof.Machine.execTrialDrainEnd s
  | .trialWatchdogExpiry => Sys2Proof.Machine.execTrialWatchdogExpiry s
  | .descriptorWrite => Sys2Proof.Machine.execDescriptorWrite s
  | .sealSegmentEnd ctx => Sys2Proof.Machine.execSealSegmentEnd ctx s
  | .getVersion => Sys2Proof.Machine.execGetVersion s
  | .getCapabilities => Sys2Proof.Machine.execGetCapabilities s
  | .negotiateAlgorithms p384 sha384 => Sys2Proof.Machine.execNegotiateAlgorithms p384 sha384 s
  | .getDigests => Sys2Proof.Machine.execGetDigests s
  | .getCertificate slot off len => Sys2Proof.Machine.execGetCertificate slot off len s
  | .challenge slot nonce => Sys2Proof.Machine.execChallenge slot nonce s
  | .getMeasurements index sig nonce => Sys2Proof.Machine.execGetMeasurements index sig nonce s
  | .getCsr => Sys2Proof.Machine.execGetCsr s
  | .setCertificate slot chain => Sys2Proof.Machine.execSetCertificate slot chain s
  | .spdmUnsupportedRequest code => Sys2Proof.Machine.execSpdmUnsupportedRequest code s
  | .unfence v => Sys2Proof.Machine.execUnfence v s
  | .unfenceTestEnd pass => Sys2Proof.Machine.execUnfenceTestEnd pass s
  | .itemDispatch l => Sys2Proof.Machine.execItemDispatch l s
  | .itemEnd p => Sys2Proof.Machine.execItemEnd p s
  | .launchComplete l dma => Sys2Proof.Machine.execLaunchComplete l dma s
  | .localStoreUe p off => Sys2Proof.Machine.execLocalStoreUe p off s
  | .tileParityError p => Sys2Proof.Machine.execTileParityError p s
  | .itemWatchdogExpiry p => Sys2Proof.Machine.execItemWatchdogExpiry p s
  | .takeover bed => Sys2Proof.Machine.execTakeover bed s
  | .localStoreCe p => Sys2Proof.Machine.execLocalStoreCe p s
  | .scalarAlu p t op => Sys2Proof.Machine.execScalarAlu p t op s
  | .divide p t op => Sys2Proof.Machine.execDivide p t op s
  | .branch p t => Sys2Proof.Machine.execBranch p t s
  | .vectorAlu p t op => Sys2Proof.Machine.execVectorAlu p t op s
  | .tzero p t => Sys2Proof.Machine.execTzero p t s
  | .tload p t => Sys2Proof.Machine.execTload p t s
  | .tstore p t => Sys2Proof.Machine.execTstore p t s
  | .tmma p t => Sys2Proof.Machine.execTmma p t s
  | .tsync p t => Sys2Proof.Machine.execTsync p t s
  | .tfclr p t => Sys2Proof.Machine.execTfclr p t s
  | .tileInstructionStart p => Sys2Proof.Machine.execTileInstructionStart p s
  | .tileInstructionComplete p mulPipe => Sys2Proof.Machine.execTileInstructionComplete p mulPipe s
  | .load p t err => Sys2Proof.Machine.execLoad p t err s
  | .loadRetire p t => Sys2Proof.Machine.execLoadRetire p t s
  | .store p t err => Sys2Proof.Machine.execStore p t err s
  | .ldp p t err => Sys2Proof.Machine.execLdp p t err s
  | .stp p t err => Sys2Proof.Machine.execStp p t err s
  | .ldv p t err => Sys2Proof.Machine.execLdv p t err s
  | .stv p t => Sys2Proof.Machine.execStv p t s
  | .aadd p t err => Sys2Proof.Machine.execAadd p t err s
  | .aand p t err => Sys2Proof.Machine.execAand p t err s
  | .aor p t err => Sys2Proof.Machine.execAor p t err s
  | .axor p t err => Sys2Proof.Machine.execAxor p t err s
  | .aswap p t err => Sys2Proof.Machine.execAswap p t err s
  | .amin p t err => Sys2Proof.Machine.execAmin p t err s
  | .amax p t err => Sys2Proof.Machine.execAmax p t err s
  | .aminu p t err => Sys2Proof.Machine.execAminu p t err s
  | .amaxu p t err => Sys2Proof.Machine.execAmaxu p t err s
  | .acas p t err => Sys2Proof.Machine.execAcas p t err s
  | .ldrRsv p t err => Sys2Proof.Machine.execLdrRsv p t err s
  | .stc p t => Sys2Proof.Machine.execStc p t s
  | .bcopy p t => Sys2Proof.Machine.execBcopy p t s
  | .bcopyComplete p t err => Sys2Proof.Machine.execBcopyComplete p t err s
  | .fenceG p t => Sys2Proof.Machine.execFenceG p t s
  | .fenceB p t => Sys2Proof.Machine.execFenceB p t s
  | .fenceS p t => Sys2Proof.Machine.execFenceS p t s
  | .fenceC p t => Sys2Proof.Machine.execFenceC p t s
  | .gsync p t => Sys2Proof.Machine.execGsync p t s
  | .bsync p t => Sys2Proof.Machine.execBsync p t s
  | .wait p t => Sys2Proof.Machine.execWait p t s
  | .waitTimeout p t => Sys2Proof.Machine.execWaitTimeout p t s
  | .bwait p t => Sys2Proof.Machine.execBwait p t s
  | .sysr p t => Sys2Proof.Machine.execSysr p t s
  | .sysw p t => Sys2Proof.Machine.execSysw p t s
  | .xret p t => Sys2Proof.Machine.execXret p t s
  | .brk p t => Sys2Proof.Machine.execBrk p t s
  | .endThread p t => Sys2Proof.Machine.execEndThread p t s
  | .outboundWriteError p t addr => Sys2Proof.Machine.execOutboundWriteError p t addr s
  | .linkHoldExpiry link => Sys2Proof.Machine.execLinkHoldExpiry link s
  | .windowClose slot => Sys2Proof.Machine.execWindowClose slot s
  | .batchStart dmaBad => Sys2Proof.Machine.execBatchStart dmaBad s
  | .phaseLaunch => Sys2Proof.Machine.execPhaseLaunch s
  | .itemRerun => Sys2Proof.Machine.execItemRerun s
  | .batchCommit => Sys2Proof.Machine.execBatchCommit s
  | .hbmUe addr => Sys2Proof.Machine.execHbmUe addr s
  | .hbmCe addr => Sys2Proof.Machine.execHbmCe addr s
  | .patrolScrub => Sys2Proof.Machine.execPatrolScrub s
  | .uLinkUp rate width vfs bar2Bits => Sys2Proof.Machine.execULinkUp rate width vfs bar2Bits s
  | .d3hot => Sys2Proof.Machine.execD3hot s
  | .deviceReadinessStatus n => Sys2Proof.Machine.execDeviceReadinessStatus n s
  | .spokeEnumeration n e => Sys2Proof.Machine.execSpokeEnumeration n e s
  | .contractPoll n ready memKept => Sys2Proof.Machine.execContractPoll n ready memKept s
  | .contractTimeout n => Sys2Proof.Machine.execContractTimeout n s
  | .mbxAckPoll n seq status => Sys2Proof.Machine.execMbxAckPoll n seq status s
  | .mbxTimeout n => Sys2Proof.Machine.execMbxTimeout n s
  | .retainPoll n ready refused => Sys2Proof.Machine.execRetainPoll n ready refused s
  | .retainGraceExpiry n => Sys2Proof.Machine.execRetainGraceExpiry n s
  | .releasePoll n released => Sys2Proof.Machine.execReleasePoll n released s
  | .inboundRequest n => Sys2Proof.Machine.execInboundRequest n s
  | .spokeRecovery event => Sys2Proof.Machine.execSpokeRecovery event s
  | .spokeHoldExpiry c => Sys2Proof.Machine.execSpokeHoldExpiry c s
  | .spokeLinkDown n => Sys2Proof.Machine.execSpokeLinkDown n s
  | .spokeTrainingRetry n => Sys2Proof.Machine.execSpokeTrainingRetry n s
  | .spokeTrainingTimeout n => Sys2Proof.Machine.execSpokeTrainingTimeout n s
  | .spokeFatalError n => Sys2Proof.Machine.execSpokeFatalError n s
  | .retrain n v => Sys2Proof.Machine.execRetrain n v s
  | .railEnableStep n => Sys2Proof.Machine.execRailEnableStep n s
  | .railDisableStep n => Sys2Proof.Machine.execRailDisableStep n s
  | .powerGoodRise n r => Sys2Proof.Machine.execPowerGoodRise n r s
  | .pgTimeout n => Sys2Proof.Machine.execPgTimeout n s
  | .railCut n fell => Sys2Proof.Machine.execRailCut n fell s
  | .railSlewStep n r portBusy acked => Sys2Proof.Machine.execRailSlewStep n r portBusy acked s
  | .effectiveLimitWrite n acked => Sys2Proof.Machine.execEffectiveLimitWrite n acked s
  | .pmbusLimitRetry n acked => Sys2Proof.Machine.execPmbusLimitRetry n acked s
  | .telemetrySample n x => Sys2Proof.Machine.execTelemetrySample n x s
  | .telemetryWindowEnd peak => Sys2Proof.Machine.execTelemetryWindowEnd peak s
  | .trayGovernor => Sys2Proof.Machine.execTrayGovernor s
  | .inFailNFall => Sys2Proof.Machine.execInFailNFall s
  | .inFailNRise => Sys2Proof.Machine.execInFailNRise s
  | .temperatureSample c raw => Sys2Proof.Machine.execTemperatureSample c raw s
  | .stopGraceExpiry n => Sys2Proof.Machine.execStopGraceExpiry n s
  | .backstopTrip => Sys2Proof.Machine.execBackstopTrip s
  | .throttleStepDown k => Sys2Proof.Machine.execThrottleStepDown k s
  | .throttleStepUp k => Sys2Proof.Machine.execThrottleStepUp k s
  | .thClear v => Sys2Proof.Machine.execThClear v s
  | .leakSample l g ohm excFail => Sys2Proof.Machine.execLeakSample l g ohm excFail s
  | .leakConfirm l => Sys2Proof.Machine.execLeakConfirm l s
  | .ropeOpen l => Sys2Proof.Machine.execRopeOpen l s
  | .pwmReload m => Sys2Proof.Machine.execPwmReload m s
  | .positionEdge m t hall => Sys2Proof.Machine.execPositionEdge m t hall s
  | .commutationDue m t => Sys2Proof.Machine.execCommutationDue m t s
  | .syntheticTooth m t => Sys2Proof.Machine.execSyntheticTooth m t s
  | .alignEnd m t => Sys2Proof.Machine.execAlignEnd m t s
  | .openLoopStep m t => Sys2Proof.Machine.execOpenLoopStep m t s
  | .rampTimeout m => Sys2Proof.Machine.execRampTimeout m s
  | .stallPauseEnd m t hall => Sys2Proof.Machine.execStallPauseEnd m t hall s
  | .speedControl m => Sys2Proof.Machine.execSpeedControl m s
  | .tableEvaluation m => Sys2Proof.Machine.execTableEvaluation m s
  | .blankingEnd m t ended still softEnded softStill => Sys2Proof.Machine.execBlankingEnd m t ended still softEnded softStill s
  | .ocHard m level => Sys2Proof.Machine.execOcHard m level s
  | .ocSoft m blanked => Sys2Proof.Machine.execOcSoft m blanked s
  | .desaturation m t legs blanked => Sys2Proof.Machine.execDesaturation m t legs blanked s
  | .mcClear v => Sys2Proof.Machine.execMcClear v s
  | .twoWireTransaction p r data => Sys2Proof.Machine.execTwoWireTransaction p r data s
  | .arbLost p atStop => Sys2Proof.Machine.execArbLost p atStop s
  | .busClear p sdaHigh => Sys2Proof.Machine.execBusClear p sdaHigh s
  | .portDownRetry p sdaHigh => Sys2Proof.Machine.execPortDownRetry p sdaHigh s
  | .twoWireTimeout p => Sys2Proof.Machine.execTwoWireTimeout p s
  | .w0Timeout => Sys2Proof.Machine.execW0Timeout s
  | .loopDeviceRead flow press flow1 press1 charge => Sys2Proof.Machine.execLoopDeviceRead flow press flow1 press1 charge s
  | .xferCtrlGo v => Sys2Proof.Machine.execXferCtrlGo v s
  | .hostNotify won acked => Sys2Proof.Machine.execHostNotify won acked s
  | .hostNotifyDrop => Sys2Proof.Machine.execHostNotifyDrop s
  | .w0StageLow w => Sys2Proof.Machine.execW0StageLow w s
  | .w0PostEntry w => Sys2Proof.Machine.execW0PostEntry w s
  | .w0ReadCompletion len => Sys2Proof.Machine.execW0ReadCompletion len s
  | .w0ConsumeCompletion w => Sys2Proof.Machine.execW0ConsumeCompletion w s
  | .w0ReadBuffer len => Sys2Proof.Machine.execW0ReadBuffer len s
  | .w0SetBufferPointer w => Sys2Proof.Machine.execW0SetBufferPointer w s
  | .bmcHb w => Sys2Proof.Machine.execBmcHb w s
  | .kcpReset w => Sys2Proof.Machine.execKcpReset w s
  | .w0ThClear w => Sys2Proof.Machine.execW0ThClear w s
  | .w0McClear w => Sys2Proof.Machine.execW0McClear w s
  | .w0Result len => Sys2Proof.Machine.execW0Result len s
  | .notifyMask w => Sys2Proof.Machine.execNotifyMask w s
  | .horizonMirrorRead code read => Sys2Proof.Machine.execHorizonMirrorRead code read s
  | .calendarTick => Sys2Proof.Machine.execCalendarTick s
  | .checkpoint => Sys2Proof.Machine.execCheckpoint s
  | .recordWrite ended => Sys2Proof.Machine.execRecordWrite ended s
  | .segmentEntry => Sys2Proof.Machine.execSegmentEntry s
  | .logHeadSearchRetry timeout => Sys2Proof.Machine.execLogHeadSearchRetry timeout s
  | .samplingEnable fn v => Sys2Proof.Machine.execSamplingEnable fn v s
  | .overflowSample g p t skid => Sys2Proof.Machine.execOverflowSample g p t skid s
  | .tagSample p t addr latency eflags => Sys2Proof.Machine.execTagSample p t addr latency eflags s
  | .sampleWrite bed dma => Sys2Proof.Machine.execSampleWrite bed dma s
  | .bypass => Sys2Proof.Machine.execBypass s
  | .idcode => Sys2Proof.Machine.execIdcode s
  | .samplePreload cells => Sys2Proof.Machine.execSamplePreload cells s
  | .extest => Sys2Proof.Machine.execExtest s
  | .clamp => Sys2Proof.Machine.execClamp s
  | .highz => Sys2Proof.Machine.execHighz s
  | .extestPulse => Sys2Proof.Machine.execExtestPulse s
  | .extestTrain => Sys2Proof.Machine.execExtestTrain s
  | .supplyMonitorRelease => Sys2Proof.Machine.execSupplyMonitorRelease s
  | .sperstNDeassert n => Sys2Proof.Machine.execSperstNDeassert n s
  | .spokeLinkUp n rate width => Sys2Proof.Machine.execSpokeLinkUp n rate width s
  | .uRecovery event => Sys2Proof.Machine.execURecovery event s
  | .storeAcknowledged p t => Sys2Proof.Machine.execStoreAcknowledged p t s
  | .stratumMoveEnd c dma => Sys2Proof.Machine.execStratumMoveEnd c dma s
  | .segmentEraseEnd ok => Sys2Proof.Machine.execSegmentEraseEnd ok s
  | .lowWordRead fn off => Sys2Proof.Machine.execLowWordRead fn off s

end Sys2Proof.Machine
end

