-- ==== Sys2Proof/Machine/Idle.lean ====
section
/-! DEFINITION. What the block does while no command waits: a µs of TICK, and the counters of time. -/

namespace Sys2Proof.Machine

/-- Does TICK run: the root clock is there, or the fallback clock (02 R22, R40). -/
def tickRuns (s : State) : Bool := s.crd.rootOk || s.crd.fallback

/-- POWERED_S counts the seconds with D00 powered (Table 15.1). -/
def poweredTick (s : State) : State :=
  if s.slog.poweredRem + 1 < 1000000 then { s with slog := { s.slog with poweredRem := s.slog.poweredRem + 1 } }
  else ltAdd { s with slog := { s.slog with poweredRem := 0 } } 0

/-- GCLK runs at GCLK_APPLIED × 100 MHz, and beds receive K of every 16 of its cycles; in clock fallback it stops (R22, R40,
R301). -/
def grainTick (s : State) : State :=
  if s.crd.fallback then s
  else { s with garr := { s.garr with cycles16 := s.garr.cycles16 + 100 * s.crd.gclkApplied * (getThr s 8).k } }

/-! ### Performance counters of time (Table 15.4) -/

/-- Counts where a condition holds. -/
def countIf (s : State) (b : Bool) (e : Nat) (o : Occ) (n : Nat) : State := if b then count s e o n else s

/-- Event of a thread's wait beside event 9: fences, barriers, WAIT. -/
def waitEvent : ThreadWait → Option Nat
  | .fence _ => some 10
  | .gsync _ => some 11
  | .bsync _ _ => some 11
  | .sleep _ _ _ _ => some 12
  | _ => none

/-- Cycles of grains held by launches. -/
def grainTime (s : State) (g : Nat) : State :=
  s.garr.grains.foldl (fun u e => countIf u e.2.launch.isSome 0 (grainOcc s e.1) g) s

/-- Cycles of threads that are not ready. -/
def threadTime (s : State) (g : Nat) : State :=
  (s.garr.threads.filter (fun e => e.2.live && decide (e.2.wait ≠ .ready))).foldl (fun u e =>
    let o := grainOcc s (e.1 / 8)
    let k := waitEvent e.2.wait
    countIf (count u 9 o g) k.isSome (k.getD 0) o g) s

/-- FCLK cycles of beds held by launches. -/
def bedTime (s : State) : State := s.garr.launches.foldl (fun u l => count u 105 (launchOcc l) (800 * l.beds.length)) s

/-- GCLK cycles that throttling gated, of each bed that is ON (R301). -/
def gatedTime (s : State) (g : Nat) : State :=
  if (getThr s 8).k = 16 then s
  else (List.range 64).foldl (fun u b => countIf u (domOn s (bedDom b)) 106
    (match bedLaunch s b with | some l => launchOcc l | none => {}) (100 * s.crd.gclkApplied - g)) s

/-- Groups 8 to 11 and 19 over a µs: the batch and those queued, FETCH_PAUSED, contexts in use, L0p, a full command table. -/
def blockTime (s : State) : State :=
  [(s.strata.batch.isSome, 140, 800), (!s.strata.queue.isEmpty, 141, 800 * s.strata.queue.length), (fetchPaused s, 149, 800),
   (s.sealEng.ctx0.isSome, 164, 400), (s.sealEng.ctx1.isSome, 164, 400), (s.links.u.l0p, 188, 800),
   (decide (4096 ≤ s.qc.cmds.length), 305, 800)].foldl (fun u (x : Bool × Nat × Nat) => countIf u x.1 x.2.1 {} x.2.2) s

/-- Is stack h refreshed at twice the base rate: above 85.0 °C, and not in self-refresh (R257). -/
def refreshDoubled (s : State) (h : Nat) : Bool := domOn s (14 + h) && decide (1360 < Config.stackTemp h s.tick)

/-- Groups 3, 4 and 14 to 16 at each ms: stacks at doubled refresh, accelerators throttled, flash inhibit and charge inhibit. -/
def msTime (s : State) : State :=
  ((List.range 6).map (fun h => (refreshDoubled s h, 52 + 5 * h))
   ++ (List.range 8).map (fun n => (decide ((getThr s n).k < 16), 226 + 4 * n))
   ++ [(s.therm.flashInhibit, 270), (s.pow.tempInhibit, 271)]).foldl (fun u (x : Bool × Nat) => countIf u x.1 x.2 {} 1) s

/-- The counters of time over the µs that ends now, `g` cycles of the beds' clock; those of FCLK and MCLK stand in clock fallback. -/
def timeCounts (s : State) (g : Nat) : State :=
  if s.crd.phase ≠ .running then s
  else
    let s := if s.crd.fallback then s else blockTime (gatedTime (bedTime (threadTime (grainTime s g) g)) g)
    if s.tick % 1000 = 0 then msTime s else s

/-- One µs with no command (log entry 2). -/
def idleTick (s : State) : State :=
  if tickRuns s then
    let t := grainTick { s with tick := s.tick + 1 }
    poweredTick (timeCounts t (t.garr.cycles16 / 16 - s.garr.cycles16 / 16))
  else s

/-- The idle step. -/
def idleStep (s : State) : Host.Outcome State Fault Refusal := done (idleTick s)

end Sys2Proof.Machine
end

