-- ==== Sys2Proof/Safety.lean ====
section
/-! DEFINITION. What counts as a safe state: the relations between fields of the state that every step keeps; and the words
that the statements use. -/

namespace Sys2Proof.Machine

/-- HZ_FAULT as hardware last compared it is HZ_FAULT now, so that every rise has been counted (R61). -/
def State.settled (s : State) : Prop := s.hz.lastFault = faultWord s 64

/-- Every memory of the steward, and each it reads and writes outside, is in its canonical form. -/
def Mems.wf (m : Mems) : Bool :=
  KMap.wf mem0 m.ls && KMap.wf mem0 m.gm && KMap.wf flash1 m.flash && KMap.wf mem0 m.host && KMap.wf mem0 m.acc

/-- Command c of the table starts now as one of opcode `op` (and, for LOG_READ, of its LOG): it is of that opcode, nothing
accepted earlier keeps it back, it is no OK_NOOP, and its DEADLINE has not passed (R81, R86, R89, R90, R95). -/
def startsNow (s : State) (c op : Nat) (log : Option Nat) (cmd : Cmd) : Bool :=
  decide (findCmd s c = some cmd) && rowMatches op log cmd && eligible s cmd && !cmd.noop && !deadlinePassed s cmd

/-- Command c is an OK_NOOP of opcode `op` whose turn has come (R95). -/
def noopNow (s : State) (c op : Nat) (log : Option Nat) (cmd : Cmd) : Bool :=
  decide (findCmd s c = some cmd) && rowMatches op log cmd && eligible s cmd && cmd.noop

/-- The PEC byte of a W0 write of n data bytes: the byte after the last, or the one that came with it (R351). -/
def w0Pec (n : Nat) (w : W0Write) : Option Byte := if n < w.data.length then some (w.data.getD n 0) else w.pec

/-- The PEC that fits a W0 write of n data bytes to a command code: over the address, the code, a block's count and the data. -/
def w0Sum (s : State) (code n : Nat) (block : Bool) (w : W0Write) : Byte :=
  pec8 ([BitVec.ofNat 8 (2 * (0x4A + s.crd.w0Addr)), BitVec.ofNat 8 code]
    ++ (if block then [BitVec.ofNat 8 w.count] else []) ++ w.data.take n)

/-- W0 acts at STOP on a write to a code of n data bytes (R350, R351, Table 14.5): the steward runs, a block has its count, no repeated
START and no early STOP came, all data came, and the PEC is right, or absent where none is required. -/
def w0Acts (s : State) (code n : Nat) (block : Bool) (w : W0Write) : Bool :=
  decide (s.crd.phase = .running) && (!block || decide (w.count = n)) && !w.restart && !w.stopEarly
  && decide (n ≤ w.data.length) && (match w0Pec n w with
    | some b => decide (b = w0Sum s code n block w)
    | none => !pecReq s)

/-- Nothing but the fields named differs: queue control, the performance monitor, Host Notify, the host's memory and the
fault count, which completions and fault-log entries use. -/
def queueFrame (s t : State) : Prop :=
  t = { s with qc := t.qc, pm := t.pm, tw := { s.tw with hn := t.tw.hn }, hz := t.hz, mem := { s.mem with host := t.mem.host } }

/-- Thread t of physical grain p may issue, and the word at its PC is w (R162, R163): the thread is live and ready, its turn has come,
its bed ON, its grain not fenced nor failing and running an item, no TILE_MODE waits for it, and its PC is aligned and inside the
code. -/
def runsWord (s : State) (p t : Nat) (w : Word) : Bool :=
  let th := getThread s p t
  let g := getGrain s p
  th.live && decide (th.wait = .ready) && domOn s (bedDom (p / 17)) && !g.fenced && g.item.isSome
  && !(getBed s (p / 17)).failing.any (fun f => f.1 = p) && turn s p t && th.tileErrs.isEmpty
  && decide (th.pc.toNat < g.codeEnd) && decide (th.pc.toNat % 4 = 0) && decide (w = wordAt s p t)

/-- The state in which an issued instruction has its effect: its issue has been counted, and sampled (Table 15.4, R378), and its thread
is the last one issued (R162). -/
def issued (s : State) (p t : Nat) : State :=
  noteIssue (tagStep (count (count s 1 (grainOcc s p)) (321 + 2 * (p / 17)) {}) p t) p t (kindOf (wordAt s p t))

end Sys2Proof.Machine
end

