-- ==== Sys2Proof/Certificates/Slice0/Obligations.lean ====
section
/-! DEFINITION. The statements about the model that the provers prove: each is a Prop, with the rules it rests on. -/

open Sys2Proof Sys2Proof.Machine


/-- O1, tier 1 (95_what_each_step_holds.md). For every state with a command c at the front of its queue and rest behind
it, the step is exec of c on the state whose queue is rest. -/
def Obligations.StepRunsFrontCommand : Prop :=
  ∀ (s : State) (c : Instr) (rest : List Instr), s.pending = c :: rest → step s = exec c { s with pending := rest }

/-- O2, tier 2 (02_clocks_domains_reset.md, R22, Table 2.1, 12_thermal_and_leak.md, R301, 15_sediment_log_and_counters.md,
Tables 15.1 and 15.4). With no command waiting, the step answers a next state: where TICK runs (the root clock is
there, or the fallback clock) the tick rises by 1 and POWERED_S's remainder by 1, or at each millionth lifetime count
0 rises by 1 and the remainder returns to 0; outside clock fallback the beds' clock rises by GCLK_APPLIED times 100
cycles, K sixteenths of each (K the grain array's throttle step), and in fallback it stands; the counters of time are
counted, which changes the performance monitor alone and nothing at all before the steward runs; where TICK does not
run nothing but the settling of HZ_FAULT happens. That a step on an empty queue is one tick is the model's choice, log
entry 2. -/
def Obligations.IdleStepTicks : Prop :=
  let ticked (s : State) : State := { s with
    tick := s.tick + 1
    garr := { s.garr with
      cycles16 := s.garr.cycles16 + (if s.crd.fallback then 0 else 100 * s.crd.gclkApplied * (getThr s 8).k) } }
  let counted (s : State) : State := timeCounts (ticked s) ((ticked s).garr.cycles16 / 16 - s.garr.cycles16 / 16)
  (∀ s : State, s.pending = [] → (s.crd.rootOk = true ∨ s.crd.fallback = true) → s.slog.poweredRem + 1 < 1000000 →
    step s = .next (settle { counted s with slog := { s.slog with poweredRem := s.slog.poweredRem + 1 } }))
  ∧ (∀ s : State, s.pending = [] → (s.crd.rootOk = true ∨ s.crd.fallback = true) → 1000000 ≤ s.slog.poweredRem + 1 →
    step s = .next (settle { counted s with
      slog := { s.slog with poweredRem := 0, counts := KMap.set (fun _ => 0) s.slog.counts 0 (min (ltGet s 0 + 1) (2 ^ 64 - 1)) } }))
  ∧ (∀ s : State, s.pending = [] → s.crd.rootOk = false → s.crd.fallback = false → step s = .next (settle s))
  ∧ (∀ (s : State) (g : Nat), timeCounts s g = { s with pm := (timeCounts s g).pm })
  ∧ (∀ (s : State) (g : Nat), s.crd.phase ≠ .running → timeCounts s g = s)

/-- O3, tier 1 (02_clocks_domains_reset.md, Tables 2.2 and 2.11, 04_kyrdax_command_packets.md, Table 4.14,
05_boot_and_trust.md, Table 5.12, 11_accelerator_power.md, Table 11.5). After power-on reset no command waits or is in
flight, the steward stands in power-on reset with every domain in its power-on state of Table 2.2 (D00 to D05 and D14
to D19 ON, every other OFF) and none in a transition, GCLK_REQ is 16, RESET_CAUSE holds POR alone, every pair is
disabled, every TENANT_PRIV is 0 and every fault log empty, both T64 queues are empty, KEY_LOCK is 1, every
accelerator is OFF, no stratum is resident, and no memory lists a byte. -/
def Obligations.ResetState : Prop :=
  State.reset.pending = [] ∧ State.reset.qc.cmds = [] ∧ State.reset.crd.phase = .por
  ∧ (∀ d, d < 92 → (getDom State.reset d).cur = (if d < 6 ∨ (14 ≤ d ∧ d < 20) then .on else .off)
      ∧ (getDom State.reset d).phase = .idle)
  ∧ State.reset.crd.gclkReq = 16 ∧ State.reset.crd.cause = 1#10
  ∧ (∀ fn q, (getQp State.reset fn q).en = false ∧ (getQp State.reset fn q).running = false)
  ∧ (∀ t, (getTen State.reset t).priv = 0 ∧ (getTen State.reset t).log = [])
  ∧ State.reset.qc.t64.q0 = [] ∧ State.reset.qc.t64.q1 = [] ∧ State.reset.qc.t64.cq = []
  ∧ State.reset.boot.keyLock = true ∧ (∀ n, (getAcc State.reset n).st = .off) ∧ State.reset.strata.recs = []
  ∧ State.reset.mem = {}

/-- O4, tier 1 (03_registers_and_horizon.md, Tables 3.6 and 3.7). At State.reset, HZ_FAULT as hardware last compared it
equals HZ_FAULT, and every memory is in its canonical form. -/
def Obligations.ResetFaultCompared : Prop :=
  State.reset.settled ∧ State.reset.mem.wf = true

/-- O5, tier 3 (03_registers_and_horizon.md, Tables 3.6 and 3.7). From every state (reachable or not), where a step
answers a next state t, HZ_FAULT as hardware last compared it in t equals HZ_FAULT of t: no rise is left uncounted by
any of the 262 commands or by an idle tick. The premise that the state before is settled is not needed, so the
invariant is kept from every state. -/
def Obligations.StepKeepsFaultCompared : Prop :=
  ∀ s t : State, step s = .next t → t.settled

/-- O6, tier 2 (04_kyrdax_command_packets.md, 98_reader.md). From every state the step answers a next state: no command of
the table ends in a fault or a refusal. -/
def Obligations.StepNeverStops : Prop :=
  ∀ s : State, ∃ t : State, step s = .next t

/-- O7, tier 2 (03_registers_and_horizon.md, Tables 3.6 and 3.7, 14_two_wire_ports.md, Table 14.5). Settling counts in
HZ_FAULT_COUNT, modulo 2^32, the bits 0 to 20 of HZ_FAULT that are 1 now and were 0 when it was last compared; it
leaves everything else as it is but the compared word and, where a rising bit is set in NOTIFY_MASK, a Host Notify of
reason 3 with the lowest such bit as its detail. HZ_FAULT itself does not change. -/
def Obligations.FaultCountRises : Prop :=
  ∀ s : State,
    (settle s).hz = { s.hz with
      faultCount := s.hz.faultCount + BitVec.ofNat 32 (popCount 21 (faultWord s 64 &&& ~~~ s.hz.lastFault).toNat),
      lastFault := faultWord s 64 }
    ∧ (settle s).tw.hn = (match lowBit (faultWord s 64 &&& ~~~ s.hz.lastFault &&& cfgGet s 0x800008) with
        | some b => (hostNote s 3 b).tw.hn
        | none => s.tw.hn)
    ∧ settle s = { s with hz := (settle s).hz, tw := { s.tw with hn := (settle s).tw.hn } }
    ∧ faultWord (settle s) 64 = faultWord s 64

/-- O8, tier 2 (04_kyrdax_command_packets.md, Tables 4.3 and 4.17). For a command in flight on a pair of T0 to T63 whose
completion writes work, completing it with a result puts the 32 bytes of Table 4.3 (CMD_ID, SQ_HEAD, STATUS, CFLAGS
with the pair's PHASE, OPCODE, QP, RESULT0 to RESULT2, TIME) at CQ_BASE + 32 × CQ_TAIL; every other byte of host
memory and every other memory reads as before; CQ_TAIL goes to the next slot, PHASE inverts where it wraps to 0; the
command leaves the command table; and only queue control, the performance monitor, Host Notify and host memory change. -/
def Obligations.CompletionEntryWritten : Prop :=
  ∀ (s : State) (c : Nat) (r : Result) (cmd : Cmd),
    findCmd s c = some cmd → cmd.tenant < 64 → cmd.qp < 8 → (getQp s cmd.tenant cmd.qp).cqFail = false →
    let p := getQp s cmd.tenant cmd.qp
    let a := p.cqBase.toNat + 32 * p.cqTail
    hostRead (complete s c r) a 32 = cqEntry cmd r p.sqHead (s.tick - cmd.acc) p.phase
    ∧ (∀ b, (b < a ∨ a + 32 ≤ b) → KMap.get mem0 (complete s c r).mem.host b = KMap.get mem0 s.mem.host b)
    ∧ (getQp (complete s c r) cmd.tenant cmd.qp).cqTail = ringNext p.cqTail p.cqEntries
    ∧ (getQp (complete s c r) cmd.tenant cmd.qp).phase = (if ringNext p.cqTail p.cqEntries = 0 then !p.phase else p.phase)
    ∧ findCmd (complete s c r) c = none
    ∧ queueFrame s (complete s c r)

/-- O9, tier 2 (04_kyrdax_command_packets.md, Tables 4.4 and 4.5, 04_kyrdax_command_packets.md, Table 4.8). A NOP that
starts completes OK with zero results. An ECHO that starts completes OK with RESULT0 its bytes 0x08 to 0x0F, RESULT1
its bytes 0x10 to 0x17 and RESULT2 its tenant; on a pair of T0 to T63 whose completion writes work the completion
entry stands in host memory with those values. Nothing but queue control, the performance monitor, Host Notify, the
fault count and host memory changes. For each opcode that has a zero value giving OK_NOOP (PARK, INGEST, MODEL_LOAD,
ACC_FW_PUSH, DOMAIN_STATE, FW_STAGE, KERNEL_LOAD, KERNEL_LAUNCH, LOG_READ of either log, COUNTER_SNAPSHOT): a command
accepted as OK_NOOP whose turn has come completes OK_NOOP, and nothing else happens. -/
def Obligations.NopEchoAndNoops : Prop :=
((∀ (s : State) (c : Nat) (cmd : Cmd), startsNow s c 0x00 none cmd = true →
    exec (.nop c) s = .next (settle (complete (markStarted s c) c { status := .ok })) ∧
    queueFrame s (complete (markStarted s c) c { status := .ok }))
  ∧ (∀ (s : State) (c : Nat) (cmd : Cmd), startsNow s c 0x01 none cmd = true →
    exec (.echo c) s = .next (settle (complete (markStarted s c) c
      { status := .ok, r0 := leAt cmd.raw 8 8, r1 := leAt cmd.raw 16 8, r2 := cmd.tenant })) ∧
    queueFrame s (complete (markStarted s c) c
      { status := .ok, r0 := leAt cmd.raw 8 8, r1 := leAt cmd.raw 16 8, r2 := cmd.tenant }))
  ∧ (∀ (s : State) (c : Nat) (cmd : Cmd), startsNow s c 0x01 none cmd = true → cmd.tenant < 64 → cmd.qp < 8 →
    (getQp s cmd.tenant cmd.qp).cqFail = false →
    ∃ t, exec (.echo c) s = .next t ∧
      let a := (getQp s cmd.tenant cmd.qp).cqBase.toNat + 32 * (getQp s cmd.tenant cmd.qp).cqTail
      leAt (hostRead t a 32) 4 1 = 0 ∧ leAt (hostRead t a 32) 8 8 = leAt cmd.raw 8 8 ∧
      leAt (hostRead t a 32) 16 8 = leAt cmd.raw 16 8 ∧ leAt (hostRead t a 32) 24 4 = cmd.tenant))
  ∧ (∀ (s : State) (c op : Nat) (log : Option Nat) (cmd : Cmd) (i : Instr), noopNow s c op log cmd = true →
    (op, log, i) ∈ [(0x10, none, Instr.stratumPark c), (0x12, none, .stratumIngest c), (0x16, none, .modelLoad c none),
      (0x23, none, .accFwPush c none), (0x40, none, .domainState c), (0x50, none, .fwStage c none .good),
      (0x60, none, .kernelLoad c none), (0x61, none, .kernelLaunch c), (0x70, some 0, .logReadFaultLog c none),
      (0x70, some 1, .logReadSedimentLog c none none), (0x71, none, .counterSnapshot c none)] →
    exec i s = .next (settle (complete s c { status := .okNoop })))

/-- O10, tier 2 (04_kyrdax_command_packets.md, Tables 4.12 and 4.14, 04_kyrdax_command_packets.md, Table 4.6). Where function fn may
access its BAR and its tenant is in no reset: an SQ_TAIL write, of which only the low 12 bits count, on an enabled pair stores a
value below SQ_ENTRIES, and on a disabled pair stores it; a value out of range sets DB_ERR, counts event 150 and writes a DB_ERROR
entry with the value as its detail. A CQ_HEAD write, again of 12 bits, on a running pair stores a value below CQ_ENTRIES that
consumes no more entries than wait, on a pair that does not run stores it, and any other sets DB_ERR and logs. During a tenant reset
both are dropped with DB_ERR and REG_BUSY. Setting QP_CTRL.EN on a pair that is not running enables it where both ring sizes are
valid and CLASS is not 3, with class sampled and the ring positions zeroed, and otherwise leaves EN 0 with CFG_ERR 0x11; setting it
on a disabled pair that still runs is dropped with REG_BUSY. Where the steward may accept (it runs, FW_UP is set, and neither a full
command table, a lost input nor a trial's drain pauses it), a round takes each class's turn, CONTROL first, then DATA, then MAINT,
and counts event 148 where an entry still waits for a completion slot. Where it may not, the round leaves the block as it is. An
entry that passes steps 1 to 6 of Table 4.6 joins the command table unstarted, with the next acceptance number, its 64 bytes, the
time and, for a COOL_SET, the effective target then (log entry 46). -/
def Obligations.QueueTailsAndRounds : Prop :=
(∀ (s : State) (fn q : Nat) (v : Word), q < 8 → fn ≤ 63 → hostMay s fn = true →
    let p := getQp s fn q
    let err (d : Nat) := faultLog (count (setQp s fn q { p with dbErr := true }) 150 { tenant := fn }) fn 4 d 0 q
    let set : Qp := { p with notifyAll := v.getLsbD 8, clsReg := bf v 5 4 }
    let w := v.toNat % 4096
    let dropped := setBusyFn (setQp s fn q { p with dbErr := true }) fn 2
    ((getTen s fn).reset = none → p.en = true → w < p.sqEntries →
      exec (.sqTail fn q v) s = .next (settle (setQp s fn q { p with sqTail := w })))
    ∧ ((getTen s fn).reset = none → p.en = false →
      exec (.sqTail fn q v) s = .next (settle (setQp s fn q { p with sqTail := w })))
    ∧ ((getTen s fn).reset = none → p.en = true → p.sqEntries ≤ w →
      exec (.sqTail fn q v) s = .next (settle (err v.toNat)))
    ∧ ((getTen s fn).reset = none → p.running = true → w < p.cqEntries →
        (w + p.cqEntries - p.cqHead) % p.cqEntries ≤ (p.cqTail + p.cqEntries - p.cqHead) % p.cqEntries →
      exec (.cqHead fn q v) s = .next (settle (setQp s fn q { p with cqHead := w })))
    ∧ ((getTen s fn).reset = none → p.running = false →
      exec (.cqHead fn q v) s = .next (settle (setQp s fn q { p with cqHead := w })))
    ∧ ((getTen s fn).reset = none → p.running = true → (p.cqEntries ≤ w ∨
        (p.cqTail + p.cqEntries - p.cqHead) % p.cqEntries < (w + p.cqEntries - p.cqHead) % p.cqEntries) →
      exec (.cqHead fn q v) s = .next (settle (err (v.toNat + 2 ^ 32))))
    ∧ ((getTen s fn).reset ≠ none →
      exec (.sqTail fn q v) s = .next (settle dropped) ∧ exec (.cqHead fn q v) s = .next (settle dropped))
    ∧ (v.getLsbD 0 = true → p.en = false → p.running = false → ringSizeOk p.sqEntries = true → ringSizeOk p.cqEntries = true →
        bf v 5 4 ≠ 3 →
      exec (.qpCtrlEn fn q v) s = .next (settle (setQp s fn q { set with
        en := true, running := true, cls := bf v 5 4, stopped := false, cqFail := false,
        sqTail := 0, sqHead := 0, cqHead := 0, cqTail := 0, phase := true })))
    ∧ (v.getLsbD 0 = true → p.en = false → p.running = false →
        (ringSizeOk p.sqEntries = false ∨ ringSizeOk p.cqEntries = false ∨ bf v 5 4 = 3) →
      exec (.qpCtrlEn fn q v) s = .next (settle (setQp s fn q { set with cfgErr := 0x11 })))
    ∧ (v.getLsbD 0 = true → p.en = false → p.running = true →
      exec (.qpCtrlEn fn q v) s = .next (settle (setBusyFn s fn 2))))
  ∧ ((∀ s : State, s.crd.phase = .running → s.crd.fwUp = true → s.qc.cmds.length < 4096 → s.pow.inputLost = false →
      s.boot.drainUntil = none →
      let u := classTurn (classTurn (classTurn s 0) 1) 2
      exec .arbitrationRound s = .next (settle (if slotStarved u then count u 148 {} else u)))
  ∧ (∀ s : State, (s.crd.phase ≠ .running ∨ s.crd.fwUp = false ∨ 4096 ≤ s.qc.cmds.length ∨ s.pow.inputLost = true
        ∨ s.boot.drainUntil ≠ none) → exec .arbitrationRound s = .next (settle s))
  ∧ (∀ (s : State) (t q cls : Nat) (raw : List Byte),
      let c : Cmd := { seq := s.qc.nextSeq, tenant := t, qp := q, cls := cls, raw := raw, acc := s.tick, rpmAt := coolTarget s raw }
      (acceptCheck s c = .wait → (acceptEntry s t q cls raw).qc.cmds = s.qc.cmds ++ [c])
      ∧ (acceptCheck s c = .noop → (acceptEntry s t q cls raw).qc.cmds = s.qc.cmds ++ [{ c with noop := true }])
      ∧ (acceptCheck s c ≠ .noop ∧ acceptCheck s c ≠ .wait → (acceptEntry s t q cls raw).qc.nextSeq = s.qc.nextSeq + 1)))

/-- O11, tier 2 (01_tray_and_workload.md, R18, 04_kyrdax_command_packets.md, R81 and R104, Table 4.18). The host heartbeat
lapses 2 s after its last refresh and the BMC's 10 s after: it then stops, and the motors follow (HOLD takes the
target in force where both have now lapsed); before that time nothing happens. No lapse changes an accelerator's
state, a stratum or a queued command. A command not started whose DEADLINE has passed completes TIMEOUT and counts
event 154, with no other effect. A failed fetch of the entry that a pair would give next sets DMA_ERR and stops the
pair, counts event 151 and writes a DMA_ERROR entry with the address. A failed completion write on a running pair sets
DMA_ERR, stops the pair, ends its completion writes, counts event 151 and writes a DMA_ERROR entry with the address
and CMD_ID. -/
def Obligations.LapsesAndQueueErrors : Prop :=
((∀ (s : State) (t0 : Nat), s.qc.hostBeat = some t0 → t0 + 2000000 ≤ s.tick →
      exec .hostHeartbeatLapse s = .next (settle (lapse s { s with qc := { s.qc with hostBeat := none } })))
  ∧ (∀ (s : State) (t0 : Nat), s.qc.hostBeat = some t0 → s.tick < t0 + 2000000 →
      exec .hostHeartbeatLapse s = .next (settle s))
  ∧ (∀ (s : State) (t0 : Nat), s.qc.bmcBeat = some t0 → t0 + 10000000 ≤ s.tick →
      exec .bmcHeartbeatLapse s = .next (settle (lapse s { s with qc := { s.qc with bmcBeat := none } })))
  ∧ (∀ s t : State, exec .hostHeartbeatLapse s = .next t → t.pow = s.pow ∧ t.strata = s.strata ∧ t.qc.cmds = s.qc.cmds)
  ∧ (∀ s t : State, exec .bmcHeartbeatLapse s = .next t → t.pow = s.pow ∧ t.strata = s.strata ∧ t.qc.cmds = s.qc.cmds))
  ∧ ((∀ (s : State) (c : Nat) (cmd : Cmd), findCmd s c = some cmd → cmd.started = false → cmd.noop = false → cmd.deadline ≠ 0 →
      cmd.acc + cmd.deadline * 1000 < s.tick →
      exec (.deadlineExpiry c) s =
        .next (settle (complete (count s 154 { tenant := cmd.tenant, cls := some cmd.cls }) cmd.seq { status := .timeout })))
  ∧ (∀ (s : State) (c : Nat) (cmd : Cmd), findCmd s c = some cmd → s.tick < cmd.acc + cmd.deadline * 1000 →
      exec (.deadlineExpiry c) s = .next (settle s))
  ∧ (∀ (s : State) (fn q addr : Nat), mayAccept s = true → fn < 64 → q < 8 → pairWaits s fn q = true → slotFree s fn q = true →
      exec (.submissionFetchError fn q addr) s =
        .next (settle (faultLog (count (setQp s fn q { getQp s fn q with dmaErr := true, stopped := true }) 151 { tenant := fn })
          fn 5 addr 0 q)))
  ∧ (∀ (s : State) (fn q addr : Nat) (id : Half), fn < 64 → q < 8 → (getQp s fn q).running = true →
      exec (.completionWriteError fn q addr id) s =
        .next (settle (faultLog (count (setQp s fn q { getQp s fn q with dmaErr := true, stopped := true, cqFail := true }) 151
          { tenant := fn }) fn 5 addr 0 q id.toNat))))

/-- O12, tier 2 (04_kyrdax_command_packets.md, R98 to R100, Table 4.10). TENANT_RESET, an FLR and clearing VF_ENABLE start
a tenant reset, or merge their cause with the one in progress. Starting one drops the tenant's commands in flight and
marks the reset with its start, its cause, its issuer and its command. While one is in progress a further cause adds
its bit, and a command waits with those before it. TENANT_RESET_END ends it; where no TENANT_RESET command waits on
it, the reset is then over, the tenant owns no handle, and its fault log holds one entry, TENANT_RESET, with the
causes and the issuer as its detail. Clearing VF_ENABLE resets the VFs and leaves the new number of VFs. -/
def Obligations.TenantResets : Prop :=
  (∀ (s : State) (c : Nat) (cmd : Cmd), startsNow s c 0x7F none cmd = true →
      exec (.tenantReset c) s = .next (settle (startTReset (markStarted s c) (leAt cmd.raw 8 1) 0 cmd.tenant (some cmd.seq))))
  ∧ (∀ (s : State) (fn : Nat), s.links.u.l0 = true → fnEnabled s fn = true → fn ≠ 0 →
      exec (.flr fn) s = .next (settle (startTReset s fn 1 0xFF none)))
  ∧ (∀ s : State, s.links.u.l0 = true →
      exec (.flr 0) s = .next (settle (resetSampling (resetVfs (startTReset s 0 2 0xFF none) 2))))
  ∧ (∀ (s : State) (vfs : Nat), s.links.u.l0 = true → vfs ≤ 63 →
      exec (.vfEnableCleared vfs) s = .next (settle { resetVfs s 3 with qc := { (resetVfs s 3).qc with vfs := vfs } }))
  ∧ (∀ (s : State) (t bit issuer : Nat) (cmd : Option Nat), (getTen s t).reset = none →
      (getTen (startTReset s t bit issuer cmd) t).reset =
        some { causes := 2 ^ bit, issuer := issuer, start := s.tick, cmds := cmd.toList }
      ∧ (startTReset s t bit issuer cmd).qc.cmds.all (fun x => x.tenant ≠ t) = true)
  ∧ (∀ (s : State) (t bit issuer : Nat) (cmd : Option Nat) (r : TReset), (getTen s t).reset = some r →
      startTReset s t bit issuer cmd = setTen s t { getTen s t with reset := some { r with
        causes := r.causes ||| 2 ^ bit, issuer := if issuer = 0xFF then r.issuer else issuer, cmds := r.cmds ++ cmd.toList } })
  ∧ (∀ (s : State) (t : Nat) (r : TReset), (getTen s t).reset = some r → s.crd.fwUp = true → t ≤ 64 →
      exec (.tenantResetEnd t) s = .next (settle (endTReset s t r)))
  ∧ (∀ (s : State) (t : Nat) (r : TReset), (getTen s t).reset = some r → r.cmds = [] →
      (getTen (endTReset s t r) t).reset = none
      ∧ (endTReset s t r).strata.recs.all (fun x => ownerOf x.handle ≠ t) = true
      ∧ (getTen (endTReset s t r) t).log.map (fun e => (e.code, e.detail)) = [(6, r.causes + 256 * r.issuer)])

/-- O13, tier 1 (16_electrical_and_package.md, Table 16.3). BYPASS, IDCODE and SAMPLE/PRELOAD leave every pin to its
function; IDCODE answers 0x20880A6F; SAMPLE/PRELOAD loads the boundary cells. With TEST_EN high EXTEST and CLAMP drive
the pins, HIGHZ floats them, and EXTEST_PULSE and EXTEST_TRAIN drive pins and lanes; with TEST_EN low each of the five
acts as BYPASS. Nothing but the test access port (and what IDCODE answers) changes. -/
def Obligations.TestAccessPort : Prop :=
  (∀ s : State, exec .bypass s = .next (settle (tapPlain s .bypass)))
  ∧ (∀ s : State, exec .idcode s = .next (settle { tapPlain s .idcode with resp := .value 4 0x20880A6F }))
  ∧ (∀ (s : State) (cells : List Bool), exec (.samplePreload cells) s = .next (settle { s with jtag :=
      { instr := .samplePreload, cells := cells, driving := false, floating := false, lanes := false } }))
  ∧ (∀ s : State, s.crd.testEn = true →
      exec .extest s = .next (settle { s with jtag := { s.jtag with instr := .extest, driving := true, floating := false, lanes := false } })
      ∧ exec .clamp s = .next (settle { s with jtag := { s.jtag with instr := .clamp, driving := true, floating := false, lanes := false } })
      ∧ exec .highz s = .next (settle { s with jtag := { s.jtag with instr := .highz, driving := false, floating := true, lanes := false } })
      ∧ exec .extestPulse s = .next (settle { s with jtag := { s.jtag with instr := .extestPulse, driving := true, floating := false, lanes := true } })
      ∧ exec .extestTrain s = .next (settle { s with jtag := { s.jtag with instr := .extestTrain, driving := true, floating := false, lanes := true } }))
  ∧ (∀ (s : State) (i : Instr), s.crd.testEn = false → i ∈ [Instr.extest, .clamp, .highz, .extestPulse, .extestTrain] →
      exec i s = exec .bypass s)

/-- O14, tier 2 (02_clocks_domains_reset.md, Tables 2.6 and 2.8, 16_electrical_and_package.md, R394, 05_boot_and_trust.md, R125,
02_clocks_domains_reset.md, R23, R37 and R38). POR_N low and the supply monitor each assert power-on reset: the run phase returns to
power-on reset, RESET_CAUSE holds POR, and TRIM_RESTART where a trim load was in progress, domains, queue control, strata and the
steward's own memories are as after power-on, and flash, host and accelerator memory and the waiting commands stay. The rise of
POR_N samples the straps, and nothing is sampled while POR_N is already high. Power-on reset ends once POR_N is high and the
supplies are good: the phase goes to crystal qualification and every EPOCHn of T0 to T63 is drawn. A qualified ROOT leads to PLL
lock, and PLL lock to the trim load. A pass that is good (512 words, word 511 the CRC-32 of the first 511, a core VID from 20 to 50,
every field in its range) ends the load: TRIM_DONE sets, TRIM_DEFAULTED is 0, GCLK_CAP is 16 and GCLK_APPLIED the lower of GCLK_REQ
and the cap, with no switch. A bad first pass sets TRIM_RETRIED and the load is repeated. A bad second pass takes every built-in
default with VID 44, sets TRIM_DEFAULTED and GCLK_CAP 12. Outside a load, or in clock fallback, the end of a pass changes nothing.
-/
def Obligations.PowerOnAndTrim : Prop :=
((∀ s : State,
      exec .porNLow s = .next (settle (powerOn { s with crd := { s.crd with porN := false } })) ∧
      exec .supplyMonitorReset s = .next (settle (powerOn { s with crd := { s.crd with supplyOk := false } })))
  ∧ (∀ s : State, (powerOn s).crd.phase = .por ∧ (powerOn s).crd.cause = (if s.crd.phase = .trim then 0x101#10 else 1#10)
      ∧ (powerOn s).doms = [] ∧ (powerOn s).qc = {}
      ∧ (powerOn s).strata = {} ∧ (powerOn s).garr = {} ∧ (powerOn s).pending = s.pending
      ∧ (powerOn s).mem = { host := s.mem.host, acc := s.mem.acc, flash := s.mem.flash })
  ∧ (∀ (s : State) (b te : Bool) (w : Fin 4), s.crd.porN = false →
      exec (.porNRise b w te) s = .next (settle (leavePor { s with crd :=
        { s.crd with porN := true, bootHost := b, w0Addr := w.val, testEn := te } })))
  ∧ (∀ (s : State) (b te : Bool) (w : Fin 4), s.crd.porN = true → exec (.porNRise b w te) s = .next (settle s))
  ∧ (∀ s : State, exec .supplyMonitorRelease s = .next (settle (leavePor { s with crd := { s.crd with supplyOk := true } })))
  ∧ (∀ s : State, s.crd.phase = .por → s.crd.porN = true → s.crd.supplyOk = true →
      (leavePor s).crd.phase = .qualifying ∧ (leavePor s).freeCtr = s.freeCtr + 64 ∧
      ∀ t, t < 64 → (getTen (leavePor s) t).epoch = Config.freeDword (s.freeCtr + t))
  ∧ (∀ s : State, (s.crd.porN = false ∨ s.crd.supplyOk = false) → leavePor s = s)
  ∧ (∀ s : State, s.crd.phase = .qualifying → s.crd.rootOk = false → exec .rootOk s =
      .next (settle { s with crd := { s.crd with rootOk := true, rootSince := s.tick, phase := .locking } }))
  ∧ (∀ s : State, s.crd.phase = .locking → s.crd.fallback = false → s.crd.rootOk = true → s.crd.pllLock = false → exec .pllLock s =
      .next (settle { s with crd := { s.crd with pllLock := true, phase := .trim } })))
  ∧ ((∀ (s : State) (ws : List Word) (vid : Nat), s.crd.phase = .trim → s.crd.fallback = false → ws.length = 512 →
      20 ≤ vid → vid ≤ 50 → ws.getD 511 0 = crc32 ((ws.take 511).flatMap (fun w => leBytes 4 w.toNat)) →
      exec (.trimPassEnd ws vid true) s = .next (settle (motorsFollow (loaderStart { s with crd := { s.crd with
        phase := .running, trimDone := true, trimDefaulted := false, secondPass := false, trimWords := ws, coreVid := vid,
        gclkCap := 16, gclkApplied := min s.crd.gclkReq 16, switching := false } }))))
  ∧ (∀ (s : State) (ws : List Word) (vid : Nat) (ok : Bool), s.crd.phase = .trim → s.crd.fallback = false →
      s.crd.secondPass = false → trimGood ws vid ok = false →
      exec (.trimPassEnd ws vid ok) s = .next (settle { s with crd := { s.crd with trimRetried := true, secondPass := true } }))
  ∧ (∀ (s : State) (ws : List Word) (vid : Nat) (ok : Bool), s.crd.phase = .trim → s.crd.fallback = false →
      s.crd.secondPass = true → trimGood ws vid ok = false →
      exec (.trimPassEnd ws vid ok) s = .next (settle (motorsFollow (loaderStart { s with crd := { s.crd with
        phase := .running, trimDone := true, trimDefaulted := true, secondPass := false,
        trimWords := (List.range 512).map Config.trimDefault, coreVid := 44,
        gclkCap := 12, gclkApplied := min s.crd.gclkReq 12, switching := false } }))))
  ∧ (∀ (s : State) (ws : List Word) (vid : Nat) (ok : Bool), (s.crd.phase ≠ .trim ∨ s.crd.fallback = true) →
      exec (.trimPassEnd ws vid ok) s = .next (settle s)))

/-- O15, tier 2 (02_clocks_domains_reset.md, Tables 2.6, 2.7 and 2.11, R41, 04_kyrdax_command_packets.md, R105,
10_links_and_spoke_contract.md, R237, 02_clocks_domains_reset.md, R35, Tables 2.6, 2.7 and 2.12). While the steward
runs outside clock fallback, a fall of PERST_N, WARM_N, a hot reset or loss of the data link with U in L0, and
RESET_CTRL.WARM with its key each start a warm reset with their bit of RESET_CAUSE: a trim load starts at word 0 with
TRIM_DONE and FW_UP 0, U leaves L0, the rings, the command table and the T64 queues are empty without completions,
every TENANT_PRIV is 0 and every fault log empty while EPOCHn stays, local stores and Loam are lost, and the residency
records, HBM, flash, host memory, the remap table, accelerator states and RESET_CAUSE's other bits stay. In clock
fallback the reset waits until ROOT has been present for 10 ms and the PLL has locked. While the steward runs and no
warm reset waits, RESET_CTRL.MARL with its key (and WARM 0) and Marl's lockup watchdog each start a Marl-only reset
with their bit of RESET_CAUSE; during a trim load, or while a warm reset waits, both are ignored. Whether an
uncorrectable error in code SRAM caused the lockup is a free value (log entry 8): where it did, the next fast wake
finds it and a UE record of memory 3 is queued, its address a free value too. After a Marl-only reset no command is in
flight and no DOMAIN_STATE under way, FW_UP is 0, no trial or drain runs, and the seal engine holds no message.
A RESET_CTRL write without the key is dropped with REG_BUSY. -/
def Obligations.WarmAndMarlResets : Prop :=
((∀ s : State, s.crd.phase = .running → s.crd.fallback = false →
      (s.crd.perstN = true → exec (.perstN true) s =
        .next (settle (warmClear (setCause { s with crd := { s.crd with perstN := false } } 1))))
      ∧ exec .warmN s = .next (settle (warmClear (setCause s 3)))
      ∧ (s.links.u.l0 = true → exec .hotReset s = .next (settle (warmClear (setCause s 2))))
      ∧ (s.links.u.l0 = true → exec .dlDown s = .next (settle (warmClear (setCause s 2))))
      ∧ (∀ v : Word, hostMay s 0 = true → bf v 7 0 = 0xC5 → v.getLsbD 8 = true →
          exec (.resetCtrlWarm v) s = .next (settle (warmClear (setCause s 4)))))
  ∧ (∀ (s : State), exec (.perstN false) s = .next (settle { s with crd := { s.crd with perstN := true } }))
  ∧ (∀ s : State,
      (warmClear s).crd.phase = .trim ∧ (warmClear s).crd.trimDone = false ∧ (warmClear s).crd.fwUp = false
      ∧ (warmClear s).crd.cause = s.crd.cause ∧ (warmClear s).links.u.l0 = false
      ∧ (warmClear s).qc.qps = [] ∧ (warmClear s).qc.cmds = [] ∧ (warmClear s).qc.t64 = {}
      ∧ (∀ t, (getTen (warmClear s) t).priv = 0 ∧ (getTen (warmClear s) t).log = []
          ∧ (getTen (warmClear s) t).epoch = (getTen s t).epoch)
      ∧ (warmClear s).strata.recs = s.strata.recs ∧ (warmClear s).garr.remap = s.garr.remap
      ∧ (∀ n, (getAcc (warmClear s) n).st = (getAcc s n).st)
      ∧ (warmClear s).mem.ls = [] ∧ (warmClear s).mem.flash = s.mem.flash ∧ (warmClear s).mem.host = s.mem.host
      ∧ (∀ a, KMap.get mem0 (warmClear s).mem.gm a =
          if Config.loamBase ≤ a ∧ a < Config.loamBase + Config.loamBytes then 0 else KMap.get mem0 s.mem.gm a)
      ∧ (warmClear s).pending = s.pending ∧ (warmClear s).tick = s.tick)
  ∧ (∀ s : State, s.crd.phase = .running → s.crd.fallback = true → exec .warmN s =
      .next (settle { setCause s 3 with crd := { (setCause s 3).crd with warmWaiting := true } }))
  ∧ (∀ s : State, s.crd.fallback = true → s.crd.warmWaiting = true → s.crd.rootOk = true → s.crd.rootSince + 10000 ≤ s.tick →
      s.crd.pllLock = true → exec .warmResetAfterFallback s = .next (settle (warmClear s)))
  ∧ (∀ s : State, s.tick < s.crd.rootSince + 10000 → exec .warmResetAfterFallback s = .next (settle s)))
  ∧ ((∀ s : State, s.crd.phase = .running → s.crd.warmWaiting = false →
      let m (x : State) (b : Nat) :=
        let u := count (setCause x b) 307 {}
        marlClear { u with hz := { u.hz with marlResets := satN 8 (u.hz.marlResets + 1) } }
      let w : State := { s with freeCtr := s.freeCtr + 1 }
      (∀ v : Word, hostMay s 0 = true → bf v 7 0 = 0xC5 → v.getLsbD 8 = false → v.getLsbD 9 = true →
        exec (.resetCtrlMarl v) s = .next (settle (m s 6)))
      ∧ exec .marlWatchdog s = .next (settle (m (if (Config.freeDword s.freeCtr).toNat % 2 = 1 then
          marlSramUe { w with boot := { w.boot with codeBad := true } } else w) 5)))
  ∧ (∀ s : State, s.slog.queue.length < 1024 → ∃ r : Rec, (marlSramUe s).slog.queue = s.slog.queue ++ [r] ∧ r.typ = 0x41
      ∧ r.payload.take 8 = leBytes 8 3 ∧ (marlSramUe s).boot = s.boot)
  ∧ (∀ s : State, (s.crd.phase ≠ .running ∨ s.crd.warmWaiting = true) →
      exec .marlWatchdog s = .next (settle s))
  ∧ (∀ (s : State) (v : Word), hostMay s 0 = true → bf v 7 0 ≠ 0xC5 →
      exec (.resetCtrlMarl v) s = .next (settle (setBusy s 3)))
  ∧ (∀ s : State, (marlClear s).qc.cmds = [] ∧ (marlClear s).crd.fwUp = false ∧ (marlClear s).domSeqs = [] ∧ (marlClear s).boot.drainUntil = none
      ∧ (marlClear s).boot.trialEnd = none ∧ (marlClear s).sealEng.ctx0 = none ∧ (marlClear s).sealEng.ctx1 = none))

/-- O16, tier 2 (02_clocks_domains_reset.md, R36, Tables 2.6 and 2.15). With the key, WARM 0 and MARL 0, a DOM_GO request
for domain d: d above 91 is refused with no ERR; D00, D01, D03 to D05 and D14 to D19 are refused with ERR 9; a domain
in transition with ERR 5; a spoke whose accelerator is in IDLE or RUN, or D02 while it still serves boot, as the held
check says, with ERR 4; a domain in use with ERR 5; a domain that is not ON with ERR 8. A refusal sets RST_REFUSED and
REG_BUSY and does nothing else. Otherwise the domain's contents of Table 2.6 are cleared, ERR is 0, and the domain is
in reset from then on. -/
def Obligations.DomainResetStarts : Prop :=
  ∀ (s : State) (v : Word), hostMay s 0 = true → bf v 7 0 = 0xC5 → v.getLsbD 8 = false → v.getLsbD 9 = false →
      v.getLsbD 24 = true →
    let d := bf v 22 16
    let no (s : State) : State := setBusy { s with crd := { s.crd with rstRefused := true } } 3
    (91 < d → exec (.resetCtrlDomGo v) s = .next (settle (no s)))
    ∧ (d < 2 ∨ (3 ≤ d ∧ d < 6) ∨ (14 ≤ d ∧ d < 20) → exec (.resetCtrlDomGo v) s = .next (settle (no (setErr s d 9))))
    ∧ (d ≤ 91 → ¬ (d < 2 ∨ (3 ≤ d ∧ d < 6) ∨ (14 ≤ d ∧ d < 20)) → domBusy s d = true →
      exec (.resetCtrlDomGo v) s = .next (settle (no (setErr s d 5))))
    ∧ (d ≤ 91 → ¬ (d < 2 ∨ (3 ≤ d ∧ d < 6) ∨ (14 ≤ d ∧ d < 20)) → domBusy s d = false → domHeld s d .gated true = true →
      exec (.resetCtrlDomGo v) s = .next (settle (no (setErr s d 4))))
    ∧ (d ≤ 91 → ¬ (d < 2 ∨ (3 ≤ d ∧ d < 6) ∨ (14 ≤ d ∧ d < 20)) → domBusy s d = false → domHeld s d .gated true = false →
        domUsed s d = true → exec (.resetCtrlDomGo v) s = .next (settle (no (setErr s d 5))))
    ∧ (d ≤ 91 → ¬ (d < 2 ∨ (3 ≤ d ∧ d < 6) ∨ (14 ≤ d ∧ d < 20)) → domBusy s d = false → domHeld s d .gated true = false →
        domUsed s d = false → (getDom s d).cur ≠ .on → exec (.resetCtrlDomGo v) s = .next (settle (no (setErr s d 8))))
    ∧ (d ≤ 91 → ¬ (d < 2 ∨ (3 ≤ d ∧ d < 6) ∨ (14 ≤ d ∧ d < 20)) → domBusy s d = false → domHeld s d .gated true = false →
        domUsed s d = false → (getDom s d).cur = .on →
      exec (.resetCtrlDomGo v) s = .next (settle (modDom (domResetEffect s d) d
        (fun x => { x with err := 0, phase := .resetting, since := s.tick }))))

/-- O17, tier 2 (02_clocks_domains_reset.md, R23 and R40, Tables 2.9 to 2.11). A GCLK_CTRL write stores its request, at
least 4, and starts a switch where the request capped by GCLK_CAP differs from GCLK_APPLIED; nothing else changes. At
the switch GCLK_APPLIED takes the lower of GCLK_REQ and GCLK_CAP and SWITCHING returns to 0. A lost clock once
ROOT has qualified starts clock fallback once: FALLBACK sets with bit 7 of RESET_CAUSE. In fallback a further loss
clears PLL_LOCK, and ROOT_OK where ROOT is gone, and nothing else, so that a warm reset that waits does not go on;
before ROOT has qualified a loss changes nothing (log entry 50). -/
def Obligations.ClocksSwitchAndFail : Prop :=
  (∀ (s : State) (v : Word), hostMay s 0 = true → exec (.gclkReq v) s = .next (settle { s with crd := { s.crd with
      gclkReq := max 4 (bf v 4 0),
      switching := s.crd.switching || decide (min (max 4 (bf v 4 0)) s.crd.gclkCap ≠ s.crd.gclkApplied) } }))
  ∧ (∀ s : State, s.crd.switching = true → s.crd.fallback = false → exec .gclkSwitch s = .next (settle { s with crd :=
      { s.crd with switching := false, gclkApplied := min s.crd.gclkReq s.crd.gclkCap } }))
  ∧ (∀ (s : State) (gone : Bool), s.crd.fallback = false → s.crd.phase ≠ .por → s.crd.phase ≠ .qualifying →
      exec (.clockLoss gone) s =
        .next (settle (enterFallback { s with crd := { s.crd with rootOk := s.crd.rootOk && !gone, pllLock := false } })))
  ∧ (∀ (s : State) (gone : Bool), s.crd.fallback = true → s.crd.phase ≠ .por → s.crd.phase ≠ .qualifying →
      exec (.clockLoss gone) s =
        .next (settle { s with crd := { s.crd with rootOk := s.crd.rootOk && !gone, pllLock := false } }))
  ∧ (∀ (s : State) (gone : Bool), (s.crd.phase = .por ∨ s.crd.phase = .qualifying) →
      exec (.clockLoss gone) s = .next (settle s))

/-- O18, tier 2 (02_clocks_domains_reset.md, R25, R30 and R31, Table 2.15, 02_clocks_domains_reset.md, R31, R36, R42 and
R49). A DOMAIN_STATE that starts and names some but not all of D14 to D19 completes NOT_PERMITTED with detail kind 5,
the first of them and ERR 1. Any other takes its domains in ascending order for ON and in descending order otherwise,
with D14 to D19 as one: a domain that already holds the target is counted and the next is taken, it completes OK with
the count processed where none is left and none is moving, and it ends at the first refused domain with that domain's
ERR, the status of Table 2.15 and RESULT0 the count processed before it. A DOM_CTRL write of a domain in no
transition: a domain of D14 to D19 alone, or a change that the checks refuse, sets ERR with its code and leaves REQ; a
write of the state it holds sets REQ and clears ERR; any other begins the transition with REQ and ERR 0. A write
during a transition or reset is dropped with REG_BUSY. While the steward runs, a transition step advances the domain
(D14 to D19 as one) and every DOMAIN_STATE goes on. A power switch not good within twice its time fails, and before
that nothing happens; where no DOMAIN_STATE is under way, a failed switch leaves the domain OFF with ERR 7 and
DOM_FAULT set. The end of a domain reset returns BUSY to 0. -/
def Obligations.DomainCommands : Prop :=
((∀ (s : State) (c : Nat) (cmd : Cmd), startsNow s c 0x40 none cmd = true →
      let first := leAt cmd.raw 8 1
      let n := leAt cmd.raw 9 1
      let target := DomSt.ofCode (leAt cmd.raw 0xA 1)
      let hbm := ((List.range n).map (fun i => first + i)).filter isHbm
      let u := markStarted s c
      (hbm ≠ [] → hbm.length < 6 → exec (.domainState c) s =
        .next (settle (complete (setErr u (hbm.headD 14) 1) c (refuse .notPermitted 5 (hbm.headD 14 * 256 + 1)))))
      ∧ ((hbm = [] ∨ 6 ≤ hbm.length) →
        let ds := ((List.range n).map (fun i => first + i)).filter
          (fun d => !isHbm d || d = (if target = .on then 14 else 19))
        exec (.domainState c) s = .next (settle
          (seqRun u { cmd := c, target := target, todo := if target = .on then ds else ds.reverse }
            (if target = .on then ds else ds.reverse)))))
  ∧ (∀ (s : State) (q : DomSeq) (d : Nat) (rest : List Nat), q.wait = none → (unitOf d).any (domBusy s) = false →
      domErr s d q.target ≠ 0 →
      seqRun s q (d :: rest) = complete (setErr (dropSeq s q.cmd) d (domErr s d q.target)) q.cmd
        { refuse (errStatus (domErr s d q.target)) 5 (d * 256 + domErr s d q.target) with r0 := q.processed % 256 })
  ∧ (∀ (s : State) (q : DomSeq) (d : Nat) (rest : List Nat), q.wait = none → (unitOf d).any (domBusy s) = false →
      domErr s d q.target = 0 → (getDom s d).cur = q.target →
      seqRun s q (d :: rest) =
        seqRun ((unitOf d).foldl (fun s k => modDom s k (fun x => { x with err := 0, req := q.target })) s)
          { q with processed := q.processed + (unitOf d).length } rest)
  ∧ (∀ (s : State) (q : DomSeq), q.moving = [] → seqRun s q [] = complete (dropSeq s q.cmd) q.cmd (okR (q.processed % 256))))
  ∧ ((∀ (s : State) (d : Fin 92) (v : Word), hostMay s 0 = true → domBusy s d.val = false →
      let t := DomSt.ofCode (bf v 1 0)
      let e := if isHbm d.val then 1 else domErr s d.val t
      (e ≠ 0 → exec (.domCtrl d v) s = .next (settle (setErr s d.val e)))
      ∧ (e = 0 → (getDom s d.val).cur = t →
          exec (.domCtrl d v) s = .next (settle (modDom s d.val (fun x => { x with req := t, err := 0 }))))
      ∧ (e = 0 → (getDom s d.val).cur ≠ t → exec (.domCtrl d v) s = .next (settle (modDom s d.val (fun x =>
          { x with req := t, err := 0, target := t, since := s.tick, phase := if x.cur = .off then .switching else .leg })))))
  ∧ (∀ (s : State) (d : Fin 92) (v : Word), hostMay s 0 = true → domBusy s d.val = true →
      exec (.domCtrl d v) s = .next (settle (setBusy s 3)))
  ∧ (∀ (s : State) (d : Fin 92) (bad : List (Fin 17)), s.crd.phase = .running →
      exec (.domainTransitionStep d bad) s =
        .next (settle (seqPump ((unitOf d.val).foldl (fun s k => stepDom s k (bad.map (·.val))) s))))
  ∧ (∀ (s : State) (d : Nat) (bad : List Nat), (getDom s d).phase = .leg → (getDom s d).target = .gated →
      (getDom s d).cur = .on →
      (getDom (stepDom s d bad) d).cur = .gated ∧ (getDom (stepDom s d bad) d).phase = .idle)
  ∧ (∀ (s : State) (d : Fin 92), (getDom s d.val).phase = .switching → (getDom s d.val).since + switchUs d.val ≤ s.tick →
      exec (.powerSwitchTimeout d) s = .next (settle (switchFails s d.val)))
  ∧ (∀ (s : State) (d : Fin 92), s.domSeqs = [] → (getDom (switchFails s d.val) d.val).cur = .off
      ∧ (getDom (switchFails s d.val) d.val).err = 7 ∧ (switchFails s d.val).crd.domFault = true)
  ∧ (∀ (s : State) (d : Fin 92), s.tick < (getDom s d.val).since + switchUs d.val →
      exec (.powerSwitchTimeout d) s = .next (settle s))
  ∧ (∀ (s : State) (d : Fin 92), (getDom s d.val).phase = .resetting →
      exec (.domainResetEnd d) s = .next (settle (seqPump (modDom s d.val (fun x => { x with phase := .idle }))))))

/-- O19, tier 2 (03_registers_and_horizon.md, R50, R53, R57 to R59). For a function that may access its BAR: a write to the Horizon
page, of whatever form, is dropped without error. Elsewhere a write outside the BAR or not naturally aligned logs an error under U's
AER and changes nothing else; a poisoned write is dropped with REG_BUSY of its block, counts event 187 and logs; a write of fewer
than 4 bytes, or of a word not all of whose bytes are enabled, is dropped with REG_BUSY; a whole aligned word is applied as the
register's table gives. The low word of a writable 64-bit register is staged for its function, and the write of its high word
applies both as one setting. A write to the PF's HZ page leaves every other part of the state as it is. -/
def Obligations.RegisterWriteForms : Prop :=
  ∀ (s : State) (w : RegAccess), hostMay s w.fn = true → (w.fn = 0 ∨ w.off < 0x10000) →
    (onPage w.fn w.off = true → exec (.registerWrite w) s = .next (settle s))
    ∧ (onPage w.fn w.off = false → taken w.fn w.off w.size = false → exec (.registerWrite w) s = .next (settle (logAer s)))
    ∧ (onPage w.fn w.off = false → taken w.fn w.off w.size = true → w.poisoned = true →
      exec (.registerWrite w) s = .next (settle (count (logAer (dropWrite s w.fn w.off)) 187 {})))
    ∧ (taken w.fn w.off w.size = true → w.poisoned = false → onPage w.fn w.off = false → w.size < 4 →
      exec (.registerWrite w) s = .next (settle (dropWrite s w.fn w.off)))
    ∧ (taken w.fn w.off w.size = true → w.poisoned = false → onPage w.fn w.off = false → w.size = 4 → w.be ≠ 15 →
      exec (.registerWrite w) s = .next (settle (dropWrite s w.fn w.off)))
    ∧ (taken w.fn w.off w.size = true → w.poisoned = false → onPage w.fn w.off = false → w.size = 4 → w.be = 15 →
        wide w.fn w.off = true → blockOff s (blockOf w.off) = false →
      exec (.registerWrite w) s = .next (settle (setStaged s w.fn w.off (some (BitVec.ofNat 32 w.val.toNat)))))
    ∧ (taken w.fn w.off w.size = true → w.poisoned = false → onPage w.fn w.off = false → w.size = 4 → w.be = 15 →
        wide w.fn w.off = false → w.off % 8 = 4 → wide w.fn (w.off - 4) = true →
      exec (.registerWrite w) s = .next (settle (wideWrite (setStaged s w.fn (w.off - 4) none) w.fn (w.off - 4)
        ((match getStaged s w.fn (w.off - 4) with | some lo => lo.toNat | none => regWord s w.fn (w.off - 4))
          + 2 ^ 32 * w.val.toNat))))
    ∧ (taken w.fn w.off w.size = true → w.poisoned = false → onPage w.fn w.off = false → w.size = 4 → w.be = 15 →
        wide w.fn w.off = false → ¬ (w.off % 8 = 4 ∧ wide w.fn (w.off - 4) = true) → w.fn = 0 →
      exec (.registerWrite w) s = .next (settle (pfWrite s w.off w.val.toNat)))
    ∧ (taken w.fn w.off w.size = true → w.poisoned = false → onPage w.fn w.off = false → w.size = 4 → w.be = 15 →
        wide w.fn w.off = false → ¬ (w.off % 8 = 4 ∧ wide w.fn (w.off - 4) = true) → w.fn ≠ 0 → w.fn ≠ 64 →
      exec (.registerWrite w) s = .next (settle (vfWrite s w.fn w.off w.val.toNat)))
    ∧ (taken w.fn w.off w.size = true → w.poisoned = false → onPage w.fn w.off = false → w.size = 8 → w.be = 255 →
        wide w.fn w.off = true →
      exec (.registerWrite w) s = .next (settle (wideWrite (setStaged s w.fn w.off none) w.fn w.off w.val.toNat)))

/-- O20, tier 2 (03_registers_and_horizon.md, R55, 14_two_wire_ports.md, Table 14.8, 15_sediment_log_and_counters.md,
Tables 15.7 and 15.8, 13_motor_drive.md, Table 13.8, 10_links_and_spoke_contract.md, Table 10.7,
03_registers_and_horizon.md, R57). A 4-byte read by the host of a register that reads and clears answers its value and
clears it: PORT_ERRS of W0 (the PEC, NACK and timeout counts), the dropped Host Notify count, the dropped and torn
record counts of the log, the lost sample count, a spoke port's recovery and unsupported-request counts, a motor's
event counts, and a controller port's error counts. Nothing else changes but the answer. For a function that may
access its BAR, a 4-byte read of the low word of a 64-bit register answers that word, latches the high word as it is
at that moment for that function, and changes nothing else; a following 4-byte read of the high word by the same
function answers the latched word, whatever the register holds by then, and forgets it. Off the page, a read longer
than 8 bytes, misaligned, crossing a word or beyond the BAR's blocks is unsupported and logged; a read of 1 to 3 bytes
within a word answers those bytes and clears what a read of the whole register clears; an 8-byte read of a 64-bit
register answers both words and latches nothing. -/
def Obligations.ReadsThatClearOrLatch : Prop :=
(∀ s : State, hostMay s 0 = true →
    let ans (off : Nat) (u : State) : State := { u with resp := .value 4 (regWord s 0 off % 2 ^ 32) }
    exec (.rcRead 0 ⟨0x80000C, 4⟩) s =
      .next (settle (ans 0x80000C { s with tw := { s.tw with pecErrs := 0, nacks := 0, timeouts := 0 } }))
    ∧ exec (.rcRead 0 ⟨0x800010, 4⟩) s = .next (settle (ans 0x800010 { s with tw := { s.tw with hnDropped := 0 } }))
    ∧ exec (.rcRead 0 ⟨0x900004, 4⟩) s = .next (settle (ans 0x900004 { s with slog := { s.slog with dropped := 0 } }))
    ∧ exec (.rcRead 0 ⟨0x900014, 4⟩) s = .next (settle (ans 0x900014 { s with slog := { s.slog with torn := 0 } }))
    ∧ exec (.rcRead 0 ⟨0xA0000C, 4⟩) s = .next (settle (ans 0xA0000C { s with pm := { s.pm with lost := 0 } }))
    ∧ (∀ n, n < 8 → exec (.rcRead 0 ⟨0x508100 + 0x40 * n, 4⟩) s = .next (settle (ans (0x508100 + 0x40 * n)
        (setSpoke s n { getSpoke s n with recoveries := 0, inboundUr := 0 }))))
    ∧ (∀ m, m < 8 → exec (.rcRead 0 ⟨0x700140 + 0x100 * m, 4⟩) s = .next (settle (ans (0x700140 + 0x100 * m)
        (setMotor s m { getMotor s m with noise := 0, synths := 0, stalls := 0, desats := 0 }))))
    ∧ (∀ p, 1 ≤ p → p ≤ 11 → exec (.rcRead 0 ⟨0x800104 + 0x40 * p, 4⟩) s = .next (settle (ans (0x800104 + 0x40 * p)
        (setPort s p { getPort s p with errs := 0, arbLost := 0 })))))
  ∧ ((∀ (s : State) (fn off : Nat), hostMay s fn = true → (fn = 0 ∨ off < 0x10000) → onPage fn off = false → taken fn off 4 = true →
      wideRead fn off = true →
      exec (.lowWordRead fn off) s = .next (settle { setLatch s fn off (some (BitVec.ofNat 32 (regWord s fn (off + 4)))) with
        resp := .value 4 (regWord s fn off % 2 ^ 32) }))
  ∧ (∀ (s : State) (fn off : Nat) (w : Word), getLatch (setLatch s fn off (some w)) fn off = some w)
  ∧ (∀ (s : State) (fn off : Nat) (w : Word), hostMay s fn = true → (fn = 0 ∨ off + 4 < 0x10000) → onPage fn (off + 4) = false → taken fn (off + 4) 4 = true →
      off % 8 = 0 → wideRead fn (off + 4) = false → wideRead fn off = true → getLatch s fn off = some w →
      exec (.rcRead fn ⟨off + 4, 4⟩) s = .next (settle { setLatch s fn off none with resp := .value 4 w.toNat })))
  ∧ (∀ (s : State) (fn off n : Nat), hostMay s fn = true → (fn = 0 ∨ off < 0x10000) → onPage fn off = false →
      (taken fn off n = false → exec (.rcRead fn ⟨off, n⟩) s = .next (settle { count (logAer s) 186 {} with resp := .unsupported }))
      ∧ (taken fn off n = true → n < 4 → exec (.rcRead fn ⟨off, n⟩) s = .next (settle { rcClear s fn (off / 4 * 4) with
          resp := .value n (regWord s fn (off / 4 * 4) / 256 ^ (off % 4) % 256 ^ n % 256 ^ n) }))
      ∧ (taken fn off n = true → n = 8 → wideRead fn off = true → exec (.rcRead fn ⟨off, n⟩) s = .next (settle { s with
          resp := .value 8 ((regWord s fn off + 2 ^ 32 * regWord s fn (off + 4)) % 256 ^ 8) })))

/-- O21, tier 2 (03_registers_and_horizon.md, R53, R57, R61, R64 and R66, 03_registers_and_horizon.md, R63, R68 and R70).
For a function that may access its BAR, a read of 1, 2, 8, 16, 32 or 64 naturally aligned bytes of the page, or of 3
bytes within a word, answers the bytes of the page as they are then, and counts event 180; a read of any other size or
alignment is unsupported, counts event 186 and logs under U's AER. A 4-byte read of HZ_FAULT answers the fault word as
the reader sees it, bit 23 being its own fault log's. No read changes anything but counters, the AER count, the latch
and the answer. While Daxrin runs outside clock fallback and 10 ms have passed since the last publish, HORIZON_PUBLISH
raises the frame count by 1, fills the FW fields, takes the time, clears the stale mark and counts event 306; earlier
than that, with Daxrin down or in clock fallback, it changes nothing. 100 ms without a publish sets the stale mark.
While the steward runs, a mirror refresh makes every mirror word good. -/
def Obligations.HorizonPage : Prop :=
((∀ (s : State) (fn off n : Nat), hostMay s fn = true → off < 0x1000 → pageTakes off n = true → n ≠ 4 →
      exec (.horizonPageRead fn off n) s =
        .next (settle { count s 180 {} with resp := .data (hzBytes (count s 180 {}) fn off n) }))
  ∧ (∀ (s : State) (fn off n : Nat), hostMay s fn = true → off < 0x1000 → pageTakes off n = false →
      exec (.horizonPageRead fn off n) s =
        .next (settle { count (logAer (count s 180 {})) 186 {} with resp := .unsupported }))
  ∧ (∀ s : State, hostMay s 0 = true → exec (.horizonPageRead 0 0x10 4) s =
      .next (settle { count s 180 {} with resp := .data (leBytes 4 (faultWord s 0).toNat) }))
  ∧ (∀ (s t : State) (fn off n : Nat), exec (.horizonPageRead fn off n) s = .next t →
      t = { s with pm := t.pm, regs := { s.regs with aer := t.regs.aer, latched := t.regs.latched }, resp := t.resp,
                   hz := t.hz, tw := { s.tw with hn := t.tw.hn } }))
  ∧ ((∀ s : State, s.crd.fwUp = true → s.crd.fallback = false → s.hz.lastPub + 10000 ≤ s.tick →
      exec .horizonPublish s = .next (settle (count { s with hz := { s.hz with
        frame := s.hz.frame + 1, pub := frameNow s, lastPub := s.tick, stale := false,
        mirrorBad := s.hz.mirrorBad.filter (fun e => !fwWord (4 * e.1)) } } 306 {})))
  ∧ (∀ s : State, (s.crd.fwUp = false ∨ s.crd.fallback = true ∨ s.tick < s.hz.lastPub + 10000) →
      exec .horizonPublish s = .next (settle s))
  ∧ (∀ s : State, s.hz.lastPub + 100000 ≤ s.tick → exec .fwDown s = .next (settle { s with hz := { s.hz with stale := true } }))
  ∧ (∀ s : State, s.tick < s.hz.lastPub + 100000 → exec .fwDown s = .next (settle s))
  ∧ (∀ s : State, s.crd.phase = .running → exec .mirrorRefresh s = .next (settle { s with hz := { s.hz with mirrorBad := [] } })))

/-- O22, tier 2 (03_registers_and_horizon.md, R52, 02_clocks_domains_reset.md, Table 2.4, 08_memory_ordering.md, R195).
For the PF and an access inside the BAR: where BAR2 is enabled, the grain addresses lie in Loam or in HBM and the
domains of the access are ON, a read answers the bytes of memory (poisoned, with event 187, where it meets an
uncorrectable error of HBM or a line that keeps failing) and counts event 181, and a write stores its bytes at
BAR2_BASE plus the offset and counts event 182, every byte of grain memory outside them reading as before. Where a
domain is not ON a read answers all ones with an AER entry and a write is dropped. An access with BAR2 disabled or
outside Loam and HBM is unsupported. -/
def Obligations.BarTwoAccesses : Prop :=
  ∀ (s : State) (off n : Nat) (bs : List Byte), hostMay s 0 = true →
    let a := bar2Addr s off
    (off + n ≤ s.regs.bar2Size → bar2Takes s off n = true → bar2On s a n = true → badLineIn s a n = false →
      exec (.bar2Read off n false) s = .next (settle { count s 181 {} with resp := .data (gmRead s a n) }))
    ∧ (off + n ≤ s.regs.bar2Size → bar2Takes s off n = true → bar2On s a n = true → isLoam a = false →
      exec (.bar2Read off n true) s = .next (settle { count (count s 181 {}) 187 {} with resp := .poisoned }))
    ∧ (off + n ≤ s.regs.bar2Size → bar2Takes s off n = true → bar2On s a n = true → badLineIn s a n = true → ∀ ue,
      exec (.bar2Read off n ue) s = .next (settle { count (count s 181 {}) 187 {} with resp := .poisoned }))
    ∧ (off + n ≤ s.regs.bar2Size → bar2Takes s off n = true → bar2On s a n = false → ∀ ue,
      exec (.bar2Read off n ue) s = .next (settle { logAer (count s 181 {}) with resp := .data (List.replicate n 0xFF) }))
    ∧ (off + n ≤ s.regs.bar2Size → bar2Takes s off n = false → ∀ ue,
      exec (.bar2Read off n ue) s = .next (settle { count (logAer (count s 181 {})) 186 {} with resp := .unsupported }))
    ∧ (off + bs.length ≤ s.regs.bar2Size → bar2Takes s off bs.length = true → bar2On s a bs.length = true →
      ∃ t, exec (.bar2Write off bs) s = .next t ∧ t.pm = (count s 182 {}).pm ∧ gmRead t a bs.length = bs ∧
        ∀ b, (b < a ∨ a + bs.length ≤ b) → KMap.get mem0 t.mem.gm b = KMap.get mem0 s.mem.gm b)
    ∧ (off + bs.length ≤ s.regs.bar2Size → bar2Takes s off bs.length = true → bar2On s a bs.length = false →
      exec (.bar2Write off bs) s = .next (settle (count s 182 {})))
    ∧ (off + bs.length ≤ s.regs.bar2Size → bar2Takes s off bs.length = false →
      exec (.bar2Write off bs) s = .next (settle (logAer (count s 182 {}))))

/-- O23, tier 2 (05_boot_and_trust.md, R117 and R118, Tables 5.10 and 5.11). While the steward runs and the loader runs
without having started Marl or waiting for the host: a flash that gives no SFDP signature, is under 64 MiB or times
out makes the loader wait for the host with BOOT_ERR 1, 2 or 0xA. A good flash is read in the fastest mode that its
tables report; one that falls silent at the descriptors or within a slot makes the loader wait with BOOT_ERR 0xA.
With a stable descriptor and a retained image whose digest matches, code SRAM without an uncorrectable error, the
retained image starts with FAST_WAKE; with no retained image, or one that does not match (BOOT_ERR 9), the loader
takes the cold path: with BOOT_SRC = HOST it waits, else it runs the ACTIVE slot where it is well-formed, else
(BOOT_ERR 4 or 5) the other, else (BOOT_ERR 6) it waits; the payload of a slot that is not well-formed is in code SRAM
by then. With a TRIAL
descriptor, an armed trial and BOOT_SRC = FLASH, a well-formed trial slot runs with its window (120 s where it is 0),
the trial disarmed. -/
def Obligations.LoaderRuns : Prop :=
  (∀ s : State, s.crd.phase = .running → s.boot.loaderRunning = true → s.boot.started = false → s.boot.waitHost = false →
      ∀ stall, exec (.loaderRun ⟨.noSignature, stall⟩) s =
        .next (settle (waitHost (bootErrAt { s with boot := { s.boot with flashDead := true } } 1)))
      ∧ exec (.loaderRun ⟨.tooSmall, stall⟩) s =
        .next (settle (waitHost (bootErrAt { s with boot := { s.boot with flashDead := true } } 2)))
      ∧ exec (.loaderRun ⟨.timeout, stall⟩) s =
        .next (settle (waitHost (bootErrAt { s with boot := { s.boot with flashDead := true } } 0xA)))
      ∧ ∀ x : SfdpTables,
        let u := { s with boot := { s.boot with flashDead := false, sfdp := x, flashMode :=
          if x.octalDdr then .octalDdr else if x.octalRead then .octalRead else .single } }
        exec (.loaderRun ⟨.good x, .descriptors⟩) s =
          .next (settle (waitHost (bootErrAt { u with boot := { u.boot with flashDead := true } } 0xA)))
        ∧ (stall ≠ .descriptors → exec (.loaderRun ⟨.good x, stall⟩) s = .next (settle (loaderChoose stall u))))
  ∧ (∀ s : State, s.boot.pending.isSome = true → (descNow s).trial = false → s.boot.retained = none → s.crd.bootHost = false →
      bootImageOk (slotImage s ((descNow s).active % 2)) = true →
      loaderChoose .none s = runImage s (slotImage s ((descNow s).active % 2)) ((descNow s).active % 2))
  ∧ (∀ (s : State) (stall : FlashStall), s.boot.pending.isSome = true → (descNow s).trial = false → s.boot.retained = none →
      s.crd.bootHost = true → loaderChoose stall s = waitHost s)
  ∧ (∀ (s : State) (stall : FlashStall) (r : RunRecord), s.boot.pending.isSome = true → (descNow s).trial = false →
      s.boot.retained = some r → s.boot.codeBad = false → (sha384 (s.boot.code.take r.len)).toNat = r.digest →
      loaderChoose stall s = startMarl (count s 160 {} (ceilDiv r.len 4096)) r true)
  ∧ (∀ (s : State) (stall : FlashStall) (r : RunRecord), s.boot.pending.isSome = true → (descNow s).trial = false →
      s.boot.retained = some r → (s.boot.codeBad = true ∨ (sha384 (s.boot.code.take r.len)).toNat ≠ r.digest) →
      loaderChoose stall s = runFirstGood stall (bootErrAt s 9) ((descNow s).active % 2) (1 - (descNow s).active % 2))
  ∧ (∀ (s : State) (a b : Nat), s.crd.bootHost = false → bootImageOk (slotImage s a) = false →
      let u := bootErrAt (streamCode s (slotImage s a) (payloadLen (slotImage s a))) (4 + a)
      (bootImageOk (slotImage u b) = true → runFirstGood .none s a b = runImage u (slotImage u b) b)
      ∧ (bootImageOk (slotImage u b) = false →
        runFirstGood .none s a b = waitHost (bootErrAt (streamCode u (slotImage u b) (payloadLen (slotImage u b))) 6)))
  ∧ (∀ (s : State) (k : Fin 2) (b n : Nat), s.crd.bootHost = false → runFirstGood (.slot k n) s k.val b =
      flashSilent (streamCode s (slotImage s k.val) (min n (payloadLen (slotImage s k.val)))))
  ∧ (∀ s : State, s.boot.pending.isSome = true → (descNow s).trial = true → s.boot.trialArmed = true → s.crd.bootHost = false →
      bootImageOk (slotImage s ((descNow s).trialSlot % 2)) = true →
      loaderChoose .none s = runImage { s with boot := { s.boot with
        trialArmed := false, trialWindow := if (descNow s).windowS = 0 then 120 else (descNow s).windowS } }
        (slotImage s ((descNow s).trialSlot % 2)) ((descNow s).trialSlot % 2))
  ∧ (∀ (s : State) (r : RunRecord) (fast : Bool), (startMarl s r fast).boot.started = true
      ∧ (startMarl s r fast).boot.loaderRunning = false ∧ (startMarl s r fast).boot.fastWake = fast
      ∧ (startMarl s r fast).boot.unverified = decide (r.verify ≠ 0)
      ∧ (startMarl s r fast).boot.keyLock = (decide (r.verify ≠ 0) || s.boot.unverifiedRan || s.boot.hostLocked)
      ∧ (startMarl s r fast).sealEng.bootReserved = false)

/-- O24, tier 2 (05_boot_and_trust.md, R119 and R133, Tables 5.10 and 5.12, 02_clocks_domains_reset.md, R47, 05_boot_and_trust.md,
R122 and R124, 09_strata_park_restore_ingest.md, R214). Where the host may write: a BOOT_RELEASE write without its key, or while the
loader does not wait, is dropped with REG_BUSY; with the key and a waiting loader, an image in HBM that is well-formed runs as a
host image, and any other is copied and leaves the loader waiting with BOOT_ERR 7. A KEY_LOCK write with bit 0 set makes KEY_LOCK 1
and keeps that the host set it; a write without bit 0 changes nothing. A VF's BAR0 has no KEY_LOCK. Once Marl has started and while
the steward runs, and FW_UP is not yet 1, the FW_UP event sets it and the cold start is over; a trial then runs exactly where its
watchdog does, DOE is no longer Busy and the stale mark of the Horizon page is set where no frame has been published for 100 ms;
otherwise the event changes nothing. A pending descriptor is written to flash, and is pending no more, once FW_UP is set and the
flash may be written. -/
def Obligations.BootReleaseToFirmwareUp : Prop :=
((∀ (s : State) (v : Word), hostMay s 0 = true → (bf v 7 0 ≠ 0x5A ∨ s.boot.waitHost = false) →
      exec (.bootRelease v) s = .next (settle (setBusy s 4)))
  ∧ (∀ (s : State) (v : Word), hostMay s 0 = true → bf v 7 0 = 0x5A → s.boot.waitHost = true →
      let a := cfgD s 0x200008
      let n := cfgF s 0x200010 22 0
      Config.hbmBase ≤ a → a + n ≤ Config.hbmBase + Config.hbmBytes → domOn s 14 = true →
      (bootImageOk (gmRead s a n) = true → exec (.bootRelease v) s = .next (settle (runImage s (gmRead s a n) 2)))
      ∧ (bootImageOk (gmRead s a n) = false → exec (.bootRelease v) s = .next (settle
          (bootErrAt (streamCode s (gmRead s a n) (payloadLen (gmRead s a n))) 7))))
  ∧ (∀ (s : State) (v : Word), hostMay s 0 = true → v.getLsbD 0 = true →
      exec (.keyLock 0 v) s = .next (settle { s with boot := { s.boot with keyLock := true, hostLocked := true } }))
  ∧ (∀ (s : State) (v : Word), hostMay s 0 = true → v.getLsbD 0 = false → exec (.keyLock 0 v) s = .next (settle s))
  ∧ (∀ (s : State) (fn : Nat) (v : Word), fn ≠ 0 → exec (.keyLock fn v) s = .next (settle s)))
  ∧ ((∀ s : State, s.crd.phase = .running → s.boot.started = true → s.crd.fwUp = false → exec .fwUp s = .next (settle (fwUpNow s)))
  ∧ (∀ s : State, (s.crd.phase ≠ .running ∨ s.boot.started = false ∨ s.crd.fwUp = true) → exec .fwUp s = .next (settle s))
  ∧ (∀ s : State, (fwUpNow s).crd.fwUp = true ∧ (fwUpNow s).crd.coldStart = false ∧ (fwUpNow s).sealEng.doeBusy = false
      ∧ (fwUpNow s).hz.stale = (s.hz.stale || decide (s.hz.lastPub + 100000 ≤ s.tick)) ∧ ((fwUpNow s).boot.trialRun = true ↔ (fwUpNow s).boot.trialEnd ≠ none))
  ∧ (∀ (s : State) (d : BootDesc), s.boot.pending = some d → s.crd.fwUp = true → flashOpen s = true →
      exec .descriptorWrite s = .next (settle (descWrite { s with boot := { s.boot with pending := none } } d)))
  ∧ (∀ s : State, (s.boot.pending = none ∨ s.crd.fwUp = false ∨ flashOpen s = false) →
      exec .descriptorWrite s = .next (settle s)))

/-- O25, tier 2 (05_boot_and_trust.md, R120 to R123, Table 5.10). FW_STAGE that starts with no trial descriptor, no pending
descriptor and the flash open waits for a seal context where none is free, and with one writes a well-formed image to the slot that
is not ACTIVE and completes OK with its length and whether its signature verified (DATA_ERROR 0x02 where the read-back failed, 0x01
where the image is not well-formed, and THERMAL_HOLD with the last header page erased where flash writes become forbidden on the
way), and is refused BUSY_GUARDED during a trial. A stage that a reset stops leaves the last header page erased and its command in
flight. FW_COMMIT_TRIAL writes a TRIAL descriptor for that slot, completes OK, arms the trial and drains for 1 s; at the drain's
end, or once no command is in flight, a Marl-only reset follows. FW_CONFIRM in a trial window makes the trial slot ACTIVE; outside
one it completes NOT_PERMITTED. The trial watchdog's expiry is a Marl-only reset. -/
def Obligations.StageTrialConfirm : Prop :=
  (∀ (s : State) (c : Nat) (cmd : Cmd) (e : StageEnd), startsNow s c 0x50 none cmd = true →
      let u := markStarted s c
      let img := hostRead u (leAt cmd.raw 0x10 8) (leAt cmd.raw 0x18 8)
      let k := otherSlot u
      ((descNow u).trial = true → exec (.fwStage c none e) s = .next (settle (complete u c (refuse .busyGuarded 0 0))))
      ∧ (∀ dma, (descNow u).trial = false → u.boot.pending = none → flashOpen u = true → sealHolds u (sealWho c) = false →
        u.sealEng.waiting.any (fun r => r.who = sealWho c) = false → sealFree u = false →
        exec (.fwStage c dma e) s = .next (settle
          (sealAcquire u (sealWho c) (ceilDiv (leAt cmd.raw 0x18 8) 0x100000) true)))
      ∧ ((descNow u).trial = false → u.boot.pending = none → flashOpen u = true → sealHolds u (sealWho c) = false →
        sealFree u = true → bootImageOk img = true →
        exec (.fwStage c none .good) s = .next (settle (complete (stageWrite u k img true) c
          (okR (leAt cmd.raw 0x18 8) (b2n (decide ((verifyImage u img).1 = 0))))))
        ∧ exec (.fwStage c none .mismatch) s = .next (settle (complete (stageWrite u k img false) c (refuse .dataError 5 0x02)))
        ∧ ∀ n, exec (.fwStage c none (.gate n)) s = .next (settle (complete (stageCut u k img n) c { status := .thermalHold }))
          ∧ exec (.fwStage c none (.cut n)) s = .next (settle (stageCut u k img n)))
      ∧ ((descNow u).trial = false → u.boot.pending = none → flashOpen u = true → sealHolds u (sealWho c) = false →
        sealFree u = true → bootImageOk img = false →
        exec (.fwStage c none e) s = .next (settle (complete u c (refuse .dataError 5 0x01))))
      ∧ (∀ a, (descNow u).trial = false → u.boot.pending = none → flashOpen u = true → sealHolds u (sealWho c) = false →
        sealFree u = true →
        exec (.fwStage c (some a) e) s = .next (settle (complete u c (dmaReadErr a)))))
  ∧ (∀ (s : State) (c : Nat) (cmd : Cmd), startsNow s c 0x51 none cmd = true →
      let u := markStarted s c
      (descNow u).trial = false → flashOpen u = true → bootImageOk (slotImage u (otherSlot u)) = true → u.boot.pending = none →
      let w := complete (descWrite u { descNow u with trial := true, trialSlot := otherSlot u, windowS := leAt cmd.raw 8 2 }) c (okR)
      exec (.fwCommitTrial c) s =
        .next (settle { w with boot := { w.boot with trialArmed := true, drainUntil := some (w.tick + 1000000) } }))
  ∧ (∀ (s : State) (c : Nat) (cmd : Cmd), startsNow s c 0x52 none cmd = true → trialOver s = false →
      let u := markStarted s c
      ((u.crd.fwUp = false ∨ u.boot.trialWindow = 0) →
        exec (.fwConfirm c) s = .next (settle (complete u c (refuse .notPermitted 5 0x03))))
      ∧ (u.crd.fwUp = true → u.boot.trialWindow ≠ 0 → flashOpen u = true →
        exec (.fwConfirm c) s = .next (settle (complete (descWrite
          { u with boot := { u.boot with trialEnd := none, trialRun := false, trialWindow := 0 } }
          { descNow u with active := (descNow u).trialSlot % 2, trial := false }) c (okR)))))
  ∧ (∀ (s : State) (e : Nat), s.boot.drainUntil = some e → (s.qc.cmds = [] ∨ e ≤ s.tick) →
      exec .trialDrainEnd s = .next (settle (marlReset s 6)))
  ∧ (∀ (s : State) (e : Nat), s.boot.trialEnd = some e → e ≤ s.tick → exec .trialWatchdogExpiry s = .next (settle (marlReset s 5)))
  ∧ (∀ (s : State) (e : Nat), s.boot.trialEnd = some e → s.tick < e → exec .trialWatchdogExpiry s = .next (settle s))

/-- O26, tier 2 (05_boot_and_trust.md, R128, 05_boot_and_trust.md, R129, Tables 5.8 and 5.9). At the end of a segment of a message
with more segments to go: with no requester waiting, the same message keeps its context with one segment fewer and nothing else
changes; with one waiting, it goes to the back of the queue, and the front requester takes a context. A context without a message,
or with its last segment, is left as it is. With U in L0 and DOE not Busy, each request counts event 165 and answers, one that takes
a digest once a seal context is free for it. GET_VERSION restarts the negotiation. NEGOTIATE_ALGORITHMS with P-384 and SHA-384
completes it, and the requests after it are answered only then. GET_DIGESTS answers the digest of slot 0's chain where it holds one;
GET_CERTIFICATE answers the bytes asked for of that chain. CHALLENGE on slot 0 and a signed GET_MEASUREMENTS are signed where it
holds one and KEY_LOCK is 0, and answer an ERROR while KEY_LOCK is 1; an unsigned GET_MEASUREMENTS answers its block. GET_CSR before
slot 0 holds a chain makes the identity key exist; SET_CERTIFICATE stores the chain once; both are unsupported once it stands. Any
other request answers ERROR UnsupportedRequest and counts event 166. While Busy, or with U out of L0, nothing happens. Contents of
responses that the spec does not state are uninterpreted (log entry 19). -/
def Obligations.SealAndAttestation : Prop :=
((∀ (s : State) (r : SealReq), s.sealEng.ctx0 = some r → 1 < r.segmentsLeft → s.sealEng.waiting = [] →
      exec (.sealSegmentEnd 0) s =
        .next (settle { s with sealEng := { s.sealEng with ctx0 := some { r with segmentsLeft := r.segmentsLeft - 1 } } }))
  ∧ (∀ (s : State) (r : SealReq), s.sealEng.ctx1 = some r → 1 < r.segmentsLeft → s.sealEng.waiting = [] →
      exec (.sealSegmentEnd 1) s =
        .next (settle { s with sealEng := { s.sealEng with ctx1 := some { r with segmentsLeft := r.segmentsLeft - 1 } } }))
  ∧ (∀ (s : State) (r w : SealReq) (ws : List SealReq), s.sealEng.ctx0 = some r → s.sealEng.ctx1.isSome = true →
      1 < r.segmentsLeft → s.sealEng.waiting = w :: ws → s.sealEng.bootReserved = false →
      ∃ t, exec (.sealSegmentEnd 0) s = .next t ∧ t.sealEng.ctx0 = some w ∧ t.sealEng.ctx1 = s.sealEng.ctx1
        ∧ t.sealEng.waiting = ws ++ [{ r with segmentsLeft := r.segmentsLeft - 1 }])
  ∧ (∀ (s : State) (ctx : Fin 2), (if ctx.val = 0 then s.sealEng.ctx0 else s.sealEng.ctx1) = none →
      exec (.sealSegmentEnd ctx) s = .next (settle s))
  ∧ (∀ (s : State) (ctx : Fin 2) (r : SealReq), (if ctx.val = 0 then s.sealEng.ctx0 else s.sealEng.ctx1) = some r →
      r.segmentsLeft ≤ 1 → exec (.sealSegmentEnd ctx) s = .next (settle s)))
  ∧ ((∀ s : State, s.sealEng.doeBusy = false → s.links.u.l0 = true →
      let u := count s 165 {}
      let tell (v : State) (bs : List Byte) : State := { v with resp := .data bs }
      let err (k : Nat) : State := count (tell u ([0x12, 0x7F] ++ leBytes 1 k ++ [0])) 166 {}
      let own := (spdmNonce u).1
      let w := (spdmNonce u).2
      let ready := s.sealEng.negotiated ≠ 0
      let free := sealHolds s spdmWho = false ∧ s.sealEng.waiting.any (fun r => r.who = spdmWho) = false ∧ sealFree s = true
      exec .getVersion s = .next (settle
        (tell { u with sealEng := { u.sealEng with negotiated := 0 } } [0x10, 0x04, 0, 0, 0, 1, 0x00, 0x12]))
      ∧ exec .getCapabilities s = .next (settle (tell u ([0x12, 0x61] ++ Config.spdmBytes 0xE1)))
      ∧ exec (.negotiateAlgorithms true true) s =
        .next (settle (tell { u with sealEng := { u.sealEng with negotiated := 1 } } ([0x12, 0x63] ++ Config.spdmBytes 0xE3)))
      ∧ (ready → free → s.boot.provisioned = true → exec .getDigests s =
          .next (settle (tell u ([0x12, 0x01, 0, 1] ++ digestBytes (sha384 s.boot.chain)))))
      ∧ (ready → free → s.boot.provisioned = false → exec .getDigests s = .next (settle (tell u [0x12, 0x01, 0, 0])))
      ∧ (sealHolds s spdmWho = false → s.sealEng.waiting.any (fun r => r.who = spdmWho) = false → sealFree s = false →
          exec .getDigests s = .next (settle (sealAcquire s spdmWho 1)))
      ∧ (s.sealEng.negotiated = 0 → ∀ k off len, exec (.getCertificate k off len) s = .next (settle (err 4)))
      ∧ (∀ off len, ready → s.boot.provisioned = true →
          let part := (s.boot.chain.drop off).take len
          exec (.getCertificate 0 off len) s = .next (settle (tell u ([0x12, 0x02, 0, 0] ++ leBytes 2 part.length
            ++ leBytes 2 (s.boot.chain.length - (off + part.length)) ++ part))))
      ∧ (∀ nonce, ready → free → s.boot.keyLock = false → s.boot.provisioned = true → exec (.challenge 0 nonce) s =
          .next (settle (tell w (spdmSigned nonce ([0x12, 0x03, 0, 1] ++ digestBytes (sha384 s.boot.chain) ++ own ++ [0, 0])))))
      ∧ (∀ slot nonce, ready → free → s.boot.keyLock = true → exec (.challenge slot nonce) s = .next (settle (err 5)))
      ∧ (∀ i nonce b, ready → free → i ≠ 0 → i ≠ 0xFF → measurementBlock u i = some b →
          let resp := [0x12, 0x60, 0, 0, 1] ++ leBytes 3 b.length ++ b ++ own ++ [0, 0]
          exec (.getMeasurements i false nonce) s = .next (settle (tell w resp))
          ∧ (s.boot.keyLock = true → exec (.getMeasurements i true nonce) s = .next (settle (err 5)))
          ∧ (s.boot.keyLock = false → s.boot.provisioned = true →
            exec (.getMeasurements i true nonce) s = .next (settle (tell w (spdmSigned nonce resp)))))
      ∧ (ready → free → s.boot.provisioned = false → s.boot.keyLock = false → exec .getCsr s =
          .next (settle (tell { u with boot := { u.boot with identityKey := true } } ([0x12, 0x6D] ++ Config.spdmBytes 0x6D))))
      ∧ (ready → free → s.boot.provisioned = true → exec .getCsr s = .next (settle (err 7)))
      ∧ (∀ chain, ready → s.boot.provisioned = false → exec (.setCertificate 0 chain) s =
          .next (settle (tell { u with boot := { u.boot with provisioned := true, chain := chain } } [0x12, 0x6E, 0, 0])))
      ∧ (∀ slot chain, ready → s.boot.provisioned = true → exec (.setCertificate slot chain) s = .next (settle (err 7)))
      ∧ (∀ code, exec (.spdmUnsupportedRequest code) s = .next (settle (err 7))))
  ∧ (∀ (s : State) (i : Instr) (x y : Bool) (k off len : Nat) (bs : List Byte),
      (s.sealEng.doeBusy = true ∨ s.links.u.l0 = false) →
      i ∈ [Instr.getVersion, .getCapabilities, .negotiateAlgorithms x y, .getDigests, .getCertificate k off len,
        .challenge k bs, .getMeasurements k x bs, .getCsr, .setCertificate k bs, .spdmUnsupportedRequest k] →
      exec i s = .next (settle s)))

/-- O27, tier 2 (06_grain_array.md, R140, R141, R143, R144 and R149, Table 6.6, 02_clocks_domains_reset.md, Table 2.4,
06_grain_array.md, R145 to R149). KERNEL_LOAD with D04 ON, the slot free of running launches, owned by nobody, by the
tenant or named by T0, and room for the image: a buffer whose header and body are good puts the image in the slot,
owned by the tenant, counts event 103 and completes OK with its length; a bad header, a bad body or a failed read
completes DATA_ERROR with 1, 2 or 0x80, the slot as it was. KERNEL_LAUNCH with D04 ON and no die latch: the first
check of Table 6.6 that fails completes with its status and counts event 104; otherwise the launch starts on its beds
with the next LAUNCH_SEQ and the command gives up its kernel slot. KERNEL_ABORT of a launch that still runs stops its
grains, marks it aborted and completes OK; of one that has run out or is not there completes OK_NOOP. A dispatch for a
launch that is not aborted gives its next item to the lowest usable grain of its beds that is free, starting its
threads; with no grain free, or no item left, nothing happens. An item whose threads have all ended ends: its buffered
stores are performed, the grain is free again, and it counts as failed where one of its threads failed. A launch of a
tenant with nothing running and nothing left, once complete, writes its FAILMAP (unless that write fails, DATA_ERROR)
and completes OK, OK_PARTIAL or GRAIN_FAULT with the number of failed items and the lowest; a launch that is not over
is left as it is. -/
def Obligations.KernelsAndItems : Prop :=
((∀ (s : State) (c : Nat) (cmd : Cmd), startsNow s c 0x60 none cmd = true → domOn s 4 = true →
      let u := markStarted s c
      let k := leAt cmd.raw 8 1
      let len := leAt cmd.raw 0x18 8
      let img := hostRead u (leAt cmd.raw 0x10 8) len
      slotRunning u k = 0 → ((getKslot u k).owner = 255 ∨ (getKslot u k).owner = cmd.tenant ∨ cmd.tenant = 0) → len ≤ imageFree u →
      (imgHeaderOk img len = true → imgBodyOk img = true → exec (.kernelLoad c none) s =
        .next (settle (complete (count (setKslot u k ⟨cmd.tenant, img⟩) 103 { tenant := cmd.tenant }) c (okR len))))
      ∧ (imgHeaderOk img len = false → exec (.kernelLoad c none) s = .next (settle (complete u c (refuse .dataError 5 1))))
      ∧ (imgHeaderOk img len = true → imgBodyOk img = false →
        exec (.kernelLoad c none) s = .next (settle (complete u c (refuse .dataError 5 2))))
      ∧ (∀ a, exec (.kernelLoad c (some a)) s = .next (settle (complete u c (dmaReadErr a)))))
  ∧ (∀ (s : State) (c : Nat) (cmd : Cmd), startsNow s c 0x61 none cmd = true → domOn s 4 = true →
      s.therm.latch.getLsbD 8 = false →
      let u := markStarted s c
      let beds := (List.range (leAt cmd.raw 0xA 1)).map (fun i => leAt cmd.raw 9 1 + i)
      (∀ r, launchRefusal u cmd = some r →
        exec (.kernelLaunch c) s = .next (settle (complete (count u 104 { tenant := cmd.tenant }) c r)))
      ∧ (launchRefusal u cmd = none → exec (.kernelLaunch c) s = .next (settle (startLaunch (releaseRes u c) {
          id := s.garr.nextLaunch, cmd := some c, tenant := cmd.tenant, qp := cmd.qp, cmdId := cmd.id,
          kslot := leAt cmd.raw 8 1, image := (getKslot u (leAt cmd.raw 8 1)).image, beds := beds, items := leAt cmd.raw 0xC 4,
          args := BitVec.ofNat 64 (leAt cmd.raw 0x10 8), failmap := leAt cmd.raw 0x18 8, seq := s.garr.launchSeq + 1,
          start := s.tick }))))
  ∧ (∀ (s : State) (c : Nat) (cmd : Cmd), startsNow s c 0x62 none cmd = true →
      let u := markStarted s c
      let named (l : Launch) : Bool :=
        l.tenant = cmd.tenant && l.cmd.isSome && l.qp = leAt cmd.raw 8 1 && l.cmdId = leAt cmd.raw 0xA 2
      (u.garr.launches.find? named = none → exec (.kernelAbort c) s = .next (settle (complete u c { status := .okNoop })))
      ∧ (∀ l, u.garr.launches.find? named = some l → launchOver u l = true →
        exec (.kernelAbort c) s = .next (settle (complete u c { status := .okNoop })))
      ∧ (∀ l, u.garr.launches.find? named = some l → launchOver u l = false →
        exec (.kernelAbort c) s = .next (settle (complete
          (modLaunch (stopLaunch u l) l.id (fun x => { x with aborted := true })) c (okR))))))
  ∧ ((∀ (s : State) (l lg : Nat) (x : Launch), findLaunch s l = some x → x.aborted = false → x.todo = none → x.next < x.items →
      (usableIn s x.beds).find? (grainFree s x) = some lg →
      exec (.itemDispatch l) s =
        .next (settle (startItem (modLaunch s l (fun y => { y with next := y.next + 1 })) x x.next lg)))
  ∧ (∀ (s : State) (l lg i : Nat) (is : List Nat) (x : Launch), findLaunch s l = some x → x.aborted = false →
      x.todo = some (i :: is) → (usableIn s x.beds).find? (grainFree s x) = some lg →
      exec (.itemDispatch l) s = .next (settle (startItem (modLaunch s l (fun y => { y with todo := some is })) x i lg)))
  ∧ (∀ (s : State) (l : Nat) (x : Launch), findLaunch s l = some x → (usableIn s x.beds).find? (grainFree s x) = none →
      exec (.itemDispatch l) s = .next (settle s))
  ∧ (∀ (s : State) (l : Nat) (x : Launch), findLaunch s l = some x →
      (x.todo = some [] ∨ (x.todo = none ∧ x.items ≤ x.next)) → exec (.itemDispatch l) s = .next (settle s))
  ∧ (∀ (s : State) (p : Fin 1088) (i : Nat) (l : Launch), (getGrain s p.val).item = some i → grainLaunch s p.val = some l →
      itemOver s p.val = true →
      let u := modGrain (clearThreads (drainGrain s p.val) p.val) p.val (fun g => { g with item := none, itemFailed := false })
      ((getGrain s p.val).itemFailed = false →
        exec (.itemEnd p) s = .next (settle (count u 15 { tenant := l.tenant, grain := logicalOf u p.val })))
      ∧ ((getGrain s p.val).itemFailed = true → exec (.itemEnd p) s =
        .next (settle (modLaunch (count u 98 (launchOcc l)) l.id (fun x => { x with failed := x.failed ++ [i] })))))
  ∧ (∀ (s : State) (p : Fin 1088), itemOver s p.val = false → exec (.itemEnd p) s = .next (settle s))
  ∧ (∀ (s : State) (l c : Nat) (dma : Option Nat) (x : Launch), findLaunch s l = some x → launchOver s x = true → x.cmd = some c →
      let u := releaseLaunch s x
      (x.failmap ≠ 0 → dma = none → exec (.launchComplete l dma) s = .next (settle (complete
        (hostWrite u x.failmap x.failBytes) c { status := x.status, r0 := x.failedCount, r1 := x.firstFailed })))
      ∧ (x.failmap = 0 → exec (.launchComplete l dma) s = .next (settle (complete u c
          { status := x.status, r0 := x.failedCount, r1 := x.firstFailed })))
      ∧ (∀ a, x.failmap ≠ 0 → dma = some a → exec (.launchComplete l dma) s = .next (settle (complete u c
          { dmaWriteErr a with r0 := x.failedCount, r1 := x.firstFailed }))))
  ∧ (∀ (s : State) (l : Nat) (dma : Option Nat) (x : Launch), findLaunch s l = some x → launchOver s x = false →
      exec (.launchComplete l dma) s = .next (settle s)))

/-- O28, tier 2 (06_grain_array.md, R145, R153 to R158, Tables 6.11, 6.12 and 6.14). With the bed ON: a local-store UE of a grain
not fenced counts event 108, writes a record and fails the grain with cause 1; a tile parity error fails it with cause 2; an expired
item watchdog counts event 111 and fails it with cause 3; a corrected error is counted and fences nothing. A grain of a bed that is
ON fails at once where no failure and no takeover of its bed is in progress, and the spare of a takeover fails at once too;
otherwise it stops, loses its item and waits for the takeover. A failed grain is fenced, as its bed's mask says too, and its local
store reads zero; an index whose spare fails in its own takeover becomes absent. The end of a takeover finishes the first one of the
bed. UNFENCE with D04 and the bed ON, naming a fenced grain of a bed no launch holds while no test runs, starts the test; otherwise
it is dropped with REG_BUSY. A passed test clears the fence and gives the grain the bed's lowest absent index; a failed one leaves
it fenced. -/
def Obligations.GrainFailures : Prop :=
  (∀ (s : State) (p : Fin 1088) (off : Nat), domOn s (bedDom (p.val / 17)) = true → (getGrain s p.val).fenced = false →
      exec (.localStoreUe p off) s = .next (settle (failGrain
        (logRec (count s 108 { tenant := (getGrain s p.val).tenant }) 0x41 3 2
          (leBytes 8 0 ++ leBytes 8 (lsGrainAddr (count s 108 { tenant := (getGrain s p.val).tenant }) p.val off) ++ leBytes 8 0))
        p.val 1)))
  ∧ (∀ (s : State) (p : Fin 1088), exec (.tileParityError p) s = .next (settle (failGrain s p.val 2)))
  ∧ (∀ (s : State) (p : Fin 1088), watchdogDue s p.val = true → exec (.itemWatchdogExpiry p) s =
      .next (settle (failGrain (count s 111 { tenant := (getGrain s p.val).tenant }) p.val 3)))
  ∧ (∀ (s : State) (p : Fin 1088), watchdogDue s p.val = false → exec (.itemWatchdogExpiry p) s = .next (settle s))
  ∧ (∀ (s : State) (p : Fin 1088), domOn s (bedDom (p.val / 17)) = true → exec (.localStoreCe p) s =
      .next (settle (ltAdd (count (count s 107 { tenant := (getGrain s p.val).tenant }) (320 + 2 * (p.val / 17)) {}) 28)))
  ∧ (∀ (s : State) (p : Fin 1088) (cause : Nat), domOn s (bedDom (p.val / 17)) = true →
      (getBed s (p.val / 17)).fencedMask.getLsbD (p.val % 17) = false → (getBed s (p.val / 17)).failing = [] →
      (getBed s (p.val / 17)).takeovers = [] → failGrain s p.val cause = failGrainNow s p.val cause)
  ∧ (∀ (s : State) (p : Fin 1088) (cause : Nat) (t : Takeover), domOn s (bedDom (p.val / 17)) = true →
      (getBed s (p.val / 17)).fencedMask.getLsbD (p.val % 17) = false → (getBed s (p.val / 17)).failing = [] →
      (getBed s (p.val / 17)).takeovers = [t] →
      (t.spare ≠ p.val % 17 → failGrain s p.val cause = setBed (loseItem s p.val) (p.val / 17)
        { getBed (loseItem s p.val) (p.val / 17) with
          failing := (getBed (loseItem s p.val) (p.val / 17)).failing ++ [(p.val, cause)] })
      ∧ (t.spare = p.val % 17 → failGrain s p.val cause = failGrainNow s p.val cause)
      ∧ (∀ i, t.spare = p.val % 17 → logicalOf s p.val = some i → (getRemap (failGrainNow s p.val cause) i).absent = true))
  ∧ (∀ (s : State) (p : Fin 1088) (cause : Nat), (getGrain (failGrainNow s p.val cause) p.val).fenced = true
      ∧ (getBed (failGrainNow s p.val cause) (p.val / 17)).fencedMask.getLsbD (p.val % 17) = true
      ∧ ∀ off, off < 0x40000 → lsRead (failGrainNow s p.val cause) p.val off 1 = [0])
  ∧ (∀ (s : State) (b : Fin 64), exec (.takeover b) s = .next (settle (finishTakeover s b.val)))
  ∧ (∀ (s : State) (v : Word), hostMay s 0 = true → domOn s 4 = true → domOn s (bedDom (bf v 13 8)) = true → bf v 4 0 ≤ 16 →
      (getBed s (bf v 13 8)).fencedMask.getLsbD (bf v 4 0) = true → (getBed s (bf v 13 8)).holder = none →
      s.garr.unfencing = none →
      exec (.unfence v) s = .next (settle { s with garr := { s.garr with
        unfencing := some (17 * bf v 13 8 + bf v 4 0), unfenceStatus := 1 } }))
  ∧ (∀ (s : State) (v : Word), hostMay s 0 = true → domOn s 4 = true →
      (domOn s (bedDom (bf v 13 8)) = false ∨ 16 < bf v 4 0 ∨ (getBed s (bf v 13 8)).fencedMask.getLsbD (bf v 4 0) = false
        ∨ (getBed s (bf v 13 8)).holder ≠ none ∨ s.garr.unfencing ≠ none) →
      exec (.unfence v) s = .next (settle (setBusy s 5)))
  ∧ (∀ (s : State) (p : Nat), s.garr.unfencing = some p →
      let u := { s with garr := { s.garr with unfencing := none, unfenceStatus := 2 } }
      let w := modBed (modGrain (count u 109 {}) p (fun g => { g with fenced := false })) (p / 17)
        (fun x => { x with fencedMask := x.fencedMask &&& ~~~(1#17 <<< (p % 17)) })
      (∀ i, (List.range 16).find? (fun i => (getRemap w (16 * (p / 17) + i)).absent) = some i →
        exec (.unfenceTestEnd true) s = .next (settle (setRemap w (16 * (p / 17) + i) ⟨p % 17, false⟩)))
      ∧ ((List.range 16).find? (fun i => (getRemap w (16 * (p / 17) + i)).absent) = none →
        exec (.unfenceTestEnd true) s = .next (settle w))
      ∧ exec (.unfenceTestEnd false) s =
        .next (settle (count { s with garr := { s.garr with unfencing := none, unfenceStatus := 3 } } 110 {})))

/-- O29, tier 2 (07_grain_instruction_set.md, R162 to R164, Tables 7.2 and 7.3). An instruction of class 0x0 or 0x1 that a thread
may issue, with no outstanding load to a register it reads, writes its result to D (GP0 discards it) and goes on to the next
instruction; nothing else of the thread changes but what loads still to write D, the grain notes the issue, and the performance
monitor counts it. Results: ADD and MUL wrap at 64 bits, ADD of words sign-extends its low 32 bits, MULH and MULHU give the upper
half of the signed and unsigned product, SHL, SHR and SAR by less than 64 shift, SLT and SLTU give 0 or 1, SEL chooses by C, CLZ and
CTZ of zero give 64. Division by zero gives all ones (quotient) and the dividend (remainder); signed division truncates. A reserved
FUNC raises ILLEGAL. -/
def Obligations.ScalarInstructions : Prop :=
  (∀ (s : State) (p : Fin 1088) (t : Fin 8) (w : Word) (op : ScalarOp), runsWord s p t w = true → op ≠ .illegal →
      kindOf w = (if scalarImm op then .scalarI else .scalarR) →
      let th := getThread s p t
      regsBusy th (scalarRegs op w) = false →
      exec (.scalarAlu p t op) s = .next (settle (setThread (issued s p t) p t (advance (setGpr th (fD w)
        (scalarEval op (gpr th (fA w)) (gpr th (fB w)) (gpr th (fC w)) (sext 14 (bf w 13 0))))))))
  ∧ (∀ (s : State) (p : Fin 1088) (t : Fin 8) (w : Word) (op : DivOp), runsWord s p t w = true → kindOf w = .scalarR →
      let th := getThread s p t
      regsBusy th [fA w, fB w] = false →
      exec (.divide p t op) s = .next (settle (setThread (count (issued s p t) 3 (grainOcc (issued s p t) p) 34) p t (advance (setGpr th (fD w)
        (divEval op (gpr th (fA w)) (gpr th (fB w))))))))
  ∧ (∀ (s : State) (p t : Nat), issued s p t = { noteIssue s p t (kindOf (wordAt s p t)) with pm := (issued s p t).pm })
  ∧ (∀ (a b c : Dword) (i : Int),
      (scalarEval .add a b c i).toNat = (a.toNat + b.toNat) % 2 ^ 64
      ∧ (scalarEval .addW a b c i).toInt = sext 32 (a.toNat + b.toNat)
      ∧ (scalarEval .mul a b c i).toNat = a.toNat * b.toNat % 2 ^ 64
      ∧ (scalarEval .mulhu a b c i).toNat = a.toNat * b.toNat / 2 ^ 64
      ∧ (scalarEval .mulh a b c i).toInt = (a.toInt * b.toInt) / 2 ^ 64
      ∧ (b.toNat < 64 → (scalarEval .shl a b c i).toNat = a.toNat * 2 ^ b.toNat % 2 ^ 64)
      ∧ (b.toNat < 64 → (scalarEval .shr a b c i).toNat = a.toNat / 2 ^ b.toNat)
      ∧ (b.toNat < 64 → (scalarEval .sar a b c i).toInt = a.toInt / 2 ^ b.toNat)
      ∧ (scalarEval .slt a b c i = if a.toInt < b.toInt then 1 else 0)
      ∧ (scalarEval .sltu a b c i = if a.toNat < b.toNat then 1 else 0)
      ∧ (scalarEval .sel a b c i = if c = 0 then b else a)
      ∧ (a = 0 → scalarEval .clz a b c i = 64 ∧ scalarEval .ctz a b c i = 64))
  ∧ (∀ a b : Dword, (b = 0 → divEval .div a b = BitVec.allOnes 64 ∧ divEval .divu a b = BitVec.allOnes 64
        ∧ divEval .rem a b = a ∧ divEval .remu a b = a)
      ∧ (b ≠ 0 → (divEval .divu a b).toNat = a.toNat / b.toNat ∧ (divEval .remu a b).toNat = a.toNat % b.toNat)
      ∧ (b ≠ 0 → ¬ (a = BitVec.intMin 64 ∧ b = BitVec.allOnes 64) → (divEval .div a b).toInt = Int.tdiv a.toInt b.toInt
        ∧ (divEval .rem a b).toInt = Int.tmod a.toInt b.toInt))
  ∧ (∀ (s : State) (p : Fin 1088) (t : Fin 8) (w : Word), runsWord s p t w = true → kindOf w = .scalarR →
      exec (.scalarAlu p t .illegal) s = .next (settle (takeExc (issued s p t) p t 1 w.toNat 0)))

/-- O30, tier 2 (07_grain_instruction_set.md, R162, R163 and R168, Table 7.4). A conditional branch that is taken counts
event 2 and sets the PC to its own address plus 4 × OFF15; JALR goes to A plus 4 × OFF15; JAL writes the next PC to
its link register and goes to its own address plus 4 × OFF20; a branch not taken goes on to the next instruction. A
branch or a BRK of a thread that may not run leaves the block as it is. Before BRK has its effect, a waiting TILE_MODE
is raised first; a PC at or past the end of the code raises ACCESS at that PC; a word that is no instruction raises
ILLEGAL with the word. -/
def Obligations.BranchesAndFailedIssue : Prop :=
  (∀ (s : State) (p : Fin 1088) (t : Fin 8) (w : Word), runsWord s p t w = true → kindOf w = .branch →
      let th := getThread s p t
      let cond := bf w 27 25
      let u := count (issued s p t) 2 (grainOcc (issued s p t) p)
      regsBusy th (branchRegs w) = false →
      (cond = 7 → exec (.branch p t) s = .next (settle (setThread u p t { setGpr th (bf w 24 20) (th.pc + 4) with
        pc := th.pc + BitVec.ofInt 64 (4 * sext 20 (bf w 19 0)) })))
      ∧ (cond = 6 → exec (.branch p t) s = .next (settle (setThread u p t { th with
        pc := gpr th (bf w 24 20) + BitVec.ofInt 64 (4 * sext 15 (bf w 14 0)) })))
      ∧ (cond < 6 → branchTaken cond (gpr th (bf w 24 20)) (gpr th (bf w 19 15)) = true →
        exec (.branch p t) s = .next (settle (setThread u p t { th with
          pc := th.pc + BitVec.ofInt 64 (4 * sext 15 (bf w 14 0)) })))
      ∧ (cond < 6 → branchTaken cond (gpr th (bf w 24 20)) (gpr th (bf w 19 15)) = false →
        exec (.branch p t) s = .next (settle (setThread (issued s p t) p t (advance th)))))
  ∧ (∀ a b : Dword, (branchTaken 0 a b = decide (a = b)) ∧ (branchTaken 1 a b = decide (a ≠ b))
      ∧ (branchTaken 2 a b = decide (a.toInt < b.toInt)) ∧ (branchTaken 3 a b = !decide (a.toInt < b.toInt))
      ∧ (branchTaken 4 a b = decide (a.toNat < b.toNat)) ∧ (branchTaken 5 a b = !decide (a.toNat < b.toNat)))
  ∧ (∀ (s : State) (p : Fin 1088) (t : Fin 8), ((getThread s p t).live = false ∨ (getThread s p t).wait ≠ .ready
        ∨ domOn s (bedDom (p / 17)) = false ∨ (getGrain s p).fenced = true ∨ (getGrain s p).item = none ∨ turn s p t = false) →
      exec (.brk p t) s = .next (settle s) ∧ exec (.branch p t) s = .next (settle s))
  ∧ (∀ (s : State) (p : Fin 1088) (t : Fin 8), (getThread s p t).live = true → (getThread s p t).wait = .ready →
      domOn s (bedDom (p / 17)) = true → (getGrain s p).fenced = false → (getGrain s p).item ≠ none →
      (getBed s (p / 17)).failing = [] → turn s p t = true →
      (∀ a as, (getThread s p t).tileErrs = a :: as → exec (.brk p t) s =
        .next (settle (takeExc (setThread s p t { getThread s p t with tileErrs := as }) p t 5 0 a)))
      ∧ ((getThread s p t).tileErrs = [] → (getGrain s p).codeEnd ≤ (getThread s p t).pc.toNat →
        exec (.brk p t) s = .next (settle (takeExc s p t 2 0 (getThread s p t).pc.toNat))))
  ∧ (∀ (s : State) (p : Fin 1088) (t : Fin 8) (w : Word), runsWord s p t w = true → kindOf w = .illegal →
      exec (.brk p t) s = .next (settle (takeExc s p t 1 w.toNat 0)))

/-- O31, tier 2 (07_grain_instruction_set.md, R163 and R164, Table 7.5). A class 0x7 word that a thread may issue and that
is legal for its operation counts event 4 and goes on. An integer, FP, move, broadcast, permute or convert operation
writes each lane of VD whose bit of VP is 1 with its result and leaves every other lane; VSEL writes every lane from
VA or VB by VP; VMOV copies VA's lanes and VADD of words adds, wrapping at 32 bits; VEXT writes a scalar register
with an element of VA in its low bits: which one and what fills the rest the spec does not state, and is a free value
(log entry 28). A word that is not legal for its operation
raises ILLEGAL. -/
def Obligations.VectorInstructions : Prop :=
  (∀ (s : State) (p : Fin 1088) (t : Fin 8) (w : Word) (op : VecOp), runsWord s p t w = true → kindOf w = .vector →
      vecLegal op w = true → regsBusy (getThread s p t) (vecRegs op w) = false →
      let u := count (issued s p t) 4 (grainOcc (issued s p t) p)
      let th := getThread s p t
      (op ≠ .ext → ∀ f, exec (.vectorAlu p t op) s = .next (settle (setThread u p t (advance (vecEffect op w th f)))))
      ∧ (op = .ext → exec (.vectorAlu p t op) s = .next (settle (setThread { u with freeCtr := u.freeCtr + 1 } p t
        (advance (setGpr th (fD w) (vextValue w th (Config.freeDword u.freeCtr))))))))
  ∧ (∀ (w : Word) (th : Thread) (f : Dword), bf w 9 8 ≤ 2 → let n := widthBits (bf w 9 8)
      ∃ l j, l < 64 ∧ j < 32 / n ∧ (vextValue w th f).toNat % 2 ^ n = elemOf n j (vlane th (fA w) l))
  ∧ (∀ (op : VecOp) (w : Word) (th : Thread) (f : Dword) (v i : Nat), i < 64 → v < 32 →
      vecGroup op = .int ∨ vecGroup op = .fp ∨ vecGroup op = .mov ∨ vecGroup op = .bcast ∨ vecGroup op = .perm ∨ vecGroup op = .cvt →
      vlane (vecEffect op w th f) v i =
        if v = fD w ∧ (vpr th (fVp w)).getLsbD i = true then (vecLanes op w th).getD i 0 else vlane th v i)
  ∧ (∀ (w : Word) (th : Thread) (f : Dword) (i : Nat), i < 64 →
      vlane (vecEffect .sel w th f) (fD w) i =
        if (vpr th (fVp w)).getLsbD i then vlane th (fA w) i else vlane th (fB w) i)
  ∧ (∀ (w : Word) (th : Thread) (i : Nat), i < 64 → (vecLanes .mov w th).getD i 0 = vlane th (fA w) i)
  ∧ (∀ (w : Word) (th : Thread) (i : Nat), i < 64 → bf w 9 8 = 0 →
      (vecLanes .add w th).getD i 0 = vlane th (fA w) i + vlane th (fB w) i)
  ∧ (∀ (s : State) (p : Fin 1088) (t : Fin 8) (w : Word) (op : VecOp), runsWord s p t w = true → kindOf w = .vector →
      vecLegal op w = false → regsBusy (getThread s p t) (vecRegs op w) = false →
      exec (.vectorAlu p t op) s = .next (settle (takeExc (issued s p t) p t 1 w.toNat 0)))

/-- O32, tier 2 (07_grain_instruction_set.md, R165 to R171, Tables 7.6 to 7.8). A tile instruction whose operands are aligned and
lie in the own local store below 0x3_F000, with a place in the queue of 16, joins the queue with its operand addresses, its thread's
earlier stores performed first, and its thread goes on with one more tile instruction in progress; with the queue full, or one of
those stores held, the thread does not issue. The first instruction in issue order whose pipe is free and whose tile no earlier one
names starts. The started instruction of a pipe leaves the queue as it completes, with its effect: TZERO clears the tile in its
format; a TMMA whose format does not match the tile's mode changes nothing and leaves TILE_MODE to its thread. TSYNC with no tile
instruction in progress goes on, and otherwise holds its thread. -/
def Obligations.TileInstructions : Prop :=
  (∀ (s : State) (p : Fin 1088) (t : Fin 8) (w : Word) (i : Instr) (k sizeA sizeB ev : Nat), runsWord s p t w = true →
      (k, sizeA, sizeB, ev, i) ∈ [(0, 0, 0, 0, Instr.tzero p t), (1, tloadSize (tFmt w), 0, 0, .tload p t),
        (2, tstoreSize (tFmt w), 0, 0, .tstore p t),
        (3, tmmaSize (tFmt w), tmmaSize (tFmt w), if tFmt w = 8 then 7 else 6, .tmma p t), (5, 0, 0, 0, .tfclr p t)] →
      kindOf w = .tile k → regsBusy (getThread s p t) (tileRegs k w) = false →
      ((tileQueueFull (issued s p t) p = true ∨ heldOn (issued s p t) p t (fun l => l = 9) = true) → exec i s = .next (settle s))
      ∧ ∀ a b, tileQueueFull (issued s p t) p = false → heldOn (issued s p t) p t (fun l => l = 9) = false → (if sizeA = 0 then a = 0 else tileAddr s p (gpr (getThread s p t) (tA w)).toNat (1024 * sizeA) = .inl a) →
      (if sizeB = 0 then b = 0 else tileAddr s p (gpr (getThread s p t) (tB w)).toNat (1024 * sizeB) = .inl b) →
      let u := issued s p t
      exec i s = .next (settle (enqueue (if ev = 0 then u else count u ev (grainOcc u p)) p t w a b)))
  ∧ (∀ (s : State) (p : Fin 1088), exec (.tileInstructionStart p) s =
      .next (settle (setGrain s p { getGrain s p with queue := startFirst (getGrain s p).queue [] (getGrain s p).queue })))
  ∧ (∀ (s : State) (p : Fin 1088) (m : Bool) (o : TileOp),
      (getGrain s p).queue.find? (fun o => o.started && o.mul = m) = some o →
      let u := setGrain s p { getGrain s p with queue := (getGrain s p).queue.filter (fun x => !(x.started && x.mul = m)) }
      let e := tileEffect (tileMeets u p o) p o
      exec (.tileInstructionComplete p m) s = .next (settle (recheck (modThread e.1 p o.thread (fun x =>
        { x with tileOps := x.tileOps - 1, tileErrs := if e.2 && x.live then x.tileErrs ++ [o.tile] else x.tileErrs })) p o.thread)))
  ∧ (∀ (s : State) (p : Nat) (o : TileOp), o.top = 3 → tmmaMatch o.fmt (getTile (getGrain s p) o.tile) = false →
      tileEffect s p o = (s, true))
  ∧ (∀ (s : State) (p : Nat) (o : TileOp), o.top = 0 → tileEffect s p o =
      (setGrain s p (setTile (getGrain s p) o.tile { int40 := o.fmt = 1 }), false))
  ∧ (∀ (s : State) (p : Fin 1088) (t : Fin 8) (w : Word), runsWord s p t w = true → kindOf w = .tile 4 →
      let u := count (issued s p t) 5 (grainOcc (issued s p t) p)
      let th := getThread s p t
      (th.tileOps = 0 → exec (.tsync p t) s =
        .next (settle (setThread (setThread u p t { th with wait := .tsync }) p t (advance { th with wait := .ready }))))
      ∧ (th.tileOps ≠ 0 → exec (.tsync p t) s = .next (settle (setThread u p t { th with wait := .tsync }))))

/-- O33, tier 2 (07_grain_instruction_set.md, R172, R173 and R185, 08_memory_ordering.md, R204 and R205,
06_grain_array.md, R137 to R139). Before an access has its effect: an address that is not a multiple of its size (64
for vectors) raises ALIGN with the address; then an access outside what its thread may reach raises ACCESS, as does a
vector or atomic access that touches a device region; an access of a link that is down raises DATA_ERROR; an access on
a link that is not ready is counted and holds its thread, as does, uncounted, one to the local store of a grain whose
takeover runs; otherwise the access is counted and goes on. -/
def Obligations.AccessChecks : Prop :=
  ∀ (s : State) (p t : Nat) (w : Word) (a n : Nat) (wr normalOnly : Bool) (go : State → State),
    let al := if n = 256 then 64 else n
    let bad : Prop := normalOnly = true ∧ allNormal s p a n = false
    (a % al ≠ 0 → guarded s p t w a n wr normalOnly go = takeExc s p t 3 w.toNat a)
    ∧ (a % al = 0 → (reach s p a n wr = 2 ∨ bad) → guarded s p t w a n wr normalOnly go = takeExc s p t 2 w.toNat a)
    ∧ (a % al = 0 → reach s p a n wr = 4 → ¬ bad →
      guarded s p t w a n wr normalOnly go = takeExc (count s 29 (grainOcc s p (some a))) p t 4 w.toNat a)
    ∧ (a % al = 0 → reach s p a n wr = 1 → ¬ bad → isWindow (resolve s p a) = true →
      guarded s p t w a n wr normalOnly go = modThread (count s 31 (grainOcc s p (some a))) p t
        (fun x => { x with wait := .held (linkOf (resolve s p a)) a s.tick }))
    ∧ (∀ q o, a % al = 0 → reach s p a n wr = 1 → ¬ bad → resolve s p a = .ls q o →
      guarded s p t w a n wr normalOnly go = modThread s p t
        (fun x => { x with wait := .held (100 + (a - 0x100000000) / 0x40000) a s.tick }))
    ∧ (a % al = 0 → reach s p a n wr = 0 → ¬ bad →
      guarded s p t w a n wr normalOnly go = go (countAccess s p a wr))

/-- O34, tier 2 (07_grain_instruction_set.md, R172, R173 and R185, Table 7.9, 08_memory_ordering.md, R189 to R194). With the
access aligned, in reach, of Normal type and with no failed line: LOAD reads its bytes (with its own thread's buffered
stores forwarded) and queues the value for D, sign-extended for LDB, LDH, LDW and zero-extended for LDBU to LDWU and
LDD; with 8 loads outstanding its thread does not issue. LOAD_RETIRE writes the oldest queued value to its register.
LDP writes D and D + 1 from two double-words. LDV holds its thread while its pieces are read; with no load before it,
LOAD_RETIRE reads those it has not read and writes the lanes of VD whose VP bit is 1. To the steward's memories, STORE,
STP and STV put the bytes of their registers into the thread's store buffer (STV in 32 pieces, none for lanes that are
off) and go on; memory changes only when a store is performed. STORE_ACKNOWLEDGED takes the oldest store that is not
held: to the steward's memories, or issued onto its link already, it is performed, and otherwise issued onto its link;
then the waiting thread is looked at again. A LOAD from outside the own local store that meets an error, or any read of
a failed line, raises DATA_ERROR. -/
def Obligations.LoadsAndStores : Prop :=
  (∀ (s : State) (p : Fin 1088) (t : Fin 8) (w : Word), runsWord s p t w = true →
      let u := issued s p t
      let th := getThread s p t
      let mem (a n : Nat) (wr : Bool) : Prop := reach u p a n wr = 0 ∧ (∀ o, resolve u p a ≠ .dev o) ∧ regionType u p a = 0
        ∧ allNormal u p a n = true
      let good (a n : Nat) : Prop := badLineAt (countAccess u p a false) p a n = none
      let own (a : Nat) : Prop := isWindow (resolve u p a) = false
      let mk (a : Nat) (bs : List (Option Byte)) : PendStore := { addr := a, bytes := bs, since := s.tick }
      (kindOf w = .load → 8 ≤ th.loads.length → regsBusy th [fA w] = false → exec (.load p t false) s = .next (settle s))
      ∧ (∀ n a, kindOf w = .load → th.loads.length < 8 → regsBusy th [fA w] = false → n = 2 ^ (fOp4 w % 4) → a = addrM th w →
        a % n = 0 → mem a n false →
        let r := loadBytes (countAccess u p a false) p t a n
        (good a n → exec (.load p t false) s = .next (settle (modThread r.2 p t (fun x => advance { x with loads := x.loads ++
          [⟨fD w, if fOp4 w < 4 then BitVec.ofInt 64 (sext (8 * n) (ofLe r.1)) else BitVec.ofNat 64 (ofLe r.1)⟩] }))))
        ∧ (good a n → ownLs (countAccess u p a false) p a n = false →
          exec (.load p t true) s = .next (settle (dataError (countAccess u p a false) p t w a)))
        ∧ (∀ l b, badLineAt (countAccess u p a false) p a n = some l →
          exec (.load p t b) s = .next (settle (dataError (failAgain l (countAccess u p a false)) p t w a))))
      ∧ (∀ a, kindOf w = .ldp → regsBusy th [fA w] = false → a = addrM th w → a % 16 = 0 → mem a 16 false → good a 16 →
        let r := loadBytes (countAccess u p a false) p t a 8
        let q := loadBytes r.2 p t (a + 8) 8
        (∀ o, resolve r.2 p (a + 8) ≠ .dev o) → regionType r.2 p (a + 8) = 0 →
        exec (.ldp p t false) s = .next (settle (modThread (count q.2 27 (grainOcc q.2 p)) p t (fun x =>
          advance (setGpr (setGpr x (fD w) (BitVec.ofNat 64 (ofLe r.1))) (fD w + 1) (BitVec.ofNat 64 (ofLe q.1)))))))
      ∧ (∀ a, kindOf w = .ldv → regsBusy th [fA w] = false → a = addrVm th w → a % 64 = 0 → mem a 256 false → good a 256 →
        exec (.ldv p t false) s = .next (settle (modThread (countAccess u p a false) p t
          (fun x => { x with wait := .vector w a [] }))))
      ∧ (∀ n a, kindOf w = .store → regsBusy th [fD w, fA w] = false → n = 2 ^ fOp4 w → a = addrM th w → a % n = 0 → mem a n true →
        own a → exec (.store p t false) s = .next (settle (setThread (countAccess u p a true) p t (advance { th with
          stores := th.stores ++ [mk a ((leBytes n (gpr th (fD w)).toNat).map some)] }))))
      ∧ (∀ a, kindOf w = .stp → regsBusy th [fD w, fD w + 1, fA w] = false → a = addrM th w → a % 16 = 0 → mem a 16 true → own a →
        exec (.stp p t false) s = .next (settle (setThread (countAccess u p a true) p t (advance { th with
          stores := th.stores ++ [mk a ((leBytes 8 (gpr th (fD w)).toNat ++ leBytes 8 (gpr th (fD w + 1)).toNat).map some)] }))))
      ∧ (∀ a, kindOf w = .stv → regsBusy th [fA w] = false → a = addrVm th w → a % 64 = 0 → mem a 256 true → own a →
        let lane (i : Nat) : List (Option Byte) :=
          if (vpr th (fVpM w)).getLsbD i then (leBytes 4 (vlane th (fD w) i).toNat).map some else List.replicate 4 none
        exec (.stv p t) s = .next (settle (setThread (countAccess u p a true) p t (advance { th with
          stores := th.stores ++ ((List.range 32).map (fun i => mk (a + 8 * i) (lane (2 * i) ++ lane (2 * i + 1)))).filter
            (fun st => st.bytes.any Option.isSome) })))))
  ∧ (∀ (s : State) (p : Fin 1088) (t : Fin 8) (l : PendLoad) (ls : List PendLoad), (getThread s p t).loads = l :: ls →
      exec (.loadRetire p t) s = .next (settle (setThread (count s 27 (grainOcc s p)) p t
        { setGpr (getThread s p t) l.reg l.value with loads := ls })))
  ∧ (∀ (s : State) (p : Fin 1088) (t : Fin 8) (w : Word) (a : Nat) (got : List Byte), (getThread s p t).loads = [] →
      (getThread s p t).wait = .vector w a got →
      let r := loadBytes s p t a 256
      let bs := got ++ r.1.drop got.length
      exec (.loadRetire p t) s = .next (settle (modThread (count r.2 27 (grainOcc r.2 p)) p t (fun x =>
        advance { (List.range 64).foldl (fun y i => if (vpr x (fVpM w)).getLsbD i then
          setVlane y (fD w) i (BitVec.ofNat 32 (leAt bs (4 * i) 4)) else y) x with wait := .ready }))))
  ∧ (∀ (s : State) (p : Fin 1088) (t : Fin 8) (st : PendStore), heads s p [] (getThread s p t).stores = [st] →
      ((storeLink s p st = 9 ∨ st.stage = 3) →
        exec (.storeAcknowledged p t) s = .next (settle (recheck (performIn s p t st) p t)))
      ∧ (storeLink s p st ≠ 9 → st.stage ≠ 3 → exec (.storeAcknowledged p t) s = .next (settle (recheck (setThread s p t
          { getThread s p t with stores := (getThread s p t).stores.map (fun y => if y = st then { y with stage := 3 } else y) }) p t))))
  ∧ (∀ (s : State) (p : Fin 1088) (t : Fin 8), (∀ st ∈ (getThread s p t).stores, storeHeld s p st = true) →
      exec (.storeAcknowledged p t) s = .next (settle s))

/-- O35, tier 2 (07_grain_instruction_set.md, R174 and R175, Table 7.10, 08_memory_ordering.md, R192 and R195). An atomic
whose endpoint is a local store, Loam or HBM, aligned to its operand size and in reach, with no failed line there and
none of its thread's stores held, performs or issues its thread's earlier stores first, writes to memory the new value
of Table 7.10 (ACAS only where memory equals C; otherwise it clears the granule's reservations) and puts the old value,
sign-extended, into D. LDR.RSV reads its operand into D and sets the thread's reservation on the granule. STC without
a reservation fails with D = 1 and stores nothing; with one it performs its thread's earlier stores, and where the
reservation still stands it stores B and gives D = 0; the reservation goes in every case (that no other cause makes it
fail is read from R195: log entry 30). The new values of the addition, the
swap, the unsigned minimum and maximum and the compare-and-swap are written out. -/
def Obligations.AtomicsAndReservations : Prop :=
  (∀ (s : State) (p : Fin 1088) (t : Fin 8) (w : Word) (k : Nat), runsWord s p t w = true → kindOf w = .atomic k →
      regsBusy (getThread s p t) (atomicRegs k w) = false →
      let u := issued s p t
      let a := (gpr (getThread s p t) (fA w)).toNat
      let n := if fFunc w % 2 = 1 then 8 else 4
      let steward : Prop := (∃ q o, resolve u p a = .ls q o) ∨ (∃ b, resolve u p a = .gm b)
      let c := countAccess u p a (k ≠ 10)
      let v := count c 22 (grainOcc c p (some a))
      (∀ i, steward → a % n = 0 → reach u p a n true = 0 →
        (k, i) ∈ [(0, Instr.aadd p t false), (1, .aand p t false), (2, .aor p t false), (3, .axor p t false),
          (4, .aswap p t false), (5, .amin p t false), (6, .amax p t false), (7, .aminu p t false), (8, .amaxu p t false),
          (9, .acas p t false)] →
        badLineAt v p a n = none → heldOn v p t (fun _ => true) = false →
        let f := issueOutbound (drainLinks v p t (fun l => l = 9)) p t
        let tg := resolve f p a
        let d := meet (forceScoped f p t tg n) tg n true
        let old := ofLe (readTarget d tg n)
        let b := (gpr (getThread d p t) (fB w)).toNat % 2 ^ (8 * n)
        let cmp := (gpr (getThread d p t) (fC w)).toNat % 2 ^ (8 * n)
        exec i s = .next (settle (modThread
          (if k = 9 ∧ old ≠ cmp then touchRsvs d tg n else writeTarget d tg (leBytes n (atomicNew k n old b cmp))) p t
          (fun x => advance (setGpr x (fD w) (BitVec.ofInt 64 (sext (8 * n) old)))))))
      ∧ (steward → a % n = 0 → reach u p a n false = 0 → k = 10 → badLineAt v p a n = none →
        let r := loadBytes v p t a n
        exec (.ldrRsv p t false) s = .next (settle (modThread (setRsv r.2 p t a) p t
          (fun x => advance (setGpr x (fD w) (BitVec.ofInt 64 (sext (8 * n) (ofLe r.1))))))))
      ∧ (steward → a % n = 0 → reach u p a n true = 0 → k = 11 → heldOn v p t (fun l => l = 9) = false →
        let tg := resolve v p a
        let f := forceScoped v p t tg n
        let d := drainLinks f p t (fun l => l = 9)
        let fails (x : State) := modThread (count (dropOwnRsv x p t) 23 (grainOcc (dropOwnRsv x p t) p (some a))) p t
          (fun x => advance (setGpr x (fD w) 1))
        (rsvHeld f p t a = false → exec (.stc p t) s = .next (settle (fails f)))
        ∧ (rsvHeld f p t a = true → rsvHeld d p t a = false → exec (.stc p t) s = .next (settle (fails d)))
        ∧ (rsvHeld f p t a = true → rsvHeld d p t a = true →
          let e := meet (dropOwnRsv d p t) tg n true
          exec (.stc p t) s = .next (settle
            (modThread (writeTarget e tg (leBytes n (gpr (getThread (dropOwnRsv d p t) p t) (fB w)).toNat)) p t
              (fun x => advance (setGpr x (fD w) 0)))))))
  ∧ (∀ n m b c : Nat, atomicNew 0 n m b c = (m + b) % 2 ^ (8 * n) ∧ atomicNew 4 n m b c = b
      ∧ atomicNew 7 n m b c = min m b ∧ atomicNew 8 n m b c = max m b ∧ atomicNew 9 n m b c = (if m = c then b else m))

/-- O36, tier 2 (07_grain_instruction_set.md, R176, 08_memory_ordering.md, R204 and R205, 07_grain_instruction_set.md,
R177 to R180, Table 7.11, 08_memory_ordering.md, Table 8.1). BCOPY with addresses and a length that are multiples of
64, a length of at most 1 MiB, one side in the own local store and both sides in reach and Normal, performs its
thread's earlier stores and joins the thread's copies; a length of 0 does nothing; a misaligned source raises ALIGN,
and a copy with no side in the own local store ACCESS. The oldest copy, no side of it held, moves what is left of its
bytes when it completes and counts its lines, or keeps the first error for the thread's next BWAIT or END; one that is
held waits. An outbound write error of a live thread counts event 30, drops the oldest issued write to its address and
keeps the first failing address. The end of a link's hold fails every access that the link has held for 10 ms, and does
nothing where the link is ready again. FENCE.G and FENCE.B perform the thread's buffered stores of its own local store
and take its others past the mesh port and the bed router, and go on. FENCE.S with every store performed or issued onto
its link goes on, FENCE.C with nothing outstanding too (where no posted error is kept), and otherwise they hold the
thread; FENCE.C is held by tile instructions and copies too. GSYNC whose mask lacks its own thread
raises ILLEGAL; otherwise its thread waits and every thread of a complete mask is released. BSYNC with a count above
4096 or a barrier above 15 raises ILLEGAL, with 0 goes on with D = 0, and otherwise arrives at its barrier, releasing
it when its target is met. WAIT on a word that differs from its value goes on with D = 0, and otherwise sleeps; it
wakes with D = 1 after 65 536 cycles. BWAIT goes on where at most its number of copies are pending and no copy's error
is kept, and otherwise is held. -/
def Obligations.CopiesFencesAndWaits : Prop :=
((∀ (s : State) (p : Fin 1088) (t : Fin 8) (w : Word), runsWord s p t w = true → kindOf w = .copy →
      regsBusy (getThread s p t) [fD w, fA w, fB w] = false →
      let u := issued s p t
      let th := getThread s p t
      let dst := (gpr th (fD w)).toNat
      let src := (gpr th (fA w)).toNat
      let n := (gpr th (fB w)).toNat
      (src % 64 ≠ 0 → exec (.bcopy p t) s = .next (settle (takeExc u p t 3 w.toNat src)))
      ∧ (src % 64 = 0 → dst % 64 = 0 → n = 0 → exec (.bcopy p t) s = .next (settle (setThread u p t (advance th))))
      ∧ (src % 64 = 0 → dst % 64 = 0 → n % 64 = 0 → 0 < n → n ≤ 0x100000 → (ownLs u p src n = true ∨ ownLs u p dst n = true) →
        copySide u p src n false = 0 → copySide u p dst n true = 0 → heldOn u p t (fun l => l = 9) = false →
        exec (.bcopy p t) s = .next (settle (modThread (drainThread u p t) p t
          (fun x => advance { x with copies := x.copies ++ [{ src := src, dst := dst, len := n, since := (drainThread u p t).tick }] }))))
      ∧ (src % 64 = 0 → dst % 64 = 0 → n % 64 = 0 → 0 < n → n ≤ 0x100000 → ownLs u p src n = false → ownLs u p dst n = false →
        exec (.bcopy p t) s = .next (settle (takeExc u p t 2 w.toNat dst))))
  ∧ (∀ (s : State) (p : Fin 1088) (t : Fin 8) (c : PendCopy) (rest : List PendCopy), (getThread s p t).copies = c :: rest →
      (copyHeld s p c = true → ∀ e, exec (.bcopyComplete p t e) s = .next (settle s))
      ∧ (copyHeld s p c = false → badLineAt s p c.src c.len = none →
        let u := forceScoped (forceScoped s p t (resolve s p c.src) c.len) p t (resolve s p c.dst) c.len
        let d := (getThread u p t).copies.headD c
        let v := modThread u p t (fun x => { x with copies := x.copies.tail })
        let m := meet (meet v (resolve v p d.src) d.len false) (resolve v p d.dst) d.len true
        exec (.bcopyComplete p t none) s =
          .next (settle (recheck (count (copyRest m p d d.len) 25 (grainOcc (copyRest m p d d.len) p (some d.src)) (d.len / 64)) p t)))
      ∧ (∀ a, copyHeld s p c = false → exec (.bcopyComplete p t (some a)) s = .next (settle (recheck (setThread s p t
        { getThread s p t with copies := rest, copyErr := some ((getThread s p t).copyErr.getD a) }) p t))))
  ∧ (∀ (s : State) (p : Nat) (c : PendCopy) (n : Nat), c.done = [] →
      copyRest s p c n = writeTarget s (resolve s p c.dst) (readTarget s (resolve s p c.src) n))
  ∧ (∀ (s : State) (p : Fin 1088) (t : Fin 8) (a : Nat), (getThread s p t).live = true →
      let u := dropPosted (count s 30 (grainOcc s p (some a))) p t a
      exec (.outboundWriteError p t a) s = .next (settle (recheck (setThread u p t
        { getThread u p t with postErr := some ((getThread u p t).postErr.getD a) }) p t)))
  ∧ (∀ s : State, uAccess s ≠ 0 → exec (.linkHoldExpiry .u) s =
      .next (settle ((liveThreads s).foldl (fun s e => holdExpire s e.1 e.2 8) s)))
  ∧ (∀ (s : State) (n : Fin 8), spokeAccess s n ≠ 0 → exec (.linkHoldExpiry (.spoke n)) s =
      .next (settle ((liveThreads s).foldl (fun s e => holdExpire s e.1 e.2 n) s)))
  ∧ (∀ s : State, uAccess s = 0 → exec (.linkHoldExpiry .u) s = .next (settle s))
  ∧ (∀ (s : State) (p t l a since : Nat), (getThread s p t).wait = .held l a since → (getThread s p t).stores = [] →
      (getThread s p t).copies = [] →
      (heldLong s l since = true → holdExpire s p t l = dataError (setThread s p t { getThread s p t with wait := .ready }) p t
        (wordAt s p t) a)
      ∧ (heldLong s l since = false → getThread (holdExpire s p t l) p t = getThread s p t)))
  ∧ ((∀ (s : State) (p : Fin 1088) (t : Fin 8) (w : Word), runsWord s p t w = true →
      let u := issued s p t
      let th := getThread s p t
      let hold (x : ThreadWait) := setThread u p t { th with wait := x }
      let goOn (x : ThreadWait) := setThread (hold x) p t (advance { th with wait := .ready })
      let fence (k : Nat) (v : State) := setThread (closeMerges v p t) p t { getThread (closeMerges v p t) p t with wait := .fence k }
      let past (k : Nat) := modThread (stageStores (fence k (drainOwn u p t)) p t (k + 1)) p t
        (fun x => advance { x with wait := .ready })
      (kindOf w = .sys 0 → (∀ st ∈ (getThread (fence 0 (drainOwn u p t)) p t).stores,
          storesOwn (fence 0 (drainOwn u p t)) p st = false) → exec (.fenceG p t) s = .next (settle (past 0)))
      ∧ (kindOf w = .sys 1 → (∀ st ∈ (getThread (fence 1 (drainOwn u p t)) p t).stores,
          storesOwn (fence 1 (drainOwn u p t)) p st = false) → exec (.fenceB p t) s = .next (settle (past 1)))
      ∧ (kindOf w = .sys 2 → th.stores = [] → exec (.fenceS p t) s = .next (settle (goOn (.fence 2))))
      ∧ (kindOf w = .sys 2 → fenceDone (fence 2 u) p t 2 = true → exec (.fenceS p t) s = .next (settle
          (setThread (fence 2 u) p t (advance { getThread (fence 2 u) p t with wait := .ready }))))
      ∧ (kindOf w = .sys 2 → fenceDone (fence 2 u) p t 2 = false → exec (.fenceS p t) s = .next (settle (fence 2 u)))
      ∧ (∀ st, st ∈ (getThread (fence 2 u) p t).stores → (storeLink (fence 2 u) p st = 9 ∨ st.stage ≠ 3) →
          fenceDone (fence 2 u) p t 2 = false)
      ∧ (kindOf w = .sys 3 → th.stores = [] → th.tileOps = 0 → th.copies = [] → th.postErr = none →
        exec (.fenceC p t) s = .next (settle (goOn (.fence 3))))
      ∧ (kindOf w = .sys 3 → (th.stores ≠ [] ∨ th.tileOps ≠ 0 ∨ th.copies ≠ []) →
        exec (.fenceC p t) s = .next (settle (fence 3 u)))
      ∧ (kindOf w = .sys 8 → regsBusy th [fB w] = false →
        let m := (gpr th (fB w)).toNat % 256
        ((m >>> t.val) % 2 = 0 → exec (.gsync p t) s = .next (settle (takeExc u p t 1 w.toNat 0)))
        ∧ ((m >>> t.val) % 2 = 1 → exec (.gsync p t) s = .next (settle (gsyncCheck (hold (.gsync m)) p))))
      ∧ (kindOf w = .sys 9 → regsBusy th [fA w, fB w] = false →
        let k := (gpr th (fA w)).toNat
        let n := (gpr th (fB w)).toNat
        let x := KMap.get (fun _ => ({} : Barrier)) (getBed s (p / 17)).barriers k
        let y : Barrier := if x.count = 0 then ⟨n, 1⟩ else { x with count := x.count + 1 }
        let put (y : Barrier) (s : State) := modBed s (p / 17)
          (fun z => { z with barriers := KMap.set (fun _ => ({} : Barrier)) z.barriers k y })
        ((4096 < n ∨ 15 < k) → exec (.bsync p t) s = .next (settle (takeExc u p t 1 w.toNat 0)))
        ∧ (n = 0 → k ≤ 15 → exec (.bsync p t) s = .next (settle (setThread u p t (advance (setGpr th (fD w) 0)))))
        ∧ (0 < n → n ≤ 4096 → k ≤ 15 → y.count < y.target →
          exec (.bsync p t) s = .next (settle (put y (hold (.bsync k (fD w))))))
        ∧ (0 < n → n ≤ 4096 → k ≤ 15 → y.target ≤ y.count → exec (.bsync p t) s =
          .next (settle (releaseBsync (put {} (hold (.bsync k (fD w)))) (p / 17) 0 (some k)))))
      ∧ (kindOf w = .sys 10 → regsBusy th [fA w, fB w] = false →
        let a := (gpr th (fA w)).toNat
        let r := loadBytes (drainLinks u p t (fun l => l = 9)) p t a 8
        let free := heldOn u p t (fun l => l = 9) = false
        ((a % 8 ≠ 0 ∨ ownLs u p a 8 = false) → exec (.wait p t) s = .next (settle (takeExc u p t 2 w.toNat a)))
        ∧ (a % 8 = 0 → ownLs u p a 8 = true → free → ofLe r.1 ≠ (gpr th (fB w)).toNat → exec (.wait p t) s =
          .next (settle (setThread r.2 p t (advance (setGpr (getThread r.2 p t) (fD w) 0)))))
        ∧ (a % 8 = 0 → ownLs u p a 8 = true → free → ofLe r.1 = (gpr th (fB w)).toNat → exec (.wait p t) s =
          .next (settle (setThread r.2 p t { getThread r.2 p t with
            wait := .sleep (a % 0x40000) (gpr th (fB w)) (fD w) r.2.garr.cycles16 }))))
      ∧ (kindOf w = .sys 11 → (th.copies.length ≤ fC w → th.copyErr = none →
          exec (.bwait p t) s = .next (settle (goOn (.bwait (fC w)))))
        ∧ (fC w < th.copies.length → exec (.bwait p t) s = .next (settle (hold (.bwait (fC w)))))))
  ∧ (∀ (s : State) (p : Fin 1088) (t : Fin 8) (a reg since : Nat) (v : Dword), (getThread s p t).wait = .sleep a v reg since →
      (65536 ≤ grainCycles s since → exec (.waitTimeout p t) s =
        .next (settle (setThread s p t (advance { setGpr (getThread s p t) reg 1 with wait := .ready }))))
      ∧ (grainCycles s since < 65536 → exec (.waitTimeout p t) s = .next (settle s))))

/-- O37, tier 2 (07_grain_instruction_set.md, R171, R181 to R187, Tables 7.11 to 7.14). SYSR reads the thread's number, the cycles
since its launch started, XVEC, whether an exception is active, TFLAGS once the tile queue is empty (until then the thread does not
issue), COPY_PENDING, the reservation and 0 for any other index. SYSW writes XVEC alone, and any other index raises ILLEGAL. XRET
outside an exception raises ILLEGAL; in one it restores the PC and GP31 from the frame and ends the exception. BRK raises BREAK. END
ends its thread once its tile instructions and copies are complete and no error is kept. A non-fatal exception (XVEC not 0 and none
active) writes the frame of 32 bytes at 0x3F000 + 0x100 × thread, points GP31 at it, makes the exception active and continues at
XVEC; a fatal one ends every thread of the grain and fails its item. -/
def Obligations.SystemRegistersAndExceptions : Prop :=
  (∀ (s : State) (p : Fin 1088) (t : Fin 8) (w : Word), runsWord s p t w = true →
      let u := issued s p t
      let th := getThread s p t
      let g := getGrain s p
      let ret (v : Dword) := setThread u p t (advance (setGpr th (fD w) v))
      (kindOf w = .sys 0x10 →
        (fC w = 0 → exec (.sysr p t) s = .next (settle (ret (BitVec.ofNat 64 t))))
        ∧ (∀ l, fC w = 1 → grainLaunch s p = some l → exec (.sysr p t) s =
            .next (settle (ret (BitVec.ofNat 64 ((s.garr.cycles16 - l.cycles) / 16)))))
        ∧ (fC w = 2 → exec (.sysr p t) s = .next (settle (ret th.xvec)))
        ∧ (fC w = 3 → exec (.sysr p t) s = .next (settle (ret (if th.xactive then 1 else 0))))
        ∧ (fC w = 4 → g.queue = [] → exec (.sysr p t) s = .next (settle (ret (BitVec.ofNat 64 (tflags g)))))
        ∧ (fC w = 4 → g.queue ≠ [] → exec (.sysr p t) s = .next (settle s))
        ∧ (fC w = 5 → exec (.sysr p t) s = .next (settle (ret (BitVec.ofNat 64 th.copies.length))))
        ∧ (fC w = 6 → exec (.sysr p t) s = .next (settle (ret
            (match th.rsv with | some r => BitVec.ofNat 64 (r * 64 + 1) | none => 0))))
        ∧ (6 < fC w → exec (.sysr p t) s = .next (settle (ret 0))))
      ∧ (kindOf w = .sys 0x11 → regsBusy th [fA w] = false →
        (fC w = 2 → exec (.sysw p t) s = .next (settle (setThread u p t (advance { th with xvec := gpr th (fA w) }))))
        ∧ (fC w ≠ 2 → exec (.sysw p t) s = .next (settle (takeExc u p t 1 w.toNat 0))))
      ∧ (kindOf w = .sys 0x18 → (th.xactive = false → exec (.xret p t) s = .next (settle (takeExc u p t 1 w.toNat 0)))
        ∧ (th.xactive = true →
          let d := drainThread u p t
          exec (.xret p t) s = .next (settle (modThread d p t (fun x => { setGpr x 31
            (BitVec.ofNat 64 (ofLe (lsRead d p (frameBase t + 0x18) 8))) with
            xactive := false, pc := BitVec.ofNat 64 (ofLe (lsRead d p (frameBase t + 8) 8)) })))))
      ∧ (kindOf w = .sys 0x19 → exec (.brk p t) s = .next (settle (takeExc u p t 6 w.toNat 0)))
      ∧ (kindOf w = .sys 0x1A → exec (.endThread p t) s =
          .next (settle (recheck (setThread u p t { th with wait := .ending }) p t))
        ∧ (th.tileOps = 0 → th.copies = [] → th.copyErr = none → th.postErr = none → th.stores = [] →
          ∃ u', exec (.endThread p t) s = .next u' ∧ (getThread u' p t).live = false)))
  ∧ (∀ (s : State) (p t cause insn addr : Nat), t < 8 → (getThread s p t).xvec ≠ 0 → (getThread s p t).xactive = false →
      (getThread s p t).stores = [] → (getThread s p t).loads = [] →
      let u := takeExc s p t cause insn addr
      (getThread u p t).pc = (getThread s p t).xvec ∧ (getThread u p t).xactive = true
      ∧ gpr (getThread u p t) 31 = BitVec.ofNat 64 (frameBase t)
      ∧ lsRead u p (frameBase t) 32 = leBytes 4 cause ++ leBytes 4 insn ++ leBytes 8 (getThread s p t).pc.toNat
          ++ leBytes 8 addr ++ leBytes 8 (gpr (getThread s p t) 31).toNat)
  ∧ (∀ (s : State) (p t cause insn addr : Nat), t < 8 → ((getThread s p t).xvec = 0 ∨ (getThread s p t).xactive = true) →
      (∀ v, v < 8 → (getThread (takeExc s p t cause insn addr) p v).live = false)
      ∧ (getGrain (takeExc s p t cause insn addr) p).itemFailed = true)

/-- O38, tier 2 (01_tray_and_workload.md, R12, 04_kyrdax_command_packets.md, Table 4.6, 09_strata_park_restore_ingest.md,
R211, R218 to R222, Table 9.7). A PARK or RESTORE that starts, its spoke's mover free, its domains ON and no latch of
its accelerator set: the first check of R218 or R219 that fails completes with its status; a PARK with no HBM left
completes NO_SPACE, else its root and blocks are reserved and BEGIN is posted (or held until the spoke is ready); a
RESTORE of a handle with no record completes BAD_PARAM 8, of a root with no valid copy makes the stratum LOST and
completes DATA_ERROR 0x06, else posts BEGIN. A move already on the spoke keeps both waiting. DROP removes the record
and its HBM whatever its home and completes OK. SPILL and FETCH with their domains ON take a seal context or wait for
one; they complete KEYS_LOCKED while KEY_LOCK is 1, and SPILL of a LEN below the image completes NO_SPACE with the
size in RESULT0 and in 64 KiB units. -/
def Obligations.StratumCommandsStart : Prop :=
  (∀ (s : State) (c : Nat) (cmd : Cmd), startsNow s c 0x10 none cmd = true → spokeMove s cmd.accN = none →
      moveDoms (fun _ c => c.f 0x11 1 ≠ 0) s cmd = none → s.therm.latch.getLsbD cmd.accN = false →
      let u := markStarted s c
      (∀ r, parkRefusal u cmd = some r → exec (.stratumPark c) s = .next (settle (completeMove u cmd r)))
      ∧ (parkRefusal u cmd = none → allocateAll u 3 c (parkUnits cmd.shape (cmd.f 0x11 1) (cmd.f 0x14 4)) = none →
        exec (.stratumPark c) s = .next (settle (completeMove u cmd { status := .noSpace })))
      ∧ (∀ as w, parkRefusal u cmd = none →
        allocateAll u 3 c (parkUnits cmd.shape (cmd.f 0x11 1) (cmd.f 0x14 4)) = some (as, w) →
        exec (.stratumPark c) s = .next (settle (postOrHold (beginMove w cmd cmd.accN .begin) c cmd.accN))))
  ∧ (∀ (s : State) (c : Nat) (cmd : Cmd), findCmd s c = some cmd → spokeMove s cmd.accN ≠ none → cmd.noop = false →
      exec (.stratumPark c) s = .next (settle s) ∧ exec (.stratumRestore c) s = .next (settle s))
  ∧ (∀ (s : State) (c : Nat) (cmd : Cmd), startsNow s c 0x11 none cmd = true → spokeMove s cmd.accN = none →
      moveDoms restoreGrains s cmd = none → s.therm.latch.getLsbD cmd.accN = false →
      let u := markStarted s c
      (findRec u cmd.handle = none → exec (.stratumRestore c) s = .next (settle (completeMove u cmd (badField 8))))
      ∧ (∀ r x, findRec u cmd.handle = some r → restoreRefusal u cmd r = some x →
        exec (.stratumRestore c) s = .next (settle (completeMove u cmd x)))
      ∧ (∀ r, findRec u cmd.handle = some r → restoreRefusal u cmd r = none → currentCopy u r.root = none →
        exec (.stratumRestore c) s =
          .next (settle (completeMove (loseRec u r.handle) cmd (refuse .dataError 5 0x06))))
      ∧ (∀ r, findRec u cmd.handle = some r → restoreRefusal u cmd r = none → currentCopy u r.root ≠ none →
        exec (.stratumRestore c) s = .next (settle (postOrHold (beginMove u cmd cmd.accN .begin) c cmd.accN))))
  ∧ (∀ (s : State) (c : Nat) (cmd : Cmd), startsNow s c 0x13 none cmd = true →
      let u := markStarted s c
      (findRec u cmd.handle ≠ none →
        exec (.stratumDrop c) s = .next (settle (completeMove (removeHandle u cmd.handle) cmd (okR)))
        ∧ findRec (removeHandle u cmd.handle) cmd.handle = none)
      ∧ (findRec u cmd.handle = none → exec (.stratumDrop c) s = .next (settle (completeMove u cmd (badField 8)))))
  ∧ (∀ (s : State) (c : Nat) (cmd : Cmd) (r : Stratum), startsNow s c 0x14 none cmd = true → sealDoms s cmd = none →
      let u := markStarted s c
      let size := imageLen (spillLen u r)
      findRec u cmd.handle = some r → r.home = .steward →
      (s.boot.keyLock = true → exec (.stratumSpill c) s = .next (settle (completeMove u cmd { status := .keysLocked })))
      ∧ (s.boot.keyLock = false → currentCopy u r.root = none → exec (.stratumSpill c) s =
        .next (settle (completeMove (loseRec u r.handle) cmd (refuse .dataError 5 0x06))))
      ∧ (s.boot.keyLock = false → currentCopy u r.root ≠ none → cmd.f 0x18 8 < size → exec (.stratumSpill c) s =
        .next (settle (completeMove u cmd { (refuse .noSpace 5 (ceilDiv size 0x10000)) with r0 := size })))
      ∧ (s.boot.keyLock = false → currentCopy u r.root ≠ none → size ≤ cmd.f 0x18 8 → exec (.stratumSpill c) s =
        .next (settle (sealAcquire (beginMove u cmd 8 .data) (sealWho c) (spillChunks (spillLen u r))))))
  ∧ (∀ (s : State) (c : Nat) (cmd : Cmd) (r : Stratum), startsNow s c 0x15 none cmd = true → sealDoms s cmd = none →
      let u := markStarted s c
      findRec u cmd.handle = some r → r.home = .host →
      (s.boot.keyLock = true → exec (.stratumFetch c) s = .next (settle (completeMove u cmd { status := .keysLocked })))
      ∧ (s.boot.keyLock = false → exec (.stratumFetch c) s =
        .next (settle (sealAcquire (beginMove u cmd 8 .data) (sealWho c) (spillChunks (r.imageSize - 256))))))

/-- O39, tier 2 (09_strata_park_restore_ingest.md, R211 to R213, R218 to R222 and R232, Table 9.4). A move in its data
stage that a tenant reset stops ends with nothing committed. Otherwise a PARK or RESTORE whose spoke is not ready
waits, and on a link error completes DATA_ERROR; a PARK that has its data commits: where its blocks fit what it
reserved, the stratum's home is the steward, its copy on the accelerator is CURRENT, and its root is the first
reserved address with generation 1; and a RESTORE whose lines are good writes the export window, frees the stratum's
HBM, homes it on the target, copy CURRENT, and goes to END; a RESTORE or SPILL with a failed line completes DATA_ERROR
with the line reported. A SPILL that holds a seal context writes its image, homes the stratum in the host tier with
the image's SEQ, and completes OK with its size; on a write error completes DATA_ERROR, home STEWARD. A FETCH whose
image has a bad header, length or tag completes DATA_ERROR 4, 5 or 0x100 + chunk, and one with no HBM for it NO_SPACE.
A move in any other stage, or no move, is left as it is. -/
def Obligations.StratumTransfersEnd : Prop :=
  (∀ (s : State) (c : Nat) (dma : Option Nat), (∀ m, findMove s c = some m → m.stage ≠ .data) →
      exec (.stratumMoveEnd c dma) s = .next (settle s))
  ∧ (∀ (s : State) (c : Nat) (dma : Option Nat) (m : Move), findMove s c = some m → m.stage = .data → m.stopping = true →
      exec (.stratumMoveEnd c dma) s = .next (settle (abandonMove s m)))
  ∧ (∀ (s : State) (c : Nat) (dma : Option Nat) (m : Move), findMove s c = some m → m.stage = .data → m.stopping = false →
      m.spoke < 8 →
      (spokeReady s m.spoke = false → exec (.stratumMoveEnd c dma) s = .next (settle s))
      ∧ (spokeReady s m.spoke = true → dma ≠ none →
        exec (.stratumMoveEnd c dma) s = .next (settle (failMove s m { status := .dataError })))
      ∧ (spokeReady s m.spoke = true → dma = none → m.op = 0x10 →
        exec (.stratumMoveEnd c dma) s = .next (settle (parkEnd s m)))
      ∧ (∀ root as tab w x, reserved s m.cmd = root :: as →
        storeBlocks m.asCmd m.model m.asCmd.shape m.spoke (List.range (blockCount (m.asCmd.f 0x14 4))) as s = some (tab, w) →
        findRec (parkEnd s m) m.handle = some x →
        x.home = .steward ∧ x.copy = .current ∧ x.copyAcc = m.spoke ∧ x.root = root ∧ x.generation = 1
        ∧ x.tokens = m.asCmd.f 0x14 4 ∧ x.shape = m.asCmd.shape)
      ∧ (∀ r, spokeReady s m.spoke = true → dma = none → m.op = 0x11 → findRec s m.handle = some r →
        currentCopy s r.root ≠ none → hasBadLine s r.handle = true → exec (.stratumMoveEnd c dma) s = .next (settle
          (failMove (reportUe s (badLineOf s r.handle) r.handle) m { status := .dataError })))
      ∧ (∀ r, spokeReady s m.spoke = true → dma = none → m.op = 0x11 → findRec s m.handle = some r →
        currentCopy s r.root ≠ none → hasBadLine s r.handle = false →
        let bytes := r.tokens * r.shape.tokenBytes
        let u := accWrite s m.spoke ((getSpoke s m.spoke).exportBase + m.asCmd.f 0x18 8) (exportBytes s r)
        let w := count (putRec (freeKey u 0 r.handle)
          { r with home := .accelerator m.spoke, copy := .current, copyAcc := m.spoke, pending := 0x11 })
          118 { tenant := m.tenant, cls := some 1 } (bytes / 64)
        exec (.stratumMoveEnd c dma) s = .next (settle
          (postOrHold (modMove w m.cmd (fun x => { x with stage := .ending, r0 := bytes, r1 := r.tokens })) m.cmd m.spoke))))
  ∧ (∀ (s : State) (c : Nat) (m : Move) (r : Stratum), findMove s c = some m → m.stage = .data → m.stopping = false →
      m.spoke = 8 → m.op = 0x14 → findRec s m.handle = some r → sealHolds s (sealWho c) = true →
      let seq := (getTen s m.tenant).spillSeq
      let u := modTen s m.tenant (fun t => { t with spillSeq := seq + 1 })
      let img := spillImage (tenantKey s m.tenant) m.tenant r.handle seq (spillPlain s r)
      (hasBadLine s r.handle = true → ∀ dma, exec (.stratumMoveEnd c dma) s = .next (settle
          (failMove (reportUe s (badLineOf s r.handle) r.handle) m { status := .dataError })))
      ∧ (hasBadLine s r.handle = false → ∀ a,
        exec (.stratumMoveEnd c (some a)) s = .next (settle (failMove u m (dmaWriteErr a))))
      ∧ (hasBadLine s r.handle = false → ∃ t : State, exec (.stratumMoveEnd c none) s = .next (settle t)
        ∧ (∀ x, findRec t m.handle = some x → x.home = .host ∧ x.spillSeq = seq ∧ x.imageSize = img.length)
        ∧ t.mem.gm = s.mem.gm ∧ t.mem.ls = s.mem.ls ∧ t.mem.acc = s.mem.acc ∧ t.mem.flash = s.mem.flash))
  ∧ (∀ (s : State) (c : Nat) (m : Move) (r : Stratum), findMove s c = some m → m.stage = .data → m.stopping = false →
      m.spoke = 8 → m.op = 0x15 → findRec s m.handle = some r → sealHolds s (sealWho c) = true →
      let hdr := hostRead s (m.asCmd.f 0x10 8) 256
      let len := m.asCmd.f 0x18 8
      let size := imageLen (leAt hdr 0x18 8)
      (∀ a, exec (.stratumMoveEnd c (some a)) s = .next (settle (failMove s m (dmaReadErr a))))
      ∧ (256 ≤ len → (leAt hdr 0 4 ≠ 0x4C505354 ∨ leAt hdr 6 1 ≠ m.tenant ∨ leAt hdr 8 8 ≠ m.handle
          ∨ leAt hdr 0x10 8 ≠ r.spillSeq) →
        exec (.stratumMoveEnd c none) s = .next (settle (failMove s m (refuse .dataError 5 0x04))))
      ∧ (256 ≤ len → leAt hdr 0 4 = 0x4C505354 → leAt hdr 6 1 = m.tenant → leAt hdr 8 8 = m.handle →
        leAt hdr 0x10 8 = r.spillSeq →
        (len < size → exec (.stratumMoveEnd c none) s = .next (settle (failMove s m (refuse .dataError 5 0x05))))
        ∧ (size ≤ len → match openChunks (tenantKey s m.tenant) hdr r.spillSeq (spillChunks (leAt hdr 0x18 8)) 0
            (hostRead s (m.asCmd.f 0x10 8 + 256) (size - 256)) with
          | .inl i => exec (.stratumMoveEnd c none) s = .next (settle (failMove
              (count s 123 { tenant := m.tenant, cls := some 1 }) m (refuse .dataError 5 (0x100 + i))))
          | .inr p => allocateAll s 0 m.handle
                (3 :: (tableOf ((p.drop 256).take (16 * leAt p 0x1A 2))).map (fun e => unitsOf e.len)) = none →
              exec (.stratumMoveEnd c none) s = .next (settle (failMove s m { status := .noSpace })))))

/-- O40, tier 2 (09_strata_park_restore_ingest.md, R215 to R217 and R232, Tables 9.5, 9.6 and 9.13,
10_links_and_spoke_contract.md, R256). MODEL_LOAD that starts into a free slot with its domains ON, a good header,
room for kernels and sections, a readable image, good CRCs and structure puts the model in the slot and completes OK
with the HBM bytes and layers; a loaded slot completes NOT_PERMITTED 1, a bad header DATA_ERROR 1. MODEL_UNLOAD of an
empty slot completes OK_NOOP, of one with a window or batch BUSY_GUARDED 1, of one with a bound mode-2 stratum
BUSY_GUARDED 2, else it frees the slot and completes OK. An HBM_CE with D14 ON counts and its lifetime count rises. An
HBM_UE outside every stratum writes a record with no handle and counts; in a stratum that no transfer reads while no
batch runs, HBM_UE is set with the line and handle and the line keeps failing; a RESTORE or SPILL transfer that reads
it completes DATA_ERROR. The patrol counts every line. -/
def Obligations.ModelSlotsAndHbmErrors : Prop :=
  (∀ (s : State) (c : Nat) (dma : Option Nat) (cmd : Cmd), startsNow s c 0x16 none cmd = true → modelDoms s cmd = none →
      let u := markStarted s c
      let slot := cmd.f 8 1
      let buf := cmd.f 0x10 8
      let len := cmd.f 0x18 8
      let top := hostRead u buf (0x40 + 32 * leAt (hostRead u buf 0x40) 0xE 2)
      let xs := modelSections top
      let img := hostRead u buf len
      let kern := ((xs.filter (fun x => x.kind = 1 || x.kind = 2)).map (·.len)).foldl (· + ·) 0
      ((getModel u slot).loaded = true →
        exec (.modelLoad c dma) s = .next (settle (complete u c (refuse .notPermitted 5 0x01))))
      ∧ ((getModel u slot).loaded = false → modelHeaderOk (hostRead u buf 0x40) len = false → dma = none →
        exec (.modelLoad c dma) s = .next (settle (complete u c (refuse .dataError 5 0x01))))
      ∧ (∀ as w, (getModel u slot).loaded = false → dma = none → modelHeaderOk (hostRead u buf 0x40) len = true →
        (boundTo u slot).any (fun r => r.modelTag ≠ modelTag top) = false → kern ≤ modelStoreFree u →
        allocateAll u 1 slot ((xs.filter inHbm).map (fun x => unitsOf x.len)) = some (as, w) →
        xs.any (fun x => x.crc ≠ (crc32 (sectionBytes img x)).toNat) = false → modelStructureOk img xs len = true →
        ∃ (t : State) (m : ModelSlot), exec (.modelLoad c dma) s =
            .next (settle (complete (setModel t slot m) c (okR m.bytes m.shape.layers)))
          ∧ m.loaded = true ∧ m.tag = modelTag top
          ∧ m.shape = ⟨leAt img 6 2, leAt img 8 1, leAt img 0xA 2, leAt img 0xC 1⟩
          ∧ t.strata = w.strata ∧ t.mem = { u.mem with gm := t.mem.gm }))
  ∧ (∀ (s : State) (c : Nat) (cmd : Cmd), startsNow s c 0x17 none cmd = true →
      let u := markStarted s c
      let slot := cmd.f 8 1
      ((getModel u slot).loaded = false → exec (.modelUnload c) s = .next (settle (complete u c { status := .okNoop })))
      ∧ ((getModel u slot).loaded = true → 0 < batchesOf u slot →
        exec (.modelUnload c) s = .next (settle (complete u c (refuse .busyGuarded 5 1))))
      ∧ ((getModel u slot).loaded = true → batchesOf u slot = 0 → boundTo u slot ≠ [] →
        exec (.modelUnload c) s = .next (settle (complete u c (refuse .busyGuarded 5 2))))
      ∧ ((getModel u slot).loaded = true → batchesOf u slot = 0 → boundTo u slot = [] →
        exec (.modelUnload c) s = .next (settle (complete (setModel (freeKey u 1 slot) slot {}) c (okR)))))
  ∧ (∀ (s : State) (a : Nat), domOn s 14 = true → Config.hbmBase ≤ a → a < Config.hbmBase + Config.hbmBytes →
      exec (.hbmCe a) s = .next (settle (ltAdd (count s (50 + 5 * hbmStack a) { addr := some a }) 29)))
  ∧ (∀ (s : State) (a : Nat), domOn s 14 = true → Config.hbmBase ≤ a → a < Config.hbmBase + Config.hbmBytes →
      stratumAt s a = none → exec (.hbmUe a) s = .next (settle (count
        (logRec s 0x41 4 2 (leBytes 8 2 ++ leBytes 8 (a - a % 64) ++ leBytes 8 0)) (51 + 5 * hbmStack a) { addr := some a })))
  ∧ (∀ (s : State) (a h : Nat), domOn s 14 = true → Config.hbmBase ≤ a → a < Config.hbmBase + Config.hbmBytes →
      stratumAt s a = some h →
      let u := reportUe s a h
      let bad := if s.strata.badLines.contains (a - a % 64) then s.strata.badLines else s.strata.badLines ++ [a - a % 64]
      let w := { u with strata := { u.strata with badLines := bad } }
      (∀ m, s.strata.moves.find? (fun m => m.handle = h && m.stage = .data && (m.op = 0x11 || m.op = 0x14)) = some m →
        m.stopping = false → exec (.hbmUe a) s = .next (settle (failMove w m { status := .dataError })))
      ∧ (s.strata.moves.find? (fun m => m.handle = h && m.stage = .data && (m.op = 0x11 || m.op = 0x14)) = none →
        s.strata.batch = none → exec (.hbmUe a) s = .next (settle w)))
  ∧ (∀ s : State, domOn s 14 = true → exec .patrolScrub s = .next (settle (count s 78 {} (Config.hbmBytes / 64))))

/-- O41, tier 2 (09_strata_park_restore_ingest.md, R223 to R231). An INGEST that starts with its domains ON and no die
latch: the first check of R223 that fails completes with its status; with nothing to add it completes OK with one
token held back; with HBM left for its blocks and for the rows of its slot's window it is admitted into that window,
else it completes NO_SPACE. A window closes into a batch once its length has passed, and not before. The oldest queued batch starts once
none runs: under a die latch its sessions complete THERMAL_HOLD; with its model gone NOT_PERMITTED. The next phase of
a batch that waits for no launch and has no item to re-run launches on every bed of the internal pool, counting its
weights; failed items are launched again, alone. After the last phase the sessions commit in admission order, and the
batch's staging is freed; a session with a failed line completes DATA_ERROR with its stratum unchanged. -/
def Obligations.IngestBatches : Prop :=
  (∀ (s : State) (c : Nat) (cmd : Cmd) (r : Stratum), startsNow s c 0x12 none cmd = true → modelDoms s cmd = none →
      s.therm.latch.getLsbD 8 = false →
      let u := markStarted s c
      let new := if cmd.f 0x11 1 % 2 = 1 then cmd.f 0x14 4 else cmd.f 0x14 4 - 1
      findRec u cmd.handle = some r →
      (∀ x, ingestRefusal u cmd r = some x → exec (.stratumIngest c) s = .next (settle (complete u c x)))
      ∧ (ingestRefusal u cmd r = none → new = 0 →
        exec (.stratumIngest c) s = .next (settle (complete u c (okR (2 ^ 32) r.tokens))))
      ∧ (ingestRefusal u cmd r = none → new ≠ 0 → currentCopy u r.root ≠ none →
        let bs := newBlocks r.tokens new
        let old := if r.mode = 0 then [] else [unitsOf (layerBytes r.shape r.tokens)]
        let slot := cmd.f 0x10 1
        let units := bs.map (fun k => unitsOf (k * r.shape.tokenBytes)) ++ old
        let rows (w : State) := reserveRows w (getModel u slot) (joined w slot new) c new
        (allocateAll u 3 c units = none →
          exec (.stratumIngest c) s = .next (settle (complete u c { status := .noSpace })))
        ∧ (∀ as w, allocateAll u 3 c units = some (as, w) → rows w = none →
          exec (.stratumIngest c) s = .next (settle (complete u c { status := .noSpace })))
        ∧ (∀ as w a w', allocateAll u 3 c units = some (as, w) → rows w = some (a, w') →
          exec (.stratumIngest c) s = .next (settle (addSession (setPending w' cmd.handle 0x12) slot
            { cmd := c, tenant := cmd.tenant, handle := cmd.handle, ingested := new, heldBack := cmd.f 0x14 4 - new,
              buf := cmd.f 0x18 8, blocks := List.zip (as.take bs.length) bs, oldStage := as.getD bs.length 0 } a)))))
  ∧ (∀ (s : State) (slot : Fin 4) (w : Window), getWindow s slot.val = some w →
      (w.opened + w.lengthUs ≤ s.tick → exec (.windowClose slot) s = .next (settle (closeWindow s w 129)))
      ∧ (s.tick < w.opened + w.lengthUs → exec (.windowClose slot) s = .next (settle s)))
  ∧ (∀ (s : State) (bad : List (Nat × Nat)) (w : Window) (ws : List Window), s.strata.batch = none → s.strata.queue = w :: ws →
      let u := { s with strata := { s.strata with queue := ws } }
      (s.therm.latch.getLsbD 8 = true → exec (.batchStart bad) s = .next (settle (failSessions (freeRows u w) w.sessions .thermalHold)))
      ∧ (s.therm.latch.getLsbD 8 = false → firstNotOn s (4 :: (hbmDoms ++ loamDoms)) = none →
        ((getModel s w.slot).loaded = true → exec (.batchStart bad) s = .next (settle (startBatch bad u w)))
        ∧ ((getModel s w.slot).loaded = false →
          exec (.batchStart bad) s = .next (settle (failSessions (freeRows u w) w.sessions .notPermitted)))))
  ∧ (∀ (s : State) (bad : List (Nat × Nat)), (s.strata.batch ≠ none ∨ s.strata.queue = []) →
      exec (.batchStart bad) s = .next (settle s))
  ∧ (∀ (s : State) (b : Batch), s.strata.batch = some b → b.launch = none → b.redo = [] →
      ∀ layer phase, nextPhase (getModel s b.win.slot) b = some (layer, phase) → ∃ (u : State) (b' : Batch),
        exec .phaseLaunch s = .next (settle (internalLaunch u b' (getModel s b.win.slot).layerKernel
          (((getModel s b.win.slot).phases.getD phase (0, 0, 1)).2.2) none))
        ∧ b'.layer = layer ∧ b'.phase = phase ∧ b'.failures = []
        ∧ u.garr = { s.garr with rsvs := u.garr.rsvs, threads := u.garr.threads }
        ∧ u.mem = { s.mem with gm := u.mem.gm } ∧ b'.win.sessions = (excludeBad (oldTokens layer phase b.win.sessions s).1).1)
  ∧ (∀ (s : State) (b : Batch), s.strata.batch = some b → b.launch = none → b.redo ≠ [] → b.layer ≠ 0xFFFF →
      exec .itemRerun s = .next (settle (internalLaunch (count s 136 {} b.redo.length) b
        (getModel s b.win.slot).layerKernel (((getModel s b.win.slot).phases.getD b.phase (0, 0, 1)).2.2) (some b.redo)))
      ∧ exec .phaseLaunch s = .next (settle s) ∧ exec .batchCommit s = .next (settle s))
  ∧ (∀ (s : State) (b : Batch), s.strata.batch = some b → b.launch = none → b.redo = [] → b.layer ≠ 0xFFFF →
      nextPhase (getModel s b.win.slot) b = none →
      exec .batchCommit s = .next (settle (freeRows (b.win.sessions.foldl commitSession (setBatch s none)) b.win)))
  ∧ (∀ (s : State) (x : Session) (r : Stratum), findRec s x.handle = some r → (x.excluded = true ∨ x.ue = true) →
      commitSession s x = complete (freeSession s x) x.cmd { status := .dataError }
      ∧ (freeSession s x).strata.recs = s.strata.recs.map (fun y => if y.handle = x.handle then { y with pending := 0 } else y))

/-- O42, tier 2 (10_links_and_spoke_contract.md, R235, R236, R239 to R243 and R259, Tables 10.1, 10.6 and 10.7,
02_clocks_domains_reset.md, R24). U_LINK_UP while the steward runs on its root clock with PERST_N high, at a rate and
width the link can have, puts U in L0 at its whole width; in L0 at the same rate it is an L0p step to a width of 16, 8
or 4 lanes, no more than the negotiated width, and L0P reads whether it is below. Recovery of U counts, a corrected
error counts besides, a PLL relock does not; the return lets accesses go on. Output n of the reference clock is driven
while the spoke domain is ON or GATED. SPERST_N goes high, and training starts at the rate and width latched from
SP_CTRL, only once 100 us have passed since the reference clock and VCORE. A trained spoke of no more than those enters
L0 and enumeration waits for readiness; after Recovery or a relock an enumerated spoke is ready again; an L0p step
below the negotiated width needs L0P_EN. A spoke in L0 enters Recovery, counted, or relocks, not counted, its commands
held; a fatal error also fails the transfer on it DATA_ERROR. A spoke of an accelerator in IDLE or RUN whose link is
lost falls to Detect and is retrained every 100 ms. 20 ms of training with no L0 completes LINK_NOT_READY, An in IDLE
where it came from RETAIN (model's choice, log entry 38). An inbound request is counted to 255 and logged. D3hot
changes nothing else. The SR-IOV capability shows 63 VFs with offset and stride 1. -/
def Obligations.LinksTrain : Prop :=
  (∀ (s : State) (rate width : Nat), s.crd.phase = .running → s.crd.fallback = false → s.crd.perstN = true →
      linkForm rate width = true → ∀ v b, exec (.uLinkUp rate width v b) s = .next (settle (hostConfigures (linkResume
        { s with links := { s.links with u := uUp s.links.u rate width } } 8) v b)))
  ∧ (∀ (u : ULink) (rate width : Nat),
      (u.l0 = true → u.recovering = false → rate = u.rate → (width = 4 ∨ width = 8 ∨ width = 16) → width ≤ u.width →
        uUp u rate width = { u with l0p := decide (width < u.width) })
      ∧ ((u.l0 = false ∨ u.recovering = true ∨ rate ≠ u.rate ∨ u.width < width) →
        uUp u rate width = { u with l0 := true, rate := rate, width := width, recovering := false, l0p := false }))
  ∧ (∀ (s : State) (v b : Nat), (s.qc.vfs ≠ 0 ∨ 63 < v) → (b < 20 ∨ 36 < b) → hostConfigures s v b = s)
  ∧ (∀ (s : State) (v b : Nat), s.qc.vfs = 0 → v ≤ 63 → 20 ≤ b → b ≤ 36 → hostConfigures s v b =
      { s with qc := { s.qc with vfs := v }, regs := { s.regs with bar2Size := 2 ^ b } })
  ∧ (∀ (s : State) (rate width v b : Nat), (s.crd.phase ≠ .running ∨ s.crd.fallback = true ∨ s.crd.perstN = false
      ∨ linkForm rate width = false) → exec (.uLinkUp rate width v b) s = .next (settle s))
  ∧ (∀ s : State, sriovDword s 0x0C = 63 + 2 ^ 16 * 63 ∧ sriovDword s 0x10 = s.qc.vfs ∧ sriovDword s 0x14 = 1 + 2 ^ 16)
  ∧ (∀ s : State, exec .d3hot s = .next (settle { s with links := { s.links with u := { s.links.u with d3hot := true } } }))
  ∧ (∀ s : State, s.links.u.l0 = true → s.links.u.recovering = false →
      let u (n : Nat) : State := { s with links := { s.links with u := { s.links.u with
        recovering := true, downSince := s.tick, recoveries := min (s.links.u.recoveries + n) 255 } } }
      exec (.uRecovery (some .recovery)) s = .next (settle (count (u 1) 183 {}))
      ∧ exec (.uRecovery (some .corrected)) s = .next (settle (ltAdd (count (count (u 1) 183 {}) 184 {}) 31))
      ∧ exec (.uRecovery (some .relock)) s = .next (settle (u 0)))
  ∧ (∀ (s : State) (e : Option LinkCause), (s.links.u.l0 = false ∨ s.links.u.recovering = true) → e ≠ none →
      exec (.uRecovery e) s = .next (settle s))
  ∧ (∀ s : State, s.links.u.recovering = true → exec (.uRecovery none) s = .next (settle (linkResume
      { s with links := { s.links with u := { s.links.u with recovering := false } } } 8)))
  ∧ (∀ (s : State) (n : Nat), refClock s n = true ↔
      s.crd.fallback = false ∧ ((getDom s (6 + n)).cur = .on ∨ (getDom s (6 + n)).cur = .gated))
  ∧ (∀ (s : State) (n : Fin 8), (getAcc s n.val).phase = .link → (getSpoke s n.val).sperstHigh = false →
      domOn s (6 + n.val) = true → refClock s n.val = true →
      ((getSpoke s n.val).clkSince + 100 ≤ s.tick → (getRail (getAcc s n.val) 4).onSince + 100 ≤ s.tick →
        exec (.sperstNDeassert n) s = .next (settle (setSpoke s n.val { getSpoke s n.val with
          sperstHigh := true, link := .training, since := s.tick, maxRate := cfgF s (0x508104 + 0x40 * n.val) 3 0,
          maxWidth := cfgF s (0x508104 + 0x40 * n.val) 12 8 })))
      ∧ ((s.tick < (getSpoke s n.val).clkSince + 100 ∨ s.tick < (getRail (getAcc s n.val) 4).onSince + 100) →
        exec (.sperstNDeassert n) s = .next (settle s)))
  ∧ (∀ (s : State) (n : Fin 8), refClock s n.val = false → exec (.sperstNDeassert n) s = .next (settle s))
  ∧ (∀ (s : State) (n : Fin 8) (rate width : Nat), linkForm rate width = true → rate ≤ (getSpoke s n.val).maxRate →
      width ≤ (getSpoke s n.val).maxWidth → domOn s (6 + n.val) = true →
      let y : Spoke := { getSpoke s n.val with link := .l0, rate := rate, width := width, lanes := width, locked := true }
      ((getSpoke s n.val).link = .training → exec (.spokeLinkUp n rate width) s = .next (settle (setSpoke s n.val
        { y with since := s.tick, enum := .readiness, trained := true })))
      ∧ (((getSpoke s n.val).link = .recovery ∨ ((getSpoke s n.val).link = .l0 ∧ (getSpoke s n.val).locked = false)) →
        (getSpoke s n.val).enum = .done → exec (.spokeLinkUp n rate width) s =
        .next (settle (linkResume (spokeBecameReady (setSpoke s n.val y) n.val) n.val)))
      ∧ ((getSpoke s n.val).link = .l0 → (getSpoke s n.val).locked = true → rate = (getSpoke s n.val).rate →
        (width = 4 ∨ width = 8 ∨ width = 16) → width ≤ (getSpoke s n.val).width →
        ((width = (getSpoke s n.val).width ∨ cfgF s (0x508104 + 0x40 * n.val) 4 4 = 1) →
          exec (.spokeLinkUp n rate width) s = .next (settle (setSpoke s n.val { getSpoke s n.val with lanes := width })))
        ∧ (width < (getSpoke s n.val).width → cfgF s (0x508104 + 0x40 * n.val) 4 4 = 0 →
          exec (.spokeLinkUp n rate width) s = .next (settle s))))
  ∧ (∀ (s : State) (n : Fin 8), (getSpoke s n.val).link = .l0 →
      let x := getSpoke s n.val
      let down (l : LinkSt) (y : Spoke) : Spoke :=
        { y with link := l, ready := false, downSince := if x.ready then s.tick else x.downSince }
      let r := holdSpoke (setSpoke (count s (194 + 4 * n.val) {}) n.val
        (down .recovery { x with recoveries := min (x.recoveries + 1) 255, recoverySince := s.tick })) n.val
      exec (.spokeRecovery ⟨n, .recovery⟩) s = .next (settle (enterRecovery s n.val))
      ∧ (enterRecovery s n.val).qc = r.qc ∧ (enterRecovery s n.val).pm = r.pm
      ∧ getSpoke (enterRecovery s n.val) n.val = getSpoke r n.val
      ∧ exec (.spokeRecovery ⟨n, .corrected⟩) s =
        .next (settle (enterRecovery (ltAdd (count s (195 + 4 * n.val) {}) 31) n.val))
      ∧ (∃ t : State, exec (.spokeRecovery ⟨n, .relock⟩) s = .next (settle t) ∧ t.pm = s.pm
        ∧ getSpoke t n.val = down .l0 { x with locked := false } ∧ t.qc = (holdSpoke s n.val).qc)
      ∧ (∀ m, spokeMove s n.val = some m → m.stage = .data → exec (.spokeFatalError n) s = .next (settle
        (enterRecovery (failMove (setSpoke s n.val { x with aer := x.aer + 1 }) m { status := .dataError }) n.val)))
      ∧ (spokeMove s n.val = none → exec (.spokeFatalError n) s =
        .next (settle (enterRecovery (setSpoke s n.val { x with aer := x.aer + 1 }) n.val)))
      ∧ exec (.inboundRequest n) s = .next (settle (setSpoke s n.val
          { x with inboundUr := min (x.inboundUr + 1) 255, aer := x.aer + 1 })))
  ∧ (∀ (s : State) (n : Fin 8) (why : LinkCause), (getSpoke s n.val).link ≠ .l0 →
      exec (.spokeRecovery ⟨n, why⟩) s = .next (settle s)
      ∧ exec (.spokeFatalError n) s = .next (settle s) ∧ exec (.inboundRequest n) s = .next (settle s))
  ∧ (∀ (s : State) (n : Fin 8), ((getSpoke s n.val).link = .l0 ∨ (getSpoke s n.val).link = .recovery) →
      accLive (getAcc s n.val) = true → exec (.spokeLinkDown n) s = .next (settle (spokeNotReady (setSpoke s n.val
        { getSpoke s n.val with linkDown := true, enum := .none, rate := 0, width := 0, retryAt := some (s.tick + 100000) })
        n.val .detect)))
  ∧ (∀ (s : State) (n : Fin 8) (t : Nat), (getSpoke s n.val).retryAt = some t → (getSpoke s n.val).linkDown = true →
      (getSpoke s n.val).link ≠ .l0 → accLive (getAcc s n.val) = true →
      (t ≤ s.tick → exec (.spokeTrainingRetry n) s = .next (settle (setSpoke s n.val (latchTraining s n.val
        { getSpoke s n.val with link := .training, since := s.tick, retryAt := some (s.tick + 100000) }))))
      ∧ (s.tick < t → exec (.spokeTrainingRetry n) s = .next (settle s)))
  ∧ (∀ (s : State) (n : Fin 8), (getAcc s n.val).phase = .link → (getSpoke s n.val).link = .training →
      (s.tick < (getSpoke s n.val).since + 20000 → exec (.spokeTrainingTimeout n) s = .next (settle s))
      ∧ ((getSpoke s n.val).since + 20000 ≤ s.tick → (getAcc s n.val).before = .retain →
        exec (.spokeTrainingTimeout n) s = .next (settle (endTransition (setAcc s n.val
          { getAcc s n.val with st := .idle, share := plimApplied (getAcc s n.val) }) n.val { status := .linkNotReady }))))

/-- O43, tier 2 (10_links_and_spoke_contract.md, R238, R242, R244 to R246 and R248 to R252, Tables 10.2 and 10.4 to
10.6, 11_accelerator_power.md, Table 11.2). In L0 with enumeration waiting: DEVICE_READINESS_STATUS lets enumeration
that finds the contract go on; without it, or without the contract, enumeration waits for 100 ms after L0. BARs that do
not fit (over 4 GiB of 32-bit ones, over 64 GiB of all) set ENUM_ERR, leave memory decode off and complete with no
contract; one that finds the contract (its capability of the steward's vendor, ID 0x0A80 and revision 0, and KC_ID)
turns memory decode on, records its windows and polls KC_STAT; another completes with no contract. KC_STAT.READY
within 1 ms gives the contract, and 1 ms without it sets CONTRACT_TIMEOUT, records, and completes without it. Until
MBX_TIMEOUT a mailbox answer with the descriptor's SEQ and STATUS 0 starts the transfer of a BEGIN, and completes an
END; any other STATUS, or MBX_TIMEOUT without an answer, fails a BEGIN with its value, and sets MBX_ERR on an END,
which completes OK. RETAIN_READY lets the rails go down, REFUSED keeps its REASON and fails the handshake with 0x11,
and RETAIN_GRACE without an answer with 0x12. A command held for 10 ms completes LINK_NOT_READY. A retrain with the
spoke in L0 enters Recovery. -/
def Obligations.EnumerationAndContract : Prop :=
  (∀ (s : State) (n : Fin 8), (getSpoke s n.val).link = .l0 → (getSpoke s n.val).enum = .readiness →
      exec (.deviceReadinessStatus n) s = .next (settle (setSpoke s n.val { getSpoke s n.val with enum := .enumerate }))
      ∧ (∀ e, s.tick < (getSpoke s n.val).since + 100000 → exec (.spokeEnumeration n e) s = .next (settle s)))
  ∧ (∀ (s : State) (n : Fin 8) (e : EnumIn), (barsFit e.bars = false ∨ findsContract e = false) →
      s.tick < (getSpoke s n.val).since + 100000 → exec (.spokeEnumeration n e) s = .next (settle s))
  ∧ (∀ (s : State) (n : Fin 8) (e : EnumIn), (getSpoke s n.val).link = .l0 → (getSpoke s n.val).locked = true →
      let x := getSpoke s n.val
      let y := { contractWindows e x with enumErr := false, memSpace := true, since := s.tick }
      ((x.enum = .enumerate ∨ (x.enum = .readiness ∧ x.since + 100000 ≤ s.tick)) → barsFit e.bars = true →
        barsPlaced e.bars = true → findsContract e = true →
        exec (.spokeEnumeration n e) s = .next (settle (setSpoke s n.val { y with enum := .poll })))
      ∧ ((x.enum = .enumerate ∨ x.enum = .readiness) → x.since + 100000 ≤ s.tick → barsFit e.bars = false →
        exec (.spokeEnumeration n e) s =
          .next (settle (enumDone (setSpoke s n.val { x with enumErr := true, memSpace := false }) n.val false false)))
      ∧ ((x.enum = .enumerate ∨ x.enum = .readiness) → x.since + 100000 ≤ s.tick → barsFit e.bars = true →
        barsPlaced e.bars = true → findsContract e = false →
        exec (.spokeEnumeration n e) s = .next (settle (enumDone (setSpoke s n.val y) n.val false false))))
  ∧ (∀ bs : List BarIn, barsFit bs = true ↔ ((bs.filter (fun b => !b.wide)).map BarIn.size).sum ≤ 2 ^ 32
      ∧ (bs.map BarIn.size).sum ≤ 2 ^ 36)
  ∧ (∀ e : EnumIn, findsContract e = true ↔ ∃ c, e.caps.find? (fun c => c.vendor = Config.vendorId && c.id = 0x0A80
      && c.revision = 0) = some c ∧ (barAt e (c.loc % 8)).isSome = true ∧ e.kcId / 2 ^ 8 = 0x4B4301)
  ∧ (∀ (s : State) (n : Fin 8), (getSpoke s n.val).link = .l0 → (getSpoke s n.val).locked = true →
      (getSpoke s n.val).enum = .poll →
      (∀ kept, s.tick ≤ (getSpoke s n.val).since + 1000 →
        exec (.contractPoll n true kept) s = .next (settle (enumDone s n.val true kept))
        ∧ exec (.contractPoll n false kept) s = .next (settle s))
      ∧ ((getSpoke s n.val).since + 1000 ≤ s.tick → exec (.contractTimeout n) s = .next (settle (enumDone
          (accEvent (setSpoke s n.val { getSpoke s n.val with contractTimeout := true }) n.val 4) n.val false false)))
      ∧ (s.tick < (getSpoke s n.val).since + 1000 → exec (.contractTimeout n) s = .next (settle s)))
  ∧ (∀ (s : State) (n : Fin 8) (m : Move) (q st : Nat), spokeMove s n.val = some m → mbxWaits m = true →
      spokeReady s n.val = true →
      let lim := m.since + cfgF s (0x50810C + 0x40 * n.val) 15 0
      (q ≠ m.mbxSeq ∨ lim < s.tick → exec (.mbxAckPoll n q st) s = .next (settle s))
      ∧ (s.tick ≤ lim → m.stage = .begin → exec (.mbxAckPoll n m.mbxSeq 0) s =
          .next (settle (modMove s m.cmd (fun x => { x with stage := .data })))
        ∧ exec (.mbxAckPoll n m.mbxSeq 2) s = .next (settle (failMove s m (refuse .accNotReady 5 0x12)))
        ∧ exec (.mbxAckPoll n m.mbxSeq 1) s = .next (settle (failMove s m (refuse .accNotReady 5 0x11))))
      ∧ (s.tick ≤ lim → m.stage = .ending → exec (.mbxAckPoll n m.mbxSeq 0) s = .next (settle (finishMove s m))
        ∧ (st ≠ 0 → exec (.mbxAckPoll n m.mbxSeq st) s = .next (settle (finishMove
            (accEvent (modSpoke s m.spoke (fun x => { x with mbxErr := true })) m.spoke 2) m)))))
  ∧ (∀ (s : State) (n : Fin 8) (m : Move), spokeMove s n.val = some m → mbxWaits m = true →
      let lim := m.since + cfgF s (0x50810C + 0x40 * n.val) 15 0
      (s.tick < lim → exec (.mbxTimeout n) s = .next (settle s))
      ∧ (lim ≤ s.tick → m.stage = .begin →
        exec (.mbxTimeout n) s = .next (settle (failMove s m (refuse .accNotReady 5 0x20))))
      ∧ (lim ≤ s.tick → m.stage = .ending → exec (.mbxTimeout n) s = .next (settle (finishMove
          (accEvent (modSpoke s m.spoke (fun x => { x with mbxErr := true })) m.spoke 2) m))))
  ∧ (∀ (s : State) (n : Fin 8) (why : Byte), (getAcc s n.val).phase = .handshake → getStop s n.val = none →
      let lim := (getAcc s n.val).since + graceUs s n.val
      (spokeReady s n.val = true → s.tick ≤ lim →
        (∀ b, exec (.retainPoll n true b) s = .next (settle (startDown s n.val)))
        ∧ exec (.retainPoll n false (some why)) s =
          .next (settle (handshakeFails (setSpoke s n.val { getSpoke s n.val with reason := why }) n.val 0x11))
        ∧ exec (.retainPoll n false none) s = .next (settle s))
      ∧ (lim ≤ s.tick → exec (.retainGraceExpiry n) s = .next (settle (handshakeFails s n.val 0x12)))
      ∧ (s.tick < lim → exec (.retainGraceExpiry n) s = .next (settle s)))
  ∧ (∀ (s : State) (c t : Nat) (cmd : Cmd), findCmd s c = some cmd → cmd.holdSince = some t →
      let u := modCmd s c (fun x => { x with held := true, holdSince := none })
      (s.tick < t + 10000 → exec (.spokeHoldExpiry c) s = .next (settle s))
      ∧ (t + 10000 ≤ s.tick → cmd.op ≠ 0x20 → findMove s c = none →
        exec (.spokeHoldExpiry c) s = .next (settle (complete (sealDrop u c) c { status := .linkNotReady })))
      ∧ (∀ m, t + 10000 ≤ s.tick → cmd.op ≠ 0x20 → findMove s c = some m → m.stage ≠ .ending →
        exec (.spokeHoldExpiry c) s = .next (settle (failMove u m { status := .linkNotReady }))))
  ∧ (∀ (s : State) (n : Fin 8) (v : Word), hostMay s 0 = true → 1 ≤ bf v 3 0 → bf v 3 0 ≤ 6 →
      (bf v 12 8 = 1 ∨ bf v 12 8 = 4 ∨ bf v 12 8 = 8 ∨ bf v 12 8 = 16) → v.getLsbD 16 = true →
      let u := putCfg s (0x508104 + 0x40 * n.val) v.toNat
      let w := if v.getLsbD 4 then u else modSpoke u n.val (fun x => { x with lanes := x.width })
      (((getAcc s n.val).st = .idle ∨ (getAcc s n.val).st = .run) → (getSpoke s n.val).link = .l0 →
        exec (.retrain n v) s = .next (settle (enterRecovery (modSpoke w n.val (latchTraining w n.val)) n.val)))
      ∧ ((getAcc s n.val).st ≠ .idle → (getAcc s n.val).st ≠ .run →
        exec (.retrain n v) s = .next (settle (setBusy s 7))))

/-- O44, tier 2 (05_boot_and_trust.md, R126 and R127, 10_links_and_spoke_contract.md, R242 and R253). With the spoke's domain ON and
the window's conditions met, ACC_FW_PUSH on a ready spoke and a free seal context (else it waits for one) copies LEN bytes of the
buffer to the boot window, appends them to what the digest has taken, and completes OK with LEN; a failed read completes DATA_ERROR
0x80; a spoke that is not ready holds the command. A command whose conditions fail completes ACC_NOT_READY with its value.
ACC_RELEASE on a ready spoke writes RELEASE = 1 and polls: RELEASED closes the window, fixes the digest of the bytes pushed as the
measurement and completes OK within 100 ms; 100 ms without it complete ACC_NOT_READY 0x15, and before that nothing happens. -/
def Obligations.AcceleratorFirmware : Prop :=
  (∀ (s : State) (c : Nat) (cmd : Cmd), startsNow s c 0x23 none cmd = true → domOn s (6 + cmd.accN) = true →
      let u := markStarted s c
      let len := cmd.f 0x18 8
      let bs := hostRead u (cmd.f 0x10 8) len
      let w := setAccBoot (accWrite u cmd.accN ((getSpoke u cmd.accN).bootBase + cmd.f 0x20 8) bs) cmd.accN
        { getAccBoot u cmd.accN with pushed := (getAccBoot u cmd.accN).pushed ++ bs }
      (∀ dma r, bootRefusal u cmd = some r → exec (.accFwPush c dma) s = .next (settle (complete u c r)))
      ∧ (bootRefusal u cmd = none → spokeReady u cmd.accN = true → sealHolds u (sealWho c) = false → sealFree u = true →
        exec (.accFwPush c none) s = .next (settle (complete (count (count w 167 { tenant := cmd.tenant } (ceilDiv len 64))
          160 { tenant := cmd.tenant } (ceilDiv len 4096)) c (okR len)))
        ∧ ∀ a, exec (.accFwPush c (some a)) s = .next (settle (complete u c (dmaReadErr a))))
      ∧ (∀ dma, bootRefusal u cmd = none → spokeReady u cmd.accN = true → sealHolds u (sealWho c) = false →
        u.sealEng.waiting.any (fun r => r.who = sealWho c) = false → sealFree u = false →
        exec (.accFwPush c dma) s = .next (settle
          (sealAcquire u (sealWho c) (ceilDiv len 0x100000) (getAccBoot u cmd.accN).pushed.isEmpty)))
      ∧ (∀ dma, bootRefusal u cmd = none → spokeReady u cmd.accN = false →
        exec (.accFwPush c dma) s = .next (settle (holdCmd u c))))
  ∧ (∀ (s : State) (c : Nat) (cmd : Cmd), startsNow s c 0x24 none cmd = true → domOn s (6 + cmd.accN) = true →
      let u := markStarted s c
      (∀ r, bootRefusal u cmd = some r → exec (.accRelease c) s = .next (settle (complete u c r)))
      ∧ (bootRefusal u cmd = none → spokeReady u cmd.accN = true → exec (.accRelease c) s = .next (settle
        (setAccBoot (accWrite u cmd.accN ((getSpoke u cmd.accN).kcBase + 0x300) (leBytes 4 1)) cmd.accN
          { getAccBoot u cmd.accN with relCmd := some c, relSince := s.tick })))
      ∧ (bootRefusal u cmd = none → spokeReady u cmd.accN = false →
        exec (.accRelease c) s = .next (settle (holdCmd u c))))
  ∧ (∀ (s : State) (n : Fin 8) (c : Nat), (getAccBoot s n.val).relCmd = some c → spokeReady s n.val = true →
      findCmd s c ≠ none →
      (s.tick ≤ (getAccBoot s n.val).relSince + 100000 → exec (.releasePoll n true) s = .next (settle (complete (setAccBoot s n.val { getAccBoot s n.val with
        windowOpen := false, released := true, relCmd := none,
        measurement := (sha384 (getAccBoot s n.val).pushed).toNat }) c (okR))))
      ∧ ((getAccBoot s n.val).relSince + 100000 ≤ s.tick → exec (.releasePoll n false) s = .next (settle (complete
          (setAccBoot s n.val { getAccBoot s n.val with relCmd := none }) c (refuse .accNotReady 5 0x15))))
      ∧ ((getAccBoot s n.val).relSince + 100000 < s.tick → exec (.releasePoll n true) s = .next (settle (complete
          (setAccBoot s n.val { getAccBoot s n.val with relCmd := none }) c (refuse .accNotReady 5 0x15))))
      ∧ (s.tick < (getAccBoot s n.val).relSince + 100000 → exec (.releasePoll n false) s = .next (settle s)))

/-- O45, tier 2 (11_accelerator_power.md, R264 to R272 and R281, Tables 11.2 to 11.5). An ACC_POWER_STATE of a host tenant that
starts, with An in no transition and the spoke domain ON where it needs it: the first refusal of Table 11.3 completes; at the target
it completes OK at once; else the transition of Table 11.2 begins. During one it waits. T64's sets the ceiling, and completes at
once where An is not above it; above it, the move that the spoke domain does not allow completes NOT_PERMITTED with the ceiling
recorded. In an up-sequence the next rail is enabled at the later of UP_SPACE and the power-good of those before, once its stored
setpoint is written, in a down-sequence the next goes off after DOWN_SPACE; a rail's power-good arms it, and the last one of a
sequence to AUX completes OK, of a higher one goes on to the link. A rail not good within PG_TIMEOUT takes the rails of the
transition down in reverse order, and the last completes ACC_NOT_READY 0x31. The power-good of an armed rail falling cuts An: all
five enables low, state OFF, CUT latched with the lowest rail, and a record once Daxrin has read STATUS_WORD, or at once with 0xFFFF
where it cannot; a rail not armed cuts nothing. -/
def Obligations.AcceleratorTransitions : Prop :=
  (∀ (s : State) (c : Nat) (cmd : Cmd), startsNow s c 0x20 none cmd = true → cmd.tenant ≠ 64 →
      (getAcc s cmd.accN).phase = .none → getStop s cmd.accN = none → powerDoms s cmd = none →
      let want := AccSt.ofCode (cmd.f 9 1)
      let dest := if (getAcc s cmd.accN).stateCeil.code < want.code then (getAcc s cmd.accN).stateCeil else want
      let m := markStarted s c
      let u := if dest = want then m else modCmd m c (fun x => { x with clamped := true })
      (∀ r, powerRefusal u cmd.accN dest = some r → exec (.accPowerState c) s = .next (settle (complete u c r)))
      ∧ (powerRefusal u cmd.accN dest = none → (getAcc s cmd.accN).st = dest → ∃ a : Acc, exec (.accPowerState c) s =
        .next (settle (complete (setAcc u cmd.accN a) c (okR (dest.code + 256 * dest.code)))) ∧ a.st = dest
        ∧ (a.cut = true ↔ (getAcc s cmd.accN).cut = true ∧ dest ≠ .off))
      ∧ (powerRefusal u cmd.accN dest = none → (getAcc s cmd.accN).st ≠ dest →
        exec (.accPowerState c) s = .next (settle (startTransition u cmd.accN dest (some c)))))
  ∧ (∀ (s : State) (c : Nat) (cmd : Cmd), findCmd s c = some cmd → (getAcc s cmd.accN).phase ≠ .none →
      exec (.accPowerState c) s = .next (settle s))
  ∧ (∀ (s : State) (c : Nat) (cmd : Cmd), startsNow s c 0x20 none cmd = true → cmd.tenant = 64 →
      (getAcc s cmd.accN).phase = .none → getStop s cmd.accN = none →
      (getAcc s cmd.accN).st.code ≤ (AccSt.ofCode (cmd.f 9 1)).code →
      ∃ t : State, exec (.accPowerState c) s = .next (settle (complete t c
          (okR ((getAcc s cmd.accN).st.code + 256 * (getAcc s cmd.accN).st.code))))
        ∧ getAcc t cmd.accN = { getAcc s cmd.accN with
            stateCeil := AccSt.ofCode (cmd.f 9 1), cut := (getAcc s cmd.accN).cut && decide (AccSt.ofCode (cmd.f 9 1) ≠ .off) }
        ∧ (∀ k, k ≠ cmd.accN → getAcc t k = getAcc s k) ∧ t.links = s.links ∧ t.strata = s.strata)
  ∧ (∀ (s : State) (c : Nat) (cmd : Cmd), startsNow s c 0x20 none cmd = true → cmd.tenant = 64 →
      (getAcc s cmd.accN).phase = .none → getStop s cmd.accN = none →
      (AccSt.ofCode (cmd.f 9 1)).code < (getAcc s cmd.accN).st.code →
      let want := AccSt.ofCode (cmd.f 9 1)
      let u := modAcc (markStarted s c) cmd.accN (fun a => { a with stateCeil := want })
      let dest := if want = .retain ∧ (getSpoke s cmd.accN).contract = false then .aux else want
      (∀ d, moveLacks u cmd.accN dest = some d →
        exec (.accPowerState c) s = .next (settle (complete u c (refuse .notPermitted 4 d))))
      ∧ (moveLacks u cmd.accN dest = none → exec (.accPowerState c) s = .next (settle (powerMove u cmd dest))))
  ∧ (∀ (s : State) (n : Fin 8) (r : Nat) (rest : List Nat), (getAcc s n.val).phase = .up (r :: rest) →
      let a := getAcc s n.val
      ((∀ q ∈ a.upped, (getRail a q).pg = true) → (a.upped = [] ∨ a.since + upSpace a ≤ s.tick) →
        storedDue s n.val r = false → exec (.railEnableStep n) s =
        .next (settle (modAcc (enableRail s n.val r) n.val (fun a => { a with phase := .up rest }))))
      ∧ (((∃ q ∈ a.upped, (getRail a q).pg = false) ∨ (a.upped ≠ [] ∧ s.tick < a.since + upSpace a)
        ∨ storedDue s n.val r = true) → exec (.railEnableStep n) s = .next (settle s)))
  ∧ (∀ (s : State) (n : Fin 8) (todo : List Nat),
      let a := getAcc s n.val
      (a.phase = .down todo → a.since + downSpace a ≤ s.tick →
        exec (.railDisableStep n) s = .next (settle (downStep s n.val todo)))
      ∧ (a.phase = .failed todo → a.since + downSpace a ≤ s.tick →
        exec (.railDisableStep n) s = .next (settle (failStep s n.val todo)))
      ∧ (s.tick < a.since + downSpace a → exec (.railDisableStep n) s = .next (settle s)))
  ∧ (∀ (s : State) (n : Fin 8) (r : Fin 5), (getRail (getAcc s n.val) r.val).en = true →
      (getRail (getAcc s n.val) r.val).pg = false →
      let u := modRail s n.val r.val (fun x => { x with pg := true, armed := true, onSince := s.tick })
      ((getAcc s n.val).phase = .none → exec (.powerGoodRise n r) s = .next (settle u))
      ∧ ((getAcc s n.val).phase = .up [] → (∀ q ∈ (getAcc s n.val).upped, (getRail (getAcc u n.val) q).pg = true) →
        ((getAcc s n.val).target = .aux → exec (.powerGoodRise n r) s =
          .next (settle (transitionOk (modAcc u n.val (fun a => { a with st := .aux })) n.val)))
        ∧ ((getAcc s n.val).target ≠ .aux → exec (.powerGoodRise n r) s =
          .next (settle (modAcc u n.val (fun a => { a with phase := .link }))))))
  ∧ (∀ (s : State) (n : Fin 8) (todo : List Nat) (q : Nat), (getAcc s n.val).phase = .up todo →
      q ∈ (getAcc s n.val).upped → (getRail (getAcc s n.val) q).pg = false →
      (getRail (getAcc s n.val) q).onSince + pgLimit (getAcc s n.val) ≤ s.tick →
      exec (.pgTimeout n) s = .next (settle (failStep s n.val (getAcc s n.val).upped.reverse)))
  ∧ (∀ (s : State) (n : Fin 8) (fell : List (Fin 5)), (∀ r ∈ fell, (getRail (getAcc s n.val) r.val).armed = false) →
      exec (.railCut n fell) s = .next (settle s))
  ∧ (∀ (s : State) (n : Fin 8) (r : Fin 5), (getRail (getAcc s n.val) r.val).armed = true → ∃ t : State,
      exec (.railCut n [r]) s = .next (settle t) ∧ (getAcc t n.val).st = .off ∧ (getAcc t n.val).cut = true
      ∧ (getAcc t n.val).cutRail = r.val ∧ (getAcc t n.val).phase = .none
      ∧ (∀ q, q < 5 → (getRail (getAcc t n.val) q).en = false ∧ (getRail (getAcc t n.val) q).armed = false)
      ∧ (∀ k, k ≠ n.val → getAcc t k = getAcc s k) ∧ (getSpoke t n.val).link = .off ∧ (getSpoke t n.val).ready = false
      ∧ (hasReg s n.val r.val = true → s.crd.fwUp = true → portUp s (1 + n.val) = true →
        t.tw.cuts = s.tw.cuts ++ [⟨n.val, r.val, (getAcc s n.val).st.code, false⟩])
      ∧ ((hasReg s n.val r.val = false ∨ s.crd.fwUp = false ∨ portUp s (1 + n.val) = false) → ∃ u : State,
        t = cutRecord u n.val r.val (getAcc s n.val).st.code 0xFFFF))

/-- O46, tier 2 (11_accelerator_power.md, R273 to R278, R281 and R291, Tables 11.3 and 11.5). ACC_RAIL_SET that starts: no
regulator or no range completes BAD_PARAM 0x38; MV outside the range BAD_PARAM; a cut ACC_NOT_READY 0x30; a mode that
is not linear 0x35; a raise under a latch THERMAL_HOLD; otherwise the host's value is kept, the command gives up its
accelerator, is CLAMPED above the ceiling, and the rail is retargeted. A slew steps on the 50 us grid: an acknowledged
step moves the setpoint by the step or to the target, where the command completes OK with the mV; a step not
acknowledged is tried four times, then the command completes 0x35 with the mV reached, and so does one of a rail whose
regulator is gone (log entry 39); a busy port or no step due leaves all as it is. The stored setpoint of a rail that is
not enabled is written, and tried four times, before its enable. ACC_LIMIT_SET keeps the non-zero limits, T64's the
ceilings, of an accelerator or of the tray and all, and completes with those applied. A changed effective limit is
written; a write is tried four times, then PMBUS_ERR is set, recorded, and retried after 100 ms. The limit write of an
IDLE or RUN transition ends it in its target, or with 0x35 after four tries or without a regulator. -/
def Obligations.RailsAndLimits : Prop :=
  (∀ (s : State) (c : Nat) (cmd : Cmd), startsNow s c 0x21 none cmd = true → cmd.tenant ≠ 64 →
      let u := markStarted s c
      let n := cmd.accN
      let r := cmd.f 9 1
      let mv := cmd.f 0xC 4
      let range := cfgGet s (railBase n r + 4)
      let x := getRail (getAcc s n) r
      ((hasReg s n r = false ∨ bf range 31 16 = 0) →
        exec (.accRailSet c) s = .next (settle (complete u c (refuse .badParam 5 0x38))))
      ∧ (hasReg s n r = true → bf range 31 16 ≠ 0 →
        ((mv < bf range 15 0 ∨ bf range 31 16 < mv) →
          exec (.accRailSet c) s = .next (settle (complete u c (badField 0xC))))
        ∧ (bf range 15 0 ≤ mv → mv ≤ bf range 31 16 →
          ((getAcc s n).cut = true → exec (.accRailSet c) s = .next (settle (complete u c (refuse .accNotReady 5 0x30))))
          ∧ ((getAcc s n).cut = false → modeUnsupported s n r = true →
            exec (.accRailSet c) s = .next (settle (complete u c (refuse .accNotReady 5 0x35))))
          ∧ ((getAcc s n).cut = false → modeUnsupported s n r = false → s.therm.latch.getLsbD n = true →
            railTarget x < railTarget { x with hostMv := mv } →
            exec (.accRailSet c) s = .next (settle (complete u c { status := .thermalHold })))
          ∧ ((getAcc s n).cut = false → modeUnsupported s n r = false → s.therm.latch.getLsbD n = false →
            let v := modRail u n r (fun _ => { x with hostMv := mv })
            let w := if x.ceilMv < mv then modCmd v c (fun y => { y with clamped := true }) else v
            exec (.accRailSet c) s = .next (settle (retarget (releaseRes w c) n r (cmd.f 0x10 4) (some c)))))))
  ∧ (∀ (s : State) (c : Nat) (cmd : Cmd), startsNow s c 0x21 none cmd = true → cmd.tenant = 64 →
      let n := cmd.accN
      let r := cmd.f 9 1
      let mv := cmd.f 0xC 4
      let range := cfgGet s (railBase n r + 4)
      let x := getRail (getAcc s n) r
      let y : Rail := { x with ceilMv := mv }
      let w := releaseRes (modRail (markStarted s c) n r (fun _ => y)) c
      hasReg s n r = true → bf range 31 16 ≠ 0 → bf range 15 0 ≤ mv → mv ≤ bf range 31 16 → (getAcc s n).cut = false →
      modeUnsupported s n r = false → s.therm.latch.getLsbD n = false →
      (railTarget y = x.target →
        exec (.accRailSet c) s = .next (settle (complete w c (okR (if x.en then x.applied else x.target)))))
      ∧ (railTarget y ≠ x.target →
        exec (.accRailSet c) s = .next (settle (retarget w n r (cmd.f 0x10 4) (some c)))))
  ∧ (∀ (s : State) (n : Fin 8) (r : Fin 5) (busy ack : Bool),
      ((stepDue s (getRail (getAcc s n.val) r.val) = false ∧ storedDue s n.val r.val = false) ∨ busy = true) →
      exec (.railSlewStep n r busy ack) s = .next (settle s))
  ∧ (∀ (s : State) (n : Fin 8) (r : Fin 5), storedDue s n.val r.val = true →
      let x := getRail (getAcc s n.val) r.val
      exec (.railSlewStep n r false true) s = .next (settle (modRail (count s (225 + 4 * n.val) {}) n.val r.val
        (fun x => { x with applied := x.target, tries := 0 })))
      ∧ (x.tries < 3 → exec (.railSlewStep n r false false) s =
        .next (settle (modRail s n.val r.val (fun x => { x with tries := x.tries + 1 }))))
      ∧ (3 ≤ x.tries → exec (.railSlewStep n r false false) s =
        .next (settle (modRail s n.val r.val (fun x => { x with tries := 0, gaveUp := true })))))
  ∧ (∀ (s : State) (n : Fin 8) (r : Fin 5) (c : Nat) (ack : Bool), stepDue s (getRail (getAcc s n.val) r.val) = true →
      storedDue s n.val r.val = false → hasReg s n.val r.val = false → (getRail (getAcc s n.val) r.val).slewing = some c →
      exec (.railSlewStep n r false ack) s = .next (settle (complete
        (modRail s n.val r.val (fun x => { x with moving := false, slewing := none, tries := 0 })) c
        { refuse .accNotReady 5 0x35 with r0 := (getRail (getAcc s n.val) r.val).applied })))
  ∧ (∀ (s : State) (n : Fin 8) (r : Fin 5), stepDue s (getRail (getAcc s n.val) r.val) = true →
      storedDue s n.val r.val = false → hasReg s n.val r.val = true →
      let x := getRail (getAcc s n.val) r.val
      let u := modRail (count s (225 + 4 * n.val) {}) n.val r.val
        (fun x => { x with applied := nextMv x, tries := 0, lastStep := some s.tick })
      let v := modRail u n.val r.val (fun x => { x with moving := false, slewing := none })
      (nextMv x ≠ x.target → exec (.railSlewStep n r false true) s = .next (settle u))
      ∧ (nextMv x = x.target → x.slewing = none → exec (.railSlewStep n r false true) s = .next (settle v))
      ∧ (∀ c, nextMv x = x.target → x.slewing = some c →
        exec (.railSlewStep n r false true) s = .next (settle (complete v c (okR x.target))))
      ∧ (x.tries < 3 → exec (.railSlewStep n r false false) s =
        .next (settle (modRail s n.val r.val (fun x => { x with tries := x.tries + 1 }))))
      ∧ (∀ c, 3 ≤ x.tries → x.slewing = some c → exec (.railSlewStep n r false false) s = .next (settle (complete
          (modRail s n.val r.val (fun x => { x with moving := false, slewing := none, tries := 0 })) c
          { refuse .accNotReady 5 0x35 with r0 := x.applied }))))
  ∧ (∀ (s : State) (c : Nat) (cmd : Cmd), startsNow s c 0x22 none cmd = true → cmd.f 8 1 < 8 → cmd.tenant ≠ 64 →
      let n := cmd.f 8 1
      let p := cmd.f 0xC 4
      let i := cmd.f 0x10 4
      ∃ t : State, exec (.accLimitSet c) s =
          .next (settle (complete t c (okR (plimApplied (getAcc t n)) (ilimApplied (getAcc t n)))))
        ∧ getAcc t n = { getAcc s n with
            plimHost := if p = 0 then (getAcc s n).plimHost else p, ilimHost := if i = 0 then (getAcc s n).ilimHost else i }
        ∧ (∀ k, k ≠ n → getAcc t k = getAcc s k))
  ∧ (∀ (s : State) (c : Nat) (cmd : Cmd), startsNow s c 0x22 none cmd = true → cmd.f 8 1 < 8 → cmd.tenant = 64 →
      let n := cmd.f 8 1
      let p := cmd.f 0xC 4
      let i := cmd.f 0x10 4
      ∃ t : State, exec (.accLimitSet c) s =
          .next (settle (complete t c (okR (plimApplied (getAcc t n)) (ilimApplied (getAcc t n)))))
        ∧ getAcc t n = { getAcc s n with
            plimCeil := if p = 0 then (getAcc s n).plimCeil else p, ilimCeil := if i = 0 then (getAcc s n).ilimCeil else i }
        ∧ (∀ k, k ≠ n → getAcc t k = getAcc s k))
  ∧ (∀ (s : State) (c : Nat) (cmd : Cmd), startsNow s c 0x22 none cmd = true → cmd.f 8 1 = 0xFF →
      let p := cmd.f 0xC 4
      let i := cmd.f 0x10 4
      ∃ t : State, exec (.accLimitSet c) s = .next (settle (complete t c (okR (trayApplied t) (ilimApplied (getAcc t 0)))))
        ∧ (cmd.tenant ≠ 64 → t.pow.trayPlim = (if p = 0 then s.pow.trayPlim else p) ∧ t.pow.trayPceil = s.pow.trayPceil
          ∧ ∀ k, k < 8 → (getAcc t k).ilimHost = (if i = 0 then (getAcc s k).ilimHost else i))
        ∧ (cmd.tenant = 64 → t.pow.trayPceil = (if p = 0 then s.pow.trayPceil else p) ∧ t.pow.trayPlim = s.pow.trayPlim
          ∧ ∀ k, k < 8 → (getAcc t k).ilimCeil = (if i = 0 then (getAcc s k).ilimCeil else i)))
  ∧ (∀ (s : State) (n : Fin 8), (getAcc s n.val).phase = .limit →
      let a := getAcc s n.val
      let failed := endTransition s n.val (refuse .accNotReady 5 0x35)
      (∀ ack, hasReg s n.val 4 = false → exec (.effectiveLimitWrite n ack) s = .next (settle failed))
      ∧ (hasReg s n.val 4 = true → exec (.effectiveLimitWrite n true) s = .next (settle (transitionOk (setAcc s n.val { a with
          ilimEff := limitIn s n.val a.target, st := a.target, failedMa := none, retryAt := none,
          share := if a.target = .idle then plimApplied a else a.share }) n.val)))
      ∧ (hasReg s n.val 4 = true → a.tries < 3 → exec (.effectiveLimitWrite n false) s =
          .next (settle (setAcc s n.val { a with tries := a.tries + 1 })))
      ∧ (hasReg s n.val 4 = true → 3 ≤ a.tries → exec (.effectiveLimitWrite n false) s = .next (settle failed)))
  ∧ (∀ (s : State) (n : Fin 8), limitDue s n.val = true →
      let a := getAcc s n.val
      let v := limitIn s n.val a.st
      let t0 := setAcc s n.val { a with ilimEff := v, tries := 0, failedMa := none, retryAt := none }
      let t1 := setAcc s n.val { a with tries := a.tries + 1 }
      let t4 := accEvent (setAcc s n.val { a with tries := 0, pmbusErr := true, failedMa := some v,
                                                  retryAt := some (s.tick + 100000) }) n.val 3
      (a.failedMa ≠ some v → exec (.effectiveLimitWrite n true) s = .next (settle t0)
        ∧ (a.tries < 3 → exec (.effectiveLimitWrite n false) s = .next (settle t1))
        ∧ (3 ≤ a.tries → exec (.effectiveLimitWrite n false) s = .next (settle t4)))
      ∧ (∀ d, a.retryAt = some d → d ≤ s.tick → exec (.pmbusLimitRetry n true) s = .next (settle t0)
        ∧ (3 ≤ a.tries → exec (.pmbusLimitRetry n false) s = .next (settle t4)))
      ∧ (∀ d ack, a.retryAt = some d → s.tick < d → exec (.pmbusLimitRetry n ack) s = .next (settle s)))

/-- O47, tier 2 (11_accelerator_power.md, R279, R280, R284, R285 and R287 to R289, Table 11.4, 14_two_wire_ports.md, R349
and Table 14.5, 15_sediment_log_and_counters.md, Tables 15.1 and 15.3). A sample of An is due once a period of its port.
A good one adds its power to the windows and to the energy count, and sets the power-derived limit: none where no power
limit applies; with a limit, from the allowance (the applied power limit, and the share while a tray limit is set) less
the other rails' power, never as high as none, and a free value at 0 mV of VCORE (log entry 8). A failed read makes it
missing and counts on its port. A tray sample takes the steward's own power, and the tray's where it has a monitor. A
window publishes only at its end: the mean, or the peak, or the top value where it took no sample, and the next begins
empty. The governor runs once in 10 ms: with no tray limit or monitor or sample it only empties its windows; over the
limit it lowers the shares of the accelerators in IDLE and RUN and no other, never below a quarter of the limit; more
than a 32nd below it raises every share by a 64th of the limit, up to the power limit. Loss of input ends the
transaction on W10 ABORTED, pauses fetching, stops the charger and creates a POWER_LOSS record, once; its return sets
RIDE_THROUGH and creates an INPUT_RESTORED record with the ms lost. -/
def Obligations.TelemetryAndHoldup : Prop :=
  (∀ (s : State) (n : Fin 8) (x : TelemIn), sampleDue s n.val (1 + n.val) = false →
      exec (.telemetrySample (some n) x) s = .next (settle s))
  ∧ (∀ (s : State) (x : TelemIn), sampleDue s 8 9 = false → exec (.telemetrySample none x) s = .next (settle s))
  ∧ (∀ (s : State) (n : Fin 8) (x : TelemIn), sampleDue s n.val (1 + n.val) = true → s.crd.phase = .running →
      (∃ r, r < 5 ∧ hasReg s n.val r = true) →
      let u := sampleTaken s n.val
      let p := 1 + n.val
      ((portEn s p = false ∨ (getPort s p).st = 3) → exec (.telemetrySample (some n) x) s = .next (settle (portErr u p 0xB)))
      ∧ (portEn s p = true → (getPort s p).st = 2 → exec (.telemetrySample (some n) x) s = .next (settle u))
      ∧ (portEn s p = true → (getPort s p).st = 0 → x.result ≠ .ok →
        exec (.telemetrySample (some n) x) s = .next (settle (portErr u p (twCode x.result)))))
  ∧ (∀ (s : State) (n : Fin 8) (x : TelemIn), sampleDue s n.val (1 + n.val) = true →
      ((∀ r, r < 5 → hasReg s n.val r = false) ∨ (portUp s (1 + n.val) = true ∧ x.result = .ok)) →
      let on := (getRail (getAcc s n.val) 4).en && hasReg s n.val 4
      let core := if on then x.vcoreMv * x.vcoreMa / 100000 else 0
      let other := otherPower s n.val x.others
      let w := addEnergy (sampleIn (sampleTaken s n.val) n.val (core + other)) (3 + n.val) (core + other)
        (samplePeriod s (1 + n.val)) 10000000000
      let u := modAcc w n.val (fun a => { a with sample := some (other, x.vcoreMv) })
      let al := min (plimApplied (getAcc s n.val)) (if trayApplied s = 0xFFFFFFFF then 0xFFFFFFFF else (getAcc s n.val).share)
      (al = 0xFFFFFFFF → exec (.telemetrySample (some n) x) s =
        .next (settle (modAcc u n.val (fun a => { a with iPow := 0xFFFFFFFF }))))
      ∧ (al ≠ 0xFFFFFFFF → x.vcoreMv ≠ 0 → exec (.telemetrySample (some n) x) s = .next (settle (modAcc u n.val (fun a =>
          { a with iPow := min 0xFFFFFFFE ((al - other) * 100000 / x.vcoreMv) }))))
      ∧ (al ≠ 0xFFFFFFFF → x.vcoreMv = 0 → ∃ v, v < 2 ^ 32 ∧ exec (.telemetrySample (some n) x) s =
        .next (settle (modAcc { u with freeCtr := s.freeCtr + 1 } n.val (fun a => { a with iPow := v })))))
  ∧ (∀ (s : State) (x : TelemIn), sampleDue s 8 9 = true →
      let own := x.others.headD 0
      let v := sampleTaken s 8
      let u := addEnergy (sampleIn { v with pow := { v.pow with stewardPower := own } } 9 own) 1 own (samplePeriod s 9) 10000000
      (cfgF s 0x50001C 6 0 = 0 → exec (.telemetrySample none x) s = .next (settle u))
      ∧ (portUp s 9 = true → x.result = .ok → cfgF s 0x50001C 6 0 ≠ 0 → exec (.telemetrySample none x) s =
        .next (settle (addEnergy (sampleIn u 8 x.vcoreMa) 2 x.vcoreMa (samplePeriod s 9) 10000000000)))
      ∧ (portUp s 9 = true → x.result ≠ .ok → cfgF s 0x50001C 6 0 ≠ 0 → exec (.telemetrySample none x) s =
        .next (settle (portErr u 9 (twCode x.result)))))
  ∧ (∀ s : State,
      let w (m : KMap TelemWin) (k : Nat) : TelemWin := KMap.get (fun _ => ({} : TelemWin)) m k
      let top (k : Nat) : Nat := if k = 8 then 0xFFFFFFFF else 0xFFFF
      (s.tick < (w s.pow.avg 0).start + (w s.pow.avg 0).len → exec (.telemetryWindowEnd false) s = .next (settle s))
      ∧ ((w s.pow.avg 0).start + (w s.pow.avg 0).len ≤ s.tick → ∃ t : State,
        exec (.telemetryWindowEnd false) s = .next (settle t)
        ∧ t = { s with pow := { s.pow with pubAvg := t.pow.pubAvg, avg := t.pow.avg } }
        ∧ ∀ k, k < 10 → (w t.pow.avg k).count = 0 ∧ (w t.pow.avg k).sum = 0
          ∧ KMap.get (fun _ => 0) t.pow.pubAvg k = (if (w s.pow.avg k).count = 0 then top k
              else min (top k - 1) ((w s.pow.avg k).sum / (w s.pow.avg k).count)))
      ∧ (s.tick < (w s.pow.peak 0).start + (w s.pow.peak 0).len → exec (.telemetryWindowEnd true) s = .next (settle s))
      ∧ ((w s.pow.peak 0).start + (w s.pow.peak 0).len ≤ s.tick → ∃ t : State,
        exec (.telemetryWindowEnd true) s = .next (settle t)
        ∧ t = { s with pow := { s.pow with pubPeak := t.pow.pubPeak, peak := t.pow.peak } }
        ∧ ∀ k, k < 10 → (w t.pow.peak k).count = 0 ∧ (w t.pow.peak k).peak = 0
          ∧ KMap.get (fun _ => 0) t.pow.pubPeak k = (if (w s.pow.peak k).count = 0 then top k
              else min (top k - 1) (w s.pow.peak k).peak)))
  ∧ (∀ s : State, s.tick < s.pow.govAt + 10000 → exec .trayGovernor s = .next (settle s))
  ∧ (∀ s : State, s.pow.govAt + 10000 ≤ s.tick → ∃ t : State, exec .trayGovernor s = .next (settle t)
      ∧ t.pow.gov = [] ∧ t.pow.govAt = s.tick
      ∧ ((trayApplied s = 0xFFFFFFFF ∨ cfgF s 0x50001C 6 0 = 0 ∨ govMean s 8 = none) →
        ∀ n, (getAcc t n).share = (getAcc s n).share)
      ∧ (∀ p, trayApplied s ≠ 0xFFFFFFFF → cfgF s 0x50001C 6 0 ≠ 0 → govMean s 8 = some p → trayApplied s < p →
        (∀ n, n < 8 → accLive (getAcc s n) = true → plimApplied (getAcc s n) / 4 ≤ (getAcc t n).share
          ∧ (getAcc t n).share ≤ max (getAcc s n).share (plimApplied (getAcc s n) / 4))
        ∧ ∀ n, accLive (getAcc s n) = false → (getAcc t n).share = (getAcc s n).share)
      ∧ (∀ p, trayApplied s ≠ 0xFFFFFFFF → cfgF s 0x50001C 6 0 ≠ 0 → govMean s 8 = some p →
        p < trayApplied s - trayApplied s / 32 → ∀ n, n < 8 → (getAcc t n).share =
          min (plimApplied (getAcc s n)) ((getAcc s n).share + trayApplied s / 64)))
  ∧ (∀ s : State, s.pow.inputLost = true → exec .inFailNFall s = .next (settle s))
  ∧ (∀ s : State, s.pow.inputLost = false →
      let u := match running s 10 with
        | some q => reqFails (portErr (reqSent s 10 q) 10 0xA) 0xA q
        | none => s
      exec .inFailNFall s = .next (settle (logRec
        { u with pow := { u.pow with inputLost := true, charging := false, lostSince := u.tick } } 0x03 5 0
        ([0, 1, 2, 28, 29, 30, 31, 34, 35].flatMap (fun i =>
          leBytes 4 (min (ltGet u i - KMap.get (fun _ => 0) u.slog.atCheckpoint i) (2 ^ 32 - 1)))))))
  ∧ (∀ t : State, t.pow.inputLost = true → fetchPaused t = true)
  ∧ (∀ s : State, s.pow.inputLost = false → exec .inFailNRise s = .next (settle s))
  ∧ (∀ s : State, s.pow.inputLost = true → exec .inFailNRise s = .next (settle (chargerCheck (logRec
      { s with pow := { s.pow with inputLost := false, rideThrough := true } } 0x04 5 0
      (leBytes 4 (min ((s.tick - s.pow.lostSince) / 1000) (2 ^ 32 - 1)))))))

/-- O48, tier 2 (12_thermal_and_leak.md, R294 to R298, R300 to R306 and R313 to R314, Tables 12.1 to 12.7,
03_registers_and_horizon.md, Table 3.4, 16_electrical_and_package.md, Table 16.8). While the steward runs, a sample takes LOOP_CFG
and LEAK_CFG and is followed by the targets, gates and motors. A die zone's failed read has no value at once; an off-die channel's
third failed read in a row takes its value and writes a record, earlier ones keep it, or the median of the sample where the channel
is suspect, and end the cross-check's rows of three. A reading's cross-check: three samples more than 12.0 K from the median make it
suspect and its value the median, three within make it good; with fewer than three neighbours it stands. A level with hysteresis
sets at or above it and clears below it less HYST; RISE is asserted while D reaches the limit times the window; a channel with EN 0
asserts nothing. A value at SHUTDOWN of an enabled channel sets the latches of its map, and of the die for a die zone. A throttled
target steps down every 10 ms to no less than 4, one no longer throttled up every 200 ms to 16. The backstop sets HW_TRIP and every
latch with no grace. A stop whose grace has passed is carried out at once. TH_CLEAR with its key clears the latches whose causes are
gone; anything dropped sets REG_BUSY. THERM_N is low while HW_TRIP or the die latch is set. -/
def Obligations.TemperaturesAndThrottles : Prop :=
  (∀ (s : State) (c : Fin 32) (raw : Option Int), s.crd.phase ≠ .running →
      exec (.temperatureSample c raw) s = .next (settle s))
  ∧ (∀ (s : State) (c : Fin 32), s.crd.phase = .running →
      exec (.temperatureSample c none) s = .next (settle (afterSample (unreadable (takeLoops s) c.val) c.val)))
  ∧ (∀ (s : State) (c : Fin 32) (v : Int), s.crd.phase = .running → -32768 < v → v < 32768 →
      (c.val < 16 ∨ cfgF s (0x600100 + 0x20 * c.val) 6 0 ≠ 0) →
      exec (.temperatureSample c (some v)) s = .next (settle (afterSample (readingAt (takeLoops s) c.val v) c.val)))
  ∧ (∀ s : State, takeLoops s = { s with therm := { s.therm with
      loopCfg := (cfgGet s 0x60000C).toNat, leakCfg := (cfgGet s 0x600804).toNat } })
  ∧ (∀ (s : State) (c : Nat), c < 16 → (getChan (unreadable s c) c).value = none)
  ∧ (∀ (s : State) (c : Nat), 16 ≤ c → cfgF s (0x600100 + 0x20 * c) 6 0 ≠ 0 →
      ((getChan s c).fails < 2 → (getChan (unreadable s c) c).value =
          (if (getChan s c).suspect then (medianOf s c).or (getChan s c).value else (getChan s c).value)
        ∧ (getChan (unreadable s c) c).fails = (getChan s c).fails + 1
        ∧ (getChan (unreadable s c) c).apart = 0 ∧ (getChan (unreadable s c) c).near = 0)
      ∧ ((getChan s c).fails = 2 → (getChan (unreadable s c) c).value = none ∧ (getChan (unreadable s c) c).fails = 3))
  ∧ (∀ (x : Chan) (raw : Int), (crossCheck x raw none).suspect = x.suspect
      ∧ (x.suspect = false → (crossCheck x raw none).value = some raw))
  ∧ (∀ (x : Chan) (raw m : Int), x.suspect = false →
      (192 < (raw - m).natAbs → x.apart = 2 → (crossCheck x raw (some m)).suspect = true
        ∧ (crossCheck x raw (some m)).value = some m)
      ∧ ((raw - m).natAbs ≤ 192 ∨ x.apart < 2 → (crossCheck x raw (some m)).suspect = false
        ∧ (crossCheck x raw (some m)).value = some raw))
  ∧ (∀ (x : Chan) (raw m : Int), x.suspect = true →
      ((raw - m).natAbs ≤ 192 → x.near = 2 → (crossCheck x raw (some m)).suspect = false
        ∧ (crossCheck x raw (some m)).value = some raw)
      ∧ (192 < (raw - m).natAbs ∨ x.near < 2 → (crossCheck x raw (some m)).suspect = true
        ∧ (crossCheck x raw (some m)).value = some m))
  ∧ (∀ (now : Bool) (v l h : Int), (l ≤ v → withHyst now v l h = true)
      ∧ (v < l → v < l - h → withHyst now v l h = false) ∧ (v < l → l - h ≤ v → withHyst now v l h = now))
  ∧ (∀ (s : State) (c : Nat) (x : Chan) (v : Int),
      (levelsAt s c x v).rise16 = v - windowAgo c x.past v
      ∧ (chanEn s c = true → ((levelsAt s c x v).rise = true ↔ riseLimit s c ≠ 0
        ∧ (riseLimit s c * 16 * riseMs c : Int) ≤ (v - windowAgo c x.past v) * 10000))
      ∧ (chanEn s c = false → (levelsAt s c x v).warn = false ∧ (levelsAt s c x v).throt = false
        ∧ (levelsAt s c x v).rise = false ∧ (goneAt s c x).warn = false ∧ (goneAt s c x).throt = false
        ∧ (goneAt s c x).rise = false))
  ∧ (∀ s : State, thermN s = false ↔ (s.therm.hwTrip = true ∨ s.therm.latch.getLsbD 8 = true))
  ∧ (∀ (s : State) (c : Nat) (v : Int), chanEn s c = false → shutdownAt s c v = s)
  ∧ (∀ (s : State) (c : Nat) (v : Int), chanEn s c = true → chanLevel s c 0x0C ≤ v →
      (∀ n, n < 8 → (shutMap s c >>> n) % 2 = 1 → (shutdownAt s c v).therm.latch.getLsbD n = true)
      ∧ (c < 16 → (shutdownAt s c v).therm.latch.getLsbD 8 = true))
  ∧ (∀ (s : State) (k : Fin 9), (getThr s k.val).throttled = true →
      ((getThr s k.val).nextAt ≤ s.tick → 4 < (getThr s k.val).k → exec (.throttleStepDown k) s = .next (settle (setThr
        (count s 267 {}) k.val { getThr s k.val with k := (getThr s k.val).k - 1, nextAt := s.tick + 10000 })))
      ∧ ((getThr s k.val).nextAt ≤ s.tick → (getThr s k.val).k = 4 → exec (.throttleStepDown k) s =
        .next (settle (setThr s k.val { getThr s k.val with k := 4, nextAt := s.tick + 10000 })))
      ∧ (s.tick < (getThr s k.val).nextAt → exec (.throttleStepDown k) s = .next (settle s))
      ∧ exec (.throttleStepUp k) s = .next (settle s))
  ∧ (∀ (s : State) (k : Fin 9), (getThr s k.val).throttled = false →
      ((getThr s k.val).nextAt ≤ s.tick → (getThr s k.val).k < 16 → exec (.throttleStepUp k) s = .next (settle (setThr
        (count s 268 {}) k.val { getThr s k.val with k := (getThr s k.val).k + 1, nextAt := s.tick + 200000 })))
      ∧ ((s.tick < (getThr s k.val).nextAt ∨ 16 ≤ (getThr s k.val).k) → exec (.throttleStepUp k) s = .next (settle s)))
  ∧ (∀ s : State, s.crd.phase ≠ .por → exec .backstopTrip s = .next (settle (motorsFollow (setLatches
      { s with therm := { s.therm with hwTrip := true } } (fun _ => true) true 0xFF 1920 (fun _ => true)))))
  ∧ (∀ (s : State) (n : Fin 8) (x : Stop), getStop s n.val = some x →
      (x.since + graceUs s n.val ≤ s.tick → exec (.stopGraceExpiry n) s =
        .next (settle (stopAccDie (writeRetain s n.val 0) n.val false)))
      ∧ (s.tick < x.since + graceUs s n.val → exec (.stopGraceExpiry n) s = .next (settle s)))
  ∧ (∀ (s : State) (v : Word), hostMay s 0 = true → bf v 7 0 ≠ 0x3C →
      exec (.thClear v) s = .next (settle (motorsFollow (setBusy s 8))))
  ∧ (∀ (s : State) (v : Word), hostMay s 0 = true → bf v 7 0 = 0x3C →
      let r := clearLatches s (v.extractLsb' 16 9)
      exec (.thClear v) s = .next (settle (motorsFollow (if r.2 then setBusy r.1 8 else r.1)))
      ∧ ∀ b, b < 9 → r.1.therm.latch.getLsbD b = (s.therm.latch.getLsbD b && (latchBlocked s b || !v.getLsbD (16 + b))))

/-- O49, tier 2 (12_thermal_and_leak.md, R308 to R311 and R313, Table 12.6, 03_registers_and_horizon.md, Table 3.4). While the
steward runs, a leak sample takes LOOP_CFG and LEAK_CFG and keeps the conductance and loop resistance, saturated to 16 bits, counts
the suspected samples in a row, and the samples over OPEN_OHM to 100, a failed excitation or a loop under 1 ohm among them. A
channel suspected at every sample of CONFIRM_MS is confirmed once and recorded, and not before; a loop open for 100 samples is
recorded once. After each the armed and confirmed channels act by their loops' policies. LEAK_ARM arms or disarms the channels of
MASK for its tenant's side, T0's or T64's, is CLAMPED where T0 disarms a channel that T64 keeps armed, acts at once, and completes
OK with the armed mask; no other channel changes. A shutdown while an armed leak is confirmed on a pump's loop leaves that pump's
full-speed drive as it was. -/
def Obligations.LeakChannels : Prop :=
  (∀ (s : State) (l : Fin 8) (g ohm : Nat) (bad : Bool), s.crd.phase = .running →
      let x := getLeak s l.val
      let sus := decide (cfgF s 0x600808 15 0 ≤ g)
      let excess := bad || decide (ohm < 1) || decide (cfgF s 0x60080C 15 0 < ohm)
      exec (.leakSample l g ohm bad) s = .next (settle (motorsFollow (leaksAct (setLeak
        (if sus then count (takeLoops s) (256 + l.val) {} else takeLoops s) l.val { x with
          g := min g 65535, ohm := min ohm 65535, suspected := sus, count := if sus then x.count + 1 else 0,
          openCount := if excess then min 100 (x.openCount + 1) else 0, opened := x.opened && excess })))))
  ∧ (∀ (s : State) (l : Fin 8) (g ohm : Nat) (bad : Bool), s.crd.phase ≠ .running →
      exec (.leakSample l g ohm bad) s = .next (settle s))
  ∧ (∀ (s : State) (named : Nat → Bool) (die : Bool) (chan v : Nat) (skip : Nat → Bool),
      (leakOn s (pumpLoop s 6) = true → (setLatches s named die chan v skip).therm.pump6 = s.therm.pump6)
      ∧ (leakOn s (pumpLoop s 7) = true → (setLatches s named die chan v skip).therm.pump7 = s.therm.pump7))
  ∧ (∀ (s : State) (l : Fin 8),
      let x := getLeak s l.val
      (x.suspected = true → x.confirmed = false → cfgF s 0x600808 31 16 ≤ x.count → exec (.leakConfirm l) s =
        .next (settle (motorsFollow (leaksAct (logRec (setLeak s l.val { x with confirmed := true }) 0x32 6 1
          (leBytes 1 l.val ++ [1] ++ leBytes 2 x.g))))))
      ∧ ((x.suspected = false ∨ x.confirmed = true ∨ x.count < cfgF s 0x600808 31 16) →
        exec (.leakConfirm l) s = .next (settle s))
      ∧ (x.openCount = 100 → x.opened = false → exec (.ropeOpen l) s = .next (settle (logRec
          (setLeak s l.val { x with opened := true }) 0x32 6 1 (leBytes 1 l.val ++ [2] ++ leBytes 2 x.g))))
      ∧ ((x.openCount ≠ 100 ∨ x.opened = true) → exec (.ropeOpen l) s = .next (settle s)))
  ∧ (∀ (s : State) (c : Nat) (cmd : Cmd), startsNow s c 0x32 none cmd = true → cmd.tenant ≠ 64 → ∃ u : State,
      let t := motorsFollow (leaksAct u)
      exec (.leakArm c) s = .next (settle (complete t c (okR (armedMask t))))
      ∧ (∀ l, l < 8 → getLeak u l = (if (cmd.f 8 1 >>> l) % 2 = 1
          then { getLeak s l with armHost := decide (cmd.f 9 1 = 1) } else getLeak s l))
      ∧ (∀ x, findCmd u c = some x → (x.clamped = true ↔ cmd.clamped = true
          ∨ (cmd.f 9 1 ≠ 1 ∧ ∃ l, l < 8 ∧ (cmd.f 8 1 >>> l) % 2 = 1 ∧ (getLeak s l).armBmc = true)))
      ∧ u = { s with leaks := u.leaks, qc := u.qc, pm := u.pm })
  ∧ (∀ (s : State) (c : Nat) (cmd : Cmd), startsNow s c 0x32 none cmd = true → cmd.tenant = 64 → ∃ u : State,
      let t := motorsFollow (leaksAct u)
      exec (.leakArm c) s = .next (settle (complete t c (okR (armedMask t))))
      ∧ (∀ l, l < 8 → getLeak u l = (if (cmd.f 8 1 >>> l) % 2 = 1
          then { getLeak s l with armBmc := decide (cmd.f 9 1 = 1) } else getLeak s l))
      ∧ u = { s with leaks := u.leaks, qc := u.qc, pm := u.pm })

/-- O50, tier 2 (13_motor_drive.md, R325 and R327 to R331, Tables 13.3 to 13.5). COOL_SET that starts, of either sender: an
RPM above MAX_RPM completes BAD_PARAM at offset 0xC. Otherwise T64's sets the floor (HOLD: the effective target kept at
acceptance), T0's the mode, in FIXED the host's speed, in HOLD the held speed, and the failsafe mode where it names one; a
pump on a loop with a leak loses the drive it kept; the channel follows its target, and the command completes OK with the
effective target, CLAMPED where that differs from the host's; no other channel changes. COOL_TABLE_LOAD that starts: a
failed read completes DATA_ERROR and bad points BAD_PARAM; points of rising temperatures and speeds up to MAX_RPM are
written with their number and the sensor, no other register nor channel changing, and it completes OK. SPEED_CONTROL acts
only in RUNNING with DRIVE SPEED: the ramped target moves by ACCEL in force, the duty stays between the start duty and
PWM_PER, and the integral stands where the duty is clamped. TABLE_EVALUATION takes the table's value and the channel
follows it. A channel out of LOCKOUT whose target is 0 stops, a stopped one with a target starts in RAMP; in LOCKOUT, and
before the steward runs, it stays. -/
def Obligations.MotorTargets : Prop :=
  (∀ (s : State) (c : Nat) (cmd : Cmd), startsNow s c 0x30 none cmd = true →
      let u := markStarted s c
      let m := cmd.f 8 1
      let mode := cmd.f 9 1
      let rpm := cmd.f 0xC 4
      (maxRpm s m < rpm → exec (.coolSet c) s = .next (settle (complete u c (badField 0xC))))
      ∧ (rpm ≤ maxRpm s m →
        let x := getMotor s m
        let y : Motor := if cmd.tenant = 64 then
            { x with floor := if mode = 0 then .rpm rpm else if mode = 1 then .table else .rpm cmd.rpmAt }
          else { x with
            mode := mode, hostRpm := if mode = 0 then rpm else x.hostRpm,
            holdRpm := if mode = 2 then some (effTarget s m) else x.holdRpm,
            failsafe := if cmd.f 0xA 1 = 0 then x.failsafe else cmd.f 0xA 1 }
        let w := motorFollow (setMotor (leakReleases u m) m y) m
        exec (.coolSet c) s = .next (settle (complete (modCmd w c (fun z => { z with clamped := motorClamped w m })) c
          (okR (effTarget w m))))
        ∧ ∀ k, k ≠ m → getMotor w k = getMotor s k))
  ∧ (∀ (s : State) (m : Nat),
      (leakOn s (pumpLoop s m) = false → leakReleases s m = s)
      ∧ (leakOn s (pumpLoop s 6) = true → fullSpeed (leakReleases s 6) 6 = false)
      ∧ (leakOn s (pumpLoop s 7) = true → fullSpeed (leakReleases s 7) 7 = false))
  ∧ (∀ (s : State) (c : Nat) (cmd : Cmd), startsNow s c 0x31 none cmd = true →
      let u := markStarted s c
      let m := cmd.f 8 1
      let n := cmd.f 9 1
      let ws := (List.range n).map (fun i => leAt (hostRead s (cmd.f 0x10 8 + 4 * i) 4) 0 4)
      let good := pointsOk (maxRpm s m) (ws.map (fun w => (sext 16 (w % 65536), w / 65536)))
      (∀ a, exec (.coolTableLoad c (some a)) s = .next (settle (complete u c (dmaReadErr a))))
      ∧ (good = false → exec (.coolTableLoad c none) s = .next (settle (complete u c (badField 0x10))))
      ∧ (good = true → ∃ t : State, exec (.coolTableLoad c none) s = .next (settle (complete t c (okR)))
        ∧ (n ≤ 16 → cfgF t (motorBase m + 0x48) 4 0 = n
          ∧ cfgF t (motorBase m + 0x48) 15 8 = cmd.f 0xA 2 % 256
          ∧ (∀ i, i < n → cfgGet t (motorBase m + 0x80 + 4 * i) = BitVec.ofNat 32 (ws.getD i 0))
          ∧ (∀ o, o ≠ motorBase m + 0x48 → (∀ i, i < n → o ≠ motorBase m + 0x80 + 4 * i) → cfgGet t o = cfgGet s o))
        ∧ t = { u with regs := t.regs }))
  ∧ (∀ (s : State) (m : Fin 8), ((getMotor s m.val).st ≠ .running ∨ motorDrive s m.val ≠ 0) →
      exec (.speedControl m) s = .next (settle s))
  ∧ (∀ (s : State) (m : Fin 8), (getMotor s m.val).st = .running → motorDrive s m.val = 0 →
      let x := getMotor s m.val
      let e : Int := (rampedNext s m.val / 1000 : Nat) - (motorSpeed s m.val : Int)
      let i : Int := x.integral + (x.gains % 2 ^ 16 : Nat) * e
      let d : Int := Int.fdiv (((x.gains / 2 ^ 16 : Nat) * e + i) * pwmPer s m.val) 65536
      let put (n : Int) (w : Nat) : State := setMotor s m.val { x with ramped := rampedNext s m.val, integral := n, duty := w }
      rampDuty s m.val ≤ pwmPer s m.val
      ∧ ((rampDuty s m.val : Int) ≤ d → d ≤ pwmPer s m.val → exec (.speedControl m) s = .next (settle (put i d.toNat)))
      ∧ (d < rampDuty s m.val → exec (.speedControl m) s = .next (settle (put x.integral (rampDuty s m.val))))
      ∧ ((pwmPer s m.val : Int) < d → exec (.speedControl m) s = .next (settle (put x.integral (pwmPer s m.val)))))
  ∧ (∀ (s : State) (m : Nat), let g := runTarget s m * 1000
      let a := (getMotor s m).accel
      (a = 0 → rampedNext s m = g) ∧ (a ≠ 0 → (getMotor s m).ramped < g → rampedNext s m = min g ((getMotor s m).ramped + a))
      ∧ (a ≠ 0 → g ≤ (getMotor s m).ramped → rampedNext s m = max g ((getMotor s m).ramped - a)))
  ∧ (∀ (s : State) (m : Fin 8), s.crd.phase = .running → exec (.tableEvaluation m) s = .next (settle
      (motorFollow (setMotor s m.val { getMotor s m.val with tableVal := tableValue s m.val }) m.val)))
  ∧ (∀ (s : State) (m : Fin 8), s.crd.phase ≠ .running → exec (.tableEvaluation m) s = .next (settle s))
  ∧ (∀ (s : State) (m : Nat), s.crd.phase ≠ .running → motorFollow s m = s)
  ∧ (∀ (s : State) (m : Nat), s.crd.phase = .running →
      ((getMotor s m).st = .lockout → motorFollow s m = s)
      ∧ ((getMotor s m).st ≠ .lockout → runTarget s m = 0 → (getMotor (motorFollow s m) m).st = .stopped)
      ∧ ((getMotor s m).st = .stopped → runTarget s m ≠ 0 → motorDrive s m ≠ 2 →
        (getMotor (motorFollow s m) m).st = .ramp ∧ (getMotor (motorFollow s m) m).drive = true)
      ∧ ((getMotor s m).st = .stopped → runTarget s m ≠ 0 → motorDrive s m = 2 →
        (getMotor (motorFollow s m) m).st = .running ∧ (getMotor (motorFollow s m) m).drive = true))

/-- O51, tier 2 (13_motor_drive.md, R318 to R326 and R332 to R337, Tables 13.4 to 13.8). At a reload the LIVE fields take
effect and the channel follows its target; the duty is copied, capped at PWM_PER, or START_DUTY's in a ramp; a soft hold
ends, and gates driven by hand take GATE_MAN. A Hall change to 0 or 7 is invalid and noise; an edge of a channel that
runs, before a quarter of T_P or in the last tenth of a pending commutation's window, is noise, any other fires what is
pending and is a tooth; in the open loop a crossing in the window counts, and the sixth in a row is a tooth. A
commutation fires once due. 150 % of T_P without an edge gives a synthetic tooth, counted, and after two in a row a
stall. An alignment ends after ALIGN_MS in the open loop; a due open-loop step fires; RAMP_MS without a handoff stalls.
After STALL_PAUSE a channel with a target starts again, one without stops. At a blanking end latched events act where
their input is still asserted and are else discarded and counted; a soft event holds the PWM switch. OC_HARD locks the
channel out, with a record once; its release ends the input. Desaturation in blanking is latched, on one leg it counts,
and the third in 10 s or one on two legs locks out, else a driven channel restarts. MC_CLEAR with its key releases the
named channels without an asserted fault; anything dropped sets REG_BUSY. Anything not due leaves the state. -/
def Obligations.MotorEvents : Prop :=
  (∀ (s : State) (m : Fin 8), s.crd.phase = .running →
      let w := motorFollow (liveTaken s m.val) m.val
      let u := modMotor w m.val (fun x => { x with
        dutyActive := if x.st = .ramp then rampDuty s m.val else min x.duty (pwmPer s m.val), softHeld := false })
      (motorDrive s m.val ≠ 2 → exec (.pwmReload m) s = .next (settle u))
      ∧ (motorDrive s m.val = 2 → exec (.pwmReload m) s =
        .next (settle (if (getMotor w m.val).drive then gatesLoad u m.val else u))))
  ∧ (∀ (s : State) (m : Fin 8), s.crd.phase ≠ .running → exec (.pwmReload m) s = .next (settle s))
  ∧ (∀ (s : State) (m : Nat), getMotor (liveTaken s m) m = { getMotor s m with
        en := decide (cfgF s (motorBase m) 0 0 = 1), accel := cfgF s (motorBase m + 0x28) 15 0,
        gains := cfgN s (motorBase m + 0x2C), pause := cfgF s (motorBase m + 0x30) 15 0 }
      ∧ (∀ k, k ≠ m → getMotor (liveTaken s m) k = getMotor s k)
      ∧ getMotor (gatesLoad s m) m = { getMotor s m with
        gates := (getMotor s m).gateMan, shoot := (getMotor s m).shoot || doubleOn (getMotor s m).gateMan })
  ∧ (∀ (s : State) (m : Fin 8) (t : PclkTime) (h : Fin 8), sensorless s m.val = false →
      let x := getMotor s m.val
      let u := setMotor s m.val { x with lastHall := h.val }
      (h.val = x.lastHall → exec (.positionEdge m t h) s = .next (settle s))
      ∧ (h.val ≠ x.lastHall → (h.val = 0 ∨ h.val = 7) → ∃ y : State, exec (.positionEdge m t h) s = .next (settle y)
        ∧ getMotor y m.val = { x with lastHall := h.val, hallInvalid := true, noise := min (x.noise + 1) 255 }
        ∧ y = { s with motors := y.motors })
      ∧ (h.val ≠ x.lastHall → h.val ≠ 0 → h.val ≠ 7 → (x.st = .ramp ∨ x.st = .running) → motorDrive s m.val ≠ 2 →
        exec (.positionEdge m t h) s = .next (settle (judgeEdge u m.val t)))
      ∧ (h.val ≠ x.lastHall → h.val ≠ 0 → h.val ≠ 7 → (x.st ≠ .ramp ∧ x.st ≠ .running ∨ motorDrive s m.val = 2) →
        exec (.positionEdge m t h) s = .next (settle u)))
  ∧ (∀ (s : State) (m : Fin 8) (t : PclkTime) (h : Fin 8), sensorless s m.val = true →
      let x := getMotor s m.val
      (x.st = .ramp → x.aligning = false → exec (.positionEdge m t h) s = .next (settle (openCrossing s m.val t)))
      ∧ (x.st = .running → motorDrive s m.val ≠ 2 → exec (.positionEdge m t h) s = .next (settle (judgeEdge s m.val t)))
      ∧ ((x.st = .ramp ∧ x.aligning = true ∨ x.st = .running ∧ motorDrive s m.val = 2 ∨ x.st ≠ .ramp ∧ x.st ≠ .running) →
        exec (.positionEdge m t h) s = .next (settle s)))
  ∧ (∀ (s : State) (m t : Nat), let x := getMotor s m
      (t < x.last + x.tp / 4 → judgeEdge s m t = noiseAt s m)
      ∧ (x.last + x.tp / 4 ≤ t → x.pendingComm = none → judgeEdge s m t = tooth s m t (t - x.last) t false)
      ∧ (∀ due k, x.last + x.tp / 4 ≤ t → x.pendingComm = some (due, k) →
        (t < due → due - t < (due - x.last) / 10 → judgeEdge s m t = noiseAt s m)
        ∧ ((due ≤ t ∨ (due - x.last) / 10 ≤ due - t) →
          judgeEdge s m t = tooth (commutate s m k) m t (t - x.last) t false))
      ∧ noiseAt s m = setMotor s m { x with noise := min (x.noise + 1) 255 })
  ∧ (∀ (s : State) (m t due k : Nat), let x := getMotor s m
      x.pendingComm = some (due, k) →
      ((t < x.last + x.tp / 4 ∨ due ≤ t ∨ due - t < (due - x.last) / 10) →
        openCrossing s m t = setMotor s m { x with good := 0 })
      ∧ (x.last + x.tp / 4 ≤ t → t < due → (due - x.last) / 10 ≤ due - t → x.good < 5 →
        openCrossing s m t = setMotor s m { x with good := x.good + 1 })
      ∧ (x.last + x.tp / 4 ≤ t → t < due → (due - x.last) / 10 ≤ due - t → 5 ≤ x.good →
        openCrossing s m t = tooth (setMotor s m { x with pendingComm := none, intervals := List.replicate 5 x.tp, good := 6 })
          m t x.tp t false))
  ∧ (∀ (s : State) (m : Fin 8) (t : PclkTime), let x := getMotor s m.val
      (∀ due k, x.pendingComm = some (due, k) → x.st = .running → sensorless s m.val = true → due ≤ t →
        exec (.commutationDue m t) s = .next (settle (setMotor s m.val { x with step := k, pendingComm := none })))
      ∧ (∀ due k, x.pendingComm = some (due, k) → (x.st ≠ .running ∨ sensorless s m.val = false ∨ t < due) →
        exec (.commutationDue m t) s = .next (settle s))
      ∧ (x.pendingComm = none → exec (.commutationDue m t) s = .next (settle s)))
  ∧ (∀ (s : State) (m : Fin 8) (t : PclkTime), let x := getMotor s m.val
      let fires := (x.st = .running ∨ x.st = .ramp ∧ sensorless s m.val = false) ∧ motorDrive s m.val ≠ 2 ∧ x.tp ≠ 0
        ∧ x.last + x.tp * 3 / 2 ≤ t
      let made (u : State) : State := tooth (modMotor u m.val (fun y => { y with
        synth := y.synth + 1, synths := min (y.synths + 1) 255 })) m.val (x.last + x.tp) x.tp t true
      (¬ fires → exec (.syntheticTooth m t) s = .next (settle s))
      ∧ (fires → x.synth = 2 → exec (.syntheticTooth m t) s = .next (settle (motorStall s m.val t)))
      ∧ (fires → x.synth ≠ 2 → x.pendingComm = none → exec (.syntheticTooth m t) s = .next (settle (made s)))
      ∧ (∀ due k, fires → x.synth ≠ 2 → x.pendingComm = some (due, k) →
        (due ≤ t → exec (.syntheticTooth m t) s = .next (settle (made (commutate s m.val k))))
        ∧ (t < due → exec (.syntheticTooth m t) s = .next (settle (made s)))))
  ∧ (∀ (s : State) (m : Nat) (t : Nat), (getMotor (motorStall s m t) m).st = .restart
      ∧ (getMotor (motorStall s m t) m).stall = true ∧ (getMotor (motorStall s m t) m).drive = false
      ∧ (getMotor (motorStall s m t) m).stalls = min ((getMotor s m).stalls + 1) 255
      ∧ (getMotor (motorStall s m t) m).pauseStart = t ∧ motorStall s m t = { s with motors := (motorStall s m t).motors })
  ∧ (∀ (s : State) (m : Fin 8) (t : PclkTime), let x := getMotor s m.val
      (x.st = .ramp → x.aligning = true → x.rampStart + alignCycles s m.val ≤ t →
        exec (.alignEnd m t) s = .next (settle (openSchedule
          (setMotor s m.val { x with aligning := false, rampStart := t, good := 0 }) m.val t)))
      ∧ ((x.st ≠ .ramp ∨ x.aligning = false ∨ t < x.rampStart + alignCycles s m.val) →
        exec (.alignEnd m t) s = .next (settle s)))
  ∧ (∀ (s : State) (m : Fin 8) (t : PclkTime), let x := getMotor s m.val
      (∀ due k, x.pendingComm = some (due, k) → x.st = .ramp → sensorless s m.val = true → x.aligning = false → due ≤ t →
        exec (.openLoopStep m t) s = .next (settle
          (openSchedule (setMotor s m.val { x with step := k, pendingComm := none }) m.val due)))
      ∧ (∀ due k, x.pendingComm = some (due, k) →
        (x.st ≠ .ramp ∨ sensorless s m.val = false ∨ x.aligning = true ∨ t < due) →
        exec (.openLoopStep m t) s = .next (settle s))
      ∧ (x.pendingComm = none → exec (.openLoopStep m t) s = .next (settle s)))
  ∧ (∀ (s : State) (m : Fin 8), let x := getMotor s m.val
      (x.st = .ramp → sensorless s m.val = true → x.aligning = false →
        x.rampStart + rampCycles s m.val ≤ 200 * s.tick →
        exec (.rampTimeout m) s = .next (settle (motorStall s m.val (200 * s.tick))))
      ∧ ((x.st ≠ .ramp ∨ sensorless s m.val = false ∨ x.aligning = true ∨
          200 * s.tick < x.rampStart + rampCycles s m.val) → exec (.rampTimeout m) s = .next (settle s)))
  ∧ (∀ (s : State) (m : Fin 8) (t : PclkTime) (h : Fin 8), let x := getMotor s m.val
      let u := setMotor s m.val { x with lastHall := h.val }
      (x.st = .restart → x.pauseStart + pauseCycles s m.val ≤ t → exec (.stallPauseEnd m t h) s =
        .next (settle (if runTarget u m.val = 0 then motorStop u m.val else motorStart u m.val t)))
      ∧ ((x.st ≠ .restart ∨ t < x.pauseStart + pauseCycles s m.val) →
        exec (.stallPauseEnd m t h) s = .next (settle s)))
  ∧ (∀ (s : State) (m : Fin 8), exec (.ocSoft m true) s = .next (settle (modMotor s m.val (fun x =>
        { x with latchedSoft := true })))
      ∧ exec (.ocSoft m false) s = .next (settle (modMotor s m.val (fun x =>
        { x with ocSoft := true, softHeld := x.drive && decide (motorDrive s m.val ≠ 2) })))
      ∧ exec (.ocHard m false) s = .next (settle (modMotor s m.val (fun x => { x with hardIn := false })))
      ∧ exec (.ocHard m true) s = .next (settle (motorLockout (modMotor s m.val (fun x =>
        { x with hardIn := true, ocHard := true })) m.val)))
  ∧ (∀ (s : State) (m : Nat), (getMotor (motorLockout s m) m).st = .lockout
      ∧ ((getMotor s m).st = .lockout → (motorLockout s m).slog = s.slog) ∧ (getMotor (motorLockout s m) m).drive = false)
  ∧ (∀ (s : State) (m : Fin 8) (t : PclkTime) (ended still : List (Fin 3)) (softEnded softStill : Bool),
      let x := getMotor s m.val
      let es := ended.map (·.val)
      let mine := x.latchedLegs.filter es.contains
      let judged := mine.filter (still.map (·.val)).contains
      let soft := x.latchedSoft && softEnded
      let u := setMotor s m.val { x with
        latchedLegs := x.latchedLegs.filter (fun l => !es.contains l), latchedSoft := x.latchedSoft && !softEnded,
        desatIn := if ended = [] then x.desatIn else decide (still ≠ []) }
      let gone := mine.length - judged.length + (if soft = true ∧ softStill = false then 1 else 0)
      let v := if gone = 0 then u else count (modMotor u m.val (fun y => { y with blankedSeen := true }))
        (272 + 2 * m.val) {} gone
      let w := if soft = true ∧ softStill = true then softEvent v m.val else v
      exec (.blankingEnd m t ended still softEnded softStill) s = .next (settle (desatEvent w m.val t judged)))
  ∧ (∀ (s : State) (m : Fin 8) (t : PclkTime) (legs : List (Fin 3)),
      let u := modMotor s m.val (fun x => { x with desatIn := decide (legs ≠ []) })
      exec (.desaturation m t legs true) s = .next (settle (modMotor u m.val (fun x =>
        { x with latchedLegs := (x.latchedLegs ++ legs.map (·.val)).eraseDups })))
      ∧ exec (.desaturation m t legs false) s = .next (settle (desatEvent u m.val t (legs.map (·.val)))))
  ∧ (∀ (s : State) (m t a : Nat), a < 3 → (getMotor s m).st = .running → (getMotor s m).firstJudged = none →
      let n := ((getMotor s m).desatTimes.filter (fun y => t ≤ y + 2000000000)).length
      (n < 2 → (getMotor (desatEvent s m t [a]) m).st = .restart
        ∧ (getMotor (desatEvent s m t [a]) m).desats = min ((getMotor s m).desats + 1) 255)
      ∧ (2 ≤ n → (getMotor (desatEvent s m t [a]) m).st = .lockout))
  ∧ (∀ (s : State) (m t a b : Nat), a ≠ b → (getMotor (desatEvent s m t [a, b]) m).st = .lockout
      ∧ (getMotor (desatEvent s m t [a, b]) m).phasePhase = true)
  ∧ (∀ (s : State) (v : Word), hostMay s 0 = true → bf v 7 0 ≠ 0x6D →
      exec (.mcClear v) s = .next (settle (setBusy s 9)))
  ∧ (∀ (s : State) (v : Word), hostMay s 0 = true → bf v 7 0 = 0x6D →
      let r := clearLockouts s (bf v 15 8)
      exec (.mcClear v) s = .next (settle (if r.2 then setBusy r.1 9 else r.1)))
  ∧ (∀ (s : State) (v : Word), hostMay s 0 = false → exec (.mcClear v) s = .next (settle s))

/-- O52, tier 2 (14_two_wire_ports.md, R345 to R347, R354 to R356 and R358, Tables 14.3, 14.6, 14.8 and 14.9). While the
steward runs, a port with no request due does nothing; the request next in level of a disabled or DOWN port fails
PORT_DOWN; on a usable port it sends its bytes, and an OK answer with the bytes it reads is taken, any other outcome
counts under ERRS with its code and fails by its owner's retry rule. The eighth lost arbitration in a row fails the
attempt; the first seven retry, but never a pass-through; a loss in a STOP and a timeout fail the attempt and clear the
bus, and a pass-through completes with that clear (log entry 63). W0 loses a Host Notify. A clearing attempt that frees
SDA ends it; the fourth that does not makes the port DOWN with BUS_STUCK, and every 1 s it tries again. XFER_CTRL with
GO starts on ports 9 to 11 with 1 to 32 bytes, and otherwise, or while BUSY, is dropped with REG_BUSY. 100 ms after the
last reads Daxrin reads flow and pressure once FW_UP is set, and the charge level is read on W10: a read that fails
counts its code on the port and the last value stays; without a device pressure is 0xFFFF and flow 0 (the model's choice
for flow, log entry 67), and with no charger the level stays. -/
def Obligations.ControllerPorts : Prop :=
  (∀ (s : State) (p : Fin 12) (r : TwResult) (d : List Byte),
      ((s.crd.phase ≠ .running ∨ nextReq s p.val = none) → exec (.twoWireTransaction p r d) s = .next (settle s))
      ∧ (∀ q, s.crd.phase = .running → nextReq s p.val = some q →
        ((portEn s p.val = false ∨ (getPort s p.val).st = 3) →
          exec (.twoWireTransaction p r d) s = .next (settle (reqFails (portErr s p.val 0xB) 0xB q)))
        ∧ (portEn s p.val = true → (getPort s p.val).st ≠ 0 → (getPort s p.val).st ≠ 3 →
          exec (.twoWireTransaction p r d) s = .next (settle s))
        ∧ (portEn s p.val = true → (getPort s p.val).st = 0 →
          (r = .ok → d.length = reqReads s q → exec (.twoWireTransaction p r d) s = .next (settle (reqOk
            (modPort (reqSent s p.val q) p.val (fun x => { x with lastErr := 0, losses := 0 })) d q)))
          ∧ (r = .ok → d.length ≠ reqReads s q → exec (.twoWireTransaction p r d) s = .next (settle s))
          ∧ (r ≠ .ok → exec (.twoWireTransaction p r d) s = .next (settle (reqFails (portErr
            (modPort (reqSent s p.val q) p.val (fun x => { x with losses := 0 })) p.val (twCode r)) (twCode r) q))))))
  ∧ (∀ s : State, nextReq s 0 = none)
  ∧ (∀ (s : State) (p : Fin 12) (q : TwReq), p.val ≠ 0 → s.crd.phase = .running → portEn s p.val = true →
      (getPort s p.val).st = 0 → nextReq s p.val = some q →
      let u (code : Nat) : State := modPort (portErr (reqSent s p.val q) p.val code) p.val
        (fun x => { x with arbLost := min (x.arbLost + 1) 255, losses := x.losses + 1 })
      let kept (v : State) (code : Nat) : State := { v with tw := { v.tw with xferWait := some code } }
      ((getPort s p.val).losses < 7 → q ≠ .xfer → exec (.arbLost p false) s = .next (settle (u 3)))
      ∧ (7 ≤ (getPort s p.val).losses → exec (.arbLost p false) s =
        .next (settle (reqFails (modPort (u 3) p.val (fun x => { x with losses := 0 })) 3 q)))
      ∧ (q = .xfer → exec (.arbLost p false) s =
        .next (settle (reqFails (modPort (u 3) p.val (fun x => { x with losses := 0 })) 3 q)))
      ∧ (q ≠ .xfer → exec (.arbLost p true) s = .next (settle (startClear (reqFails (u 4) 4 q) p.val))
        ∧ exec (.twoWireTimeout p) s =
          .next (settle (startClear (reqFails (portErr (reqSent s p.val q) p.val 5) 5 q) p.val)))
      ∧ (q = .xfer → exec (.arbLost p true) s = .next (settle (startClear (kept (u 4) 4) p.val))
        ∧ exec (.twoWireTimeout p) s =
          .next (settle (startClear (kept (portErr (reqSent s p.val q) p.val 5) 5) p.val))))
  ∧ (∀ (s : State) (p : Fin 12) (b : Bool), p.val ≠ 0 →
      (s.crd.phase ≠ .running ∨ portEn s p.val = false ∨ (getPort s p.val).st ≠ 0 ∨ nextReq s p.val = none) →
      exec (.arbLost p b) s = .next (settle s) ∧ exec (.twoWireTimeout p) s = .next (settle s))
  ∧ (∀ (s : State) (b : Bool), exec (.twoWireTimeout 0) s = .next (settle s)
      ∧ (notifyOn s = false → exec (.arbLost 0 b) s = .next (settle s))
      ∧ (∀ h t, notifyOn s = true → s.tw.hn = h :: t → exec (.arbLost 0 b) s =
        .next (settle { s with tw := { s.tw with hn := { h with losses := h.losses + 1 } :: t } })))
  ∧ (∀ (s : State) (p : Fin 12), (getPort s p.val).st = 2 →
      let x := getPort s p.val
      ((x.attempts = 0 ∨ x.since + 1000 ≤ s.tick) →
        exec (.busClear p true) s =
          .next (settle (clearEnds (count (setPort s p.val { x with st := 0, attempts := 0 }) 301 {}) p.val false))
        ∧ (x.attempts < 3 → exec (.busClear p false) s =
          .next (settle (setPort s p.val { x with attempts := x.attempts + 1, since := s.tick })))
        ∧ (3 ≤ x.attempts → exec (.busClear p false) s = .next (settle
          (clearEnds (portErr (setPort s p.val { x with st := 3, attempts := 0, since := s.tick }) p.val 8) p.val true))))
      ∧ (∀ b, x.attempts ≠ 0 → s.tick < x.since + 1000 → exec (.busClear p b) s = .next (settle s)))
  ∧ (∀ (s : State) (p : Fin 12) (b : Bool), (getPort s p.val).st ≠ 2 → exec (.busClear p b) s = .next (settle s))
  ∧ (∀ (s : State) (p : Nat) (b : Bool),
      ((s.tw.xferWait = none ∨ xferPort s ≠ p) → clearEnds s p b = s)
      ∧ (∀ c, s.tw.xferWait = some c → xferPort s = p →
        clearEnds s p b = xferFails { s with tw := { s.tw with xferWait := none } } (if b then 8 else c)))
  ∧ (∀ (s : State) (p : Fin 12),
      let x := getPort s p.val
      (x.st = 3 → x.since + 1000000 ≤ s.tick →
        exec (.portDownRetry p true) s = .next (settle (count (setPort s p.val { x with st := 0 }) 301 {}))
        ∧ exec (.portDownRetry p false) s = .next (settle (setPort s p.val { x with since := s.tick })))
      ∧ (∀ b, (x.st ≠ 3 ∨ s.tick < x.since + 1000000) → exec (.portDownRetry p b) s = .next (settle s)))
  ∧ (∀ (s : State) (v : Word), hostMay s 0 = true → s.tw.xferBusy = false → v.getLsbD 31 = true →
      (9 ≤ bf v 27 24 → bf v 27 24 ≤ 11 → 1 ≤ bf v 5 0 → bf v 5 0 ≤ 32 →
        let u := cfgSet s 0x801000 (v &&& 0x0F7FFFFF#32)
        exec (.xferCtrlGo v) s = .next (settle { u with tw := { u.tw with xferBusy := true } }))
      ∧ ((bf v 27 24 < 9 ∨ 11 < bf v 27 24 ∨ bf v 5 0 = 0 ∨ 32 < bf v 5 0) →
        exec (.xferCtrlGo v) s = .next (settle (setBusy s 10))))
  ∧ (∀ (s : State) (v : Word), hostMay s 0 = true → s.tw.xferBusy = true → v.getLsbD 31 = true →
      exec (.xferCtrlGo v) s = .next (settle (setBusy s 10)))
  ∧ (∀ (s : State) (v : Word), hostMay s 0 = false → exec (.xferCtrlGo v) s = .next (settle s))
  ∧ (∀ (s : State) (a b c d e : DevRead), s.crd.phase = .running → loopsDue s = true →
      let u : State := { s with tw := { s.tw with loopAt := some s.tick } }
      (s.crd.fwUp = true → exec (.loopDeviceRead a b c d e) s = .next (settle
        (chargeRead (loopRead (loopRead (loopRead (loopRead u 0 true a) 0 false b) 1 true c) 1 false d) e)))
      ∧ (s.crd.fwUp = false → exec (.loopDeviceRead a b c d e) s = .next (settle (chargeRead u e))))
  ∧ (∀ (s : State) (a b c d e : DevRead), (s.crd.phase ≠ .running ∨ loopsDue s = false) →
      exec (.loopDeviceRead a b c d e) s = .next (settle s))
  ∧ (∀ s : State, loopsDue s = true ↔ ∀ t, s.tw.loopAt = some t → t + 100000 ≤ s.tick)
  ∧ (∀ (s : State) (l : Nat) (r : DevRead),
      (cfgF s (0x800800 + 4 * l) 6 0 = 0 → loopRead s l true r =
        { s with tw := { s.tw with flow := KMap.set (fun _ => 0) s.tw.flow l 0 } })
      ∧ (cfgF s (0x800800 + 4 * l) 22 16 = 0 → loopRead s l false r =
        { s with tw := { s.tw with press := KMap.set (fun _ => 0xFFFF) s.tw.press l 0xFFFF } })
      ∧ (cfgF s (0x800800 + 4 * l) 6 0 ≠ 0 → (portRead s 11 r.result).2 = false →
        loopRead s l true r = (portRead s 11 r.result).1)
      ∧ (cfgF s (0x800800 + 4 * l) 22 16 ≠ 0 → (portRead s 11 r.result).2 = false →
        loopRead s l false r = (portRead s 11 r.result).1)
      ∧ (cfgF s (0x800800 + 4 * l) 6 0 ≠ 0 → portRead s 11 r.result = (s, true) → 0 ≤ lin11 r.value 100 →
        lin11 r.value 100 ≤ 65535 → loopRead s l true r =
          { s with tw := { s.tw with flow := KMap.set (fun _ => 0) s.tw.flow l (lin11 r.value 100).toNat } })
      ∧ (cfgF s (0x800800 + 4 * l) 22 16 ≠ 0 → portRead s 11 r.result = (s, true) → 0 ≤ lin11 r.value 10 →
        lin11 r.value 10 ≤ 65534 → loopRead s l false r =
          { s with tw := { s.tw with press := KMap.set (fun _ => 0xFFFF) s.tw.press l (lin11 r.value 10).toNat } }))
  ∧ (∀ (s : State) (r : DevRead), (cfgF s 0x50000C 22 16 = 0 → chargeRead s r = s)
      ∧ (cfgF s 0x50000C 22 16 ≠ 0 → (portRead s 10 r.result).2 = false → chargeRead s r = (portRead s 10 r.result).1)
      ∧ (cfgF s 0x50000C 22 16 ≠ 0 → portRead s 10 r.result = (s, true) →
        chargeRead s r = { s with pow := { s.pow with chargePct := r.value % 256 } }))
  ∧ (∀ (s : State) (p : Nat) (r : TwResult),
      ((portRead s p r).2 = true ↔ portUp s p = true ∧ r = .ok) ∧ ((portRead s p r).2 = true → (portRead s p r).1 = s)
      ∧ (portUp s p = true → r ≠ .ok → (portRead s p r).1 = portErr s p (twCode r))
      ∧ (s.crd.phase = .running → (portEn s p = false ∨ (getPort s p).st = 3) → (portRead s p r).1 = portErr s p 0xB))

/-- O53, tier 2 (14_two_wire_ports.md, R350 to R353 and R358, Tables 14.4 to 14.6, 04_kyrdax_command_packets.md, R101 and
R102, Table 4.11, 03_registers_and_horizon.md, R67 and R71). W0 before TRIM_DONE NACKs every transaction. Of a write, a
block of another count records BAD_LEN, an early STOP STOP_EARLY, a missing PEC under PEC_REQ NO_PEC; a wrong PEC is
counted and NACKed, clearing the staging buffer on 0x20 and 0x21; a repeated START before STOP discards it. Otherwise it
acts: code 0x20 stages 32 bytes, 0x21 posts an entry to its T64 pair and clears the staging (NACKed with the pair full or
in a tenant reset of T64), 0x23 consumes the completion 0x22 returned, 0x25 sets the buffer pointer to 0 to 127, 0x26
refreshes the BMC heartbeat, 0x2F starts a tenant reset of T64, 0x10 and 0x11 clear latches and LOCKOUTs, 0x18 sets
NOTIFY_MASK; W0_RESULT then holds the code and 0, or 1 where a bit was dropped, 2 for a wrong key. Reads answer with
their data: the first completion or EMPTY, 32 bytes of the buffer at the pointer, which advances, W0_RESULT, and for
codes 0x80 to 0xFF 32 bytes of the mirror. The first pending Host Notify is sent, and goes once acknowledged; a lost one
waits; those 100 ms old or lost eight times are dropped and counted. A W0 timeout is counted and recorded. -/
def Obligations.WZeroAndNotify : Prop :=
  (∀ (s : State) (code n : Nat) (block : Bool) (w : W0Write) (act : State → List Byte → State),
      (w0Acts s code n block w = true → w0Write s code n block w act = act s (w.data.take n))
      ∧ (s.crd.phase ≠ .running → w0Write s code n block w act = { s with resp := .nack 0 })
      ∧ (s.crd.phase = .running → block = true → w.count ≠ n → w0Write s code n block w act = w0Nack s 0x22)
      ∧ (s.crd.phase = .running → (block = true → w.count = n) →
        (w.restart = true → w.data.length < n → w0Write s code n block w act = s)
        ∧ (w.restart = false → (w.stopEarly = true ∨ w.data.length < n) → w0Write s code n block w act = w0Discard s 0x27)
        ∧ (w.stopEarly = false → n ≤ w.data.length →
          (w.restart = true → (w0Pec n w = none ∨ w0Pec n w = some (w0Sum s code n block w)) →
            w0Write s code n block w act = s)
          ∧ (w.restart = false → w0Pec n w = none → pecReq s = true → w0Write s code n block w act = w0Discard s 0x24)
          ∧ (∀ b, w0Pec n w = some b → b ≠ w0Sum s code n block w →
            let u : State := { s with tw := { s.tw with pecErrs := min (s.tw.pecErrs + 1) 255 } }
            (code ≠ 0x20 → code ≠ 0x21 → w0Write s code n block w act = w0Nack u 0x23)
            ∧ ((code = 0x20 ∨ code = 0x21) →
              w0Write s code n block w act = w0Nack (setT64 u { u.qc.t64 with stage := [] }) 0x23)))))
  ∧ (∀ (s : State) (w : W0Write),
      let x := s.qc.t64
      let d := w.data
      (w0Acts s 0x20 32 true w = true →
        exec (.w0StageLow w) s = .next (settle (w0Done (setT64 s { x with stage := d.take 32 }) 0x20 0)))
      ∧ (w0Acts s 0x21 32 true w = true → (getTen s 64).reset = none →
        (t64Entries s (t64Pair (leAt (stagedLow s) 0 1))).length < 16 →
        exec (.w0PostEntry w) s = .next (settle (w0Done (postEntry s (d.take 32)) 0x21 0)))
      ∧ (s.crd.phase = .running → (getTen s 64).reset = none →
        16 ≤ (t64Entries s (t64Pair (leAt (stagedLow s) 0 1))).length →
        exec (.w0PostEntry w) s = .next (settle (w0Nack s 0x26)))
      ∧ (s.crd.phase = .running → (getTen s 64).reset ≠ none →
        exec (.w0PostEntry w) s = .next (settle (w0Nack s 0)))
      ∧ (w0Acts s 0x23 0 false w = true → x.returned = true → exec (.w0ConsumeCompletion w) s =
        .next (settle (w0Done (setT64 s { x with cq := x.cq.drop 1, returned := false }) 0x23 0)))
      ∧ (s.crd.phase = .running → x.returned = false →
        exec (.w0ConsumeCompletion w) s = .next (settle (w0Nack s 0)))
      ∧ (w0Acts s 0x25 2 false w = true → leAt d 0 2 ≤ 127 → exec (.w0SetBufferPointer w) s =
        .next (settle (w0Done (setT64 s { x with ptr := leAt d 0 2 }) 0x25 0)))
      ∧ (w0Acts s 0x25 2 false w = true → 127 < leAt d 0 2 →
        exec (.w0SetBufferPointer w) s = .next (settle (w0Nack s 0)))
      ∧ (w0Acts s 0x26 0 false w = true → exec (.bmcHb w) s = .next (settle (w0Done (motorsFollow
          { s with qc := { s.qc with bmcBeat := some s.tick } }) 0x26 0)))
      ∧ (w0Acts s 0x2F 0 false w = true → ∃ t : State, exec (.kcpReset w) s = .next (settle t)
        ∧ (getTen t 64).reset ≠ none ∧ t.qc.t64.stage = [] ∧ t.tw.result = 0x2F)
      ∧ (w0Acts s 0x18 4 true w = true → exec (.notifyMask w) s =
        .next (settle (w0Done (cfgSet s 0x800008 (BitVec.ofNat 32 (leAt d 0 4))) 0x18 0)))
      ∧ (w0Acts s 0x10 3 true w = true → leAt d 0 1 ≠ 0x3C →
        exec (.w0ThClear w) s = .next (settle (w0Done (motorsFollow (setBusy s 8)) 0x10 2)))
      ∧ (w0Acts s 0x10 3 true w = true → leAt d 0 1 = 0x3C →
        let r := clearLatches s (BitVec.ofNat 9 (leAt d 1 2))
        exec (.w0ThClear w) s = .next (settle (w0Done (motorsFollow (if r.2 then setBusy r.1 8 else r.1)) 0x10
          (if r.2 then 1 else 0)))
        ∧ ∀ b, b < 9 → r.1.therm.latch.getLsbD b = (s.therm.latch.getLsbD b && (latchBlocked s b || !(leAt d 1 2).testBit b)))
      ∧ (w0Acts s 0x11 2 false w = true → leAt d 0 1 ≠ 0x6D →
        exec (.w0McClear w) s = .next (settle (w0Done (motorsFollow (setBusy s 9)) 0x11 2)))
      ∧ (w0Acts s 0x11 2 false w = true → leAt d 0 1 = 0x6D →
        let r := clearLockouts s (leAt d 1 1)
        exec (.w0McClear w) s = .next (settle (w0Done (motorsFollow (if r.2 then setBusy r.1 9 else r.1)) 0x11
          (if r.2 then 1 else 0)))))
  ∧ (∀ (s : State) (len : Nat), s.crd.phase = .running →
      let x := s.qc.t64
      (∀ e rest, x.cq = e :: rest → exec (.w0ReadCompletion len) s =
        .next (settle (w0Reply (setT64 s { x with returned := true }) 0x22 len true e)))
      ∧ (x.cq = [] → exec (.w0ReadCompletion len) s = .next (settle
        (w0Reply (setT64 s { x with returned := false }) 0x22 len true ([0, 0, 0, 0, 0, 0x80] ++ List.replicate 26 0))))
      ∧ exec (.w0ReadBuffer len) s = .next (settle (w0Reply (setT64 s { x with ptr := (x.ptr + 1) % 128 }) 0x24 len true
          (KMap.readN mem0 x.buf (32 * x.ptr) 32)))
      ∧ exec (.w0Result len) s = .next (settle (w0Reply s 0x12 len false (leBytes 2 s.tw.result))))
  ∧ (∀ (s : State) (len : Nat), s.crd.phase ≠ .running → ∀ i : Instr,
      (i = .w0ReadCompletion len ∨ i = .w0ReadBuffer len ∨ i = .w0Result len) →
      exec i s = .next (settle { s with resp := .nack 0 }))
  ∧ (∀ (s : State) (h : Hn) (t : List Hn), s.tw.hn = h :: t → s.crd.phase = .running → cfgF s 0x800004 1 1 = 1 →
      let bs : List Byte := [0x10, BitVec.ofNat 8 (2 * (0x4A + s.crd.w0Addr)), BitVec.ofNat 8 h.reason, BitVec.ofNat 8 h.detail]
      let u : State := { s with resp := .data bs }
      exec (.hostNotify true true) s = .next (settle (count { u with tw := { s.tw with hn := t } } 300 {}))
      ∧ exec (.hostNotify true false) s = .next (settle u)
      ∧ ∀ b, exec (.hostNotify false b) s =
        .next (settle { s with tw := { s.tw with hn := { h with losses := h.losses + 1 } :: t } }))
  ∧ (∀ (s : State) (a b : Bool), (s.tw.hn = [] ∨ s.crd.phase ≠ .running ∨ cfgF s 0x800004 1 1 ≠ 1) →
      exec (.hostNotify a b) s = .next (settle s))
  ∧ (∀ s : State, ∃ k : Nat, k = (s.tw.hn.filter (fun h => decide (h.since + 100000 ≤ s.tick ∨ 8 ≤ h.losses))).length
      ∧ exec .hostNotifyDrop s = .next (settle { s with tw := { s.tw with
        hn := s.tw.hn.filter (fun h => decide (s.tick < h.since + 100000 ∧ h.losses < 8)),
        hnDropped := min (s.tw.hnDropped + k) 255 } }))
  ∧ (∀ (s : State) (code len : Nat) (bad : List Nat), s.crd.phase = .running → 0x80 ≤ code → code ≤ 0xFF →
      exec (.horizonMirrorRead code ⟨len, bad⟩) s =
        .next (settle (w0Reply (parityFails s bad) code len true (mirrorBytes (parityFails s bad) (32 * (code - 0x80)) 32))))
  ∧ (∀ (s : State) (code len : Nat) (bad : List Nat), (code < 0x80 ∨ 0xFF < code) →
      exec (.horizonMirrorRead code ⟨len, bad⟩) s = .next (settle s))
  ∧ (∀ s : State, (s.crd.phase = .running → exec .w0Timeout s = .next (settle (count
      { s with tw := { s.tw with timeouts := min (s.tw.timeouts + 1) 255, w0Last := 0x25 } } 288 {})))
      ∧ (s.crd.phase ≠ .running → exec .w0Timeout s = .next (settle s)))

/-- O54, tier 2 (04_kyrdax_command_packets.md, R97 and R102, 05_boot_and_trust.md, R124, 15_sediment_log_and_counters.md,
R361, R364 to R368, R370 to R373, R376 and R382, Tables 15.2 and 15.6). LOG_READ of a fault log that starts, of any
tenant, writes up to COUNT unread entries oldest first (T64: up to 128, to its 4 KiB buffer), marks them read, and
completes OK with their number and the next SEQ; with none OK_NOOP; on a write error DATA_ERROR with none marked. LOG_READ
of the sediment log writes the records from START on, flash before queue (T64: up to 64), and completes OK with their
number, or OK_NOOP with none; where a flash read times out, DATA_ERROR with the records before it. COUNTER_SNAPSHOT
writes COUNT values, all ones for one the tenant may not see. CLOCK_SET records old and new, sets the calendar and
completes OK with the old; the calendar then counts each second, and not at 0. A checkpoint every CHECKPOINT_S writes
nine LIFETIME records. A record goes to the head slot once the log may be written, and leaves the queue; a read-back that
does not match, or a reset between the two programs, tears the slot and keeps the record; the third mismatch in a segment
abandons it. A full segment gives way to the erased next one. An erase neither held nor suspended ends: a failed one
skips its segment. The head search is retried every 60 s. -/
def Obligations.LogsAndCounters : Prop :=
  (∀ (s : State) (c : Nat) (cmd : Cmd), startsNow s c 0x70 (some 0) cmd = true →
      let u := markStarted s c
      let todo := (getTen s cmd.tenant).log.filter (fun e => !e.read)
      let n := min (cmd.f 0xC 4) (if cmd.tenant = 64 then 128 else todo.length)
      let out := todo.take n
      let next := match todo.drop n with
        | e :: _ => e.seq
        | [] => (getTen s cmd.tenant).logSeq
      (∀ dma, todo = [] → exec (.logReadFaultLog c dma) s = .next (settle (complete u c { status := .okNoop, r1 := next })))
      ∧ (∀ a, todo ≠ [] → cmd.tenant ≠ 64 →
        exec (.logReadFaultLog c (some a)) s = .next (settle (complete u c (dmaWriteErr a))))
      ∧ (∀ dma, todo ≠ [] → (dma = none ∨ cmd.tenant = 64) →
        let w := modTen (replyWrite u cmd (out.flatMap flBytes)) cmd.tenant (fun x => { x with
          log := x.log.map (fun e => if out.any (fun y => y.seq = e.seq) then { e with read := true } else e) })
        exec (.logReadFaultLog c dma) s = .next (settle (complete (count w 316 {} out.length) c (okR out.length next)))))
  ∧ (∀ (s : State) (c : Nat) (cmd : Cmd), startsNow s c 0x70 (some 1) cmd = true →
      let u := markStarted s c
      let start := cmd.f 0x18 8
      let flash := (committedBySeq s).filter (fun x => start ≤ x.1)
      let all := flash ++ (s.slog.queue.filter (fun r => start ≤ r.seq)).map (fun r => (r.seq, queuedBytes r))
      let n := min (cmd.f 0xC 4) (if cmd.tenant = 64 then 64 else all.length)
      let out := all.take n
      let after (xs : List (Nat × List Byte)) : Nat := match xs.getLast? with
        | some x => x.1 + 1
        | none => start
      (∀ dma k, k < min n flash.length → exec (.logReadSedimentLog c dma (some k)) s = .next (settle (complete
          (count (replyWrite u cmd ((out.take k).flatMap (·.2))) 316 {} (out.take k).length) c
          { refuse .dataError 5 0x01 with r0 := (out.take k).length, r1 := after (out.take k) })))
      ∧ (∀ dma ft, (∀ k, ft = some k → min n flash.length ≤ k) →
        (out = [] → exec (.logReadSedimentLog c dma ft) s =
          .next (settle (complete u c { status := .okNoop, r1 := start })))
        ∧ (∀ a, out ≠ [] → cmd.tenant ≠ 64 → dma = some a →
          exec (.logReadSedimentLog c dma ft) s = .next (settle (complete u c (dmaWriteErr a))))
        ∧ (out ≠ [] → (dma = none ∨ cmd.tenant = 64) → exec (.logReadSedimentLog c dma ft) s = .next (settle (complete
          (count (replyWrite u cmd (out.flatMap (·.2))) 316 {} out.length) c (okR out.length (after out)))))))
  ∧ (∀ (s : State) (c : Nat) (cmd : Cmd), startsNow s c 0x71 none cmd = true →
      let u := markStarted s c
      let n := min (cmd.f 0xA 2) (if cmd.tenant = 64 then 512 else 448)
      let vs := (List.range n).map (fun k => if counterShown s cmd.tenant (cmd.f 8 2 + k) then counterAt u (cmd.f 8 2 + k)
        else 2 ^ 64 - 1)
      (∀ dma, (dma = none ∨ cmd.tenant = 64) → exec (.counterSnapshot c dma) s =
        .next (settle (complete (replyWrite u cmd (vs.flatMap (leBytes 8))) c (okR n))))
      ∧ ∀ a, cmd.tenant ≠ 64 → exec (.counterSnapshot c (some a)) s = .next (settle (complete u c (dmaWriteErr a))))
  ∧ (∀ (s : State) (cmd : Cmd) (bs : List Byte),
      (cmd.tenant ≠ 64 → replyWrite s cmd bs = hostWrite s (cmd.f 0x10 8) bs)
      ∧ (cmd.tenant = 64 → (replyWrite s cmd bs).mem = s.mem
        ∧ (replyWrite s cmd bs).qc.t64.buf = KMap.writeN mem0 s.qc.t64.buf 0 (bs.take 4096)))
  ∧ (∀ (s : State) (c : Nat) (cmd : Cmd), startsNow s c 0x72 none cmd = true →
      let u := logRec (count (markStarted s c) 317 {}) 0x12 9 0
        (leBytes 8 s.slog.calendar ++ leBytes 8 (cmd.f 8 8) ++ leBytes 1 cmd.tenant)
      exec (.clockSet c) s = .next (settle (complete
        { u with slog := { u.slog with calendar := cmd.f 8 8, calSince := s.tick } } c (okR s.slog.calendar))))
  ∧ (∀ s : State, s.slog.calendar ≠ 0 → s.slog.calSince + 1000000 ≤ s.tick → exec .calendarTick s = .next (settle { s with
      slog := { s.slog with calendar := (s.slog.calendar + 1) % 2 ^ 64, calSince := s.slog.calSince + 1000000 } }))
  ∧ (∀ s : State, (s.slog.calendar = 0 ∨ s.tick < s.slog.calSince + 1000000) → exec .calendarTick s = .next (settle s))
  ∧ (∀ s : State,
      let due := s.slog.lastCheckpoint + cfgF s 0x900018 16 0 * 1000000
      (s.crd.fwUp = true → s.slog.restored = true → due ≤ s.tick → exec .checkpoint s = .next (settle (checkpointNow s)))
      ∧ ((s.crd.fwUp = false ∨ s.slog.restored = false ∨ s.tick < due) → exec .checkpoint s = .next (settle s))
      ∧ (checkpointNow s).slog.lastCheckpoint = s.tick ∧ (checkpointNow s).slog.setNo = s.slog.setNo + 1)
  ∧ (∀ (s : State) (r : Rec) (rest : List Rec), logWritable s = true → s.slog.queue = r :: rest → 1 ≤ s.slog.headSlot →
      s.slog.headSlot < 1024 →
      let a := 0x1000000 + 64 * (1024 * s.slog.headSeg + s.slog.headSlot)
      (∀ e, exec (.recordWrite e) s = .next (settle (writeRecord s e)))
      ∧ (writeRecord s .good).mem = { s.mem with flash := KMap.writeN flash1 s.mem.flash a (recBytes r) }
      ∧ (writeRecord s .good).slog.headSlot = s.slog.headSlot + 1 ∧ (writeRecord s .good).slog.headSeq = r.seq
      ∧ (s.slog.dropReport = 0 → (writeRecord s .good).slog.queue = rest)
      ∧ (∀ e, e ≠ .good → (writeRecord s e).slog.queue = s.slog.queue
        ∧ (writeRecord s e).mem = { s.mem with flash := KMap.writeN flash1 s.mem.flash a (recBody r) }
        ∧ (writeRecord s e).slog.torn = min (s.slog.torn + 1) 65535)
      ∧ (writeRecord s .cut).slog.headSlot = s.slog.headSlot + 1
      ∧ (s.slog.mismatches < 2 → (writeRecord s .mismatch).slog.headSlot = s.slog.headSlot + 1)
      ∧ (2 ≤ s.slog.mismatches →
        (writeRecord s .mismatch).slog.headSlot = 1024 ∧ (writeRecord s .mismatch).slog.flashErr = true))
  ∧ (∀ s : State, (logWritable s = false ∨ s.slog.headSlot = 0 ∨ 1024 ≤ s.slog.headSlot ∨ s.slog.queue = []) → ∀ e,
      exec (.recordWrite e) s = .next (settle s))
  ∧ (∀ s : State, (logWritable s = true → 1024 ≤ s.slog.headSlot → s.slog.erasing = none →
        exec .segmentEntry s = .next (settle (enterSegment s)))
      ∧ ((logWritable s = false ∨ s.slog.headSlot < 1024 ∨ s.slog.erasing ≠ none) →
        exec .segmentEntry s = .next (settle s))
      ∧ (enterSegment s).slog.headSeg = nextSegment s ∧ (enterSegment s).slog.headSlot = 1
      ∧ (enterSegment s).slog.segSeq = s.slog.segSeq + 1 ∧ (enterSegment s).slog.erasing ≠ none)
  ∧ (∀ s : State, s.slog.erasing = none → ∀ b, exec (.segmentEraseEnd b) s = .next (settle s))
  ∧ (∀ (s : State) (k : Nat), s.slog.erasing = some k →
      (∀ b, (s.slog.eraseHeld = true ∨ eraseSuspended s = true) → exec (.segmentEraseEnd b) s = .next (settle s))
      ∧ (s.slog.eraseHeld = false → eraseSuspended s = false → ∃ t : State,
        exec (.segmentEraseEnd true) s = .next (settle t) ∧ t.slog.erasing = none
        ∧ t.mem = { s.mem with flash := KMap.clearRange s.mem.flash (slotAddr (1024 * k)) (slotAddr (1024 * (k + 1))) })
      ∧ (s.slog.eraseHeld = false → eraseSuspended s = false → ∃ t : State,
        exec (.segmentEraseEnd false) s = .next (settle t)
        ∧ t.slog.skipped = s.slog.skipped ++ [k] ∧ t.slog.erasing = some (nextSeg t.slog.skipped s.slog.headSeg 256)
        ∧ t.mem = s.mem))
  ∧ (∀ s : State, (∀ d, s.slog.retryAt = some d → s.crd.fwUp = true → d ≤ s.tick →
        exec (.logHeadSearchRetry true) s =
          .next (settle { s with slog := { s.slog with retryAt := some (s.tick + 60000000) } })
        ∧ exec (.logHeadSearchRetry false) s = .next (settle (checkpointNow (restoreCounts (headSearch s)))))
      ∧ (∀ b, (s.slog.retryAt = none ∨ s.crd.fwUp = false ∨ ∃ d, s.slog.retryAt = some d ∧ s.tick < d) →
        exec (.logHeadSearchRetry b) s = .next (settle s)))

/-- O55, tier 2 (15_sediment_log_and_counters.md, R377 to R380, Tables 15.5 and 15.8). A write of PM_SAMP_CTRL by T0's
host with EN rising latches SAMP and PERIOD of both groups, seeds the LFSR of every bed, and restarts SEQ with no
sample due; with EN 1 already it changes nothing; with EN 0 it stops sampling; a VF has no such register. The first due
overflow sample that a thread's grain can take, within its skid (0xFF for an event that no instruction causes), joins the
bed's queue of 4, or is counted lost; with none due for it, sampling off or another skid nothing happens. A tagged
instruction's sample joins the queue as it retires. A bed's oldest sample goes to the ring at WPTR as 64 bytes with the
next SEQ; with no room it is lost; a write error stops sampling and sets the error; after losses a record of kind 3 goes
first, and the sample is lost where that takes the last room. -/
def Obligations.PerformanceSamples : Prop :=
  (∀ (s : State) (v : Word), hostMay s 0 = true →
      (v.getLsbD 0 = true → s.pm.en = false → ∃ t : State, exec (.samplingEnable 0 v) s = .next (settle t)
        ∧ t.pm.en = true ∧ t.pm.seq = 0 ∧ t.pm.due = [] ∧ t.pm.sampCount = []
        ∧ (∀ g, g < 2 → KMap.get (fun _ => 0) t.pm.samp g = cfgGet s (0xA00118 + 0x20 * g)
          ∧ KMap.get (fun _ => 0) t.pm.period g = cfgGet s (0xA0011C + 0x20 * g))
        ∧ (∀ b, b < 64 → KMap.get lfsr0 t.pm.lfsr b = lfsrSeed s b) ∧ t = { s with pm := t.pm })
      ∧ (v.getLsbD 0 = true → s.pm.en = true → exec (.samplingEnable 0 v) s = .next (settle s))
      ∧ (v.getLsbD 0 = false → exec (.samplingEnable 0 v) s = .next (settle { s with pm := { s.pm with en := false } })))
  ∧ (∀ (s : State) (fn : Nat) (v : Word), (fn ≠ 0 ∨ hostMay s 0 = false) → exec (.samplingEnable fn v) s = .next (settle s))
  ∧ (∀ (s : State) (g : Fin 2) (p : Fin 1088) (t : Fin 8) (skid : Nat),
      let due := KMap.get (fun _ => []) s.pm.due g.val
      let fits (lg : Nat) : Bool := decide (lg = 1024) || decide (logicalOf s p.val = some lg)
      let e := bf (sampOf s g.val) 3 0
      let inSkid := if noCause g.val e then decide (skid = 0xFF) else decide (skid ≤ 40)
      ((due.find? fits = none ∨ sampling s g.val = false ∨ inSkid = false) →
        exec (.overflowSample g p t skid) s = .next (settle s))
      ∧ (∀ lg, due.find? fits = some lg → sampling s g.val = true → inSkid = true →
        let u : State := { s with pm := { s.pm with due := KMap.set (fun _ => []) s.pm.due g.val (due.erase lg) } }
        exec (.overflowSample g p t skid) s = .next (settle (sampleIntoBed u (p.val / 17)
          { takeSample u 1 g.val p.val t.val skid (getThread s p.val t.val).pc.toNat with
            count := (pmGet s (16 * g.val + e)).toNat }))))
  ∧ (∀ (s : State) (p : Fin 1088) (t : Fin 8) (addr lat ef : Nat),
      let u : State := { s with pm := { s.pm with tagged := KMap.set (fun _ => none) s.pm.tagged p.val none } }
      (∀ pc, KMap.get (fun _ => none) s.pm.tagged p.val = some (t.val, pc) →
        exec (.tagSample p t addr lat ef) s = .next (settle (sampleIntoBed u (p.val / 17)
          { takeSample u 2 0 p.val t.val 0 pc with addr := addr, latency := lat, eflags := ef })))
      ∧ ((∀ pc, KMap.get (fun _ => none) s.pm.tagged p.val ≠ some (t.val, pc)) →
        exec (.tagSample p t addr lat ef) s = .next (settle s)))
  ∧ (∀ (s : State) (b : Nat) (x : Sample),
      ((bedSamples s b).length < 4 → bedSamples (sampleIntoBed s b x) b = bedSamples s b ++ [x])
      ∧ (4 ≤ (bedSamples s b).length → sampleIntoBed s b x = sampleLost s))
  ∧ (∀ (s : State) (b : Fin 64), bedSamples s b.val = [] → ∀ dma, exec (.sampleWrite b dma) s = .next (settle s))
  ∧ (∀ (s : State) (b : Fin 64) (x : Sample) (rest : List Sample), bedSamples s b.val = x :: rest →
      let u : State := { s with pm := { s.pm with queues := KMap.set (fun _ => []) s.pm.queues b.val rest } }
      let v : State := { ringPut u (lostSample u) with pm := { (ringPut u (lostSample u)).pm with lostReport := 0 } }
      (∀ a, exec (.sampleWrite b (some a)) s = .next (settle { u with pm := { u.pm with en := false, dmaErr := true } }))
      ∧ (ringRoom s = 0 → exec (.sampleWrite b none) s = .next (settle (sampleLost u)))
      ∧ (ringRoom s ≠ 0 → s.pm.lostReport = 0 → ∃ t : State, exec (.sampleWrite b none) s = .next (settle t)
        ∧ t = { u with mem := t.mem, pm := { u.pm with wptr := (s.pm.wptr + 1) % ringRecords s, seq := s.pm.seq + 1 } }
        ∧ t = hostWrite { u with pm := t.pm } (cfgD s 0xA00010 / 4096 * 4096 + 64 * s.pm.wptr) (sampleBytes x s.pm.seq))
      ∧ (ringRoom s ≠ 0 → s.pm.lostReport ≠ 0 → ringRoom v ≠ 0 →
        exec (.sampleWrite b none) s = .next (settle (ringPut v x)))
      ∧ (ringRoom s ≠ 0 → s.pm.lostReport ≠ 0 → ringRoom v = 0 →
        exec (.sampleWrite b none) s = .next (settle (sampleLost v))))

/-- O56, tier 2 (R90). For a command that has not started, and an earlier-accepted command of its ring that is still in
the command table, where either of the two has ORDER set: every row that starts a KCP command leaves everything as it
is, so that a command with ORDER set starts only after every command accepted earlier from its ring has completed, and
no command accepted later from its ring starts before it completes. A command leaves the table only as it completes. -/
def Obligations.OrderedCommandsWait : Prop :=
  ∀ (s : State) (c : Nat) (cmd e : Cmd) (dma : Option Nat) (ft : Option Nat) (e2 : StageEnd) (i : Instr),
    findCmd s c = some cmd → cmd.started = false → e ∈ s.qc.cmds → e.tenant = cmd.tenant → e.qp = cmd.qp → e.seq < c →
    (cmd.order = true ∨ e.order = true) →
    i ∈ ([.nop c, .echo c, .tenantReset c, .stratumPark c, .stratumRestore c, .stratumIngest c, .stratumDrop c, .stratumSpill c,
      .stratumFetch c, .modelLoad c dma, .modelUnload c, .accPowerState c, .accRailSet c, .accLimitSet c, .accFwPush c dma,
      .accRelease c, .coolSet c, .coolTableLoad c dma, .leakArm c, .domainState c, .fwStage c dma e2, .fwCommitTrial c,
      .fwConfirm c, .kernelLoad c dma, .kernelLaunch c, .kernelAbort c, .logReadFaultLog c dma, .logReadSedimentLog c dma ft,
      .counterSnapshot c dma, .clockSet c] : List Instr) →
    exec i s = .next (settle s)

/-- O57, tier 2 (R94). An arbitration round never takes the command table past 4096 commands; while 4096 are in it, a
round accepts nothing and leaves every ring as it is, and QC_STATUS.FETCH_PAUSED reads 1. -/
def Obligations.CommandTableFull : Prop :=
  (∀ s t : State, s.qc.cmds.length ≤ 4096 → exec .arbitrationRound s = .next t → t.qc.cmds.length ≤ 4096)
  ∧ (∀ s : State, 4096 ≤ s.qc.cmds.length → exec .arbitrationRound s = .next (settle s)
      ∧ (settle s).qc = s.qc ∧ (settle s).mem = s.mem ∧ (regWord s 0 0x20000).testBit 0 = true)

/-- O58, tier 2 (R96). Where the host may write, 0x4842 to HOST_HB makes the host heartbeat run from the current tick, and
any other value is dropped and sets REG_BUSY of queue control; an entry accepted from T0 to T63 does the same for the
host heartbeat, and one from T64 for the BMC heartbeat, which the W0 code BMC_HB refreshes too. The effect of a lapse
is stated apart. -/
def Obligations.HeartbeatsRefreshed : Prop :=
  (∀ s : State, hostMay s 0 = true → exec (.hostHb 0x4842#32) s =
      .next (settle (motorsFollow { s with qc := { s.qc with hostBeat := some s.tick } })))
  ∧ (∀ s : State, (motorsFollow s).qc = s.qc)
  ∧ (∀ (s : State) (v : Word), hostMay s 0 = true → v ≠ 0x4842#32 → exec (.hostHb v) s = .next (settle (setBusy s 2)))
  ∧ (∀ (s : State) (t q cls : Nat) (raw : List Byte), t < 64 → (acceptEntry s t q cls raw).qc.hostBeat = some s.tick)
  ∧ (∀ (s : State) (q cls : Nat) (raw : List Byte), (acceptEntry s 64 q cls raw).qc.bmcBeat = some s.tick)
  ∧ (∀ s : State, s.crd.phase = .running → pecReq s = false → ∃ t : State,
      exec (.bmcHb ⟨0, [], none, false, false⟩) s = .next (settle t) ∧ t.qc.bmcBeat = some s.tick)

/-- O59, tier 2 (R324). After a tooth, real or synthetic, with at least five intervals recorded before, T_P is the mean of
the last six recorded intervals, rounded down. The speed reported is 2 000 000 000 / (T_P × POLE_PAIRS), rounded down,
in RAMP and RUNNING outside alignment, and 0 in the states 0, 3 and 4 and during alignment. -/
def Obligations.MotorSpeedReported : Prop :=
  (∀ (s : State) (m time iv now : Nat) (synthetic : Bool), 5 ≤ (getMotor s m).intervals.length →
      (getMotor (tooth s m time iv now synthetic) m).tp = (iv + ((getMotor s m).intervals.take 5).sum) / 6
      ∧ (getMotor (tooth s m time iv now synthetic) m).intervals = iv :: (getMotor s m).intervals.take 5)
  ∧ (∀ (s : State) (m : Nat), ((getMotor s m).st = .ramp ∨ (getMotor s m).st = .running) → (getMotor s m).aligning = false →
      (getMotor s m).tp * polePairs s m ≠ 0 → motorSpeed s m = 2000000000 / ((getMotor s m).tp * polePairs s m))
  ∧ (∀ (s : State) (m : Nat), ((getMotor s m).st = .stopped ∨ (getMotor s m).st = .restart ∨ (getMotor s m).st = .lockout
      ∨ (getMotor s m).aligning = true) → motorSpeed s m = 0)

/-- O60, tier 2 (R333, R336). OC_HARD asserted sets OC_HARD, turns every gate output off and puts the channel in LOCKOUT,
from every state. Desaturation judged on two or three legs at once, or on a second leg within 8 PCLK cycles of the
first, turns every gate output off, sets PHASE_PHASE and the DESAT bit of every leg concerned, and puts the channel in
LOCKOUT, from every state. What happens within 40 ns happens in one step. -/
def Obligations.LockoutFaults : Prop :=
  (∀ (s : State) (m : Fin 8), ∃ t : State, exec (.ocHard m true) s = .next (settle t)
      ∧ (getMotor t m.val).ocHard = true ∧ (getMotor t m.val).st = .lockout
      ∧ ∀ leg c, gateLeg t m.val leg c = (false, false))
  ∧ (∀ (s : State) (m : Fin 8) (t : PclkTime) (legs : List (Fin 3)), 2 ≤ legs.eraseDups.length → ∃ u : State,
      exec (.desaturation m t legs false) s = .next (settle u) ∧ (getMotor u m.val).phasePhase = true
      ∧ (getMotor u m.val).st = .lockout ∧ (∀ l ∈ legs, (getMotor u m.val).desat.testBit l.val = true)
      ∧ ∀ leg c, gateLeg u m.val leg c = (false, false))
  ∧ (∀ (s : State) (m : Fin 8) (t t0 : PclkTime) (l l0 : Fin 3), (getMotor s m.val).firstJudged = some (t0, l0.val) →
      t0 ≤ t → t ≤ t0 + 8 → l ≠ l0 → ∃ u : State,
      exec (.desaturation m t [l] false) s = .next (settle u) ∧ (getMotor u m.val).phasePhase = true
      ∧ (getMotor u m.val).st = .lockout ∧ (getMotor u m.val).desat.testBit l.val = true
      ∧ (getMotor u m.val).desat.testBit l0.val = true ∧ ∀ leg c, gateLeg u m.val leg c = (false, false))
end

