-- ==== Sys2Proof/Laws/KMap.lean ====
section
/-! SUPPORT. Laws of the finite maps: reading after a write, and the canonical form that every operation keeps. -/

namespace Sys2Proof.Machine

variable {α : Type}

/-! ### Reading after a write -/

theorem KMap.get_insert (d : Nat → α) (m : KMap α) (k j : Nat) (v : α) :
    KMap.get d (KMap.insert m k v) j = if j = k then v else KMap.get d m j := by
  induction m with
  | nil => simp [KMap.insert, KMap.get]
  | cons e m ih =>
    obtain ⟨k', v'⟩ := e
    simp only [KMap.insert]
    split
    · simp only [KMap.get]
    · split
      · rename_i h1 h2; subst h2
        simp only [KMap.get]
        by_cases hj : j = k <;> simp [hj]
      · rename_i h1 h2
        simp only [KMap.get, ih]
        by_cases hj : j = k'
        · have : j ≠ k := by omega
          simp [hj]; intro h; omega
        · simp [hj]

theorem KMap.get_erase (d : Nat → α) (m : KMap α) (k j : Nat) :
    KMap.get d (KMap.erase m k) j = if j = k then d k else KMap.get d m j := by
  induction m with
  | nil => simp only [KMap.erase, KMap.get]; split <;> simp [*]
  | cons e m ih =>
    obtain ⟨k', v'⟩ := e
    simp only [KMap.erase]
    split
    · rename_i h; subst h
      rw [ih]; simp only [KMap.get]
      by_cases hj : j = k <;> simp [hj]
    · rename_i h
      simp only [KMap.get, ih]
      by_cases hj : j = k'
      · have : ¬ k' = k := fun e => h e.symm
        simp [hj, this]
      · simp [hj]

@[simp] theorem KMap.get_set [DecidableEq α] (d : Nat → α) (m : KMap α) (k j : Nat) (v : α) :
    KMap.get d (KMap.set d m k v) j = if j = k then v else KMap.get d m j := by
  unfold KMap.set
  split
  · rename_i h; rw [KMap.get_erase, h]
  · exact KMap.get_insert d m k j v

theorem KMap.get_set_self [DecidableEq α] (d : Nat → α) (m : KMap α) (k : Nat) (v : α) :
    KMap.get d (KMap.set d m k v) k = v := by simp

theorem KMap.get_set_other [DecidableEq α] (d : Nat → α) (m : KMap α) (k j : Nat) (v : α) (h : j ≠ k) :
    KMap.get d (KMap.set d m k v) j = KMap.get d m j := by simp [h]

theorem KMap.get_writeN_other [DecidableEq α] (d : Nat → α) (m : KMap α) (a j : Nat) (l : List α)
    (h : j < a ∨ a + l.length ≤ j) : KMap.get d (KMap.writeN d m a l) j = KMap.get d m j := by
  induction l generalizing m a with
  | nil => rfl
  | cons v l ih =>
    simp only [List.length_cons] at h
    rw [KMap.writeN, ih _ _ (by omega), KMap.get_set_other _ _ _ _ _ (by omega)]

theorem KMap.get_writeN [DecidableEq α] (d : Nat → α) (m : KMap α) (a i : Nat) (l : List α) (h : i < l.length) :
    KMap.get d (KMap.writeN d m a l) (a + i) = l[i] := by
  induction l generalizing m a i with
  | nil => simp at h
  | cons v l ih =>
    rw [KMap.writeN]
    cases i with
    | zero => rw [KMap.get_writeN_other _ _ _ _ _ (by omega)]; simp
    | succ i =>
      have := ih (KMap.set d m a v) (a + 1) i (by simpa using h)
      rw [show a + (i + 1) = a + 1 + i by omega, this]; rfl

theorem KMap.readN_congr (d : Nat → α) (m m' : KMap α) (a n : Nat)
    (h : ∀ i, i < n → KMap.get d m (a + i) = KMap.get d m' (a + i)) : KMap.readN d m a n = KMap.readN d m' a n := by
  induction n generalizing a with
  | zero => rfl
  | succ n ih =>
    have h0 := h 0 (by omega)
    simp only [KMap.readN]
    rw [show KMap.get d m a = KMap.get d m' a by simpa using h0]
    rw [ih (a + 1) (fun i hi => by have := h (i + 1) (by omega); rwa [show a + (i + 1) = a + 1 + i by omega] at this)]

@[simp] theorem KMap.readN_length (d : Nat → α) (m : KMap α) (a n : Nat) : (KMap.readN d m a n).length = n := by
  induction n generalizing a with
  | zero => rfl
  | succ n ih => simp [KMap.readN, ih]

theorem KMap.readN_writeN_self [DecidableEq α] (d : Nat → α) (m : KMap α) (a : Nat) (l : List α) :
    KMap.readN d (KMap.writeN d m a l) a l.length = l := by
  induction l generalizing m a with
  | nil => rfl
  | cons v l ih =>
    rw [KMap.writeN, List.length_cons, KMap.readN, ih, KMap.get_writeN_other _ _ _ _ _ (by omega)]; simp

theorem KMap.readN_writeN_other [DecidableEq α] (d : Nat → α) (m : KMap α) (a b n : Nat) (l : List α)
    (h : b + n ≤ a ∨ a + l.length ≤ b) : KMap.readN d (KMap.writeN d m a l) b n = KMap.readN d m b n :=
  KMap.readN_congr _ _ _ _ _ (fun i hi => KMap.get_writeN_other _ _ _ _ _ (by omega))

theorem KMap.get_clearRange (d : Nat → α) (m : KMap α) (lo hi j : Nat) :
    KMap.get d (KMap.clearRange m lo hi) j = if lo ≤ j ∧ j < hi then d j else KMap.get d m j := by
  induction m with
  | nil => simp [KMap.clearRange, KMap.get]
  | cons e m ih =>
    obtain ⟨k, v⟩ := e
    unfold KMap.clearRange at ih ⊢
    rw [List.filter_cons]
    split
    · rename_i h
      simp only [decide_eq_true_eq] at h
      simp only [KMap.get, ih]
      by_cases hj : j = k
      · subst hj; have : ¬ (lo ≤ j ∧ j < hi) := by omega
        simp [this]
      · simp [hj]
    · rename_i h
      simp only [decide_eq_true_eq] at h
      rw [ih]; simp only [KMap.get]
      by_cases hj : j = k
      · subst hj; have : lo ≤ j ∧ j < hi := by omega
        simp [this]
      · simp [hj]

/-! ### The canonical form -/

theorem KMap.risingFrom_mono (m : KMap α) (a b : Nat) (h : a ≤ b) (hm : KMap.risingFrom b m = true) :
    KMap.risingFrom a m = true := by
  cases m with
  | nil => rfl
  | cons e m =>
    simp only [KMap.risingFrom, Bool.and_eq_true, decide_eq_true_eq] at hm ⊢
    exact ⟨by omega, hm.2⟩

theorem KMap.risingFrom_insert (m : KMap α) (lo k : Nat) (v : α) (h : lo ≤ k) (hm : KMap.risingFrom lo m = true) :
    KMap.risingFrom lo (KMap.insert m k v) = true := by
  induction m generalizing lo with
  | nil => simp [KMap.insert, KMap.risingFrom, h]
  | cons e m ih =>
    obtain ⟨k', v'⟩ := e
    simp only [KMap.risingFrom, Bool.and_eq_true, decide_eq_true_eq] at hm
    simp only [KMap.insert]
    split
    · simp only [KMap.risingFrom, Bool.and_eq_true, decide_eq_true_eq]
      exact ⟨h, by omega, hm.2⟩
    · split
      · rename_i h2; subst h2
        simp only [KMap.risingFrom, Bool.and_eq_true, decide_eq_true_eq]
        exact ⟨h, hm.2⟩
      · simp only [KMap.risingFrom, Bool.and_eq_true, decide_eq_true_eq]
        exact ⟨hm.1, ih _ (by omega) hm.2⟩

theorem KMap.risingFrom_filter (m : KMap α) (lo : Nat) (p : Nat × α → Bool) (hm : KMap.risingFrom lo m = true) :
    KMap.risingFrom lo (m.filter p) = true := by
  induction m generalizing lo with
  | nil => rfl
  | cons e m ih =>
    obtain ⟨k, v⟩ := e
    simp only [KMap.risingFrom, Bool.and_eq_true, decide_eq_true_eq] at hm
    rw [List.filter_cons]
    split
    · simp only [KMap.risingFrom, Bool.and_eq_true, decide_eq_true_eq]
      exact ⟨hm.1, ih _ hm.2⟩
    · exact KMap.risingFrom_mono _ _ _ (by omega) (ih _ hm.2)

theorem KMap.erase_eq_filter (m : KMap α) (k : Nat) : KMap.erase m k = m.filter (fun e => decide (k ≠ e.1)) := by
  induction m with
  | nil => rfl
  | cons e m ih =>
    obtain ⟨k', v⟩ := e
    simp only [KMap.erase, List.filter_cons, ih]
    by_cases h : k = k' <;> simp [h]

theorem KMap.mem_insert (m : KMap α) (k : Nat) (v : α) (e : Nat × α) (h : e ∈ KMap.insert m k v) : e = (k, v) ∨ e ∈ m := by
  induction m with
  | nil => simpa [KMap.insert] using h
  | cons x m ih =>
    obtain ⟨k', v'⟩ := x
    simp only [KMap.insert] at h
    split at h
    · simpa using h
    · split at h
      · rcases List.mem_cons.mp h with h | h
        · exact .inl h
        · exact .inr (List.mem_cons_of_mem _ h)
      · rcases List.mem_cons.mp h with h | h
        · exact .inr (h ▸ List.mem_cons_self)
        · rcases ih h with h | h
          · exact .inl h
          · exact .inr (List.mem_cons_of_mem _ h)

theorem KMap.wf_filter [DecidableEq α] (d : Nat → α) (m : KMap α) (p : Nat × α → Bool) (h : KMap.wf d m = true) :
    KMap.wf d (m.filter p) = true := by
  simp only [KMap.wf, Bool.and_eq_true, List.all_eq_true] at h ⊢
  exact ⟨KMap.risingFrom_filter _ _ _ h.1, fun e he => h.2 e (List.mem_filter.mp he).1⟩

theorem KMap.wf_erase [DecidableEq α] (d : Nat → α) (m : KMap α) (k : Nat) (h : KMap.wf d m = true) :
    KMap.wf d (KMap.erase m k) = true := by
  rw [KMap.erase_eq_filter]; exact KMap.wf_filter _ _ _ h

theorem KMap.wf_insert [DecidableEq α] (d : Nat → α) (m : KMap α) (k : Nat) (v : α) (hv : v ≠ d k) (h : KMap.wf d m = true) :
    KMap.wf d (KMap.insert m k v) = true := by
  simp only [KMap.wf, Bool.and_eq_true, List.all_eq_true, decide_eq_true_eq] at h ⊢
  refine ⟨KMap.risingFrom_insert _ _ _ _ (Nat.zero_le _) h.1, fun e he => ?_⟩
  rcases KMap.mem_insert _ _ _ _ he with rfl | he
  · exact hv
  · exact h.2 e he

/-- Every write keeps the canonical form. -/
theorem KMap.wf_set [DecidableEq α] (d : Nat → α) (m : KMap α) (k : Nat) (v : α) (h : KMap.wf d m = true) :
    KMap.wf d (KMap.set d m k v) = true := by
  unfold KMap.set
  split
  · exact KMap.wf_erase _ _ _ h
  · rename_i hv; exact KMap.wf_insert _ _ _ _ hv h

theorem KMap.wf_writeN [DecidableEq α] (d : Nat → α) (m : KMap α) (a : Nat) (l : List α) (h : KMap.wf d m = true) :
    KMap.wf d (KMap.writeN d m a l) = true := by
  induction l generalizing m a with
  | nil => exact h
  | cons v l ih => exact ih _ _ (KMap.wf_set _ _ _ _ h)

theorem KMap.wf_clearRange [DecidableEq α] (d : Nat → α) (m : KMap α) (lo hi : Nat) (h : KMap.wf d m = true) :
    KMap.wf d (KMap.clearRange m lo hi) = true := KMap.wf_filter _ _ _ h

theorem KMap.wf_nil [DecidableEq α] (d : Nat → α) : KMap.wf d ([] : KMap α) = true := rfl

end Sys2Proof.Machine
end

