-- ==== Sys2Proof/Laws/State.lean ====
section
/-! SUPPORT. What each update of the state changes and what it leaves: for each operation on one field, every other field and every
reader of another field as before (all true by rfl), and the field it writes as written. -/

namespace Sys2Proof.Machine

/-- What setDom leaves as it is. -/
@[simp] theorem setDom_keeps (s : State) (d : Nat) (x : Dom) :
    (setDom s d x).pending = s.pending ∧ (setDom s d x).tick = s.tick ∧ (setDom s d x).freeCtr = s.freeCtr
    ∧ (setDom s d x).resp = s.resp ∧ (setDom s d x).crd = s.crd ∧ (setDom s d x).domSeqs = s.domSeqs
    ∧ (setDom s d x).regs = s.regs ∧ (setDom s d x).hz = s.hz ∧ (setDom s d x).qc = s.qc ∧ (setDom s d x).slog = s.slog
    ∧ (setDom s d x).pm = s.pm ∧ (setDom s d x).boot = s.boot ∧ (setDom s d x).sealEng = s.sealEng
    ∧ (setDom s d x).garr = s.garr ∧ (setDom s d x).strata = s.strata ∧ (setDom s d x).links = s.links
    ∧ (setDom s d x).pow = s.pow ∧ (setDom s d x).therm = s.therm ∧ (setDom s d x).leaks = s.leaks
    ∧ (setDom s d x).motors = s.motors ∧ (setDom s d x).tw = s.tw ∧ (setDom s d x).jtag = s.jtag
    ∧ (setDom s d x).mem = s.mem ∧ getQp (setDom s d x) = getQp s ∧ getTen (setDom s d x) = getTen s
    ∧ findCmd (setDom s d x) = findCmd s ∧ getAcc (setDom s d x) = getAcc s ∧ getSpoke (setDom s d x) = getSpoke s
    ∧ getChan (setDom s d x) = getChan s ∧ getThr (setDom s d x) = getThr s ∧ getLeak (setDom s d x) = getLeak s
    ∧ getMotor (setDom s d x) = getMotor s ∧ getPort (setDom s d x) = getPort s ∧ getBed (setDom s d x) = getBed s
    ∧ getGrain (setDom s d x) = getGrain s ∧ getThread (setDom s d x) = getThread s
    ∧ getRemap (setDom s d x) = getRemap s ∧ getKslot (setDom s d x) = getKslot s ∧ getModel (setDom s d x) = getModel s
    ∧ getWindow (setDom s d x) = getWindow s ∧ findRec (setDom s d x) = findRec s
    ∧ getAccBoot (setDom s d x) = getAccBoot s ∧ hostRead (setDom s d x) = hostRead s ∧ gmRead (setDom s d x) = gmRead s
    ∧ accRead (setDom s d x) = accRead s ∧ flashRead (setDom s d x) = flashRead s ∧ lsRead (setDom s d x) = lsRead s
    ∧ getBusy (setDom s d x) = getBusy s ∧ cfgGet (setDom s d x) = cfgGet s ∧ cfgN (setDom s d x) = cfgN s
    ∧ cfgF (setDom s d x) = cfgF s ∧ cfgD (setDom s d x) = cfgD s ∧ ltGet (setDom s d x) = ltGet s
    ∧ pmGet (setDom s d x) = pmGet s := by
  refine ⟨?_, ?_, ?_, ?_, ?_, ?_, ?_, ?_, ?_, ?_, ?_, ?_, ?_, ?_, ?_, ?_, ?_, ?_, ?_, ?_, ?_, ?_, ?_, ?_, ?_, ?_, ?_, ?_, ?_, ?_, ?_, ?_, ?_, ?_, ?_, ?_, ?_, ?_, ?_, ?_, ?_, ?_, ?_, ?_, ?_, ?_, ?_, ?_, ?_, ?_, ?_, ?_, ?_, ?_⟩ <;> rfl

/-- What setQp leaves as it is. -/
@[simp] theorem setQp_keeps (s : State) (f q : Nat) (x : Qp) :
    (setQp s f q x).pending = s.pending ∧ (setQp s f q x).tick = s.tick ∧ (setQp s f q x).freeCtr = s.freeCtr
    ∧ (setQp s f q x).resp = s.resp ∧ (setQp s f q x).crd = s.crd ∧ (setQp s f q x).doms = s.doms
    ∧ (setQp s f q x).domSeqs = s.domSeqs ∧ (setQp s f q x).regs = s.regs ∧ (setQp s f q x).hz = s.hz
    ∧ (setQp s f q x).slog = s.slog ∧ (setQp s f q x).pm = s.pm ∧ (setQp s f q x).boot = s.boot
    ∧ (setQp s f q x).sealEng = s.sealEng ∧ (setQp s f q x).garr = s.garr ∧ (setQp s f q x).strata = s.strata
    ∧ (setQp s f q x).links = s.links ∧ (setQp s f q x).pow = s.pow ∧ (setQp s f q x).therm = s.therm
    ∧ (setQp s f q x).leaks = s.leaks ∧ (setQp s f q x).motors = s.motors ∧ (setQp s f q x).tw = s.tw
    ∧ (setQp s f q x).jtag = s.jtag ∧ (setQp s f q x).mem = s.mem ∧ (setQp s f q x).qc.tenants = s.qc.tenants
    ∧ (setQp s f q x).qc.t64 = s.qc.t64 ∧ (setQp s f q x).qc.cmds = s.qc.cmds
    ∧ (setQp s f q x).qc.nextSeq = s.qc.nextSeq ∧ (setQp s f q x).qc.firstServed = s.qc.firstServed
    ∧ (setQp s f q x).qc.vfs = s.qc.vfs ∧ (setQp s f q x).qc.msix = s.qc.msix
    ∧ (setQp s f q x).qc.hostBeat = s.qc.hostBeat ∧ (setQp s f q x).qc.bmcBeat = s.qc.bmcBeat
    ∧ getDom (setQp s f q x) = getDom s ∧ getTen (setQp s f q x) = getTen s ∧ findCmd (setQp s f q x) = findCmd s
    ∧ getAcc (setQp s f q x) = getAcc s ∧ getSpoke (setQp s f q x) = getSpoke s ∧ getChan (setQp s f q x) = getChan s
    ∧ getThr (setQp s f q x) = getThr s ∧ getLeak (setQp s f q x) = getLeak s ∧ getMotor (setQp s f q x) = getMotor s
    ∧ getPort (setQp s f q x) = getPort s ∧ getBed (setQp s f q x) = getBed s ∧ getGrain (setQp s f q x) = getGrain s
    ∧ getThread (setQp s f q x) = getThread s ∧ getRemap (setQp s f q x) = getRemap s
    ∧ getKslot (setQp s f q x) = getKslot s ∧ getModel (setQp s f q x) = getModel s
    ∧ getWindow (setQp s f q x) = getWindow s ∧ findRec (setQp s f q x) = findRec s
    ∧ getAccBoot (setQp s f q x) = getAccBoot s ∧ hostRead (setQp s f q x) = hostRead s
    ∧ gmRead (setQp s f q x) = gmRead s ∧ accRead (setQp s f q x) = accRead s ∧ flashRead (setQp s f q x) = flashRead s
    ∧ lsRead (setQp s f q x) = lsRead s ∧ getBusy (setQp s f q x) = getBusy s ∧ cfgGet (setQp s f q x) = cfgGet s
    ∧ cfgN (setQp s f q x) = cfgN s ∧ cfgF (setQp s f q x) = cfgF s ∧ cfgD (setQp s f q x) = cfgD s
    ∧ ltGet (setQp s f q x) = ltGet s ∧ pmGet (setQp s f q x) = pmGet s := by
  refine ⟨?_, ?_, ?_, ?_, ?_, ?_, ?_, ?_, ?_, ?_, ?_, ?_, ?_, ?_, ?_, ?_, ?_, ?_, ?_, ?_, ?_, ?_, ?_, ?_, ?_, ?_, ?_, ?_, ?_, ?_, ?_, ?_, ?_, ?_, ?_, ?_, ?_, ?_, ?_, ?_, ?_, ?_, ?_, ?_, ?_, ?_, ?_, ?_, ?_, ?_, ?_, ?_, ?_, ?_, ?_, ?_, ?_, ?_, ?_, ?_, ?_, ?_, ?_⟩ <;> rfl

/-- What setTen leaves as it is. -/
@[simp] theorem setTen_keeps (s : State) (t : Nat) (x : Tenant) :
    (setTen s t x).pending = s.pending ∧ (setTen s t x).tick = s.tick ∧ (setTen s t x).freeCtr = s.freeCtr
    ∧ (setTen s t x).resp = s.resp ∧ (setTen s t x).crd = s.crd ∧ (setTen s t x).doms = s.doms
    ∧ (setTen s t x).domSeqs = s.domSeqs ∧ (setTen s t x).regs = s.regs ∧ (setTen s t x).hz = s.hz
    ∧ (setTen s t x).slog = s.slog ∧ (setTen s t x).pm = s.pm ∧ (setTen s t x).boot = s.boot
    ∧ (setTen s t x).sealEng = s.sealEng ∧ (setTen s t x).garr = s.garr ∧ (setTen s t x).strata = s.strata
    ∧ (setTen s t x).links = s.links ∧ (setTen s t x).pow = s.pow ∧ (setTen s t x).therm = s.therm
    ∧ (setTen s t x).leaks = s.leaks ∧ (setTen s t x).motors = s.motors ∧ (setTen s t x).tw = s.tw
    ∧ (setTen s t x).jtag = s.jtag ∧ (setTen s t x).mem = s.mem ∧ (setTen s t x).qc.qps = s.qc.qps
    ∧ (setTen s t x).qc.t64 = s.qc.t64 ∧ (setTen s t x).qc.cmds = s.qc.cmds ∧ (setTen s t x).qc.nextSeq = s.qc.nextSeq
    ∧ (setTen s t x).qc.firstServed = s.qc.firstServed ∧ (setTen s t x).qc.vfs = s.qc.vfs
    ∧ (setTen s t x).qc.msix = s.qc.msix ∧ (setTen s t x).qc.hostBeat = s.qc.hostBeat
    ∧ (setTen s t x).qc.bmcBeat = s.qc.bmcBeat ∧ getDom (setTen s t x) = getDom s ∧ getQp (setTen s t x) = getQp s
    ∧ findCmd (setTen s t x) = findCmd s ∧ getAcc (setTen s t x) = getAcc s ∧ getSpoke (setTen s t x) = getSpoke s
    ∧ getChan (setTen s t x) = getChan s ∧ getThr (setTen s t x) = getThr s ∧ getLeak (setTen s t x) = getLeak s
    ∧ getMotor (setTen s t x) = getMotor s ∧ getPort (setTen s t x) = getPort s ∧ getBed (setTen s t x) = getBed s
    ∧ getGrain (setTen s t x) = getGrain s ∧ getThread (setTen s t x) = getThread s
    ∧ getRemap (setTen s t x) = getRemap s ∧ getKslot (setTen s t x) = getKslot s ∧ getModel (setTen s t x) = getModel s
    ∧ getWindow (setTen s t x) = getWindow s ∧ findRec (setTen s t x) = findRec s
    ∧ getAccBoot (setTen s t x) = getAccBoot s ∧ hostRead (setTen s t x) = hostRead s ∧ gmRead (setTen s t x) = gmRead s
    ∧ accRead (setTen s t x) = accRead s ∧ flashRead (setTen s t x) = flashRead s ∧ lsRead (setTen s t x) = lsRead s
    ∧ getBusy (setTen s t x) = getBusy s ∧ cfgGet (setTen s t x) = cfgGet s ∧ cfgN (setTen s t x) = cfgN s
    ∧ cfgF (setTen s t x) = cfgF s ∧ cfgD (setTen s t x) = cfgD s ∧ ltGet (setTen s t x) = ltGet s
    ∧ pmGet (setTen s t x) = pmGet s := by
  refine ⟨?_, ?_, ?_, ?_, ?_, ?_, ?_, ?_, ?_, ?_, ?_, ?_, ?_, ?_, ?_, ?_, ?_, ?_, ?_, ?_, ?_, ?_, ?_, ?_, ?_, ?_, ?_, ?_, ?_, ?_, ?_, ?_, ?_, ?_, ?_, ?_, ?_, ?_, ?_, ?_, ?_, ?_, ?_, ?_, ?_, ?_, ?_, ?_, ?_, ?_, ?_, ?_, ?_, ?_, ?_, ?_, ?_, ?_, ?_, ?_, ?_, ?_, ?_⟩ <;> rfl

/-- What setT64 leaves as it is. -/
@[simp] theorem setT64_keeps (s : State) (x : T64Q) :
    (setT64 s x).pending = s.pending ∧ (setT64 s x).tick = s.tick ∧ (setT64 s x).freeCtr = s.freeCtr
    ∧ (setT64 s x).resp = s.resp ∧ (setT64 s x).crd = s.crd ∧ (setT64 s x).doms = s.doms
    ∧ (setT64 s x).domSeqs = s.domSeqs ∧ (setT64 s x).regs = s.regs ∧ (setT64 s x).hz = s.hz
    ∧ (setT64 s x).slog = s.slog ∧ (setT64 s x).pm = s.pm ∧ (setT64 s x).boot = s.boot
    ∧ (setT64 s x).sealEng = s.sealEng ∧ (setT64 s x).garr = s.garr ∧ (setT64 s x).strata = s.strata
    ∧ (setT64 s x).links = s.links ∧ (setT64 s x).pow = s.pow ∧ (setT64 s x).therm = s.therm
    ∧ (setT64 s x).leaks = s.leaks ∧ (setT64 s x).motors = s.motors ∧ (setT64 s x).tw = s.tw
    ∧ (setT64 s x).jtag = s.jtag ∧ (setT64 s x).mem = s.mem ∧ (setT64 s x).qc.qps = s.qc.qps
    ∧ (setT64 s x).qc.tenants = s.qc.tenants ∧ (setT64 s x).qc.cmds = s.qc.cmds ∧ (setT64 s x).qc.nextSeq = s.qc.nextSeq
    ∧ (setT64 s x).qc.firstServed = s.qc.firstServed ∧ (setT64 s x).qc.vfs = s.qc.vfs ∧ (setT64 s x).qc.msix = s.qc.msix
    ∧ (setT64 s x).qc.hostBeat = s.qc.hostBeat ∧ (setT64 s x).qc.bmcBeat = s.qc.bmcBeat ∧ getDom (setT64 s x) = getDom s
    ∧ getQp (setT64 s x) = getQp s ∧ getTen (setT64 s x) = getTen s ∧ findCmd (setT64 s x) = findCmd s
    ∧ getAcc (setT64 s x) = getAcc s ∧ getSpoke (setT64 s x) = getSpoke s ∧ getChan (setT64 s x) = getChan s
    ∧ getThr (setT64 s x) = getThr s ∧ getLeak (setT64 s x) = getLeak s ∧ getMotor (setT64 s x) = getMotor s
    ∧ getPort (setT64 s x) = getPort s ∧ getBed (setT64 s x) = getBed s ∧ getGrain (setT64 s x) = getGrain s
    ∧ getThread (setT64 s x) = getThread s ∧ getRemap (setT64 s x) = getRemap s ∧ getKslot (setT64 s x) = getKslot s
    ∧ getModel (setT64 s x) = getModel s ∧ getWindow (setT64 s x) = getWindow s ∧ findRec (setT64 s x) = findRec s
    ∧ getAccBoot (setT64 s x) = getAccBoot s ∧ hostRead (setT64 s x) = hostRead s ∧ gmRead (setT64 s x) = gmRead s
    ∧ accRead (setT64 s x) = accRead s ∧ flashRead (setT64 s x) = flashRead s ∧ lsRead (setT64 s x) = lsRead s
    ∧ getBusy (setT64 s x) = getBusy s ∧ cfgGet (setT64 s x) = cfgGet s ∧ cfgN (setT64 s x) = cfgN s
    ∧ cfgF (setT64 s x) = cfgF s ∧ cfgD (setT64 s x) = cfgD s ∧ ltGet (setT64 s x) = ltGet s
    ∧ pmGet (setT64 s x) = pmGet s := by
  refine ⟨?_, ?_, ?_, ?_, ?_, ?_, ?_, ?_, ?_, ?_, ?_, ?_, ?_, ?_, ?_, ?_, ?_, ?_, ?_, ?_, ?_, ?_, ?_, ?_, ?_, ?_, ?_, ?_, ?_, ?_, ?_, ?_, ?_, ?_, ?_, ?_, ?_, ?_, ?_, ?_, ?_, ?_, ?_, ?_, ?_, ?_, ?_, ?_, ?_, ?_, ?_, ?_, ?_, ?_, ?_, ?_, ?_, ?_, ?_, ?_, ?_, ?_, ?_, ?_⟩ <;> rfl

/-- What modCmd leaves as it is. -/
@[simp] theorem modCmd_keeps (s : State) (c : Nat) (g : Cmd → Cmd) :
    (modCmd s c g).pending = s.pending ∧ (modCmd s c g).tick = s.tick ∧ (modCmd s c g).freeCtr = s.freeCtr
    ∧ (modCmd s c g).resp = s.resp ∧ (modCmd s c g).crd = s.crd ∧ (modCmd s c g).doms = s.doms
    ∧ (modCmd s c g).domSeqs = s.domSeqs ∧ (modCmd s c g).regs = s.regs ∧ (modCmd s c g).hz = s.hz
    ∧ (modCmd s c g).slog = s.slog ∧ (modCmd s c g).pm = s.pm ∧ (modCmd s c g).boot = s.boot
    ∧ (modCmd s c g).sealEng = s.sealEng ∧ (modCmd s c g).garr = s.garr ∧ (modCmd s c g).strata = s.strata
    ∧ (modCmd s c g).links = s.links ∧ (modCmd s c g).pow = s.pow ∧ (modCmd s c g).therm = s.therm
    ∧ (modCmd s c g).leaks = s.leaks ∧ (modCmd s c g).motors = s.motors ∧ (modCmd s c g).tw = s.tw
    ∧ (modCmd s c g).jtag = s.jtag ∧ (modCmd s c g).mem = s.mem ∧ (modCmd s c g).qc.qps = s.qc.qps
    ∧ (modCmd s c g).qc.tenants = s.qc.tenants ∧ (modCmd s c g).qc.t64 = s.qc.t64
    ∧ (modCmd s c g).qc.nextSeq = s.qc.nextSeq ∧ (modCmd s c g).qc.firstServed = s.qc.firstServed
    ∧ (modCmd s c g).qc.vfs = s.qc.vfs ∧ (modCmd s c g).qc.msix = s.qc.msix ∧ (modCmd s c g).qc.hostBeat = s.qc.hostBeat
    ∧ (modCmd s c g).qc.bmcBeat = s.qc.bmcBeat ∧ getDom (modCmd s c g) = getDom s ∧ getQp (modCmd s c g) = getQp s
    ∧ getTen (modCmd s c g) = getTen s ∧ getAcc (modCmd s c g) = getAcc s ∧ getSpoke (modCmd s c g) = getSpoke s
    ∧ getChan (modCmd s c g) = getChan s ∧ getThr (modCmd s c g) = getThr s ∧ getLeak (modCmd s c g) = getLeak s
    ∧ getMotor (modCmd s c g) = getMotor s ∧ getPort (modCmd s c g) = getPort s ∧ getBed (modCmd s c g) = getBed s
    ∧ getGrain (modCmd s c g) = getGrain s ∧ getThread (modCmd s c g) = getThread s
    ∧ getRemap (modCmd s c g) = getRemap s ∧ getKslot (modCmd s c g) = getKslot s ∧ getModel (modCmd s c g) = getModel s
    ∧ getWindow (modCmd s c g) = getWindow s ∧ findRec (modCmd s c g) = findRec s
    ∧ getAccBoot (modCmd s c g) = getAccBoot s ∧ hostRead (modCmd s c g) = hostRead s ∧ gmRead (modCmd s c g) = gmRead s
    ∧ accRead (modCmd s c g) = accRead s ∧ flashRead (modCmd s c g) = flashRead s ∧ lsRead (modCmd s c g) = lsRead s
    ∧ getBusy (modCmd s c g) = getBusy s ∧ cfgGet (modCmd s c g) = cfgGet s ∧ cfgN (modCmd s c g) = cfgN s
    ∧ cfgF (modCmd s c g) = cfgF s ∧ cfgD (modCmd s c g) = cfgD s ∧ ltGet (modCmd s c g) = ltGet s
    ∧ pmGet (modCmd s c g) = pmGet s := by
  refine ⟨?_, ?_, ?_, ?_, ?_, ?_, ?_, ?_, ?_, ?_, ?_, ?_, ?_, ?_, ?_, ?_, ?_, ?_, ?_, ?_, ?_, ?_, ?_, ?_, ?_, ?_, ?_, ?_, ?_, ?_, ?_, ?_, ?_, ?_, ?_, ?_, ?_, ?_, ?_, ?_, ?_, ?_, ?_, ?_, ?_, ?_, ?_, ?_, ?_, ?_, ?_, ?_, ?_, ?_, ?_, ?_, ?_, ?_, ?_, ?_, ?_, ?_, ?_⟩ <;> rfl

/-- What dropCmd leaves as it is. -/
@[simp] theorem dropCmd_keeps (s : State) (c : Nat) :
    (dropCmd s c).pending = s.pending ∧ (dropCmd s c).tick = s.tick ∧ (dropCmd s c).freeCtr = s.freeCtr
    ∧ (dropCmd s c).resp = s.resp ∧ (dropCmd s c).crd = s.crd ∧ (dropCmd s c).doms = s.doms
    ∧ (dropCmd s c).domSeqs = s.domSeqs ∧ (dropCmd s c).regs = s.regs ∧ (dropCmd s c).hz = s.hz
    ∧ (dropCmd s c).slog = s.slog ∧ (dropCmd s c).pm = s.pm ∧ (dropCmd s c).boot = s.boot
    ∧ (dropCmd s c).sealEng = s.sealEng ∧ (dropCmd s c).garr = s.garr ∧ (dropCmd s c).strata = s.strata
    ∧ (dropCmd s c).links = s.links ∧ (dropCmd s c).pow = s.pow ∧ (dropCmd s c).therm = s.therm
    ∧ (dropCmd s c).leaks = s.leaks ∧ (dropCmd s c).motors = s.motors ∧ (dropCmd s c).tw = s.tw
    ∧ (dropCmd s c).jtag = s.jtag ∧ (dropCmd s c).mem = s.mem ∧ (dropCmd s c).qc.qps = s.qc.qps
    ∧ (dropCmd s c).qc.tenants = s.qc.tenants ∧ (dropCmd s c).qc.t64 = s.qc.t64
    ∧ (dropCmd s c).qc.nextSeq = s.qc.nextSeq ∧ (dropCmd s c).qc.firstServed = s.qc.firstServed
    ∧ (dropCmd s c).qc.vfs = s.qc.vfs ∧ (dropCmd s c).qc.msix = s.qc.msix ∧ (dropCmd s c).qc.hostBeat = s.qc.hostBeat
    ∧ (dropCmd s c).qc.bmcBeat = s.qc.bmcBeat ∧ getDom (dropCmd s c) = getDom s ∧ getQp (dropCmd s c) = getQp s
    ∧ getTen (dropCmd s c) = getTen s ∧ getAcc (dropCmd s c) = getAcc s ∧ getSpoke (dropCmd s c) = getSpoke s
    ∧ getChan (dropCmd s c) = getChan s ∧ getThr (dropCmd s c) = getThr s ∧ getLeak (dropCmd s c) = getLeak s
    ∧ getMotor (dropCmd s c) = getMotor s ∧ getPort (dropCmd s c) = getPort s ∧ getBed (dropCmd s c) = getBed s
    ∧ getGrain (dropCmd s c) = getGrain s ∧ getThread (dropCmd s c) = getThread s ∧ getRemap (dropCmd s c) = getRemap s
    ∧ getKslot (dropCmd s c) = getKslot s ∧ getModel (dropCmd s c) = getModel s ∧ getWindow (dropCmd s c) = getWindow s
    ∧ findRec (dropCmd s c) = findRec s ∧ getAccBoot (dropCmd s c) = getAccBoot s ∧ hostRead (dropCmd s c) = hostRead s
    ∧ gmRead (dropCmd s c) = gmRead s ∧ accRead (dropCmd s c) = accRead s ∧ flashRead (dropCmd s c) = flashRead s
    ∧ lsRead (dropCmd s c) = lsRead s ∧ getBusy (dropCmd s c) = getBusy s ∧ cfgGet (dropCmd s c) = cfgGet s
    ∧ cfgN (dropCmd s c) = cfgN s ∧ cfgF (dropCmd s c) = cfgF s ∧ cfgD (dropCmd s c) = cfgD s
    ∧ ltGet (dropCmd s c) = ltGet s ∧ pmGet (dropCmd s c) = pmGet s := by
  refine ⟨?_, ?_, ?_, ?_, ?_, ?_, ?_, ?_, ?_, ?_, ?_, ?_, ?_, ?_, ?_, ?_, ?_, ?_, ?_, ?_, ?_, ?_, ?_, ?_, ?_, ?_, ?_, ?_, ?_, ?_, ?_, ?_, ?_, ?_, ?_, ?_, ?_, ?_, ?_, ?_, ?_, ?_, ?_, ?_, ?_, ?_, ?_, ?_, ?_, ?_, ?_, ?_, ?_, ?_, ?_, ?_, ?_, ?_, ?_, ?_, ?_, ?_, ?_⟩ <;> rfl

/-- What setAcc leaves as it is. -/
@[simp] theorem setAcc_keeps (s : State) (n : Nat) (x : Acc) :
    (setAcc s n x).pending = s.pending ∧ (setAcc s n x).tick = s.tick ∧ (setAcc s n x).freeCtr = s.freeCtr
    ∧ (setAcc s n x).resp = s.resp ∧ (setAcc s n x).crd = s.crd ∧ (setAcc s n x).doms = s.doms
    ∧ (setAcc s n x).domSeqs = s.domSeqs ∧ (setAcc s n x).regs = s.regs ∧ (setAcc s n x).hz = s.hz
    ∧ (setAcc s n x).qc = s.qc ∧ (setAcc s n x).slog = s.slog ∧ (setAcc s n x).pm = s.pm ∧ (setAcc s n x).boot = s.boot
    ∧ (setAcc s n x).sealEng = s.sealEng ∧ (setAcc s n x).garr = s.garr ∧ (setAcc s n x).strata = s.strata
    ∧ (setAcc s n x).links = s.links ∧ (setAcc s n x).therm = s.therm ∧ (setAcc s n x).leaks = s.leaks
    ∧ (setAcc s n x).motors = s.motors ∧ (setAcc s n x).tw = s.tw ∧ (setAcc s n x).jtag = s.jtag
    ∧ (setAcc s n x).mem = s.mem ∧ (setAcc s n x).pow.lock = s.pow.lock ∧ (setAcc s n x).pow.trayPlim = s.pow.trayPlim
    ∧ (setAcc s n x).pow.trayPceil = s.pow.trayPceil ∧ (setAcc s n x).pow.avg = s.pow.avg
    ∧ (setAcc s n x).pow.peak = s.pow.peak ∧ (setAcc s n x).pow.pubAvg = s.pow.pubAvg
    ∧ (setAcc s n x).pow.pubPeak = s.pow.pubPeak ∧ (setAcc s n x).pow.gov = s.pow.gov
    ∧ (setAcc s n x).pow.chargePct = s.pow.chargePct ∧ (setAcc s n x).pow.charging = s.pow.charging
    ∧ (setAcc s n x).pow.tempInhibit = s.pow.tempInhibit ∧ (setAcc s n x).pow.inputLost = s.pow.inputLost
    ∧ (setAcc s n x).pow.rideThrough = s.pow.rideThrough ∧ (setAcc s n x).pow.lostSince = s.pow.lostSince
    ∧ (setAcc s n x).pow.stewardPower = s.pow.stewardPower ∧ getDom (setAcc s n x) = getDom s
    ∧ getQp (setAcc s n x) = getQp s ∧ getTen (setAcc s n x) = getTen s ∧ findCmd (setAcc s n x) = findCmd s
    ∧ getSpoke (setAcc s n x) = getSpoke s ∧ getChan (setAcc s n x) = getChan s ∧ getThr (setAcc s n x) = getThr s
    ∧ getLeak (setAcc s n x) = getLeak s ∧ getMotor (setAcc s n x) = getMotor s ∧ getPort (setAcc s n x) = getPort s
    ∧ getBed (setAcc s n x) = getBed s ∧ getGrain (setAcc s n x) = getGrain s ∧ getThread (setAcc s n x) = getThread s
    ∧ getRemap (setAcc s n x) = getRemap s ∧ getKslot (setAcc s n x) = getKslot s ∧ getModel (setAcc s n x) = getModel s
    ∧ getWindow (setAcc s n x) = getWindow s ∧ findRec (setAcc s n x) = findRec s
    ∧ getAccBoot (setAcc s n x) = getAccBoot s ∧ hostRead (setAcc s n x) = hostRead s ∧ gmRead (setAcc s n x) = gmRead s
    ∧ accRead (setAcc s n x) = accRead s ∧ flashRead (setAcc s n x) = flashRead s ∧ lsRead (setAcc s n x) = lsRead s
    ∧ getBusy (setAcc s n x) = getBusy s ∧ cfgGet (setAcc s n x) = cfgGet s ∧ cfgN (setAcc s n x) = cfgN s
    ∧ cfgF (setAcc s n x) = cfgF s ∧ cfgD (setAcc s n x) = cfgD s ∧ ltGet (setAcc s n x) = ltGet s
    ∧ pmGet (setAcc s n x) = pmGet s := by
  refine ⟨?_, ?_, ?_, ?_, ?_, ?_, ?_, ?_, ?_, ?_, ?_, ?_, ?_, ?_, ?_, ?_, ?_, ?_, ?_, ?_, ?_, ?_, ?_, ?_, ?_, ?_, ?_, ?_, ?_, ?_, ?_, ?_, ?_, ?_, ?_, ?_, ?_, ?_, ?_, ?_, ?_, ?_, ?_, ?_, ?_, ?_, ?_, ?_, ?_, ?_, ?_, ?_, ?_, ?_, ?_, ?_, ?_, ?_, ?_, ?_, ?_, ?_, ?_, ?_, ?_, ?_, ?_, ?_, ?_⟩ <;> rfl

/-- What setSpoke leaves as it is. -/
@[simp] theorem setSpoke_keeps (s : State) (n : Nat) (x : Spoke) :
    (setSpoke s n x).pending = s.pending ∧ (setSpoke s n x).tick = s.tick ∧ (setSpoke s n x).freeCtr = s.freeCtr
    ∧ (setSpoke s n x).resp = s.resp ∧ (setSpoke s n x).crd = s.crd ∧ (setSpoke s n x).doms = s.doms
    ∧ (setSpoke s n x).domSeqs = s.domSeqs ∧ (setSpoke s n x).regs = s.regs ∧ (setSpoke s n x).hz = s.hz
    ∧ (setSpoke s n x).qc = s.qc ∧ (setSpoke s n x).slog = s.slog ∧ (setSpoke s n x).pm = s.pm
    ∧ (setSpoke s n x).boot = s.boot ∧ (setSpoke s n x).sealEng = s.sealEng ∧ (setSpoke s n x).garr = s.garr
    ∧ (setSpoke s n x).strata = s.strata ∧ (setSpoke s n x).pow = s.pow ∧ (setSpoke s n x).therm = s.therm
    ∧ (setSpoke s n x).leaks = s.leaks ∧ (setSpoke s n x).motors = s.motors ∧ (setSpoke s n x).tw = s.tw
    ∧ (setSpoke s n x).jtag = s.jtag ∧ (setSpoke s n x).mem = s.mem ∧ (setSpoke s n x).links.u = s.links.u
    ∧ getDom (setSpoke s n x) = getDom s ∧ getQp (setSpoke s n x) = getQp s ∧ getTen (setSpoke s n x) = getTen s
    ∧ findCmd (setSpoke s n x) = findCmd s ∧ getAcc (setSpoke s n x) = getAcc s ∧ getChan (setSpoke s n x) = getChan s
    ∧ getThr (setSpoke s n x) = getThr s ∧ getLeak (setSpoke s n x) = getLeak s ∧ getMotor (setSpoke s n x) = getMotor s
    ∧ getPort (setSpoke s n x) = getPort s ∧ getBed (setSpoke s n x) = getBed s ∧ getGrain (setSpoke s n x) = getGrain s
    ∧ getThread (setSpoke s n x) = getThread s ∧ getRemap (setSpoke s n x) = getRemap s
    ∧ getKslot (setSpoke s n x) = getKslot s ∧ getModel (setSpoke s n x) = getModel s
    ∧ getWindow (setSpoke s n x) = getWindow s ∧ findRec (setSpoke s n x) = findRec s
    ∧ getAccBoot (setSpoke s n x) = getAccBoot s ∧ hostRead (setSpoke s n x) = hostRead s
    ∧ gmRead (setSpoke s n x) = gmRead s ∧ accRead (setSpoke s n x) = accRead s
    ∧ flashRead (setSpoke s n x) = flashRead s ∧ lsRead (setSpoke s n x) = lsRead s
    ∧ getBusy (setSpoke s n x) = getBusy s ∧ cfgGet (setSpoke s n x) = cfgGet s ∧ cfgN (setSpoke s n x) = cfgN s
    ∧ cfgF (setSpoke s n x) = cfgF s ∧ cfgD (setSpoke s n x) = cfgD s ∧ ltGet (setSpoke s n x) = ltGet s
    ∧ pmGet (setSpoke s n x) = pmGet s := by
  refine ⟨?_, ?_, ?_, ?_, ?_, ?_, ?_, ?_, ?_, ?_, ?_, ?_, ?_, ?_, ?_, ?_, ?_, ?_, ?_, ?_, ?_, ?_, ?_, ?_, ?_, ?_, ?_, ?_, ?_, ?_, ?_, ?_, ?_, ?_, ?_, ?_, ?_, ?_, ?_, ?_, ?_, ?_, ?_, ?_, ?_, ?_, ?_, ?_, ?_, ?_, ?_, ?_, ?_, ?_, ?_⟩ <;> rfl

/-- What setChan leaves as it is. -/
@[simp] theorem setChan_keeps (s : State) (c : Nat) (x : Chan) :
    (setChan s c x).pending = s.pending ∧ (setChan s c x).tick = s.tick ∧ (setChan s c x).freeCtr = s.freeCtr
    ∧ (setChan s c x).resp = s.resp ∧ (setChan s c x).crd = s.crd ∧ (setChan s c x).doms = s.doms
    ∧ (setChan s c x).domSeqs = s.domSeqs ∧ (setChan s c x).regs = s.regs ∧ (setChan s c x).hz = s.hz
    ∧ (setChan s c x).qc = s.qc ∧ (setChan s c x).slog = s.slog ∧ (setChan s c x).pm = s.pm
    ∧ (setChan s c x).boot = s.boot ∧ (setChan s c x).sealEng = s.sealEng ∧ (setChan s c x).garr = s.garr
    ∧ (setChan s c x).strata = s.strata ∧ (setChan s c x).links = s.links ∧ (setChan s c x).pow = s.pow
    ∧ (setChan s c x).leaks = s.leaks ∧ (setChan s c x).motors = s.motors ∧ (setChan s c x).tw = s.tw
    ∧ (setChan s c x).jtag = s.jtag ∧ (setChan s c x).mem = s.mem ∧ (setChan s c x).therm.targets = s.therm.targets
    ∧ (setChan s c x).therm.latch = s.therm.latch ∧ (setChan s c x).therm.hwTrip = s.therm.hwTrip
    ∧ (setChan s c x).therm.flashInhibit = s.therm.flashInhibit ∧ (setChan s c x).therm.stops = s.therm.stops
    ∧ (setChan s c x).therm.pump6 = s.therm.pump6 ∧ (setChan s c x).therm.pump7 = s.therm.pump7
    ∧ getDom (setChan s c x) = getDom s ∧ getQp (setChan s c x) = getQp s ∧ getTen (setChan s c x) = getTen s
    ∧ findCmd (setChan s c x) = findCmd s ∧ getAcc (setChan s c x) = getAcc s ∧ getSpoke (setChan s c x) = getSpoke s
    ∧ getThr (setChan s c x) = getThr s ∧ getLeak (setChan s c x) = getLeak s ∧ getMotor (setChan s c x) = getMotor s
    ∧ getPort (setChan s c x) = getPort s ∧ getBed (setChan s c x) = getBed s ∧ getGrain (setChan s c x) = getGrain s
    ∧ getThread (setChan s c x) = getThread s ∧ getRemap (setChan s c x) = getRemap s
    ∧ getKslot (setChan s c x) = getKslot s ∧ getModel (setChan s c x) = getModel s
    ∧ getWindow (setChan s c x) = getWindow s ∧ findRec (setChan s c x) = findRec s
    ∧ getAccBoot (setChan s c x) = getAccBoot s ∧ hostRead (setChan s c x) = hostRead s
    ∧ gmRead (setChan s c x) = gmRead s ∧ accRead (setChan s c x) = accRead s ∧ flashRead (setChan s c x) = flashRead s
    ∧ lsRead (setChan s c x) = lsRead s ∧ getBusy (setChan s c x) = getBusy s ∧ cfgGet (setChan s c x) = cfgGet s
    ∧ cfgN (setChan s c x) = cfgN s ∧ cfgF (setChan s c x) = cfgF s ∧ cfgD (setChan s c x) = cfgD s
    ∧ ltGet (setChan s c x) = ltGet s ∧ pmGet (setChan s c x) = pmGet s := by
  refine ⟨?_, ?_, ?_, ?_, ?_, ?_, ?_, ?_, ?_, ?_, ?_, ?_, ?_, ?_, ?_, ?_, ?_, ?_, ?_, ?_, ?_, ?_, ?_, ?_, ?_, ?_, ?_, ?_, ?_, ?_, ?_, ?_, ?_, ?_, ?_, ?_, ?_, ?_, ?_, ?_, ?_, ?_, ?_, ?_, ?_, ?_, ?_, ?_, ?_, ?_, ?_, ?_, ?_, ?_, ?_, ?_, ?_, ?_, ?_, ?_, ?_⟩ <;> rfl

/-- What setThr leaves as it is. -/
@[simp] theorem setThr_keeps (s : State) (k : Nat) (x : Throttle) :
    (setThr s k x).pending = s.pending ∧ (setThr s k x).tick = s.tick ∧ (setThr s k x).freeCtr = s.freeCtr
    ∧ (setThr s k x).resp = s.resp ∧ (setThr s k x).crd = s.crd ∧ (setThr s k x).doms = s.doms
    ∧ (setThr s k x).domSeqs = s.domSeqs ∧ (setThr s k x).regs = s.regs ∧ (setThr s k x).hz = s.hz
    ∧ (setThr s k x).qc = s.qc ∧ (setThr s k x).slog = s.slog ∧ (setThr s k x).pm = s.pm ∧ (setThr s k x).boot = s.boot
    ∧ (setThr s k x).sealEng = s.sealEng ∧ (setThr s k x).garr = s.garr ∧ (setThr s k x).strata = s.strata
    ∧ (setThr s k x).links = s.links ∧ (setThr s k x).pow = s.pow ∧ (setThr s k x).leaks = s.leaks
    ∧ (setThr s k x).motors = s.motors ∧ (setThr s k x).tw = s.tw ∧ (setThr s k x).jtag = s.jtag
    ∧ (setThr s k x).mem = s.mem ∧ (setThr s k x).therm.chans = s.therm.chans
    ∧ (setThr s k x).therm.latch = s.therm.latch ∧ (setThr s k x).therm.hwTrip = s.therm.hwTrip
    ∧ (setThr s k x).therm.flashInhibit = s.therm.flashInhibit ∧ (setThr s k x).therm.stops = s.therm.stops
    ∧ (setThr s k x).therm.pump6 = s.therm.pump6 ∧ (setThr s k x).therm.pump7 = s.therm.pump7
    ∧ getDom (setThr s k x) = getDom s ∧ getQp (setThr s k x) = getQp s ∧ getTen (setThr s k x) = getTen s
    ∧ findCmd (setThr s k x) = findCmd s ∧ getAcc (setThr s k x) = getAcc s ∧ getSpoke (setThr s k x) = getSpoke s
    ∧ getChan (setThr s k x) = getChan s ∧ getLeak (setThr s k x) = getLeak s ∧ getMotor (setThr s k x) = getMotor s
    ∧ getPort (setThr s k x) = getPort s ∧ getBed (setThr s k x) = getBed s ∧ getGrain (setThr s k x) = getGrain s
    ∧ getThread (setThr s k x) = getThread s ∧ getRemap (setThr s k x) = getRemap s
    ∧ getKslot (setThr s k x) = getKslot s ∧ getModel (setThr s k x) = getModel s
    ∧ getWindow (setThr s k x) = getWindow s ∧ findRec (setThr s k x) = findRec s
    ∧ getAccBoot (setThr s k x) = getAccBoot s ∧ hostRead (setThr s k x) = hostRead s ∧ gmRead (setThr s k x) = gmRead s
    ∧ accRead (setThr s k x) = accRead s ∧ flashRead (setThr s k x) = flashRead s ∧ lsRead (setThr s k x) = lsRead s
    ∧ getBusy (setThr s k x) = getBusy s ∧ cfgGet (setThr s k x) = cfgGet s ∧ cfgN (setThr s k x) = cfgN s
    ∧ cfgF (setThr s k x) = cfgF s ∧ cfgD (setThr s k x) = cfgD s ∧ ltGet (setThr s k x) = ltGet s
    ∧ pmGet (setThr s k x) = pmGet s := by
  refine ⟨?_, ?_, ?_, ?_, ?_, ?_, ?_, ?_, ?_, ?_, ?_, ?_, ?_, ?_, ?_, ?_, ?_, ?_, ?_, ?_, ?_, ?_, ?_, ?_, ?_, ?_, ?_, ?_, ?_, ?_, ?_, ?_, ?_, ?_, ?_, ?_, ?_, ?_, ?_, ?_, ?_, ?_, ?_, ?_, ?_, ?_, ?_, ?_, ?_, ?_, ?_, ?_, ?_, ?_, ?_, ?_, ?_, ?_, ?_, ?_, ?_⟩ <;> rfl

/-- What setLeak leaves as it is. -/
@[simp] theorem setLeak_keeps (s : State) (l : Nat) (x : Leak) :
    (setLeak s l x).pending = s.pending ∧ (setLeak s l x).tick = s.tick ∧ (setLeak s l x).freeCtr = s.freeCtr
    ∧ (setLeak s l x).resp = s.resp ∧ (setLeak s l x).crd = s.crd ∧ (setLeak s l x).doms = s.doms
    ∧ (setLeak s l x).domSeqs = s.domSeqs ∧ (setLeak s l x).regs = s.regs ∧ (setLeak s l x).hz = s.hz
    ∧ (setLeak s l x).qc = s.qc ∧ (setLeak s l x).slog = s.slog ∧ (setLeak s l x).pm = s.pm
    ∧ (setLeak s l x).boot = s.boot ∧ (setLeak s l x).sealEng = s.sealEng ∧ (setLeak s l x).garr = s.garr
    ∧ (setLeak s l x).strata = s.strata ∧ (setLeak s l x).links = s.links ∧ (setLeak s l x).pow = s.pow
    ∧ (setLeak s l x).therm = s.therm ∧ (setLeak s l x).motors = s.motors ∧ (setLeak s l x).tw = s.tw
    ∧ (setLeak s l x).jtag = s.jtag ∧ (setLeak s l x).mem = s.mem ∧ getDom (setLeak s l x) = getDom s
    ∧ getQp (setLeak s l x) = getQp s ∧ getTen (setLeak s l x) = getTen s ∧ findCmd (setLeak s l x) = findCmd s
    ∧ getAcc (setLeak s l x) = getAcc s ∧ getSpoke (setLeak s l x) = getSpoke s ∧ getChan (setLeak s l x) = getChan s
    ∧ getThr (setLeak s l x) = getThr s ∧ getMotor (setLeak s l x) = getMotor s ∧ getPort (setLeak s l x) = getPort s
    ∧ getBed (setLeak s l x) = getBed s ∧ getGrain (setLeak s l x) = getGrain s
    ∧ getThread (setLeak s l x) = getThread s ∧ getRemap (setLeak s l x) = getRemap s
    ∧ getKslot (setLeak s l x) = getKslot s ∧ getModel (setLeak s l x) = getModel s
    ∧ getWindow (setLeak s l x) = getWindow s ∧ findRec (setLeak s l x) = findRec s
    ∧ getAccBoot (setLeak s l x) = getAccBoot s ∧ hostRead (setLeak s l x) = hostRead s
    ∧ gmRead (setLeak s l x) = gmRead s ∧ accRead (setLeak s l x) = accRead s ∧ flashRead (setLeak s l x) = flashRead s
    ∧ lsRead (setLeak s l x) = lsRead s ∧ getBusy (setLeak s l x) = getBusy s ∧ cfgGet (setLeak s l x) = cfgGet s
    ∧ cfgN (setLeak s l x) = cfgN s ∧ cfgF (setLeak s l x) = cfgF s ∧ cfgD (setLeak s l x) = cfgD s
    ∧ ltGet (setLeak s l x) = ltGet s ∧ pmGet (setLeak s l x) = pmGet s := by
  refine ⟨?_, ?_, ?_, ?_, ?_, ?_, ?_, ?_, ?_, ?_, ?_, ?_, ?_, ?_, ?_, ?_, ?_, ?_, ?_, ?_, ?_, ?_, ?_, ?_, ?_, ?_, ?_, ?_, ?_, ?_, ?_, ?_, ?_, ?_, ?_, ?_, ?_, ?_, ?_, ?_, ?_, ?_, ?_, ?_, ?_, ?_, ?_, ?_, ?_, ?_, ?_, ?_, ?_, ?_⟩ <;> rfl

/-- What setMotor leaves as it is. -/
@[simp] theorem setMotor_keeps (s : State) (m : Nat) (x : Motor) :
    (setMotor s m x).pending = s.pending ∧ (setMotor s m x).tick = s.tick ∧ (setMotor s m x).freeCtr = s.freeCtr
    ∧ (setMotor s m x).resp = s.resp ∧ (setMotor s m x).crd = s.crd ∧ (setMotor s m x).doms = s.doms
    ∧ (setMotor s m x).domSeqs = s.domSeqs ∧ (setMotor s m x).regs = s.regs ∧ (setMotor s m x).hz = s.hz
    ∧ (setMotor s m x).qc = s.qc ∧ (setMotor s m x).slog = s.slog ∧ (setMotor s m x).pm = s.pm
    ∧ (setMotor s m x).boot = s.boot ∧ (setMotor s m x).sealEng = s.sealEng ∧ (setMotor s m x).garr = s.garr
    ∧ (setMotor s m x).strata = s.strata ∧ (setMotor s m x).links = s.links ∧ (setMotor s m x).pow = s.pow
    ∧ (setMotor s m x).therm = s.therm ∧ (setMotor s m x).leaks = s.leaks ∧ (setMotor s m x).tw = s.tw
    ∧ (setMotor s m x).jtag = s.jtag ∧ (setMotor s m x).mem = s.mem ∧ getDom (setMotor s m x) = getDom s
    ∧ getQp (setMotor s m x) = getQp s ∧ getTen (setMotor s m x) = getTen s ∧ findCmd (setMotor s m x) = findCmd s
    ∧ getAcc (setMotor s m x) = getAcc s ∧ getSpoke (setMotor s m x) = getSpoke s ∧ getChan (setMotor s m x) = getChan s
    ∧ getThr (setMotor s m x) = getThr s ∧ getLeak (setMotor s m x) = getLeak s ∧ getPort (setMotor s m x) = getPort s
    ∧ getBed (setMotor s m x) = getBed s ∧ getGrain (setMotor s m x) = getGrain s
    ∧ getThread (setMotor s m x) = getThread s ∧ getRemap (setMotor s m x) = getRemap s
    ∧ getKslot (setMotor s m x) = getKslot s ∧ getModel (setMotor s m x) = getModel s
    ∧ getWindow (setMotor s m x) = getWindow s ∧ findRec (setMotor s m x) = findRec s
    ∧ getAccBoot (setMotor s m x) = getAccBoot s ∧ hostRead (setMotor s m x) = hostRead s
    ∧ gmRead (setMotor s m x) = gmRead s ∧ accRead (setMotor s m x) = accRead s
    ∧ flashRead (setMotor s m x) = flashRead s ∧ lsRead (setMotor s m x) = lsRead s
    ∧ getBusy (setMotor s m x) = getBusy s ∧ cfgGet (setMotor s m x) = cfgGet s ∧ cfgN (setMotor s m x) = cfgN s
    ∧ cfgF (setMotor s m x) = cfgF s ∧ cfgD (setMotor s m x) = cfgD s ∧ ltGet (setMotor s m x) = ltGet s
    ∧ pmGet (setMotor s m x) = pmGet s := by
  refine ⟨?_, ?_, ?_, ?_, ?_, ?_, ?_, ?_, ?_, ?_, ?_, ?_, ?_, ?_, ?_, ?_, ?_, ?_, ?_, ?_, ?_, ?_, ?_, ?_, ?_, ?_, ?_, ?_, ?_, ?_, ?_, ?_, ?_, ?_, ?_, ?_, ?_, ?_, ?_, ?_, ?_, ?_, ?_, ?_, ?_, ?_, ?_, ?_, ?_, ?_, ?_, ?_, ?_, ?_⟩ <;> rfl

/-- What setPort leaves as it is. -/
@[simp] theorem setPort_keeps (s : State) (p : Nat) (x : Port) :
    (setPort s p x).pending = s.pending ∧ (setPort s p x).tick = s.tick ∧ (setPort s p x).freeCtr = s.freeCtr
    ∧ (setPort s p x).resp = s.resp ∧ (setPort s p x).crd = s.crd ∧ (setPort s p x).doms = s.doms
    ∧ (setPort s p x).domSeqs = s.domSeqs ∧ (setPort s p x).regs = s.regs ∧ (setPort s p x).hz = s.hz
    ∧ (setPort s p x).qc = s.qc ∧ (setPort s p x).slog = s.slog ∧ (setPort s p x).pm = s.pm
    ∧ (setPort s p x).boot = s.boot ∧ (setPort s p x).sealEng = s.sealEng ∧ (setPort s p x).garr = s.garr
    ∧ (setPort s p x).strata = s.strata ∧ (setPort s p x).links = s.links ∧ (setPort s p x).pow = s.pow
    ∧ (setPort s p x).therm = s.therm ∧ (setPort s p x).leaks = s.leaks ∧ (setPort s p x).motors = s.motors
    ∧ (setPort s p x).jtag = s.jtag ∧ (setPort s p x).mem = s.mem ∧ (setPort s p x).tw.pecErrs = s.tw.pecErrs
    ∧ (setPort s p x).tw.nacks = s.tw.nacks ∧ (setPort s p x).tw.timeouts = s.tw.timeouts
    ∧ (setPort s p x).tw.w0Last = s.tw.w0Last ∧ (setPort s p x).tw.hn = s.tw.hn
    ∧ (setPort s p x).tw.hnDropped = s.tw.hnDropped ∧ (setPort s p x).tw.result = s.tw.result
    ∧ (setPort s p x).tw.flow = s.tw.flow ∧ (setPort s p x).tw.press = s.tw.press
    ∧ (setPort s p x).tw.chargerOn = s.tw.chargerOn ∧ (setPort s p x).tw.xferBusy = s.tw.xferBusy
    ∧ (setPort s p x).tw.xferCode = s.tw.xferCode ∧ (setPort s p x).tw.xferBytes = s.tw.xferBytes
    ∧ (setPort s p x).tw.voutMode = s.tw.voutMode ∧ getDom (setPort s p x) = getDom s ∧ getQp (setPort s p x) = getQp s
    ∧ getTen (setPort s p x) = getTen s ∧ findCmd (setPort s p x) = findCmd s ∧ getAcc (setPort s p x) = getAcc s
    ∧ getSpoke (setPort s p x) = getSpoke s ∧ getChan (setPort s p x) = getChan s ∧ getThr (setPort s p x) = getThr s
    ∧ getLeak (setPort s p x) = getLeak s ∧ getMotor (setPort s p x) = getMotor s ∧ getBed (setPort s p x) = getBed s
    ∧ getGrain (setPort s p x) = getGrain s ∧ getThread (setPort s p x) = getThread s
    ∧ getRemap (setPort s p x) = getRemap s ∧ getKslot (setPort s p x) = getKslot s
    ∧ getModel (setPort s p x) = getModel s ∧ getWindow (setPort s p x) = getWindow s
    ∧ findRec (setPort s p x) = findRec s ∧ getAccBoot (setPort s p x) = getAccBoot s
    ∧ hostRead (setPort s p x) = hostRead s ∧ gmRead (setPort s p x) = gmRead s ∧ accRead (setPort s p x) = accRead s
    ∧ flashRead (setPort s p x) = flashRead s ∧ lsRead (setPort s p x) = lsRead s ∧ getBusy (setPort s p x) = getBusy s
    ∧ cfgGet (setPort s p x) = cfgGet s ∧ cfgN (setPort s p x) = cfgN s ∧ cfgF (setPort s p x) = cfgF s
    ∧ cfgD (setPort s p x) = cfgD s ∧ ltGet (setPort s p x) = ltGet s ∧ pmGet (setPort s p x) = pmGet s := by
  refine ⟨?_, ?_, ?_, ?_, ?_, ?_, ?_, ?_, ?_, ?_, ?_, ?_, ?_, ?_, ?_, ?_, ?_, ?_, ?_, ?_, ?_, ?_, ?_, ?_, ?_, ?_, ?_, ?_, ?_, ?_, ?_, ?_, ?_, ?_, ?_, ?_, ?_, ?_, ?_, ?_, ?_, ?_, ?_, ?_, ?_, ?_, ?_, ?_, ?_, ?_, ?_, ?_, ?_, ?_, ?_, ?_, ?_, ?_, ?_, ?_, ?_, ?_, ?_, ?_, ?_, ?_, ?_, ?_⟩ <;> rfl

/-- What setBed leaves as it is. -/
@[simp] theorem setBed_keeps (s : State) (b : Nat) (x : Bed) :
    (setBed s b x).pending = s.pending ∧ (setBed s b x).tick = s.tick ∧ (setBed s b x).freeCtr = s.freeCtr
    ∧ (setBed s b x).resp = s.resp ∧ (setBed s b x).crd = s.crd ∧ (setBed s b x).doms = s.doms
    ∧ (setBed s b x).domSeqs = s.domSeqs ∧ (setBed s b x).regs = s.regs ∧ (setBed s b x).hz = s.hz
    ∧ (setBed s b x).qc = s.qc ∧ (setBed s b x).slog = s.slog ∧ (setBed s b x).pm = s.pm ∧ (setBed s b x).boot = s.boot
    ∧ (setBed s b x).sealEng = s.sealEng ∧ (setBed s b x).strata = s.strata ∧ (setBed s b x).links = s.links
    ∧ (setBed s b x).pow = s.pow ∧ (setBed s b x).therm = s.therm ∧ (setBed s b x).leaks = s.leaks
    ∧ (setBed s b x).motors = s.motors ∧ (setBed s b x).tw = s.tw ∧ (setBed s b x).jtag = s.jtag
    ∧ (setBed s b x).mem = s.mem ∧ (setBed s b x).garr.remap = s.garr.remap ∧ (setBed s b x).garr.grains = s.garr.grains
    ∧ (setBed s b x).garr.threads = s.garr.threads ∧ (setBed s b x).garr.kslots = s.garr.kslots
    ∧ (setBed s b x).garr.launches = s.garr.launches ∧ (setBed s b x).garr.launchSeq = s.garr.launchSeq
    ∧ (setBed s b x).garr.nextLaunch = s.garr.nextLaunch ∧ (setBed s b x).garr.unfenceStatus = s.garr.unfenceStatus
    ∧ (setBed s b x).garr.unfencing = s.garr.unfencing ∧ (setBed s b x).garr.rsvs = s.garr.rsvs
    ∧ getDom (setBed s b x) = getDom s ∧ getQp (setBed s b x) = getQp s ∧ getTen (setBed s b x) = getTen s
    ∧ findCmd (setBed s b x) = findCmd s ∧ getAcc (setBed s b x) = getAcc s ∧ getSpoke (setBed s b x) = getSpoke s
    ∧ getChan (setBed s b x) = getChan s ∧ getThr (setBed s b x) = getThr s ∧ getLeak (setBed s b x) = getLeak s
    ∧ getMotor (setBed s b x) = getMotor s ∧ getPort (setBed s b x) = getPort s ∧ getGrain (setBed s b x) = getGrain s
    ∧ getThread (setBed s b x) = getThread s ∧ getRemap (setBed s b x) = getRemap s
    ∧ getKslot (setBed s b x) = getKslot s ∧ getModel (setBed s b x) = getModel s
    ∧ getWindow (setBed s b x) = getWindow s ∧ findRec (setBed s b x) = findRec s
    ∧ getAccBoot (setBed s b x) = getAccBoot s ∧ hostRead (setBed s b x) = hostRead s ∧ gmRead (setBed s b x) = gmRead s
    ∧ accRead (setBed s b x) = accRead s ∧ flashRead (setBed s b x) = flashRead s ∧ lsRead (setBed s b x) = lsRead s
    ∧ getBusy (setBed s b x) = getBusy s ∧ cfgGet (setBed s b x) = cfgGet s ∧ cfgN (setBed s b x) = cfgN s
    ∧ cfgF (setBed s b x) = cfgF s ∧ cfgD (setBed s b x) = cfgD s ∧ ltGet (setBed s b x) = ltGet s
    ∧ pmGet (setBed s b x) = pmGet s := by
  refine ⟨?_, ?_, ?_, ?_, ?_, ?_, ?_, ?_, ?_, ?_, ?_, ?_, ?_, ?_, ?_, ?_, ?_, ?_, ?_, ?_, ?_, ?_, ?_, ?_, ?_, ?_, ?_, ?_, ?_, ?_, ?_, ?_, ?_, ?_, ?_, ?_, ?_, ?_, ?_, ?_, ?_, ?_, ?_, ?_, ?_, ?_, ?_, ?_, ?_, ?_, ?_, ?_, ?_, ?_, ?_, ?_, ?_, ?_, ?_, ?_, ?_, ?_, ?_, ?_⟩ <;> rfl

/-- What setGrain leaves as it is. -/
@[simp] theorem setGrain_keeps (s : State) (p : Nat) (x : Grain) :
    (setGrain s p x).pending = s.pending ∧ (setGrain s p x).tick = s.tick ∧ (setGrain s p x).freeCtr = s.freeCtr
    ∧ (setGrain s p x).resp = s.resp ∧ (setGrain s p x).crd = s.crd ∧ (setGrain s p x).doms = s.doms
    ∧ (setGrain s p x).domSeqs = s.domSeqs ∧ (setGrain s p x).regs = s.regs ∧ (setGrain s p x).hz = s.hz
    ∧ (setGrain s p x).qc = s.qc ∧ (setGrain s p x).slog = s.slog ∧ (setGrain s p x).pm = s.pm
    ∧ (setGrain s p x).boot = s.boot ∧ (setGrain s p x).sealEng = s.sealEng ∧ (setGrain s p x).strata = s.strata
    ∧ (setGrain s p x).links = s.links ∧ (setGrain s p x).pow = s.pow ∧ (setGrain s p x).therm = s.therm
    ∧ (setGrain s p x).leaks = s.leaks ∧ (setGrain s p x).motors = s.motors ∧ (setGrain s p x).tw = s.tw
    ∧ (setGrain s p x).jtag = s.jtag ∧ (setGrain s p x).mem = s.mem ∧ (setGrain s p x).garr.remap = s.garr.remap
    ∧ (setGrain s p x).garr.beds = s.garr.beds ∧ (setGrain s p x).garr.threads = s.garr.threads
    ∧ (setGrain s p x).garr.kslots = s.garr.kslots ∧ (setGrain s p x).garr.launches = s.garr.launches
    ∧ (setGrain s p x).garr.launchSeq = s.garr.launchSeq ∧ (setGrain s p x).garr.nextLaunch = s.garr.nextLaunch
    ∧ (setGrain s p x).garr.unfenceStatus = s.garr.unfenceStatus ∧ (setGrain s p x).garr.unfencing = s.garr.unfencing
    ∧ (setGrain s p x).garr.rsvs = s.garr.rsvs ∧ getDom (setGrain s p x) = getDom s ∧ getQp (setGrain s p x) = getQp s
    ∧ getTen (setGrain s p x) = getTen s ∧ findCmd (setGrain s p x) = findCmd s ∧ getAcc (setGrain s p x) = getAcc s
    ∧ getSpoke (setGrain s p x) = getSpoke s ∧ getChan (setGrain s p x) = getChan s ∧ getThr (setGrain s p x) = getThr s
    ∧ getLeak (setGrain s p x) = getLeak s ∧ getMotor (setGrain s p x) = getMotor s
    ∧ getPort (setGrain s p x) = getPort s ∧ getBed (setGrain s p x) = getBed s
    ∧ getThread (setGrain s p x) = getThread s ∧ getRemap (setGrain s p x) = getRemap s
    ∧ getKslot (setGrain s p x) = getKslot s ∧ getModel (setGrain s p x) = getModel s
    ∧ getWindow (setGrain s p x) = getWindow s ∧ findRec (setGrain s p x) = findRec s
    ∧ getAccBoot (setGrain s p x) = getAccBoot s ∧ hostRead (setGrain s p x) = hostRead s
    ∧ gmRead (setGrain s p x) = gmRead s ∧ accRead (setGrain s p x) = accRead s
    ∧ flashRead (setGrain s p x) = flashRead s ∧ lsRead (setGrain s p x) = lsRead s
    ∧ getBusy (setGrain s p x) = getBusy s ∧ cfgGet (setGrain s p x) = cfgGet s ∧ cfgN (setGrain s p x) = cfgN s
    ∧ cfgF (setGrain s p x) = cfgF s ∧ cfgD (setGrain s p x) = cfgD s ∧ ltGet (setGrain s p x) = ltGet s
    ∧ pmGet (setGrain s p x) = pmGet s := by
  refine ⟨?_, ?_, ?_, ?_, ?_, ?_, ?_, ?_, ?_, ?_, ?_, ?_, ?_, ?_, ?_, ?_, ?_, ?_, ?_, ?_, ?_, ?_, ?_, ?_, ?_, ?_, ?_, ?_, ?_, ?_, ?_, ?_, ?_, ?_, ?_, ?_, ?_, ?_, ?_, ?_, ?_, ?_, ?_, ?_, ?_, ?_, ?_, ?_, ?_, ?_, ?_, ?_, ?_, ?_, ?_, ?_, ?_, ?_, ?_, ?_, ?_, ?_, ?_, ?_⟩ <;> rfl

/-- What setThread leaves as it is. -/
@[simp] theorem setThread_keeps (s : State) (p t : Nat) (x : Thread) :
    (setThread s p t x).pending = s.pending ∧ (setThread s p t x).tick = s.tick
    ∧ (setThread s p t x).freeCtr = s.freeCtr ∧ (setThread s p t x).resp = s.resp ∧ (setThread s p t x).crd = s.crd
    ∧ (setThread s p t x).doms = s.doms ∧ (setThread s p t x).domSeqs = s.domSeqs ∧ (setThread s p t x).regs = s.regs
    ∧ (setThread s p t x).hz = s.hz ∧ (setThread s p t x).qc = s.qc ∧ (setThread s p t x).slog = s.slog
    ∧ (setThread s p t x).pm = s.pm ∧ (setThread s p t x).boot = s.boot ∧ (setThread s p t x).sealEng = s.sealEng
    ∧ (setThread s p t x).strata = s.strata ∧ (setThread s p t x).links = s.links ∧ (setThread s p t x).pow = s.pow
    ∧ (setThread s p t x).therm = s.therm ∧ (setThread s p t x).leaks = s.leaks ∧ (setThread s p t x).motors = s.motors
    ∧ (setThread s p t x).tw = s.tw ∧ (setThread s p t x).jtag = s.jtag ∧ (setThread s p t x).mem = s.mem
    ∧ (setThread s p t x).garr.remap = s.garr.remap ∧ (setThread s p t x).garr.beds = s.garr.beds
    ∧ (setThread s p t x).garr.grains = s.garr.grains ∧ (setThread s p t x).garr.kslots = s.garr.kslots
    ∧ (setThread s p t x).garr.launches = s.garr.launches ∧ (setThread s p t x).garr.launchSeq = s.garr.launchSeq
    ∧ (setThread s p t x).garr.nextLaunch = s.garr.nextLaunch
    ∧ (setThread s p t x).garr.unfenceStatus = s.garr.unfenceStatus
    ∧ (setThread s p t x).garr.unfencing = s.garr.unfencing ∧ (setThread s p t x).garr.rsvs = s.garr.rsvs
    ∧ getDom (setThread s p t x) = getDom s ∧ getQp (setThread s p t x) = getQp s
    ∧ getTen (setThread s p t x) = getTen s ∧ findCmd (setThread s p t x) = findCmd s
    ∧ getAcc (setThread s p t x) = getAcc s ∧ getSpoke (setThread s p t x) = getSpoke s
    ∧ getChan (setThread s p t x) = getChan s ∧ getThr (setThread s p t x) = getThr s
    ∧ getLeak (setThread s p t x) = getLeak s ∧ getMotor (setThread s p t x) = getMotor s
    ∧ getPort (setThread s p t x) = getPort s ∧ getBed (setThread s p t x) = getBed s
    ∧ getGrain (setThread s p t x) = getGrain s ∧ getRemap (setThread s p t x) = getRemap s
    ∧ getKslot (setThread s p t x) = getKslot s ∧ getModel (setThread s p t x) = getModel s
    ∧ getWindow (setThread s p t x) = getWindow s ∧ findRec (setThread s p t x) = findRec s
    ∧ getAccBoot (setThread s p t x) = getAccBoot s ∧ hostRead (setThread s p t x) = hostRead s
    ∧ gmRead (setThread s p t x) = gmRead s ∧ accRead (setThread s p t x) = accRead s
    ∧ flashRead (setThread s p t x) = flashRead s ∧ lsRead (setThread s p t x) = lsRead s
    ∧ getBusy (setThread s p t x) = getBusy s ∧ cfgGet (setThread s p t x) = cfgGet s
    ∧ cfgN (setThread s p t x) = cfgN s ∧ cfgF (setThread s p t x) = cfgF s ∧ cfgD (setThread s p t x) = cfgD s
    ∧ ltGet (setThread s p t x) = ltGet s ∧ pmGet (setThread s p t x) = pmGet s := by
  refine ⟨?_, ?_, ?_, ?_, ?_, ?_, ?_, ?_, ?_, ?_, ?_, ?_, ?_, ?_, ?_, ?_, ?_, ?_, ?_, ?_, ?_, ?_, ?_, ?_, ?_, ?_, ?_, ?_, ?_, ?_, ?_, ?_, ?_, ?_, ?_, ?_, ?_, ?_, ?_, ?_, ?_, ?_, ?_, ?_, ?_, ?_, ?_, ?_, ?_, ?_, ?_, ?_, ?_, ?_, ?_, ?_, ?_, ?_, ?_, ?_, ?_, ?_, ?_, ?_⟩ <;> rfl

/-- What setRemap leaves as it is. -/
@[simp] theorem setRemap_keeps (s : State) (g : Nat) (x : Remap) :
    (setRemap s g x).pending = s.pending ∧ (setRemap s g x).tick = s.tick ∧ (setRemap s g x).freeCtr = s.freeCtr
    ∧ (setRemap s g x).resp = s.resp ∧ (setRemap s g x).crd = s.crd ∧ (setRemap s g x).doms = s.doms
    ∧ (setRemap s g x).domSeqs = s.domSeqs ∧ (setRemap s g x).regs = s.regs ∧ (setRemap s g x).hz = s.hz
    ∧ (setRemap s g x).qc = s.qc ∧ (setRemap s g x).slog = s.slog ∧ (setRemap s g x).pm = s.pm
    ∧ (setRemap s g x).boot = s.boot ∧ (setRemap s g x).sealEng = s.sealEng ∧ (setRemap s g x).strata = s.strata
    ∧ (setRemap s g x).links = s.links ∧ (setRemap s g x).pow = s.pow ∧ (setRemap s g x).therm = s.therm
    ∧ (setRemap s g x).leaks = s.leaks ∧ (setRemap s g x).motors = s.motors ∧ (setRemap s g x).tw = s.tw
    ∧ (setRemap s g x).jtag = s.jtag ∧ (setRemap s g x).mem = s.mem ∧ (setRemap s g x).garr.beds = s.garr.beds
    ∧ (setRemap s g x).garr.grains = s.garr.grains ∧ (setRemap s g x).garr.threads = s.garr.threads
    ∧ (setRemap s g x).garr.kslots = s.garr.kslots ∧ (setRemap s g x).garr.launches = s.garr.launches
    ∧ (setRemap s g x).garr.launchSeq = s.garr.launchSeq ∧ (setRemap s g x).garr.nextLaunch = s.garr.nextLaunch
    ∧ (setRemap s g x).garr.unfenceStatus = s.garr.unfenceStatus ∧ (setRemap s g x).garr.unfencing = s.garr.unfencing
    ∧ (setRemap s g x).garr.rsvs = s.garr.rsvs ∧ getDom (setRemap s g x) = getDom s ∧ getQp (setRemap s g x) = getQp s
    ∧ getTen (setRemap s g x) = getTen s ∧ findCmd (setRemap s g x) = findCmd s ∧ getAcc (setRemap s g x) = getAcc s
    ∧ getSpoke (setRemap s g x) = getSpoke s ∧ getChan (setRemap s g x) = getChan s ∧ getThr (setRemap s g x) = getThr s
    ∧ getLeak (setRemap s g x) = getLeak s ∧ getMotor (setRemap s g x) = getMotor s
    ∧ getPort (setRemap s g x) = getPort s ∧ getBed (setRemap s g x) = getBed s ∧ getGrain (setRemap s g x) = getGrain s
    ∧ getThread (setRemap s g x) = getThread s ∧ getKslot (setRemap s g x) = getKslot s
    ∧ getModel (setRemap s g x) = getModel s ∧ getWindow (setRemap s g x) = getWindow s
    ∧ findRec (setRemap s g x) = findRec s ∧ getAccBoot (setRemap s g x) = getAccBoot s
    ∧ hostRead (setRemap s g x) = hostRead s ∧ gmRead (setRemap s g x) = gmRead s ∧ accRead (setRemap s g x) = accRead s
    ∧ flashRead (setRemap s g x) = flashRead s ∧ lsRead (setRemap s g x) = lsRead s
    ∧ getBusy (setRemap s g x) = getBusy s ∧ cfgGet (setRemap s g x) = cfgGet s ∧ cfgN (setRemap s g x) = cfgN s
    ∧ cfgF (setRemap s g x) = cfgF s ∧ cfgD (setRemap s g x) = cfgD s ∧ ltGet (setRemap s g x) = ltGet s
    ∧ pmGet (setRemap s g x) = pmGet s := by
  refine ⟨?_, ?_, ?_, ?_, ?_, ?_, ?_, ?_, ?_, ?_, ?_, ?_, ?_, ?_, ?_, ?_, ?_, ?_, ?_, ?_, ?_, ?_, ?_, ?_, ?_, ?_, ?_, ?_, ?_, ?_, ?_, ?_, ?_, ?_, ?_, ?_, ?_, ?_, ?_, ?_, ?_, ?_, ?_, ?_, ?_, ?_, ?_, ?_, ?_, ?_, ?_, ?_, ?_, ?_, ?_, ?_, ?_, ?_, ?_, ?_, ?_, ?_, ?_, ?_⟩ <;> rfl

/-- What setKslot leaves as it is. -/
@[simp] theorem setKslot_keeps (s : State) (k : Nat) (x : KSlot) :
    (setKslot s k x).pending = s.pending ∧ (setKslot s k x).tick = s.tick ∧ (setKslot s k x).freeCtr = s.freeCtr
    ∧ (setKslot s k x).resp = s.resp ∧ (setKslot s k x).crd = s.crd ∧ (setKslot s k x).doms = s.doms
    ∧ (setKslot s k x).domSeqs = s.domSeqs ∧ (setKslot s k x).regs = s.regs ∧ (setKslot s k x).hz = s.hz
    ∧ (setKslot s k x).qc = s.qc ∧ (setKslot s k x).slog = s.slog ∧ (setKslot s k x).pm = s.pm
    ∧ (setKslot s k x).boot = s.boot ∧ (setKslot s k x).sealEng = s.sealEng ∧ (setKslot s k x).strata = s.strata
    ∧ (setKslot s k x).links = s.links ∧ (setKslot s k x).pow = s.pow ∧ (setKslot s k x).therm = s.therm
    ∧ (setKslot s k x).leaks = s.leaks ∧ (setKslot s k x).motors = s.motors ∧ (setKslot s k x).tw = s.tw
    ∧ (setKslot s k x).jtag = s.jtag ∧ (setKslot s k x).mem = s.mem ∧ (setKslot s k x).garr.remap = s.garr.remap
    ∧ (setKslot s k x).garr.beds = s.garr.beds ∧ (setKslot s k x).garr.grains = s.garr.grains
    ∧ (setKslot s k x).garr.threads = s.garr.threads ∧ (setKslot s k x).garr.launches = s.garr.launches
    ∧ (setKslot s k x).garr.launchSeq = s.garr.launchSeq ∧ (setKslot s k x).garr.nextLaunch = s.garr.nextLaunch
    ∧ (setKslot s k x).garr.unfenceStatus = s.garr.unfenceStatus ∧ (setKslot s k x).garr.unfencing = s.garr.unfencing
    ∧ (setKslot s k x).garr.rsvs = s.garr.rsvs ∧ getDom (setKslot s k x) = getDom s ∧ getQp (setKslot s k x) = getQp s
    ∧ getTen (setKslot s k x) = getTen s ∧ findCmd (setKslot s k x) = findCmd s ∧ getAcc (setKslot s k x) = getAcc s
    ∧ getSpoke (setKslot s k x) = getSpoke s ∧ getChan (setKslot s k x) = getChan s ∧ getThr (setKslot s k x) = getThr s
    ∧ getLeak (setKslot s k x) = getLeak s ∧ getMotor (setKslot s k x) = getMotor s
    ∧ getPort (setKslot s k x) = getPort s ∧ getBed (setKslot s k x) = getBed s ∧ getGrain (setKslot s k x) = getGrain s
    ∧ getThread (setKslot s k x) = getThread s ∧ getRemap (setKslot s k x) = getRemap s
    ∧ getModel (setKslot s k x) = getModel s ∧ getWindow (setKslot s k x) = getWindow s
    ∧ findRec (setKslot s k x) = findRec s ∧ getAccBoot (setKslot s k x) = getAccBoot s
    ∧ hostRead (setKslot s k x) = hostRead s ∧ gmRead (setKslot s k x) = gmRead s ∧ accRead (setKslot s k x) = accRead s
    ∧ flashRead (setKslot s k x) = flashRead s ∧ lsRead (setKslot s k x) = lsRead s
    ∧ getBusy (setKslot s k x) = getBusy s ∧ cfgGet (setKslot s k x) = cfgGet s ∧ cfgN (setKslot s k x) = cfgN s
    ∧ cfgF (setKslot s k x) = cfgF s ∧ cfgD (setKslot s k x) = cfgD s ∧ ltGet (setKslot s k x) = ltGet s
    ∧ pmGet (setKslot s k x) = pmGet s := by
  refine ⟨?_, ?_, ?_, ?_, ?_, ?_, ?_, ?_, ?_, ?_, ?_, ?_, ?_, ?_, ?_, ?_, ?_, ?_, ?_, ?_, ?_, ?_, ?_, ?_, ?_, ?_, ?_, ?_, ?_, ?_, ?_, ?_, ?_, ?_, ?_, ?_, ?_, ?_, ?_, ?_, ?_, ?_, ?_, ?_, ?_, ?_, ?_, ?_, ?_, ?_, ?_, ?_, ?_, ?_, ?_, ?_, ?_, ?_, ?_, ?_, ?_, ?_, ?_, ?_⟩ <;> rfl

/-- What setModel leaves as it is. -/
@[simp] theorem setModel_keeps (s : State) (m : Nat) (x : ModelSlot) :
    (setModel s m x).pending = s.pending ∧ (setModel s m x).tick = s.tick ∧ (setModel s m x).freeCtr = s.freeCtr
    ∧ (setModel s m x).resp = s.resp ∧ (setModel s m x).crd = s.crd ∧ (setModel s m x).doms = s.doms
    ∧ (setModel s m x).domSeqs = s.domSeqs ∧ (setModel s m x).regs = s.regs ∧ (setModel s m x).hz = s.hz
    ∧ (setModel s m x).qc = s.qc ∧ (setModel s m x).slog = s.slog ∧ (setModel s m x).pm = s.pm
    ∧ (setModel s m x).boot = s.boot ∧ (setModel s m x).sealEng = s.sealEng ∧ (setModel s m x).garr = s.garr
    ∧ (setModel s m x).links = s.links ∧ (setModel s m x).pow = s.pow ∧ (setModel s m x).therm = s.therm
    ∧ (setModel s m x).leaks = s.leaks ∧ (setModel s m x).motors = s.motors ∧ (setModel s m x).tw = s.tw
    ∧ (setModel s m x).jtag = s.jtag ∧ (setModel s m x).mem = s.mem ∧ (setModel s m x).strata.recs = s.strata.recs
    ∧ (setModel s m x).strata.extents = s.strata.extents ∧ (setModel s m x).strata.moves = s.strata.moves
    ∧ (setModel s m x).strata.windows = s.strata.windows ∧ (setModel s m x).strata.queue = s.strata.queue
    ∧ (setModel s m x).strata.batch = s.strata.batch ∧ (setModel s m x).strata.hbmUe = s.strata.hbmUe
    ∧ (setModel s m x).strata.ueAddr = s.strata.ueAddr ∧ (setModel s m x).strata.ueHandle = s.strata.ueHandle
    ∧ (setModel s m x).strata.badLines = s.strata.badLines ∧ getDom (setModel s m x) = getDom s
    ∧ getQp (setModel s m x) = getQp s ∧ getTen (setModel s m x) = getTen s ∧ findCmd (setModel s m x) = findCmd s
    ∧ getAcc (setModel s m x) = getAcc s ∧ getSpoke (setModel s m x) = getSpoke s ∧ getChan (setModel s m x) = getChan s
    ∧ getThr (setModel s m x) = getThr s ∧ getLeak (setModel s m x) = getLeak s ∧ getMotor (setModel s m x) = getMotor s
    ∧ getPort (setModel s m x) = getPort s ∧ getBed (setModel s m x) = getBed s ∧ getGrain (setModel s m x) = getGrain s
    ∧ getThread (setModel s m x) = getThread s ∧ getRemap (setModel s m x) = getRemap s
    ∧ getKslot (setModel s m x) = getKslot s ∧ getWindow (setModel s m x) = getWindow s
    ∧ findRec (setModel s m x) = findRec s ∧ getAccBoot (setModel s m x) = getAccBoot s
    ∧ hostRead (setModel s m x) = hostRead s ∧ gmRead (setModel s m x) = gmRead s ∧ accRead (setModel s m x) = accRead s
    ∧ flashRead (setModel s m x) = flashRead s ∧ lsRead (setModel s m x) = lsRead s
    ∧ getBusy (setModel s m x) = getBusy s ∧ cfgGet (setModel s m x) = cfgGet s ∧ cfgN (setModel s m x) = cfgN s
    ∧ cfgF (setModel s m x) = cfgF s ∧ cfgD (setModel s m x) = cfgD s ∧ ltGet (setModel s m x) = ltGet s
    ∧ pmGet (setModel s m x) = pmGet s := by
  refine ⟨?_, ?_, ?_, ?_, ?_, ?_, ?_, ?_, ?_, ?_, ?_, ?_, ?_, ?_, ?_, ?_, ?_, ?_, ?_, ?_, ?_, ?_, ?_, ?_, ?_, ?_, ?_, ?_, ?_, ?_, ?_, ?_, ?_, ?_, ?_, ?_, ?_, ?_, ?_, ?_, ?_, ?_, ?_, ?_, ?_, ?_, ?_, ?_, ?_, ?_, ?_, ?_, ?_, ?_, ?_, ?_, ?_, ?_, ?_, ?_, ?_, ?_, ?_, ?_⟩ <;> rfl

/-- What setWindow leaves as it is. -/
@[simp] theorem setWindow_keeps (s : State) (m : Nat) (x : Option Window) :
    (setWindow s m x).pending = s.pending ∧ (setWindow s m x).tick = s.tick ∧ (setWindow s m x).freeCtr = s.freeCtr
    ∧ (setWindow s m x).resp = s.resp ∧ (setWindow s m x).crd = s.crd ∧ (setWindow s m x).doms = s.doms
    ∧ (setWindow s m x).domSeqs = s.domSeqs ∧ (setWindow s m x).regs = s.regs ∧ (setWindow s m x).hz = s.hz
    ∧ (setWindow s m x).qc = s.qc ∧ (setWindow s m x).slog = s.slog ∧ (setWindow s m x).pm = s.pm
    ∧ (setWindow s m x).boot = s.boot ∧ (setWindow s m x).sealEng = s.sealEng ∧ (setWindow s m x).garr = s.garr
    ∧ (setWindow s m x).links = s.links ∧ (setWindow s m x).pow = s.pow ∧ (setWindow s m x).therm = s.therm
    ∧ (setWindow s m x).leaks = s.leaks ∧ (setWindow s m x).motors = s.motors ∧ (setWindow s m x).tw = s.tw
    ∧ (setWindow s m x).jtag = s.jtag ∧ (setWindow s m x).mem = s.mem ∧ (setWindow s m x).strata.recs = s.strata.recs
    ∧ (setWindow s m x).strata.extents = s.strata.extents ∧ (setWindow s m x).strata.moves = s.strata.moves
    ∧ (setWindow s m x).strata.models = s.strata.models ∧ (setWindow s m x).strata.queue = s.strata.queue
    ∧ (setWindow s m x).strata.batch = s.strata.batch ∧ (setWindow s m x).strata.hbmUe = s.strata.hbmUe
    ∧ (setWindow s m x).strata.ueAddr = s.strata.ueAddr ∧ (setWindow s m x).strata.ueHandle = s.strata.ueHandle
    ∧ (setWindow s m x).strata.badLines = s.strata.badLines ∧ getDom (setWindow s m x) = getDom s
    ∧ getQp (setWindow s m x) = getQp s ∧ getTen (setWindow s m x) = getTen s ∧ findCmd (setWindow s m x) = findCmd s
    ∧ getAcc (setWindow s m x) = getAcc s ∧ getSpoke (setWindow s m x) = getSpoke s
    ∧ getChan (setWindow s m x) = getChan s ∧ getThr (setWindow s m x) = getThr s
    ∧ getLeak (setWindow s m x) = getLeak s ∧ getMotor (setWindow s m x) = getMotor s
    ∧ getPort (setWindow s m x) = getPort s ∧ getBed (setWindow s m x) = getBed s
    ∧ getGrain (setWindow s m x) = getGrain s ∧ getThread (setWindow s m x) = getThread s
    ∧ getRemap (setWindow s m x) = getRemap s ∧ getKslot (setWindow s m x) = getKslot s
    ∧ getModel (setWindow s m x) = getModel s ∧ findRec (setWindow s m x) = findRec s
    ∧ getAccBoot (setWindow s m x) = getAccBoot s ∧ hostRead (setWindow s m x) = hostRead s
    ∧ gmRead (setWindow s m x) = gmRead s ∧ accRead (setWindow s m x) = accRead s
    ∧ flashRead (setWindow s m x) = flashRead s ∧ lsRead (setWindow s m x) = lsRead s
    ∧ getBusy (setWindow s m x) = getBusy s ∧ cfgGet (setWindow s m x) = cfgGet s ∧ cfgN (setWindow s m x) = cfgN s
    ∧ cfgF (setWindow s m x) = cfgF s ∧ cfgD (setWindow s m x) = cfgD s ∧ ltGet (setWindow s m x) = ltGet s
    ∧ pmGet (setWindow s m x) = pmGet s := by
  refine ⟨?_, ?_, ?_, ?_, ?_, ?_, ?_, ?_, ?_, ?_, ?_, ?_, ?_, ?_, ?_, ?_, ?_, ?_, ?_, ?_, ?_, ?_, ?_, ?_, ?_, ?_, ?_, ?_, ?_, ?_, ?_, ?_, ?_, ?_, ?_, ?_, ?_, ?_, ?_, ?_, ?_, ?_, ?_, ?_, ?_, ?_, ?_, ?_, ?_, ?_, ?_, ?_, ?_, ?_, ?_, ?_, ?_, ?_, ?_, ?_, ?_, ?_, ?_, ?_⟩ <;> rfl

/-- What dropRec leaves as it is. -/
@[simp] theorem dropRec_keeps (s : State) (h : Nat) :
    (dropRec s h).pending = s.pending ∧ (dropRec s h).tick = s.tick ∧ (dropRec s h).freeCtr = s.freeCtr
    ∧ (dropRec s h).resp = s.resp ∧ (dropRec s h).crd = s.crd ∧ (dropRec s h).doms = s.doms
    ∧ (dropRec s h).domSeqs = s.domSeqs ∧ (dropRec s h).regs = s.regs ∧ (dropRec s h).hz = s.hz
    ∧ (dropRec s h).qc = s.qc ∧ (dropRec s h).slog = s.slog ∧ (dropRec s h).pm = s.pm ∧ (dropRec s h).boot = s.boot
    ∧ (dropRec s h).sealEng = s.sealEng ∧ (dropRec s h).garr = s.garr ∧ (dropRec s h).links = s.links
    ∧ (dropRec s h).pow = s.pow ∧ (dropRec s h).therm = s.therm ∧ (dropRec s h).leaks = s.leaks
    ∧ (dropRec s h).motors = s.motors ∧ (dropRec s h).tw = s.tw ∧ (dropRec s h).jtag = s.jtag
    ∧ (dropRec s h).mem = s.mem ∧ (dropRec s h).strata.extents = s.strata.extents
    ∧ (dropRec s h).strata.moves = s.strata.moves ∧ (dropRec s h).strata.models = s.strata.models
    ∧ (dropRec s h).strata.windows = s.strata.windows ∧ (dropRec s h).strata.queue = s.strata.queue
    ∧ (dropRec s h).strata.batch = s.strata.batch ∧ (dropRec s h).strata.hbmUe = s.strata.hbmUe
    ∧ (dropRec s h).strata.ueAddr = s.strata.ueAddr ∧ (dropRec s h).strata.ueHandle = s.strata.ueHandle
    ∧ (dropRec s h).strata.badLines = s.strata.badLines ∧ getDom (dropRec s h) = getDom s
    ∧ getQp (dropRec s h) = getQp s ∧ getTen (dropRec s h) = getTen s ∧ findCmd (dropRec s h) = findCmd s
    ∧ getAcc (dropRec s h) = getAcc s ∧ getSpoke (dropRec s h) = getSpoke s ∧ getChan (dropRec s h) = getChan s
    ∧ getThr (dropRec s h) = getThr s ∧ getLeak (dropRec s h) = getLeak s ∧ getMotor (dropRec s h) = getMotor s
    ∧ getPort (dropRec s h) = getPort s ∧ getBed (dropRec s h) = getBed s ∧ getGrain (dropRec s h) = getGrain s
    ∧ getThread (dropRec s h) = getThread s ∧ getRemap (dropRec s h) = getRemap s ∧ getKslot (dropRec s h) = getKslot s
    ∧ getModel (dropRec s h) = getModel s ∧ getWindow (dropRec s h) = getWindow s
    ∧ getAccBoot (dropRec s h) = getAccBoot s ∧ hostRead (dropRec s h) = hostRead s ∧ gmRead (dropRec s h) = gmRead s
    ∧ accRead (dropRec s h) = accRead s ∧ flashRead (dropRec s h) = flashRead s ∧ lsRead (dropRec s h) = lsRead s
    ∧ getBusy (dropRec s h) = getBusy s ∧ cfgGet (dropRec s h) = cfgGet s ∧ cfgN (dropRec s h) = cfgN s
    ∧ cfgF (dropRec s h) = cfgF s ∧ cfgD (dropRec s h) = cfgD s ∧ ltGet (dropRec s h) = ltGet s
    ∧ pmGet (dropRec s h) = pmGet s := by
  refine ⟨?_, ?_, ?_, ?_, ?_, ?_, ?_, ?_, ?_, ?_, ?_, ?_, ?_, ?_, ?_, ?_, ?_, ?_, ?_, ?_, ?_, ?_, ?_, ?_, ?_, ?_, ?_, ?_, ?_, ?_, ?_, ?_, ?_, ?_, ?_, ?_, ?_, ?_, ?_, ?_, ?_, ?_, ?_, ?_, ?_, ?_, ?_, ?_, ?_, ?_, ?_, ?_, ?_, ?_, ?_, ?_, ?_, ?_, ?_, ?_, ?_, ?_, ?_, ?_⟩ <;> rfl

/-- What putRec leaves as it is. -/
@[simp] theorem putRec_keeps (s : State) (r : Stratum) :
    (putRec s r).pending = s.pending ∧ (putRec s r).tick = s.tick ∧ (putRec s r).freeCtr = s.freeCtr
    ∧ (putRec s r).resp = s.resp ∧ (putRec s r).crd = s.crd ∧ (putRec s r).doms = s.doms
    ∧ (putRec s r).domSeqs = s.domSeqs ∧ (putRec s r).regs = s.regs ∧ (putRec s r).hz = s.hz ∧ (putRec s r).qc = s.qc
    ∧ (putRec s r).slog = s.slog ∧ (putRec s r).pm = s.pm ∧ (putRec s r).boot = s.boot
    ∧ (putRec s r).sealEng = s.sealEng ∧ (putRec s r).garr = s.garr ∧ (putRec s r).links = s.links
    ∧ (putRec s r).pow = s.pow ∧ (putRec s r).therm = s.therm ∧ (putRec s r).leaks = s.leaks
    ∧ (putRec s r).motors = s.motors ∧ (putRec s r).tw = s.tw ∧ (putRec s r).jtag = s.jtag ∧ (putRec s r).mem = s.mem
    ∧ (putRec s r).strata.extents = s.strata.extents ∧ (putRec s r).strata.moves = s.strata.moves
    ∧ (putRec s r).strata.models = s.strata.models ∧ (putRec s r).strata.windows = s.strata.windows
    ∧ (putRec s r).strata.queue = s.strata.queue ∧ (putRec s r).strata.batch = s.strata.batch
    ∧ (putRec s r).strata.hbmUe = s.strata.hbmUe ∧ (putRec s r).strata.ueAddr = s.strata.ueAddr
    ∧ (putRec s r).strata.ueHandle = s.strata.ueHandle ∧ (putRec s r).strata.badLines = s.strata.badLines
    ∧ getDom (putRec s r) = getDom s ∧ getQp (putRec s r) = getQp s ∧ getTen (putRec s r) = getTen s
    ∧ findCmd (putRec s r) = findCmd s ∧ getAcc (putRec s r) = getAcc s ∧ getSpoke (putRec s r) = getSpoke s
    ∧ getChan (putRec s r) = getChan s ∧ getThr (putRec s r) = getThr s ∧ getLeak (putRec s r) = getLeak s
    ∧ getMotor (putRec s r) = getMotor s ∧ getPort (putRec s r) = getPort s ∧ getBed (putRec s r) = getBed s
    ∧ getGrain (putRec s r) = getGrain s ∧ getThread (putRec s r) = getThread s ∧ getRemap (putRec s r) = getRemap s
    ∧ getKslot (putRec s r) = getKslot s ∧ getModel (putRec s r) = getModel s ∧ getWindow (putRec s r) = getWindow s
    ∧ getAccBoot (putRec s r) = getAccBoot s ∧ hostRead (putRec s r) = hostRead s ∧ gmRead (putRec s r) = gmRead s
    ∧ accRead (putRec s r) = accRead s ∧ flashRead (putRec s r) = flashRead s ∧ lsRead (putRec s r) = lsRead s
    ∧ getBusy (putRec s r) = getBusy s ∧ cfgGet (putRec s r) = cfgGet s ∧ cfgN (putRec s r) = cfgN s
    ∧ cfgF (putRec s r) = cfgF s ∧ cfgD (putRec s r) = cfgD s ∧ ltGet (putRec s r) = ltGet s
    ∧ pmGet (putRec s r) = pmGet s := by
  refine ⟨?_, ?_, ?_, ?_, ?_, ?_, ?_, ?_, ?_, ?_, ?_, ?_, ?_, ?_, ?_, ?_, ?_, ?_, ?_, ?_, ?_, ?_, ?_, ?_, ?_, ?_, ?_, ?_, ?_, ?_, ?_, ?_, ?_, ?_, ?_, ?_, ?_, ?_, ?_, ?_, ?_, ?_, ?_, ?_, ?_, ?_, ?_, ?_, ?_, ?_, ?_, ?_, ?_, ?_, ?_, ?_, ?_, ?_, ?_, ?_, ?_, ?_, ?_, ?_⟩ <;> rfl

/-- What mapRecs leaves as it is. -/
@[simp] theorem mapRecs_keeps (s : State) (g : Stratum → Stratum) :
    (mapRecs s g).pending = s.pending ∧ (mapRecs s g).tick = s.tick ∧ (mapRecs s g).freeCtr = s.freeCtr
    ∧ (mapRecs s g).resp = s.resp ∧ (mapRecs s g).crd = s.crd ∧ (mapRecs s g).doms = s.doms
    ∧ (mapRecs s g).domSeqs = s.domSeqs ∧ (mapRecs s g).regs = s.regs ∧ (mapRecs s g).hz = s.hz
    ∧ (mapRecs s g).qc = s.qc ∧ (mapRecs s g).slog = s.slog ∧ (mapRecs s g).pm = s.pm ∧ (mapRecs s g).boot = s.boot
    ∧ (mapRecs s g).sealEng = s.sealEng ∧ (mapRecs s g).garr = s.garr ∧ (mapRecs s g).links = s.links
    ∧ (mapRecs s g).pow = s.pow ∧ (mapRecs s g).therm = s.therm ∧ (mapRecs s g).leaks = s.leaks
    ∧ (mapRecs s g).motors = s.motors ∧ (mapRecs s g).tw = s.tw ∧ (mapRecs s g).jtag = s.jtag
    ∧ (mapRecs s g).mem = s.mem ∧ (mapRecs s g).strata.extents = s.strata.extents
    ∧ (mapRecs s g).strata.moves = s.strata.moves ∧ (mapRecs s g).strata.models = s.strata.models
    ∧ (mapRecs s g).strata.windows = s.strata.windows ∧ (mapRecs s g).strata.queue = s.strata.queue
    ∧ (mapRecs s g).strata.batch = s.strata.batch ∧ (mapRecs s g).strata.hbmUe = s.strata.hbmUe
    ∧ (mapRecs s g).strata.ueAddr = s.strata.ueAddr ∧ (mapRecs s g).strata.ueHandle = s.strata.ueHandle
    ∧ (mapRecs s g).strata.badLines = s.strata.badLines ∧ getDom (mapRecs s g) = getDom s
    ∧ getQp (mapRecs s g) = getQp s ∧ getTen (mapRecs s g) = getTen s ∧ findCmd (mapRecs s g) = findCmd s
    ∧ getAcc (mapRecs s g) = getAcc s ∧ getSpoke (mapRecs s g) = getSpoke s ∧ getChan (mapRecs s g) = getChan s
    ∧ getThr (mapRecs s g) = getThr s ∧ getLeak (mapRecs s g) = getLeak s ∧ getMotor (mapRecs s g) = getMotor s
    ∧ getPort (mapRecs s g) = getPort s ∧ getBed (mapRecs s g) = getBed s ∧ getGrain (mapRecs s g) = getGrain s
    ∧ getThread (mapRecs s g) = getThread s ∧ getRemap (mapRecs s g) = getRemap s ∧ getKslot (mapRecs s g) = getKslot s
    ∧ getModel (mapRecs s g) = getModel s ∧ getWindow (mapRecs s g) = getWindow s
    ∧ getAccBoot (mapRecs s g) = getAccBoot s ∧ hostRead (mapRecs s g) = hostRead s ∧ gmRead (mapRecs s g) = gmRead s
    ∧ accRead (mapRecs s g) = accRead s ∧ flashRead (mapRecs s g) = flashRead s ∧ lsRead (mapRecs s g) = lsRead s
    ∧ getBusy (mapRecs s g) = getBusy s ∧ cfgGet (mapRecs s g) = cfgGet s ∧ cfgN (mapRecs s g) = cfgN s
    ∧ cfgF (mapRecs s g) = cfgF s ∧ cfgD (mapRecs s g) = cfgD s ∧ ltGet (mapRecs s g) = ltGet s
    ∧ pmGet (mapRecs s g) = pmGet s := by
  refine ⟨?_, ?_, ?_, ?_, ?_, ?_, ?_, ?_, ?_, ?_, ?_, ?_, ?_, ?_, ?_, ?_, ?_, ?_, ?_, ?_, ?_, ?_, ?_, ?_, ?_, ?_, ?_, ?_, ?_, ?_, ?_, ?_, ?_, ?_, ?_, ?_, ?_, ?_, ?_, ?_, ?_, ?_, ?_, ?_, ?_, ?_, ?_, ?_, ?_, ?_, ?_, ?_, ?_, ?_, ?_, ?_, ?_, ?_, ?_, ?_, ?_, ?_, ?_, ?_⟩ <;> rfl

/-- What setAccBoot leaves as it is. -/
@[simp] theorem setAccBoot_keeps (s : State) (n : Nat) (x : AccBoot) :
    (setAccBoot s n x).pending = s.pending ∧ (setAccBoot s n x).tick = s.tick ∧ (setAccBoot s n x).freeCtr = s.freeCtr
    ∧ (setAccBoot s n x).resp = s.resp ∧ (setAccBoot s n x).crd = s.crd ∧ (setAccBoot s n x).doms = s.doms
    ∧ (setAccBoot s n x).domSeqs = s.domSeqs ∧ (setAccBoot s n x).regs = s.regs ∧ (setAccBoot s n x).hz = s.hz
    ∧ (setAccBoot s n x).qc = s.qc ∧ (setAccBoot s n x).slog = s.slog ∧ (setAccBoot s n x).pm = s.pm
    ∧ (setAccBoot s n x).boot = s.boot ∧ (setAccBoot s n x).garr = s.garr ∧ (setAccBoot s n x).strata = s.strata
    ∧ (setAccBoot s n x).links = s.links ∧ (setAccBoot s n x).pow = s.pow ∧ (setAccBoot s n x).therm = s.therm
    ∧ (setAccBoot s n x).leaks = s.leaks ∧ (setAccBoot s n x).motors = s.motors ∧ (setAccBoot s n x).tw = s.tw
    ∧ (setAccBoot s n x).jtag = s.jtag ∧ (setAccBoot s n x).mem = s.mem
    ∧ (setAccBoot s n x).sealEng.ctx0 = s.sealEng.ctx0 ∧ (setAccBoot s n x).sealEng.ctx1 = s.sealEng.ctx1
    ∧ (setAccBoot s n x).sealEng.waiting = s.sealEng.waiting
    ∧ (setAccBoot s n x).sealEng.suspended = s.sealEng.suspended
    ∧ (setAccBoot s n x).sealEng.bootReserved = s.sealEng.bootReserved
    ∧ (setAccBoot s n x).sealEng.doeBusy = s.sealEng.doeBusy
    ∧ (setAccBoot s n x).sealEng.negotiated = s.sealEng.negotiated ∧ getDom (setAccBoot s n x) = getDom s
    ∧ getQp (setAccBoot s n x) = getQp s ∧ getTen (setAccBoot s n x) = getTen s ∧ findCmd (setAccBoot s n x) = findCmd s
    ∧ getAcc (setAccBoot s n x) = getAcc s ∧ getSpoke (setAccBoot s n x) = getSpoke s
    ∧ getChan (setAccBoot s n x) = getChan s ∧ getThr (setAccBoot s n x) = getThr s
    ∧ getLeak (setAccBoot s n x) = getLeak s ∧ getMotor (setAccBoot s n x) = getMotor s
    ∧ getPort (setAccBoot s n x) = getPort s ∧ getBed (setAccBoot s n x) = getBed s
    ∧ getGrain (setAccBoot s n x) = getGrain s ∧ getThread (setAccBoot s n x) = getThread s
    ∧ getRemap (setAccBoot s n x) = getRemap s ∧ getKslot (setAccBoot s n x) = getKslot s
    ∧ getModel (setAccBoot s n x) = getModel s ∧ getWindow (setAccBoot s n x) = getWindow s
    ∧ findRec (setAccBoot s n x) = findRec s ∧ hostRead (setAccBoot s n x) = hostRead s
    ∧ gmRead (setAccBoot s n x) = gmRead s ∧ accRead (setAccBoot s n x) = accRead s
    ∧ flashRead (setAccBoot s n x) = flashRead s ∧ lsRead (setAccBoot s n x) = lsRead s
    ∧ getBusy (setAccBoot s n x) = getBusy s ∧ cfgGet (setAccBoot s n x) = cfgGet s ∧ cfgN (setAccBoot s n x) = cfgN s
    ∧ cfgF (setAccBoot s n x) = cfgF s ∧ cfgD (setAccBoot s n x) = cfgD s ∧ ltGet (setAccBoot s n x) = ltGet s
    ∧ pmGet (setAccBoot s n x) = pmGet s := by
  refine ⟨?_, ?_, ?_, ?_, ?_, ?_, ?_, ?_, ?_, ?_, ?_, ?_, ?_, ?_, ?_, ?_, ?_, ?_, ?_, ?_, ?_, ?_, ?_, ?_, ?_, ?_, ?_, ?_, ?_, ?_, ?_, ?_, ?_, ?_, ?_, ?_, ?_, ?_, ?_, ?_, ?_, ?_, ?_, ?_, ?_, ?_, ?_, ?_, ?_, ?_, ?_, ?_, ?_, ?_, ?_, ?_, ?_, ?_, ?_, ?_, ?_⟩ <;> rfl

/-- What hostWrite leaves as it is. -/
@[simp] theorem hostWrite_keeps (s : State) (a : Nat) (bs : List Byte) :
    (hostWrite s a bs).pending = s.pending ∧ (hostWrite s a bs).tick = s.tick ∧ (hostWrite s a bs).freeCtr = s.freeCtr
    ∧ (hostWrite s a bs).resp = s.resp ∧ (hostWrite s a bs).crd = s.crd ∧ (hostWrite s a bs).doms = s.doms
    ∧ (hostWrite s a bs).domSeqs = s.domSeqs ∧ (hostWrite s a bs).regs = s.regs ∧ (hostWrite s a bs).hz = s.hz
    ∧ (hostWrite s a bs).qc = s.qc ∧ (hostWrite s a bs).slog = s.slog ∧ (hostWrite s a bs).pm = s.pm
    ∧ (hostWrite s a bs).boot = s.boot ∧ (hostWrite s a bs).sealEng = s.sealEng ∧ (hostWrite s a bs).garr = s.garr
    ∧ (hostWrite s a bs).strata = s.strata ∧ (hostWrite s a bs).links = s.links ∧ (hostWrite s a bs).pow = s.pow
    ∧ (hostWrite s a bs).therm = s.therm ∧ (hostWrite s a bs).leaks = s.leaks ∧ (hostWrite s a bs).motors = s.motors
    ∧ (hostWrite s a bs).tw = s.tw ∧ (hostWrite s a bs).jtag = s.jtag ∧ (hostWrite s a bs).mem.ls = s.mem.ls
    ∧ (hostWrite s a bs).mem.gm = s.mem.gm ∧ (hostWrite s a bs).mem.flash = s.mem.flash
    ∧ (hostWrite s a bs).mem.acc = s.mem.acc ∧ getDom (hostWrite s a bs) = getDom s ∧ getQp (hostWrite s a bs) = getQp s
    ∧ getTen (hostWrite s a bs) = getTen s ∧ findCmd (hostWrite s a bs) = findCmd s
    ∧ getAcc (hostWrite s a bs) = getAcc s ∧ getSpoke (hostWrite s a bs) = getSpoke s
    ∧ getChan (hostWrite s a bs) = getChan s ∧ getThr (hostWrite s a bs) = getThr s
    ∧ getLeak (hostWrite s a bs) = getLeak s ∧ getMotor (hostWrite s a bs) = getMotor s
    ∧ getPort (hostWrite s a bs) = getPort s ∧ getBed (hostWrite s a bs) = getBed s
    ∧ getGrain (hostWrite s a bs) = getGrain s ∧ getThread (hostWrite s a bs) = getThread s
    ∧ getRemap (hostWrite s a bs) = getRemap s ∧ getKslot (hostWrite s a bs) = getKslot s
    ∧ getModel (hostWrite s a bs) = getModel s ∧ getWindow (hostWrite s a bs) = getWindow s
    ∧ findRec (hostWrite s a bs) = findRec s ∧ getAccBoot (hostWrite s a bs) = getAccBoot s
    ∧ gmRead (hostWrite s a bs) = gmRead s ∧ accRead (hostWrite s a bs) = accRead s
    ∧ flashRead (hostWrite s a bs) = flashRead s ∧ lsRead (hostWrite s a bs) = lsRead s
    ∧ getBusy (hostWrite s a bs) = getBusy s ∧ cfgGet (hostWrite s a bs) = cfgGet s ∧ cfgN (hostWrite s a bs) = cfgN s
    ∧ cfgF (hostWrite s a bs) = cfgF s ∧ cfgD (hostWrite s a bs) = cfgD s ∧ ltGet (hostWrite s a bs) = ltGet s
    ∧ pmGet (hostWrite s a bs) = pmGet s := by
  refine ⟨?_, ?_, ?_, ?_, ?_, ?_, ?_, ?_, ?_, ?_, ?_, ?_, ?_, ?_, ?_, ?_, ?_, ?_, ?_, ?_, ?_, ?_, ?_, ?_, ?_, ?_, ?_, ?_, ?_, ?_, ?_, ?_, ?_, ?_, ?_, ?_, ?_, ?_, ?_, ?_, ?_, ?_, ?_, ?_, ?_, ?_, ?_, ?_, ?_, ?_, ?_, ?_, ?_, ?_, ?_, ?_, ?_, ?_⟩ <;> rfl

/-- What gmWrite leaves as it is. -/
@[simp] theorem gmWrite_keeps (s : State) (a : Nat) (bs : List Byte) :
    (gmWrite s a bs).pending = s.pending ∧ (gmWrite s a bs).tick = s.tick ∧ (gmWrite s a bs).freeCtr = s.freeCtr
    ∧ (gmWrite s a bs).resp = s.resp ∧ (gmWrite s a bs).crd = s.crd ∧ (gmWrite s a bs).doms = s.doms
    ∧ (gmWrite s a bs).domSeqs = s.domSeqs ∧ (gmWrite s a bs).regs = s.regs ∧ (gmWrite s a bs).hz = s.hz
    ∧ (gmWrite s a bs).qc = s.qc ∧ (gmWrite s a bs).slog = s.slog ∧ (gmWrite s a bs).pm = s.pm
    ∧ (gmWrite s a bs).boot = s.boot ∧ (gmWrite s a bs).sealEng = s.sealEng ∧ (gmWrite s a bs).garr = s.garr
    ∧ (gmWrite s a bs).strata = s.strata ∧ (gmWrite s a bs).links = s.links ∧ (gmWrite s a bs).pow = s.pow
    ∧ (gmWrite s a bs).therm = s.therm ∧ (gmWrite s a bs).leaks = s.leaks ∧ (gmWrite s a bs).motors = s.motors
    ∧ (gmWrite s a bs).tw = s.tw ∧ (gmWrite s a bs).jtag = s.jtag ∧ (gmWrite s a bs).mem.ls = s.mem.ls
    ∧ (gmWrite s a bs).mem.flash = s.mem.flash ∧ (gmWrite s a bs).mem.host = s.mem.host
    ∧ (gmWrite s a bs).mem.acc = s.mem.acc ∧ getDom (gmWrite s a bs) = getDom s ∧ getQp (gmWrite s a bs) = getQp s
    ∧ getTen (gmWrite s a bs) = getTen s ∧ findCmd (gmWrite s a bs) = findCmd s ∧ getAcc (gmWrite s a bs) = getAcc s
    ∧ getSpoke (gmWrite s a bs) = getSpoke s ∧ getChan (gmWrite s a bs) = getChan s ∧ getThr (gmWrite s a bs) = getThr s
    ∧ getLeak (gmWrite s a bs) = getLeak s ∧ getMotor (gmWrite s a bs) = getMotor s
    ∧ getPort (gmWrite s a bs) = getPort s ∧ getBed (gmWrite s a bs) = getBed s ∧ getGrain (gmWrite s a bs) = getGrain s
    ∧ getThread (gmWrite s a bs) = getThread s ∧ getRemap (gmWrite s a bs) = getRemap s
    ∧ getKslot (gmWrite s a bs) = getKslot s ∧ getModel (gmWrite s a bs) = getModel s
    ∧ getWindow (gmWrite s a bs) = getWindow s ∧ findRec (gmWrite s a bs) = findRec s
    ∧ getAccBoot (gmWrite s a bs) = getAccBoot s ∧ hostRead (gmWrite s a bs) = hostRead s
    ∧ accRead (gmWrite s a bs) = accRead s ∧ flashRead (gmWrite s a bs) = flashRead s
    ∧ lsRead (gmWrite s a bs) = lsRead s ∧ getBusy (gmWrite s a bs) = getBusy s ∧ cfgGet (gmWrite s a bs) = cfgGet s
    ∧ cfgN (gmWrite s a bs) = cfgN s ∧ cfgF (gmWrite s a bs) = cfgF s ∧ cfgD (gmWrite s a bs) = cfgD s
    ∧ ltGet (gmWrite s a bs) = ltGet s ∧ pmGet (gmWrite s a bs) = pmGet s := by
  refine ⟨?_, ?_, ?_, ?_, ?_, ?_, ?_, ?_, ?_, ?_, ?_, ?_, ?_, ?_, ?_, ?_, ?_, ?_, ?_, ?_, ?_, ?_, ?_, ?_, ?_, ?_, ?_, ?_, ?_, ?_, ?_, ?_, ?_, ?_, ?_, ?_, ?_, ?_, ?_, ?_, ?_, ?_, ?_, ?_, ?_, ?_, ?_, ?_, ?_, ?_, ?_, ?_, ?_, ?_, ?_, ?_, ?_, ?_⟩ <;> rfl

/-- What accWrite leaves as it is. -/
@[simp] theorem accWrite_keeps (s : State) (n a : Nat) (bs : List Byte) :
    (accWrite s n a bs).pending = s.pending ∧ (accWrite s n a bs).tick = s.tick
    ∧ (accWrite s n a bs).freeCtr = s.freeCtr ∧ (accWrite s n a bs).resp = s.resp ∧ (accWrite s n a bs).crd = s.crd
    ∧ (accWrite s n a bs).doms = s.doms ∧ (accWrite s n a bs).domSeqs = s.domSeqs ∧ (accWrite s n a bs).regs = s.regs
    ∧ (accWrite s n a bs).hz = s.hz ∧ (accWrite s n a bs).qc = s.qc ∧ (accWrite s n a bs).slog = s.slog
    ∧ (accWrite s n a bs).pm = s.pm ∧ (accWrite s n a bs).boot = s.boot ∧ (accWrite s n a bs).sealEng = s.sealEng
    ∧ (accWrite s n a bs).garr = s.garr ∧ (accWrite s n a bs).strata = s.strata ∧ (accWrite s n a bs).links = s.links
    ∧ (accWrite s n a bs).pow = s.pow ∧ (accWrite s n a bs).therm = s.therm ∧ (accWrite s n a bs).leaks = s.leaks
    ∧ (accWrite s n a bs).motors = s.motors ∧ (accWrite s n a bs).tw = s.tw ∧ (accWrite s n a bs).jtag = s.jtag
    ∧ (accWrite s n a bs).mem.ls = s.mem.ls ∧ (accWrite s n a bs).mem.gm = s.mem.gm
    ∧ (accWrite s n a bs).mem.flash = s.mem.flash ∧ (accWrite s n a bs).mem.host = s.mem.host
    ∧ getDom (accWrite s n a bs) = getDom s ∧ getQp (accWrite s n a bs) = getQp s
    ∧ getTen (accWrite s n a bs) = getTen s ∧ findCmd (accWrite s n a bs) = findCmd s
    ∧ getAcc (accWrite s n a bs) = getAcc s ∧ getSpoke (accWrite s n a bs) = getSpoke s
    ∧ getChan (accWrite s n a bs) = getChan s ∧ getThr (accWrite s n a bs) = getThr s
    ∧ getLeak (accWrite s n a bs) = getLeak s ∧ getMotor (accWrite s n a bs) = getMotor s
    ∧ getPort (accWrite s n a bs) = getPort s ∧ getBed (accWrite s n a bs) = getBed s
    ∧ getGrain (accWrite s n a bs) = getGrain s ∧ getThread (accWrite s n a bs) = getThread s
    ∧ getRemap (accWrite s n a bs) = getRemap s ∧ getKslot (accWrite s n a bs) = getKslot s
    ∧ getModel (accWrite s n a bs) = getModel s ∧ getWindow (accWrite s n a bs) = getWindow s
    ∧ findRec (accWrite s n a bs) = findRec s ∧ getAccBoot (accWrite s n a bs) = getAccBoot s
    ∧ hostRead (accWrite s n a bs) = hostRead s ∧ gmRead (accWrite s n a bs) = gmRead s
    ∧ flashRead (accWrite s n a bs) = flashRead s ∧ lsRead (accWrite s n a bs) = lsRead s
    ∧ getBusy (accWrite s n a bs) = getBusy s ∧ cfgGet (accWrite s n a bs) = cfgGet s
    ∧ cfgN (accWrite s n a bs) = cfgN s ∧ cfgF (accWrite s n a bs) = cfgF s ∧ cfgD (accWrite s n a bs) = cfgD s
    ∧ ltGet (accWrite s n a bs) = ltGet s ∧ pmGet (accWrite s n a bs) = pmGet s := by
  refine ⟨?_, ?_, ?_, ?_, ?_, ?_, ?_, ?_, ?_, ?_, ?_, ?_, ?_, ?_, ?_, ?_, ?_, ?_, ?_, ?_, ?_, ?_, ?_, ?_, ?_, ?_, ?_, ?_, ?_, ?_, ?_, ?_, ?_, ?_, ?_, ?_, ?_, ?_, ?_, ?_, ?_, ?_, ?_, ?_, ?_, ?_, ?_, ?_, ?_, ?_, ?_, ?_, ?_, ?_, ?_, ?_, ?_, ?_⟩ <;> rfl

/-- What flashProg leaves as it is. -/
@[simp] theorem flashProg_keeps (s : State) (a : Nat) (bs : List Byte) :
    (flashProg s a bs).pending = s.pending ∧ (flashProg s a bs).tick = s.tick ∧ (flashProg s a bs).freeCtr = s.freeCtr
    ∧ (flashProg s a bs).resp = s.resp ∧ (flashProg s a bs).crd = s.crd ∧ (flashProg s a bs).doms = s.doms
    ∧ (flashProg s a bs).domSeqs = s.domSeqs ∧ (flashProg s a bs).regs = s.regs ∧ (flashProg s a bs).hz = s.hz
    ∧ (flashProg s a bs).qc = s.qc ∧ (flashProg s a bs).slog = s.slog ∧ (flashProg s a bs).pm = s.pm
    ∧ (flashProg s a bs).boot = s.boot ∧ (flashProg s a bs).sealEng = s.sealEng ∧ (flashProg s a bs).garr = s.garr
    ∧ (flashProg s a bs).strata = s.strata ∧ (flashProg s a bs).links = s.links ∧ (flashProg s a bs).pow = s.pow
    ∧ (flashProg s a bs).therm = s.therm ∧ (flashProg s a bs).leaks = s.leaks ∧ (flashProg s a bs).motors = s.motors
    ∧ (flashProg s a bs).tw = s.tw ∧ (flashProg s a bs).jtag = s.jtag ∧ (flashProg s a bs).mem.ls = s.mem.ls
    ∧ (flashProg s a bs).mem.gm = s.mem.gm ∧ (flashProg s a bs).mem.host = s.mem.host
    ∧ (flashProg s a bs).mem.acc = s.mem.acc ∧ getDom (flashProg s a bs) = getDom s ∧ getQp (flashProg s a bs) = getQp s
    ∧ getTen (flashProg s a bs) = getTen s ∧ findCmd (flashProg s a bs) = findCmd s
    ∧ getAcc (flashProg s a bs) = getAcc s ∧ getSpoke (flashProg s a bs) = getSpoke s
    ∧ getChan (flashProg s a bs) = getChan s ∧ getThr (flashProg s a bs) = getThr s
    ∧ getLeak (flashProg s a bs) = getLeak s ∧ getMotor (flashProg s a bs) = getMotor s
    ∧ getPort (flashProg s a bs) = getPort s ∧ getBed (flashProg s a bs) = getBed s
    ∧ getGrain (flashProg s a bs) = getGrain s ∧ getThread (flashProg s a bs) = getThread s
    ∧ getRemap (flashProg s a bs) = getRemap s ∧ getKslot (flashProg s a bs) = getKslot s
    ∧ getModel (flashProg s a bs) = getModel s ∧ getWindow (flashProg s a bs) = getWindow s
    ∧ findRec (flashProg s a bs) = findRec s ∧ getAccBoot (flashProg s a bs) = getAccBoot s
    ∧ hostRead (flashProg s a bs) = hostRead s ∧ gmRead (flashProg s a bs) = gmRead s
    ∧ accRead (flashProg s a bs) = accRead s ∧ lsRead (flashProg s a bs) = lsRead s
    ∧ getBusy (flashProg s a bs) = getBusy s ∧ cfgGet (flashProg s a bs) = cfgGet s ∧ cfgN (flashProg s a bs) = cfgN s
    ∧ cfgF (flashProg s a bs) = cfgF s ∧ cfgD (flashProg s a bs) = cfgD s ∧ ltGet (flashProg s a bs) = ltGet s
    ∧ pmGet (flashProg s a bs) = pmGet s := by
  refine ⟨?_, ?_, ?_, ?_, ?_, ?_, ?_, ?_, ?_, ?_, ?_, ?_, ?_, ?_, ?_, ?_, ?_, ?_, ?_, ?_, ?_, ?_, ?_, ?_, ?_, ?_, ?_, ?_, ?_, ?_, ?_, ?_, ?_, ?_, ?_, ?_, ?_, ?_, ?_, ?_, ?_, ?_, ?_, ?_, ?_, ?_, ?_, ?_, ?_, ?_, ?_, ?_, ?_, ?_, ?_, ?_, ?_, ?_⟩ <;> rfl

/-- What flashErase leaves as it is. -/
@[simp] theorem flashErase_keeps (s : State) (lo hi : Nat) :
    (flashErase s lo hi).pending = s.pending ∧ (flashErase s lo hi).tick = s.tick
    ∧ (flashErase s lo hi).freeCtr = s.freeCtr ∧ (flashErase s lo hi).resp = s.resp ∧ (flashErase s lo hi).crd = s.crd
    ∧ (flashErase s lo hi).doms = s.doms ∧ (flashErase s lo hi).domSeqs = s.domSeqs ∧ (flashErase s lo hi).regs = s.regs
    ∧ (flashErase s lo hi).hz = s.hz ∧ (flashErase s lo hi).qc = s.qc ∧ (flashErase s lo hi).slog = s.slog
    ∧ (flashErase s lo hi).pm = s.pm ∧ (flashErase s lo hi).boot = s.boot ∧ (flashErase s lo hi).sealEng = s.sealEng
    ∧ (flashErase s lo hi).garr = s.garr ∧ (flashErase s lo hi).strata = s.strata ∧ (flashErase s lo hi).links = s.links
    ∧ (flashErase s lo hi).pow = s.pow ∧ (flashErase s lo hi).therm = s.therm ∧ (flashErase s lo hi).leaks = s.leaks
    ∧ (flashErase s lo hi).motors = s.motors ∧ (flashErase s lo hi).tw = s.tw ∧ (flashErase s lo hi).jtag = s.jtag
    ∧ (flashErase s lo hi).mem.ls = s.mem.ls ∧ (flashErase s lo hi).mem.gm = s.mem.gm
    ∧ (flashErase s lo hi).mem.host = s.mem.host ∧ (flashErase s lo hi).mem.acc = s.mem.acc
    ∧ getDom (flashErase s lo hi) = getDom s ∧ getQp (flashErase s lo hi) = getQp s
    ∧ getTen (flashErase s lo hi) = getTen s ∧ findCmd (flashErase s lo hi) = findCmd s
    ∧ getAcc (flashErase s lo hi) = getAcc s ∧ getSpoke (flashErase s lo hi) = getSpoke s
    ∧ getChan (flashErase s lo hi) = getChan s ∧ getThr (flashErase s lo hi) = getThr s
    ∧ getLeak (flashErase s lo hi) = getLeak s ∧ getMotor (flashErase s lo hi) = getMotor s
    ∧ getPort (flashErase s lo hi) = getPort s ∧ getBed (flashErase s lo hi) = getBed s
    ∧ getGrain (flashErase s lo hi) = getGrain s ∧ getThread (flashErase s lo hi) = getThread s
    ∧ getRemap (flashErase s lo hi) = getRemap s ∧ getKslot (flashErase s lo hi) = getKslot s
    ∧ getModel (flashErase s lo hi) = getModel s ∧ getWindow (flashErase s lo hi) = getWindow s
    ∧ findRec (flashErase s lo hi) = findRec s ∧ getAccBoot (flashErase s lo hi) = getAccBoot s
    ∧ hostRead (flashErase s lo hi) = hostRead s ∧ gmRead (flashErase s lo hi) = gmRead s
    ∧ accRead (flashErase s lo hi) = accRead s ∧ lsRead (flashErase s lo hi) = lsRead s
    ∧ getBusy (flashErase s lo hi) = getBusy s ∧ cfgGet (flashErase s lo hi) = cfgGet s
    ∧ cfgN (flashErase s lo hi) = cfgN s ∧ cfgF (flashErase s lo hi) = cfgF s ∧ cfgD (flashErase s lo hi) = cfgD s
    ∧ ltGet (flashErase s lo hi) = ltGet s ∧ pmGet (flashErase s lo hi) = pmGet s := by
  refine ⟨?_, ?_, ?_, ?_, ?_, ?_, ?_, ?_, ?_, ?_, ?_, ?_, ?_, ?_, ?_, ?_, ?_, ?_, ?_, ?_, ?_, ?_, ?_, ?_, ?_, ?_, ?_, ?_, ?_, ?_, ?_, ?_, ?_, ?_, ?_, ?_, ?_, ?_, ?_, ?_, ?_, ?_, ?_, ?_, ?_, ?_, ?_, ?_, ?_, ?_, ?_, ?_, ?_, ?_, ?_, ?_, ?_, ?_⟩ <;> rfl

/-- What lsWrite leaves as it is. -/
@[simp] theorem lsWrite_keeps (s : State) (p o : Nat) (bs : List Byte) :
    (lsWrite s p o bs).pending = s.pending ∧ (lsWrite s p o bs).tick = s.tick ∧ (lsWrite s p o bs).freeCtr = s.freeCtr
    ∧ (lsWrite s p o bs).resp = s.resp ∧ (lsWrite s p o bs).crd = s.crd ∧ (lsWrite s p o bs).doms = s.doms
    ∧ (lsWrite s p o bs).domSeqs = s.domSeqs ∧ (lsWrite s p o bs).regs = s.regs ∧ (lsWrite s p o bs).hz = s.hz
    ∧ (lsWrite s p o bs).qc = s.qc ∧ (lsWrite s p o bs).slog = s.slog ∧ (lsWrite s p o bs).pm = s.pm
    ∧ (lsWrite s p o bs).boot = s.boot ∧ (lsWrite s p o bs).sealEng = s.sealEng ∧ (lsWrite s p o bs).garr = s.garr
    ∧ (lsWrite s p o bs).strata = s.strata ∧ (lsWrite s p o bs).links = s.links ∧ (lsWrite s p o bs).pow = s.pow
    ∧ (lsWrite s p o bs).therm = s.therm ∧ (lsWrite s p o bs).leaks = s.leaks ∧ (lsWrite s p o bs).motors = s.motors
    ∧ (lsWrite s p o bs).tw = s.tw ∧ (lsWrite s p o bs).jtag = s.jtag ∧ (lsWrite s p o bs).mem.gm = s.mem.gm
    ∧ (lsWrite s p o bs).mem.flash = s.mem.flash ∧ (lsWrite s p o bs).mem.host = s.mem.host
    ∧ (lsWrite s p o bs).mem.acc = s.mem.acc ∧ getDom (lsWrite s p o bs) = getDom s ∧ getQp (lsWrite s p o bs) = getQp s
    ∧ getTen (lsWrite s p o bs) = getTen s ∧ findCmd (lsWrite s p o bs) = findCmd s
    ∧ getAcc (lsWrite s p o bs) = getAcc s ∧ getSpoke (lsWrite s p o bs) = getSpoke s
    ∧ getChan (lsWrite s p o bs) = getChan s ∧ getThr (lsWrite s p o bs) = getThr s
    ∧ getLeak (lsWrite s p o bs) = getLeak s ∧ getMotor (lsWrite s p o bs) = getMotor s
    ∧ getPort (lsWrite s p o bs) = getPort s ∧ getBed (lsWrite s p o bs) = getBed s
    ∧ getGrain (lsWrite s p o bs) = getGrain s ∧ getThread (lsWrite s p o bs) = getThread s
    ∧ getRemap (lsWrite s p o bs) = getRemap s ∧ getKslot (lsWrite s p o bs) = getKslot s
    ∧ getModel (lsWrite s p o bs) = getModel s ∧ getWindow (lsWrite s p o bs) = getWindow s
    ∧ findRec (lsWrite s p o bs) = findRec s ∧ getAccBoot (lsWrite s p o bs) = getAccBoot s
    ∧ hostRead (lsWrite s p o bs) = hostRead s ∧ gmRead (lsWrite s p o bs) = gmRead s
    ∧ accRead (lsWrite s p o bs) = accRead s ∧ flashRead (lsWrite s p o bs) = flashRead s
    ∧ getBusy (lsWrite s p o bs) = getBusy s ∧ cfgGet (lsWrite s p o bs) = cfgGet s ∧ cfgN (lsWrite s p o bs) = cfgN s
    ∧ cfgF (lsWrite s p o bs) = cfgF s ∧ cfgD (lsWrite s p o bs) = cfgD s ∧ ltGet (lsWrite s p o bs) = ltGet s
    ∧ pmGet (lsWrite s p o bs) = pmGet s := by
  refine ⟨?_, ?_, ?_, ?_, ?_, ?_, ?_, ?_, ?_, ?_, ?_, ?_, ?_, ?_, ?_, ?_, ?_, ?_, ?_, ?_, ?_, ?_, ?_, ?_, ?_, ?_, ?_, ?_, ?_, ?_, ?_, ?_, ?_, ?_, ?_, ?_, ?_, ?_, ?_, ?_, ?_, ?_, ?_, ?_, ?_, ?_, ?_, ?_, ?_, ?_, ?_, ?_, ?_, ?_, ?_, ?_, ?_, ?_⟩ <;> rfl

/-- What lsZero leaves as it is. -/
@[simp] theorem lsZero_keeps (s : State) (p lo hi : Nat) :
    (lsZero s p lo hi).pending = s.pending ∧ (lsZero s p lo hi).tick = s.tick ∧ (lsZero s p lo hi).freeCtr = s.freeCtr
    ∧ (lsZero s p lo hi).resp = s.resp ∧ (lsZero s p lo hi).crd = s.crd ∧ (lsZero s p lo hi).doms = s.doms
    ∧ (lsZero s p lo hi).domSeqs = s.domSeqs ∧ (lsZero s p lo hi).regs = s.regs ∧ (lsZero s p lo hi).hz = s.hz
    ∧ (lsZero s p lo hi).qc = s.qc ∧ (lsZero s p lo hi).slog = s.slog ∧ (lsZero s p lo hi).pm = s.pm
    ∧ (lsZero s p lo hi).boot = s.boot ∧ (lsZero s p lo hi).sealEng = s.sealEng ∧ (lsZero s p lo hi).garr = s.garr
    ∧ (lsZero s p lo hi).strata = s.strata ∧ (lsZero s p lo hi).links = s.links ∧ (lsZero s p lo hi).pow = s.pow
    ∧ (lsZero s p lo hi).therm = s.therm ∧ (lsZero s p lo hi).leaks = s.leaks ∧ (lsZero s p lo hi).motors = s.motors
    ∧ (lsZero s p lo hi).tw = s.tw ∧ (lsZero s p lo hi).jtag = s.jtag ∧ (lsZero s p lo hi).mem.gm = s.mem.gm
    ∧ (lsZero s p lo hi).mem.flash = s.mem.flash ∧ (lsZero s p lo hi).mem.host = s.mem.host
    ∧ (lsZero s p lo hi).mem.acc = s.mem.acc ∧ getDom (lsZero s p lo hi) = getDom s ∧ getQp (lsZero s p lo hi) = getQp s
    ∧ getTen (lsZero s p lo hi) = getTen s ∧ findCmd (lsZero s p lo hi) = findCmd s
    ∧ getAcc (lsZero s p lo hi) = getAcc s ∧ getSpoke (lsZero s p lo hi) = getSpoke s
    ∧ getChan (lsZero s p lo hi) = getChan s ∧ getThr (lsZero s p lo hi) = getThr s
    ∧ getLeak (lsZero s p lo hi) = getLeak s ∧ getMotor (lsZero s p lo hi) = getMotor s
    ∧ getPort (lsZero s p lo hi) = getPort s ∧ getBed (lsZero s p lo hi) = getBed s
    ∧ getGrain (lsZero s p lo hi) = getGrain s ∧ getThread (lsZero s p lo hi) = getThread s
    ∧ getRemap (lsZero s p lo hi) = getRemap s ∧ getKslot (lsZero s p lo hi) = getKslot s
    ∧ getModel (lsZero s p lo hi) = getModel s ∧ getWindow (lsZero s p lo hi) = getWindow s
    ∧ findRec (lsZero s p lo hi) = findRec s ∧ getAccBoot (lsZero s p lo hi) = getAccBoot s
    ∧ hostRead (lsZero s p lo hi) = hostRead s ∧ gmRead (lsZero s p lo hi) = gmRead s
    ∧ accRead (lsZero s p lo hi) = accRead s ∧ flashRead (lsZero s p lo hi) = flashRead s
    ∧ getBusy (lsZero s p lo hi) = getBusy s ∧ cfgGet (lsZero s p lo hi) = cfgGet s ∧ cfgN (lsZero s p lo hi) = cfgN s
    ∧ cfgF (lsZero s p lo hi) = cfgF s ∧ cfgD (lsZero s p lo hi) = cfgD s ∧ ltGet (lsZero s p lo hi) = ltGet s
    ∧ pmGet (lsZero s p lo hi) = pmGet s := by
  refine ⟨?_, ?_, ?_, ?_, ?_, ?_, ?_, ?_, ?_, ?_, ?_, ?_, ?_, ?_, ?_, ?_, ?_, ?_, ?_, ?_, ?_, ?_, ?_, ?_, ?_, ?_, ?_, ?_, ?_, ?_, ?_, ?_, ?_, ?_, ?_, ?_, ?_, ?_, ?_, ?_, ?_, ?_, ?_, ?_, ?_, ?_, ?_, ?_, ?_, ?_, ?_, ?_, ?_, ?_, ?_, ?_, ?_, ?_⟩ <;> rfl

/-- What setBusy leaves as it is. -/
@[simp] theorem setBusy_keeps (s : State) (b : Nat) :
    (setBusy s b).pending = s.pending ∧ (setBusy s b).tick = s.tick ∧ (setBusy s b).freeCtr = s.freeCtr
    ∧ (setBusy s b).resp = s.resp ∧ (setBusy s b).crd = s.crd ∧ (setBusy s b).doms = s.doms
    ∧ (setBusy s b).domSeqs = s.domSeqs ∧ (setBusy s b).hz = s.hz ∧ (setBusy s b).qc = s.qc
    ∧ (setBusy s b).slog = s.slog ∧ (setBusy s b).pm = s.pm ∧ (setBusy s b).boot = s.boot
    ∧ (setBusy s b).sealEng = s.sealEng ∧ (setBusy s b).garr = s.garr ∧ (setBusy s b).strata = s.strata
    ∧ (setBusy s b).links = s.links ∧ (setBusy s b).pow = s.pow ∧ (setBusy s b).therm = s.therm
    ∧ (setBusy s b).leaks = s.leaks ∧ (setBusy s b).motors = s.motors ∧ (setBusy s b).tw = s.tw
    ∧ (setBusy s b).jtag = s.jtag ∧ (setBusy s b).mem = s.mem ∧ (setBusy s b).regs.cfg = s.regs.cfg
    ∧ (setBusy s b).regs.vfBusy = s.regs.vfBusy ∧ (setBusy s b).regs.staged = s.regs.staged
    ∧ (setBusy s b).regs.latched = s.regs.latched ∧ (setBusy s b).regs.bar2Size = s.regs.bar2Size
    ∧ (setBusy s b).regs.aer = s.regs.aer ∧ getDom (setBusy s b) = getDom s ∧ getQp (setBusy s b) = getQp s
    ∧ getTen (setBusy s b) = getTen s ∧ findCmd (setBusy s b) = findCmd s ∧ getAcc (setBusy s b) = getAcc s
    ∧ getSpoke (setBusy s b) = getSpoke s ∧ getChan (setBusy s b) = getChan s ∧ getThr (setBusy s b) = getThr s
    ∧ getLeak (setBusy s b) = getLeak s ∧ getMotor (setBusy s b) = getMotor s ∧ getPort (setBusy s b) = getPort s
    ∧ getBed (setBusy s b) = getBed s ∧ getGrain (setBusy s b) = getGrain s ∧ getThread (setBusy s b) = getThread s
    ∧ getRemap (setBusy s b) = getRemap s ∧ getKslot (setBusy s b) = getKslot s ∧ getModel (setBusy s b) = getModel s
    ∧ getWindow (setBusy s b) = getWindow s ∧ findRec (setBusy s b) = findRec s
    ∧ getAccBoot (setBusy s b) = getAccBoot s ∧ hostRead (setBusy s b) = hostRead s ∧ gmRead (setBusy s b) = gmRead s
    ∧ accRead (setBusy s b) = accRead s ∧ flashRead (setBusy s b) = flashRead s ∧ lsRead (setBusy s b) = lsRead s
    ∧ cfgGet (setBusy s b) = cfgGet s ∧ cfgN (setBusy s b) = cfgN s ∧ cfgF (setBusy s b) = cfgF s
    ∧ cfgD (setBusy s b) = cfgD s ∧ ltGet (setBusy s b) = ltGet s ∧ pmGet (setBusy s b) = pmGet s := by
  refine ⟨?_, ?_, ?_, ?_, ?_, ?_, ?_, ?_, ?_, ?_, ?_, ?_, ?_, ?_, ?_, ?_, ?_, ?_, ?_, ?_, ?_, ?_, ?_, ?_, ?_, ?_, ?_, ?_, ?_, ?_, ?_, ?_, ?_, ?_, ?_, ?_, ?_, ?_, ?_, ?_, ?_, ?_, ?_, ?_, ?_, ?_, ?_, ?_, ?_, ?_, ?_, ?_, ?_, ?_, ?_, ?_, ?_, ?_, ?_, ?_⟩ <;> rfl

/-- What clrBusy leaves as it is. -/
@[simp] theorem clrBusy_keeps (s : State) (b : Nat) :
    (clrBusy s b).pending = s.pending ∧ (clrBusy s b).tick = s.tick ∧ (clrBusy s b).freeCtr = s.freeCtr
    ∧ (clrBusy s b).resp = s.resp ∧ (clrBusy s b).crd = s.crd ∧ (clrBusy s b).doms = s.doms
    ∧ (clrBusy s b).domSeqs = s.domSeqs ∧ (clrBusy s b).hz = s.hz ∧ (clrBusy s b).qc = s.qc
    ∧ (clrBusy s b).slog = s.slog ∧ (clrBusy s b).pm = s.pm ∧ (clrBusy s b).boot = s.boot
    ∧ (clrBusy s b).sealEng = s.sealEng ∧ (clrBusy s b).garr = s.garr ∧ (clrBusy s b).strata = s.strata
    ∧ (clrBusy s b).links = s.links ∧ (clrBusy s b).pow = s.pow ∧ (clrBusy s b).therm = s.therm
    ∧ (clrBusy s b).leaks = s.leaks ∧ (clrBusy s b).motors = s.motors ∧ (clrBusy s b).tw = s.tw
    ∧ (clrBusy s b).jtag = s.jtag ∧ (clrBusy s b).mem = s.mem ∧ (clrBusy s b).regs.cfg = s.regs.cfg
    ∧ (clrBusy s b).regs.vfBusy = s.regs.vfBusy ∧ (clrBusy s b).regs.staged = s.regs.staged
    ∧ (clrBusy s b).regs.latched = s.regs.latched ∧ (clrBusy s b).regs.bar2Size = s.regs.bar2Size
    ∧ (clrBusy s b).regs.aer = s.regs.aer ∧ getDom (clrBusy s b) = getDom s ∧ getQp (clrBusy s b) = getQp s
    ∧ getTen (clrBusy s b) = getTen s ∧ findCmd (clrBusy s b) = findCmd s ∧ getAcc (clrBusy s b) = getAcc s
    ∧ getSpoke (clrBusy s b) = getSpoke s ∧ getChan (clrBusy s b) = getChan s ∧ getThr (clrBusy s b) = getThr s
    ∧ getLeak (clrBusy s b) = getLeak s ∧ getMotor (clrBusy s b) = getMotor s ∧ getPort (clrBusy s b) = getPort s
    ∧ getBed (clrBusy s b) = getBed s ∧ getGrain (clrBusy s b) = getGrain s ∧ getThread (clrBusy s b) = getThread s
    ∧ getRemap (clrBusy s b) = getRemap s ∧ getKslot (clrBusy s b) = getKslot s ∧ getModel (clrBusy s b) = getModel s
    ∧ getWindow (clrBusy s b) = getWindow s ∧ findRec (clrBusy s b) = findRec s
    ∧ getAccBoot (clrBusy s b) = getAccBoot s ∧ hostRead (clrBusy s b) = hostRead s ∧ gmRead (clrBusy s b) = gmRead s
    ∧ accRead (clrBusy s b) = accRead s ∧ flashRead (clrBusy s b) = flashRead s ∧ lsRead (clrBusy s b) = lsRead s
    ∧ cfgGet (clrBusy s b) = cfgGet s ∧ cfgN (clrBusy s b) = cfgN s ∧ cfgF (clrBusy s b) = cfgF s
    ∧ cfgD (clrBusy s b) = cfgD s ∧ ltGet (clrBusy s b) = ltGet s ∧ pmGet (clrBusy s b) = pmGet s := by
  refine ⟨?_, ?_, ?_, ?_, ?_, ?_, ?_, ?_, ?_, ?_, ?_, ?_, ?_, ?_, ?_, ?_, ?_, ?_, ?_, ?_, ?_, ?_, ?_, ?_, ?_, ?_, ?_, ?_, ?_, ?_, ?_, ?_, ?_, ?_, ?_, ?_, ?_, ?_, ?_, ?_, ?_, ?_, ?_, ?_, ?_, ?_, ?_, ?_, ?_, ?_, ?_, ?_, ?_, ?_, ?_, ?_, ?_, ?_, ?_, ?_⟩ <;> rfl

/-- What logAer leaves as it is. -/
@[simp] theorem logAer_keeps (s : State) :
    (logAer s).pending = s.pending ∧ (logAer s).tick = s.tick ∧ (logAer s).freeCtr = s.freeCtr
    ∧ (logAer s).resp = s.resp ∧ (logAer s).crd = s.crd ∧ (logAer s).doms = s.doms ∧ (logAer s).domSeqs = s.domSeqs
    ∧ (logAer s).hz = s.hz ∧ (logAer s).qc = s.qc ∧ (logAer s).slog = s.slog ∧ (logAer s).pm = s.pm
    ∧ (logAer s).boot = s.boot ∧ (logAer s).sealEng = s.sealEng ∧ (logAer s).garr = s.garr
    ∧ (logAer s).strata = s.strata ∧ (logAer s).links = s.links ∧ (logAer s).pow = s.pow ∧ (logAer s).therm = s.therm
    ∧ (logAer s).leaks = s.leaks ∧ (logAer s).motors = s.motors ∧ (logAer s).tw = s.tw ∧ (logAer s).jtag = s.jtag
    ∧ (logAer s).mem = s.mem ∧ (logAer s).regs.cfg = s.regs.cfg ∧ (logAer s).regs.busy = s.regs.busy
    ∧ (logAer s).regs.vfBusy = s.regs.vfBusy ∧ (logAer s).regs.staged = s.regs.staged
    ∧ (logAer s).regs.latched = s.regs.latched ∧ (logAer s).regs.bar2Size = s.regs.bar2Size
    ∧ getDom (logAer s) = getDom s ∧ getQp (logAer s) = getQp s ∧ getTen (logAer s) = getTen s
    ∧ findCmd (logAer s) = findCmd s ∧ getAcc (logAer s) = getAcc s ∧ getSpoke (logAer s) = getSpoke s
    ∧ getChan (logAer s) = getChan s ∧ getThr (logAer s) = getThr s ∧ getLeak (logAer s) = getLeak s
    ∧ getMotor (logAer s) = getMotor s ∧ getPort (logAer s) = getPort s ∧ getBed (logAer s) = getBed s
    ∧ getGrain (logAer s) = getGrain s ∧ getThread (logAer s) = getThread s ∧ getRemap (logAer s) = getRemap s
    ∧ getKslot (logAer s) = getKslot s ∧ getModel (logAer s) = getModel s ∧ getWindow (logAer s) = getWindow s
    ∧ findRec (logAer s) = findRec s ∧ getAccBoot (logAer s) = getAccBoot s ∧ hostRead (logAer s) = hostRead s
    ∧ gmRead (logAer s) = gmRead s ∧ accRead (logAer s) = accRead s ∧ flashRead (logAer s) = flashRead s
    ∧ lsRead (logAer s) = lsRead s ∧ getBusy (logAer s) = getBusy s ∧ cfgGet (logAer s) = cfgGet s
    ∧ cfgN (logAer s) = cfgN s ∧ cfgF (logAer s) = cfgF s ∧ cfgD (logAer s) = cfgD s ∧ ltGet (logAer s) = ltGet s
    ∧ pmGet (logAer s) = pmGet s := by
  refine ⟨?_, ?_, ?_, ?_, ?_, ?_, ?_, ?_, ?_, ?_, ?_, ?_, ?_, ?_, ?_, ?_, ?_, ?_, ?_, ?_, ?_, ?_, ?_, ?_, ?_, ?_, ?_, ?_, ?_, ?_, ?_, ?_, ?_, ?_, ?_, ?_, ?_, ?_, ?_, ?_, ?_, ?_, ?_, ?_, ?_, ?_, ?_, ?_, ?_, ?_, ?_, ?_, ?_, ?_, ?_, ?_, ?_, ?_, ?_, ?_, ?_⟩ <;> rfl

/-- What cfgSet leaves as it is. -/
@[simp] theorem cfgSet_keeps (s : State) (o : Nat) (w : Word) :
    (cfgSet s o w).pending = s.pending ∧ (cfgSet s o w).tick = s.tick ∧ (cfgSet s o w).freeCtr = s.freeCtr
    ∧ (cfgSet s o w).resp = s.resp ∧ (cfgSet s o w).crd = s.crd ∧ (cfgSet s o w).doms = s.doms
    ∧ (cfgSet s o w).domSeqs = s.domSeqs ∧ (cfgSet s o w).hz = s.hz ∧ (cfgSet s o w).qc = s.qc
    ∧ (cfgSet s o w).slog = s.slog ∧ (cfgSet s o w).pm = s.pm ∧ (cfgSet s o w).boot = s.boot
    ∧ (cfgSet s o w).sealEng = s.sealEng ∧ (cfgSet s o w).garr = s.garr ∧ (cfgSet s o w).strata = s.strata
    ∧ (cfgSet s o w).links = s.links ∧ (cfgSet s o w).pow = s.pow ∧ (cfgSet s o w).therm = s.therm
    ∧ (cfgSet s o w).leaks = s.leaks ∧ (cfgSet s o w).motors = s.motors ∧ (cfgSet s o w).tw = s.tw
    ∧ (cfgSet s o w).jtag = s.jtag ∧ (cfgSet s o w).mem = s.mem ∧ (cfgSet s o w).regs.busy = s.regs.busy
    ∧ (cfgSet s o w).regs.vfBusy = s.regs.vfBusy ∧ (cfgSet s o w).regs.staged = s.regs.staged
    ∧ (cfgSet s o w).regs.latched = s.regs.latched ∧ (cfgSet s o w).regs.bar2Size = s.regs.bar2Size
    ∧ (cfgSet s o w).regs.aer = s.regs.aer ∧ getDom (cfgSet s o w) = getDom s ∧ getQp (cfgSet s o w) = getQp s
    ∧ getTen (cfgSet s o w) = getTen s ∧ findCmd (cfgSet s o w) = findCmd s ∧ getAcc (cfgSet s o w) = getAcc s
    ∧ getSpoke (cfgSet s o w) = getSpoke s ∧ getChan (cfgSet s o w) = getChan s ∧ getThr (cfgSet s o w) = getThr s
    ∧ getLeak (cfgSet s o w) = getLeak s ∧ getMotor (cfgSet s o w) = getMotor s ∧ getPort (cfgSet s o w) = getPort s
    ∧ getBed (cfgSet s o w) = getBed s ∧ getGrain (cfgSet s o w) = getGrain s ∧ getThread (cfgSet s o w) = getThread s
    ∧ getRemap (cfgSet s o w) = getRemap s ∧ getKslot (cfgSet s o w) = getKslot s ∧ getModel (cfgSet s o w) = getModel s
    ∧ getWindow (cfgSet s o w) = getWindow s ∧ findRec (cfgSet s o w) = findRec s
    ∧ getAccBoot (cfgSet s o w) = getAccBoot s ∧ hostRead (cfgSet s o w) = hostRead s ∧ gmRead (cfgSet s o w) = gmRead s
    ∧ accRead (cfgSet s o w) = accRead s ∧ flashRead (cfgSet s o w) = flashRead s ∧ lsRead (cfgSet s o w) = lsRead s
    ∧ getBusy (cfgSet s o w) = getBusy s ∧ ltGet (cfgSet s o w) = ltGet s ∧ pmGet (cfgSet s o w) = pmGet s := by
  refine ⟨?_, ?_, ?_, ?_, ?_, ?_, ?_, ?_, ?_, ?_, ?_, ?_, ?_, ?_, ?_, ?_, ?_, ?_, ?_, ?_, ?_, ?_, ?_, ?_, ?_, ?_, ?_, ?_, ?_, ?_, ?_, ?_, ?_, ?_, ?_, ?_, ?_, ?_, ?_, ?_, ?_, ?_, ?_, ?_, ?_, ?_, ?_, ?_, ?_, ?_, ?_, ?_, ?_, ?_, ?_, ?_, ?_⟩ <;> rfl

/-- What ltAdd leaves as it is. -/
@[simp] theorem ltAdd_keeps (s : State) (i n : Nat) :
    (ltAdd s i n).pending = s.pending ∧ (ltAdd s i n).tick = s.tick ∧ (ltAdd s i n).freeCtr = s.freeCtr
    ∧ (ltAdd s i n).resp = s.resp ∧ (ltAdd s i n).crd = s.crd ∧ (ltAdd s i n).doms = s.doms
    ∧ (ltAdd s i n).domSeqs = s.domSeqs ∧ (ltAdd s i n).regs = s.regs ∧ (ltAdd s i n).hz = s.hz
    ∧ (ltAdd s i n).qc = s.qc ∧ (ltAdd s i n).pm = s.pm ∧ (ltAdd s i n).boot = s.boot
    ∧ (ltAdd s i n).sealEng = s.sealEng ∧ (ltAdd s i n).garr = s.garr ∧ (ltAdd s i n).strata = s.strata
    ∧ (ltAdd s i n).links = s.links ∧ (ltAdd s i n).pow = s.pow ∧ (ltAdd s i n).therm = s.therm
    ∧ (ltAdd s i n).leaks = s.leaks ∧ (ltAdd s i n).motors = s.motors ∧ (ltAdd s i n).tw = s.tw
    ∧ (ltAdd s i n).jtag = s.jtag ∧ (ltAdd s i n).mem = s.mem ∧ (ltAdd s i n).slog.calendar = s.slog.calendar
    ∧ (ltAdd s i n).slog.calSince = s.slog.calSince ∧ (ltAdd s i n).slog.atCheckpoint = s.slog.atCheckpoint
    ∧ (ltAdd s i n).slog.setNo = s.slog.setNo ∧ (ltAdd s i n).slog.lastCheckpoint = s.slog.lastCheckpoint
    ∧ (ltAdd s i n).slog.dieLow = s.slog.dieLow ∧ (ltAdd s i n).slog.dieHigh = s.slog.dieHigh
    ∧ (ltAdd s i n).slog.energyRem = s.slog.energyRem ∧ (ltAdd s i n).slog.toothRem = s.slog.toothRem
    ∧ (ltAdd s i n).slog.poweredRem = s.slog.poweredRem ∧ (ltAdd s i n).slog.queue = s.slog.queue
    ∧ (ltAdd s i n).slog.nextSeq = s.slog.nextSeq ∧ (ltAdd s i n).slog.dropped = s.slog.dropped
    ∧ (ltAdd s i n).slog.dropReport = s.slog.dropReport ∧ (ltAdd s i n).slog.headSeg = s.slog.headSeg
    ∧ (ltAdd s i n).slog.headSlot = s.slog.headSlot ∧ (ltAdd s i n).slog.segSeq = s.slog.segSeq
    ∧ (ltAdd s i n).slog.erases = s.slog.erases ∧ (ltAdd s i n).slog.skipped = s.slog.skipped
    ∧ (ltAdd s i n).slog.mismatches = s.slog.mismatches ∧ (ltAdd s i n).slog.erasing = s.slog.erasing
    ∧ (ltAdd s i n).slog.eraseHeld = s.slog.eraseHeld ∧ (ltAdd s i n).slog.torn = s.slog.torn
    ∧ (ltAdd s i n).slog.flashErr = s.slog.flashErr ∧ (ltAdd s i n).slog.restored = s.slog.restored
    ∧ (ltAdd s i n).slog.unclean = s.slog.unclean ∧ (ltAdd s i n).slog.headSeq = s.slog.headSeq
    ∧ (ltAdd s i n).slog.retryAt = s.slog.retryAt ∧ getDom (ltAdd s i n) = getDom s ∧ getQp (ltAdd s i n) = getQp s
    ∧ getTen (ltAdd s i n) = getTen s ∧ findCmd (ltAdd s i n) = findCmd s ∧ getAcc (ltAdd s i n) = getAcc s
    ∧ getSpoke (ltAdd s i n) = getSpoke s ∧ getChan (ltAdd s i n) = getChan s ∧ getThr (ltAdd s i n) = getThr s
    ∧ getLeak (ltAdd s i n) = getLeak s ∧ getMotor (ltAdd s i n) = getMotor s ∧ getPort (ltAdd s i n) = getPort s
    ∧ getBed (ltAdd s i n) = getBed s ∧ getGrain (ltAdd s i n) = getGrain s ∧ getThread (ltAdd s i n) = getThread s
    ∧ getRemap (ltAdd s i n) = getRemap s ∧ getKslot (ltAdd s i n) = getKslot s ∧ getModel (ltAdd s i n) = getModel s
    ∧ getWindow (ltAdd s i n) = getWindow s ∧ findRec (ltAdd s i n) = findRec s
    ∧ getAccBoot (ltAdd s i n) = getAccBoot s ∧ hostRead (ltAdd s i n) = hostRead s ∧ gmRead (ltAdd s i n) = gmRead s
    ∧ accRead (ltAdd s i n) = accRead s ∧ flashRead (ltAdd s i n) = flashRead s ∧ lsRead (ltAdd s i n) = lsRead s
    ∧ getBusy (ltAdd s i n) = getBusy s ∧ cfgGet (ltAdd s i n) = cfgGet s ∧ cfgN (ltAdd s i n) = cfgN s
    ∧ cfgF (ltAdd s i n) = cfgF s ∧ cfgD (ltAdd s i n) = cfgD s ∧ pmGet (ltAdd s i n) = pmGet s := by
  refine ⟨?_, ?_, ?_, ?_, ?_, ?_, ?_, ?_, ?_, ?_, ?_, ?_, ?_, ?_, ?_, ?_, ?_, ?_, ?_, ?_, ?_, ?_, ?_, ?_, ?_, ?_, ?_, ?_, ?_, ?_, ?_, ?_, ?_, ?_, ?_, ?_, ?_, ?_, ?_, ?_, ?_, ?_, ?_, ?_, ?_, ?_, ?_, ?_, ?_, ?_, ?_, ?_, ?_, ?_, ?_, ?_, ?_, ?_, ?_, ?_, ?_, ?_, ?_, ?_, ?_, ?_, ?_, ?_, ?_, ?_, ?_, ?_, ?_, ?_, ?_, ?_, ?_, ?_, ?_, ?_, ?_, ?_⟩ <;> rfl

@[simp] theorem getDom_setDom (s : State) (d k : Nat) (x : Dom) :
    getDom (setDom s d x) k = if k = d then x else getDom s k := by
  simp [getDom, setDom]

@[simp] theorem getAcc_setAcc (s : State) (d k : Nat) (x : Acc) :
    getAcc (setAcc s d x) k = if k = d then x else getAcc s k := by
  simp [getAcc, setAcc]

@[simp] theorem getTen_setTen (s : State) (d k : Nat) (x : Tenant) :
    getTen (setTen s d x) k = if k = d then x else getTen s k := by
  simp [getTen, setTen]

@[simp] theorem getSpoke_setSpoke (s : State) (d k : Nat) (x : Spoke) :
    getSpoke (setSpoke s d x) k = if k = d then x else getSpoke s k := by
  simp [getSpoke, setSpoke]

@[simp] theorem getChan_setChan (s : State) (d k : Nat) (x : Chan) :
    getChan (setChan s d x) k = if k = d then x else getChan s k := by
  simp [getChan, setChan]

@[simp] theorem getThr_setThr (s : State) (d k : Nat) (x : Throttle) :
    getThr (setThr s d x) k = if k = d then x else getThr s k := by
  simp [getThr, setThr]

@[simp] theorem getLeak_setLeak (s : State) (d k : Nat) (x : Leak) :
    getLeak (setLeak s d x) k = if k = d then x else getLeak s k := by
  simp [getLeak, setLeak]

@[simp] theorem getMotor_setMotor (s : State) (d k : Nat) (x : Motor) :
    getMotor (setMotor s d x) k = if k = d then x else getMotor s k := by
  simp [getMotor, setMotor]

@[simp] theorem getPort_setPort (s : State) (d k : Nat) (x : Port) :
    getPort (setPort s d x) k = if k = d then x else getPort s k := by
  simp [getPort, setPort]

@[simp] theorem getBed_setBed (s : State) (d k : Nat) (x : Bed) :
    getBed (setBed s d x) k = if k = d then x else getBed s k := by
  simp [getBed, setBed]

@[simp] theorem getGrain_setGrain (s : State) (d k : Nat) (x : Grain) :
    getGrain (setGrain s d x) k = if k = d then x else getGrain s k := by
  simp [getGrain, setGrain]

@[simp] theorem getRemap_setRemap (s : State) (d k : Nat) (x : Remap) :
    getRemap (setRemap s d x) k = if k = d then x else getRemap s k := by
  simp [getRemap, setRemap]

@[simp] theorem getKslot_setKslot (s : State) (d k : Nat) (x : KSlot) :
    getKslot (setKslot s d x) k = if k = d then x else getKslot s k := by
  simp [getKslot, setKslot]

@[simp] theorem getModel_setModel (s : State) (d k : Nat) (x : ModelSlot) :
    getModel (setModel s d x) k = if k = d then x else getModel s k := by
  simp [getModel, setModel]

@[simp] theorem getWindow_setWindow (s : State) (d k : Nat) (x : Option Window) :
    getWindow (setWindow s d x) k = if k = d then x else getWindow s k := by
  simp [getWindow, setWindow]

@[simp] theorem getAccBoot_setAccBoot (s : State) (d k : Nat) (x : AccBoot) :
    getAccBoot (setAccBoot s d x) k = if k = d then x else getAccBoot s k := by
  simp [getAccBoot, setAccBoot]

@[simp] theorem cfgGet_cfgSet (s : State) (d k : Nat) (x : Word) :
    cfgGet (cfgSet s d x) k = if k = d then x else cfgGet s k := by
  simp [cfgGet, cfgSet]

@[simp] theorem getBusy_setBusy (s : State) (d k : Nat) :
    getBusy (setBusy s d) k = if k = d then true else getBusy s k := by
  simp [getBusy, setBusy]

@[simp] theorem getBusy_clrBusy (s : State) (d k : Nat) :
    getBusy (clrBusy s d) k = if k = d then false else getBusy s k := by
  simp [getBusy, clrBusy]

@[simp] theorem ltGet_ltAdd (s : State) (d k n : Nat) :
    ltGet (ltAdd s d n) k = if k = d then min (ltGet s d + n) (2 ^ 64 - 1) else ltGet s k := by
  simp [ltGet, ltAdd]

@[simp] theorem getQp_setQp (s : State) (f q k : Nat) (x : Qp) :
    getQp (setQp s f q x) f k = if k = q then x else getQp s f k := by
  simp [getQp, setQp]

@[simp] theorem getThread_setThread (s : State) (p t k : Nat) (x : Thread) :
    getThread (setThread s p t x) p k = if k = t then x else getThread s p k := by
  simp [getThread, setThread]

end Sys2Proof.Machine
end

