-- ==== Sys2Proof/Laws/Ops.lean ====
section
/-! SUPPORT. What the shared operations can do: the fields each may write (its frame), and when a command of the command table
starts. -/

namespace Sys2Proof.Machine

/-- Counting changes the performance monitor alone. -/
theorem count_frame (s : State) (e : Nat) (o : Occ) (n : Nat) :
    count s e o n = { s with pm := (count s e o n).pm } := by
  unfold count
  dsimp only
  split
  · split
    · split <;> rfl
    · rfl
  · rfl

/-- What count leaves as it is. -/
@[simp] theorem count_keeps (s : State) (e : Nat) (o : Occ) (n : Nat) :
    (count s e o n).pending = s.pending ∧ (count s e o n).tick = s.tick ∧ (count s e o n).freeCtr = s.freeCtr
    ∧ (count s e o n).resp = s.resp ∧ (count s e o n).crd = s.crd ∧ (count s e o n).doms = s.doms
    ∧ (count s e o n).domSeqs = s.domSeqs ∧ (count s e o n).regs = s.regs ∧ (count s e o n).hz = s.hz
    ∧ (count s e o n).qc = s.qc ∧ (count s e o n).slog = s.slog ∧ (count s e o n).boot = s.boot
    ∧ (count s e o n).sealEng = s.sealEng ∧ (count s e o n).garr = s.garr ∧ (count s e o n).strata = s.strata
    ∧ (count s e o n).links = s.links ∧ (count s e o n).pow = s.pow ∧ (count s e o n).therm = s.therm
    ∧ (count s e o n).leaks = s.leaks ∧ (count s e o n).motors = s.motors ∧ (count s e o n).tw = s.tw
    ∧ (count s e o n).jtag = s.jtag ∧ (count s e o n).mem = s.mem ∧ getDom (count s e o n) = getDom s
    ∧ getQp (count s e o n) = getQp s ∧ getTen (count s e o n) = getTen s ∧ findCmd (count s e o n) = findCmd s
    ∧ getAcc (count s e o n) = getAcc s ∧ getSpoke (count s e o n) = getSpoke s ∧ getChan (count s e o n) = getChan s
    ∧ getThr (count s e o n) = getThr s ∧ getLeak (count s e o n) = getLeak s ∧ getMotor (count s e o n) = getMotor s
    ∧ getPort (count s e o n) = getPort s ∧ getBed (count s e o n) = getBed s ∧ getGrain (count s e o n) = getGrain s
    ∧ getThread (count s e o n) = getThread s ∧ getRemap (count s e o n) = getRemap s
    ∧ getKslot (count s e o n) = getKslot s ∧ getModel (count s e o n) = getModel s
    ∧ getWindow (count s e o n) = getWindow s ∧ findRec (count s e o n) = findRec s
    ∧ getAccBoot (count s e o n) = getAccBoot s ∧ hostRead (count s e o n) = hostRead s
    ∧ gmRead (count s e o n) = gmRead s ∧ accRead (count s e o n) = accRead s ∧ flashRead (count s e o n) = flashRead s
    ∧ lsRead (count s e o n) = lsRead s ∧ getBusy (count s e o n) = getBusy s ∧ cfgGet (count s e o n) = cfgGet s
    ∧ cfgN (count s e o n) = cfgN s ∧ cfgF (count s e o n) = cfgF s ∧ cfgD (count s e o n) = cfgD s
    ∧ ltGet (count s e o n) = ltGet s := by
  rw [count_frame]
  refine ⟨?_, ?_, ?_, ?_, ?_, ?_, ?_, ?_, ?_, ?_, ?_, ?_, ?_, ?_, ?_, ?_, ?_, ?_, ?_, ?_, ?_, ?_, ?_, ?_, ?_, ?_, ?_, ?_, ?_, ?_, ?_, ?_, ?_, ?_, ?_, ?_, ?_, ?_, ?_, ?_, ?_, ?_, ?_, ?_, ?_, ?_, ?_, ?_, ?_, ?_, ?_, ?_, ?_, ?_⟩ <;> rfl

/-- Drawing a free value advances its counter alone. -/
theorem drawFree_frame (s : State)  :
    (drawFree s).2 = { s with freeCtr := s.freeCtr + 1 } := by
  rfl

/-- What drawFree leaves as it is. -/
@[simp] theorem drawFree_keeps (s : State)  :
    ((drawFree s).2).pending = s.pending ∧ ((drawFree s).2).tick = s.tick ∧ ((drawFree s).2).resp = s.resp
    ∧ ((drawFree s).2).crd = s.crd ∧ ((drawFree s).2).doms = s.doms ∧ ((drawFree s).2).domSeqs = s.domSeqs
    ∧ ((drawFree s).2).regs = s.regs ∧ ((drawFree s).2).hz = s.hz ∧ ((drawFree s).2).qc = s.qc
    ∧ ((drawFree s).2).slog = s.slog ∧ ((drawFree s).2).pm = s.pm ∧ ((drawFree s).2).boot = s.boot
    ∧ ((drawFree s).2).sealEng = s.sealEng ∧ ((drawFree s).2).garr = s.garr ∧ ((drawFree s).2).strata = s.strata
    ∧ ((drawFree s).2).links = s.links ∧ ((drawFree s).2).pow = s.pow ∧ ((drawFree s).2).therm = s.therm
    ∧ ((drawFree s).2).leaks = s.leaks ∧ ((drawFree s).2).motors = s.motors ∧ ((drawFree s).2).tw = s.tw
    ∧ ((drawFree s).2).jtag = s.jtag ∧ ((drawFree s).2).mem = s.mem ∧ getDom ((drawFree s).2) = getDom s
    ∧ getQp ((drawFree s).2) = getQp s ∧ getTen ((drawFree s).2) = getTen s ∧ findCmd ((drawFree s).2) = findCmd s
    ∧ getAcc ((drawFree s).2) = getAcc s ∧ getSpoke ((drawFree s).2) = getSpoke s ∧ getChan ((drawFree s).2) = getChan s
    ∧ getThr ((drawFree s).2) = getThr s ∧ getLeak ((drawFree s).2) = getLeak s ∧ getMotor ((drawFree s).2) = getMotor s
    ∧ getPort ((drawFree s).2) = getPort s ∧ getBed ((drawFree s).2) = getBed s ∧ getGrain ((drawFree s).2) = getGrain s
    ∧ getThread ((drawFree s).2) = getThread s ∧ getRemap ((drawFree s).2) = getRemap s
    ∧ getKslot ((drawFree s).2) = getKslot s ∧ getModel ((drawFree s).2) = getModel s
    ∧ getWindow ((drawFree s).2) = getWindow s ∧ findRec ((drawFree s).2) = findRec s
    ∧ getAccBoot ((drawFree s).2) = getAccBoot s ∧ hostRead ((drawFree s).2) = hostRead s
    ∧ gmRead ((drawFree s).2) = gmRead s ∧ accRead ((drawFree s).2) = accRead s
    ∧ flashRead ((drawFree s).2) = flashRead s ∧ lsRead ((drawFree s).2) = lsRead s
    ∧ getBusy ((drawFree s).2) = getBusy s ∧ cfgGet ((drawFree s).2) = cfgGet s ∧ cfgN ((drawFree s).2) = cfgN s
    ∧ cfgF ((drawFree s).2) = cfgF s ∧ cfgD ((drawFree s).2) = cfgD s ∧ ltGet ((drawFree s).2) = ltGet s
    ∧ pmGet ((drawFree s).2) = pmGet s := by
  rw [drawFree_frame]
  refine ⟨?_, ?_, ?_, ?_, ?_, ?_, ?_, ?_, ?_, ?_, ?_, ?_, ?_, ?_, ?_, ?_, ?_, ?_, ?_, ?_, ?_, ?_, ?_, ?_, ?_, ?_, ?_, ?_, ?_, ?_, ?_, ?_, ?_, ?_, ?_, ?_, ?_, ?_, ?_, ?_, ?_, ?_, ?_, ?_, ?_, ?_, ?_, ?_, ?_, ?_, ?_, ?_, ?_, ?_, ?_⟩ <;> rfl

/-- A Host Notify changes the pending notifications alone. -/
theorem hostNote_frame (s : State) (r d : Nat) :
    hostNote s r d = { s with tw := { s.tw with hn := (hostNote s r d).tw.hn } } := by
  unfold hostNote
  split
  · rfl
  · split <;> rfl

/-- What hostNote leaves as it is. -/
@[simp] theorem hostNote_keeps (s : State) (r d : Nat) :
    (hostNote s r d).pending = s.pending ∧ (hostNote s r d).tick = s.tick ∧ (hostNote s r d).freeCtr = s.freeCtr
    ∧ (hostNote s r d).resp = s.resp ∧ (hostNote s r d).crd = s.crd ∧ (hostNote s r d).doms = s.doms
    ∧ (hostNote s r d).domSeqs = s.domSeqs ∧ (hostNote s r d).regs = s.regs ∧ (hostNote s r d).hz = s.hz
    ∧ (hostNote s r d).qc = s.qc ∧ (hostNote s r d).slog = s.slog ∧ (hostNote s r d).pm = s.pm
    ∧ (hostNote s r d).boot = s.boot ∧ (hostNote s r d).sealEng = s.sealEng ∧ (hostNote s r d).garr = s.garr
    ∧ (hostNote s r d).strata = s.strata ∧ (hostNote s r d).links = s.links ∧ (hostNote s r d).pow = s.pow
    ∧ (hostNote s r d).therm = s.therm ∧ (hostNote s r d).leaks = s.leaks ∧ (hostNote s r d).motors = s.motors
    ∧ (hostNote s r d).jtag = s.jtag ∧ (hostNote s r d).mem = s.mem ∧ (hostNote s r d).tw.ports = s.tw.ports
    ∧ (hostNote s r d).tw.pecErrs = s.tw.pecErrs ∧ (hostNote s r d).tw.nacks = s.tw.nacks
    ∧ (hostNote s r d).tw.timeouts = s.tw.timeouts ∧ (hostNote s r d).tw.w0Last = s.tw.w0Last
    ∧ (hostNote s r d).tw.hnDropped = s.tw.hnDropped ∧ (hostNote s r d).tw.result = s.tw.result
    ∧ (hostNote s r d).tw.flow = s.tw.flow ∧ (hostNote s r d).tw.press = s.tw.press
    ∧ (hostNote s r d).tw.chargerOn = s.tw.chargerOn ∧ (hostNote s r d).tw.xferBusy = s.tw.xferBusy
    ∧ (hostNote s r d).tw.xferCode = s.tw.xferCode ∧ (hostNote s r d).tw.xferBytes = s.tw.xferBytes
    ∧ (hostNote s r d).tw.voutMode = s.tw.voutMode ∧ getDom (hostNote s r d) = getDom s
    ∧ getQp (hostNote s r d) = getQp s ∧ getTen (hostNote s r d) = getTen s ∧ findCmd (hostNote s r d) = findCmd s
    ∧ getAcc (hostNote s r d) = getAcc s ∧ getSpoke (hostNote s r d) = getSpoke s ∧ getChan (hostNote s r d) = getChan s
    ∧ getThr (hostNote s r d) = getThr s ∧ getLeak (hostNote s r d) = getLeak s ∧ getMotor (hostNote s r d) = getMotor s
    ∧ getPort (hostNote s r d) = getPort s ∧ getBed (hostNote s r d) = getBed s ∧ getGrain (hostNote s r d) = getGrain s
    ∧ getThread (hostNote s r d) = getThread s ∧ getRemap (hostNote s r d) = getRemap s
    ∧ getKslot (hostNote s r d) = getKslot s ∧ getModel (hostNote s r d) = getModel s
    ∧ getWindow (hostNote s r d) = getWindow s ∧ findRec (hostNote s r d) = findRec s
    ∧ getAccBoot (hostNote s r d) = getAccBoot s ∧ hostRead (hostNote s r d) = hostRead s
    ∧ gmRead (hostNote s r d) = gmRead s ∧ accRead (hostNote s r d) = accRead s
    ∧ flashRead (hostNote s r d) = flashRead s ∧ lsRead (hostNote s r d) = lsRead s
    ∧ getBusy (hostNote s r d) = getBusy s ∧ cfgGet (hostNote s r d) = cfgGet s ∧ cfgN (hostNote s r d) = cfgN s
    ∧ cfgF (hostNote s r d) = cfgF s ∧ cfgD (hostNote s r d) = cfgD s ∧ ltGet (hostNote s r d) = ltGet s
    ∧ pmGet (hostNote s r d) = pmGet s := by
  rw [hostNote_frame]
  refine ⟨?_, ?_, ?_, ?_, ?_, ?_, ?_, ?_, ?_, ?_, ?_, ?_, ?_, ?_, ?_, ?_, ?_, ?_, ?_, ?_, ?_, ?_, ?_, ?_, ?_, ?_, ?_, ?_, ?_, ?_, ?_, ?_, ?_, ?_, ?_, ?_, ?_, ?_, ?_, ?_, ?_, ?_, ?_, ?_, ?_, ?_, ?_, ?_, ?_, ?_, ?_, ?_, ?_, ?_, ?_, ?_, ?_, ?_, ?_, ?_, ?_, ?_, ?_, ?_, ?_, ?_, ?_, ?_, ?_⟩ <;> rfl

/-- A message changes the messages and the performance monitor alone. -/
theorem msix_frame (s : State) (f v : Nat) :
    msix s f v = { s with qc := { s.qc with msix := (msix s f v).qc.msix }, pm := (msix s f v).pm } := by
  have fc : ∀ (u : State) (o : Occ), count u 157 o = { u with pm := (count u 157 o).pm } := fun u o => count_frame u 157 o 1
  unfold msix
  dsimp only
  rw [fc]

/-- What msix leaves as it is. -/
@[simp] theorem msix_keeps (s : State) (f v : Nat) :
    (msix s f v).pending = s.pending ∧ (msix s f v).tick = s.tick ∧ (msix s f v).freeCtr = s.freeCtr
    ∧ (msix s f v).resp = s.resp ∧ (msix s f v).crd = s.crd ∧ (msix s f v).doms = s.doms
    ∧ (msix s f v).domSeqs = s.domSeqs ∧ (msix s f v).regs = s.regs ∧ (msix s f v).hz = s.hz
    ∧ (msix s f v).slog = s.slog ∧ (msix s f v).boot = s.boot ∧ (msix s f v).sealEng = s.sealEng
    ∧ (msix s f v).garr = s.garr ∧ (msix s f v).strata = s.strata ∧ (msix s f v).links = s.links
    ∧ (msix s f v).pow = s.pow ∧ (msix s f v).therm = s.therm ∧ (msix s f v).leaks = s.leaks
    ∧ (msix s f v).motors = s.motors ∧ (msix s f v).tw = s.tw ∧ (msix s f v).jtag = s.jtag ∧ (msix s f v).mem = s.mem
    ∧ (msix s f v).qc.qps = s.qc.qps ∧ (msix s f v).qc.tenants = s.qc.tenants ∧ (msix s f v).qc.t64 = s.qc.t64
    ∧ (msix s f v).qc.cmds = s.qc.cmds ∧ (msix s f v).qc.nextSeq = s.qc.nextSeq
    ∧ (msix s f v).qc.firstServed = s.qc.firstServed ∧ (msix s f v).qc.vfs = s.qc.vfs
    ∧ (msix s f v).qc.hostBeat = s.qc.hostBeat ∧ (msix s f v).qc.bmcBeat = s.qc.bmcBeat ∧ getDom (msix s f v) = getDom s
    ∧ getQp (msix s f v) = getQp s ∧ getTen (msix s f v) = getTen s ∧ findCmd (msix s f v) = findCmd s
    ∧ getAcc (msix s f v) = getAcc s ∧ getSpoke (msix s f v) = getSpoke s ∧ getChan (msix s f v) = getChan s
    ∧ getThr (msix s f v) = getThr s ∧ getLeak (msix s f v) = getLeak s ∧ getMotor (msix s f v) = getMotor s
    ∧ getPort (msix s f v) = getPort s ∧ getBed (msix s f v) = getBed s ∧ getGrain (msix s f v) = getGrain s
    ∧ getThread (msix s f v) = getThread s ∧ getRemap (msix s f v) = getRemap s ∧ getKslot (msix s f v) = getKslot s
    ∧ getModel (msix s f v) = getModel s ∧ getWindow (msix s f v) = getWindow s ∧ findRec (msix s f v) = findRec s
    ∧ getAccBoot (msix s f v) = getAccBoot s ∧ hostRead (msix s f v) = hostRead s ∧ gmRead (msix s f v) = gmRead s
    ∧ accRead (msix s f v) = accRead s ∧ flashRead (msix s f v) = flashRead s ∧ lsRead (msix s f v) = lsRead s
    ∧ getBusy (msix s f v) = getBusy s ∧ cfgGet (msix s f v) = cfgGet s ∧ cfgN (msix s f v) = cfgN s
    ∧ cfgF (msix s f v) = cfgF s ∧ cfgD (msix s f v) = cfgD s ∧ ltGet (msix s f v) = ltGet s := by
  rw [msix_frame]
  refine ⟨?_, ?_, ?_, ?_, ?_, ?_, ?_, ?_, ?_, ?_, ?_, ?_, ?_, ?_, ?_, ?_, ?_, ?_, ?_, ?_, ?_, ?_, ?_, ?_, ?_, ?_, ?_, ?_, ?_, ?_, ?_, ?_, ?_, ?_, ?_, ?_, ?_, ?_, ?_, ?_, ?_, ?_, ?_, ?_, ?_, ?_, ?_, ?_, ?_, ?_, ?_, ?_, ?_, ?_, ?_, ?_, ?_, ?_, ?_, ?_, ?_, ?_⟩ <;> rfl

/-- Folds of operations that keep a frame keep it. -/
theorem foldl_frame {α : Type} (g : State → State → State) (hg : ∀ s, g s s = s) (ht : ∀ s t u, g (g s t) u = g s u)
    (f : State → α → State) (hf : ∀ s a, f s a = g s (f s a)) (l : List α) (s : State) : l.foldl f s = g s (l.foldl f s) := by
  induction l generalizing s with
  | nil => exact (hg s).symm
  | cons a l ih => exact (ih (f s a)).trans ((congrArg (fun u => g u _) (hf s a)).trans (ht _ _ _))

/-- A sediment record changes the log and the performance monitor alone. -/
theorem logRec_frame (s : State) (t src v : Nat) (p : List Byte) :
    logRec s t src v p = { s with slog := (logRec s t src v p).slog, pm := (logRec s t src v p).pm } := by
  have fl : ∀ (l : List Nat) (u : State), l.foldl (fun s i => ltAdd s i) u
      = { u with slog := (l.foldl (fun s i => ltAdd s i) u).slog } := fun l u =>
    foldl_frame (fun s t => { s with slog := t.slog }) (fun _ => rfl) (fun _ _ _ => rfl) _ (fun _ _ => rfl) l u
  have fc : ∀ (u : State) (e : Nat), count u e {} = { u with pm := (count u e {}).pm } := fun u e => count_frame u e {} 1
  obtain ⟨P, hP⟩ : ∃ P, count s 308 {} = { s with pm := P } := ⟨_, fc s 308⟩
  unfold logRec
  dsimp only
  rw [hP]
  repeat' split
  all_goals first
    | rw [fc _ 310, fl]
    | rw [fc _ 310]
    | rw [fl]

/-- What logRec leaves as it is. -/
@[simp] theorem logRec_keeps (s : State) (t src v : Nat) (p : List Byte) :
    (logRec s t src v p).pending = s.pending ∧ (logRec s t src v p).tick = s.tick
    ∧ (logRec s t src v p).freeCtr = s.freeCtr ∧ (logRec s t src v p).resp = s.resp ∧ (logRec s t src v p).crd = s.crd
    ∧ (logRec s t src v p).doms = s.doms ∧ (logRec s t src v p).domSeqs = s.domSeqs ∧ (logRec s t src v p).regs = s.regs
    ∧ (logRec s t src v p).hz = s.hz ∧ (logRec s t src v p).qc = s.qc ∧ (logRec s t src v p).boot = s.boot
    ∧ (logRec s t src v p).sealEng = s.sealEng ∧ (logRec s t src v p).garr = s.garr
    ∧ (logRec s t src v p).strata = s.strata ∧ (logRec s t src v p).links = s.links ∧ (logRec s t src v p).pow = s.pow
    ∧ (logRec s t src v p).therm = s.therm ∧ (logRec s t src v p).leaks = s.leaks
    ∧ (logRec s t src v p).motors = s.motors ∧ (logRec s t src v p).tw = s.tw ∧ (logRec s t src v p).jtag = s.jtag
    ∧ (logRec s t src v p).mem = s.mem ∧ getDom (logRec s t src v p) = getDom s ∧ getQp (logRec s t src v p) = getQp s
    ∧ getTen (logRec s t src v p) = getTen s ∧ findCmd (logRec s t src v p) = findCmd s
    ∧ getAcc (logRec s t src v p) = getAcc s ∧ getSpoke (logRec s t src v p) = getSpoke s
    ∧ getChan (logRec s t src v p) = getChan s ∧ getThr (logRec s t src v p) = getThr s
    ∧ getLeak (logRec s t src v p) = getLeak s ∧ getMotor (logRec s t src v p) = getMotor s
    ∧ getPort (logRec s t src v p) = getPort s ∧ getBed (logRec s t src v p) = getBed s
    ∧ getGrain (logRec s t src v p) = getGrain s ∧ getThread (logRec s t src v p) = getThread s
    ∧ getRemap (logRec s t src v p) = getRemap s ∧ getKslot (logRec s t src v p) = getKslot s
    ∧ getModel (logRec s t src v p) = getModel s ∧ getWindow (logRec s t src v p) = getWindow s
    ∧ findRec (logRec s t src v p) = findRec s ∧ getAccBoot (logRec s t src v p) = getAccBoot s
    ∧ hostRead (logRec s t src v p) = hostRead s ∧ gmRead (logRec s t src v p) = gmRead s
    ∧ accRead (logRec s t src v p) = accRead s ∧ flashRead (logRec s t src v p) = flashRead s
    ∧ lsRead (logRec s t src v p) = lsRead s ∧ getBusy (logRec s t src v p) = getBusy s
    ∧ cfgGet (logRec s t src v p) = cfgGet s ∧ cfgN (logRec s t src v p) = cfgN s ∧ cfgF (logRec s t src v p) = cfgF s
    ∧ cfgD (logRec s t src v p) = cfgD s := by
  rw [logRec_frame]
  refine ⟨?_, ?_, ?_, ?_, ?_, ?_, ?_, ?_, ?_, ?_, ?_, ?_, ?_, ?_, ?_, ?_, ?_, ?_, ?_, ?_, ?_, ?_, ?_, ?_, ?_, ?_, ?_, ?_, ?_, ?_, ?_, ?_, ?_, ?_, ?_, ?_, ?_, ?_, ?_, ?_, ?_, ?_, ?_, ?_, ?_, ?_, ?_, ?_, ?_, ?_, ?_, ?_⟩ <;> rfl

/-- An ACC_EVENT record draws one free value. -/
theorem accEvent_frame (s : State) (n k : Nat) :
    accEvent s n k = { s with freeCtr := (accEvent s n k).freeCtr, slog := (accEvent s n k).slog, pm := (accEvent s n k).pm } := by
  unfold accEvent
  dsimp only
  rw [logRec_frame]
  rfl

/-- What accEvent leaves as it is. -/
@[simp] theorem accEvent_keeps (s : State) (n k : Nat) :
    (accEvent s n k).pending = s.pending ∧ (accEvent s n k).tick = s.tick ∧ (accEvent s n k).resp = s.resp
    ∧ (accEvent s n k).crd = s.crd ∧ (accEvent s n k).doms = s.doms ∧ (accEvent s n k).domSeqs = s.domSeqs
    ∧ (accEvent s n k).regs = s.regs ∧ (accEvent s n k).hz = s.hz ∧ (accEvent s n k).qc = s.qc
    ∧ (accEvent s n k).boot = s.boot ∧ (accEvent s n k).sealEng = s.sealEng ∧ (accEvent s n k).garr = s.garr
    ∧ (accEvent s n k).strata = s.strata ∧ (accEvent s n k).links = s.links ∧ (accEvent s n k).pow = s.pow
    ∧ (accEvent s n k).therm = s.therm ∧ (accEvent s n k).leaks = s.leaks ∧ (accEvent s n k).motors = s.motors
    ∧ (accEvent s n k).tw = s.tw ∧ (accEvent s n k).jtag = s.jtag ∧ (accEvent s n k).mem = s.mem
    ∧ getDom (accEvent s n k) = getDom s ∧ getQp (accEvent s n k) = getQp s ∧ getTen (accEvent s n k) = getTen s
    ∧ findCmd (accEvent s n k) = findCmd s ∧ getAcc (accEvent s n k) = getAcc s ∧ getSpoke (accEvent s n k) = getSpoke s
    ∧ getChan (accEvent s n k) = getChan s ∧ getThr (accEvent s n k) = getThr s ∧ getLeak (accEvent s n k) = getLeak s
    ∧ getMotor (accEvent s n k) = getMotor s ∧ getPort (accEvent s n k) = getPort s ∧ getBed (accEvent s n k) = getBed s
    ∧ getGrain (accEvent s n k) = getGrain s ∧ getThread (accEvent s n k) = getThread s
    ∧ getRemap (accEvent s n k) = getRemap s ∧ getKslot (accEvent s n k) = getKslot s
    ∧ getModel (accEvent s n k) = getModel s ∧ getWindow (accEvent s n k) = getWindow s
    ∧ findRec (accEvent s n k) = findRec s ∧ getAccBoot (accEvent s n k) = getAccBoot s
    ∧ hostRead (accEvent s n k) = hostRead s ∧ gmRead (accEvent s n k) = gmRead s ∧ accRead (accEvent s n k) = accRead s
    ∧ flashRead (accEvent s n k) = flashRead s ∧ lsRead (accEvent s n k) = lsRead s
    ∧ getBusy (accEvent s n k) = getBusy s ∧ cfgGet (accEvent s n k) = cfgGet s ∧ cfgN (accEvent s n k) = cfgN s
    ∧ cfgF (accEvent s n k) = cfgF s ∧ cfgD (accEvent s n k) = cfgD s := by
  rw [accEvent_frame]
  refine ⟨?_, ?_, ?_, ?_, ?_, ?_, ?_, ?_, ?_, ?_, ?_, ?_, ?_, ?_, ?_, ?_, ?_, ?_, ?_, ?_, ?_, ?_, ?_, ?_, ?_, ?_, ?_, ?_, ?_, ?_, ?_, ?_, ?_, ?_, ?_, ?_, ?_, ?_, ?_, ?_, ?_, ?_, ?_, ?_, ?_, ?_, ?_, ?_, ?_, ?_, ?_⟩ <;> rfl

/-- A fault-log entry changes its tenant, the messages, the notifications and the performance monitor. -/
theorem faultLog_frame (s : State) (t c d op q id st : Nat) :
    faultLog s t c d op q id st = { s with qc := { s.qc with tenants := (faultLog s t c d op q id st).qc.tenants, msix := (faultLog s t c d op q id st).qc.msix }, pm := (faultLog s t c d op q id st).pm, tw := { s.tw with hn := (faultLog s t c d op q id st).tw.hn } } := by
  have fc : ∀ (u : State) (o : Occ), count u 155 o = { u with pm := (count u 155 o).pm } := fun u o => count_frame u 155 o 1
  unfold faultLog
  dsimp only
  repeat' split
  all_goals first
    | (rw [hostNote_frame, fc]; rfl)
    | (rw [msix_frame, fc]; rfl)
    | (rw [fc]; rfl)

/-- What faultLog leaves as it is. -/
@[simp] theorem faultLog_keeps (s : State) (t c d op q id st : Nat) :
    (faultLog s t c d op q id st).pending = s.pending ∧ (faultLog s t c d op q id st).tick = s.tick
    ∧ (faultLog s t c d op q id st).freeCtr = s.freeCtr ∧ (faultLog s t c d op q id st).resp = s.resp
    ∧ (faultLog s t c d op q id st).crd = s.crd ∧ (faultLog s t c d op q id st).doms = s.doms
    ∧ (faultLog s t c d op q id st).domSeqs = s.domSeqs ∧ (faultLog s t c d op q id st).regs = s.regs
    ∧ (faultLog s t c d op q id st).hz = s.hz ∧ (faultLog s t c d op q id st).slog = s.slog
    ∧ (faultLog s t c d op q id st).boot = s.boot ∧ (faultLog s t c d op q id st).sealEng = s.sealEng
    ∧ (faultLog s t c d op q id st).garr = s.garr ∧ (faultLog s t c d op q id st).strata = s.strata
    ∧ (faultLog s t c d op q id st).links = s.links ∧ (faultLog s t c d op q id st).pow = s.pow
    ∧ (faultLog s t c d op q id st).therm = s.therm ∧ (faultLog s t c d op q id st).leaks = s.leaks
    ∧ (faultLog s t c d op q id st).motors = s.motors ∧ (faultLog s t c d op q id st).jtag = s.jtag
    ∧ (faultLog s t c d op q id st).mem = s.mem ∧ (faultLog s t c d op q id st).qc.qps = s.qc.qps
    ∧ (faultLog s t c d op q id st).qc.t64 = s.qc.t64 ∧ (faultLog s t c d op q id st).qc.cmds = s.qc.cmds
    ∧ (faultLog s t c d op q id st).qc.nextSeq = s.qc.nextSeq
    ∧ (faultLog s t c d op q id st).qc.firstServed = s.qc.firstServed ∧ (faultLog s t c d op q id st).qc.vfs = s.qc.vfs
    ∧ (faultLog s t c d op q id st).qc.hostBeat = s.qc.hostBeat
    ∧ (faultLog s t c d op q id st).qc.bmcBeat = s.qc.bmcBeat ∧ (faultLog s t c d op q id st).tw.ports = s.tw.ports
    ∧ (faultLog s t c d op q id st).tw.pecErrs = s.tw.pecErrs ∧ (faultLog s t c d op q id st).tw.nacks = s.tw.nacks
    ∧ (faultLog s t c d op q id st).tw.timeouts = s.tw.timeouts ∧ (faultLog s t c d op q id st).tw.w0Last = s.tw.w0Last
    ∧ (faultLog s t c d op q id st).tw.hnDropped = s.tw.hnDropped
    ∧ (faultLog s t c d op q id st).tw.result = s.tw.result ∧ (faultLog s t c d op q id st).tw.flow = s.tw.flow
    ∧ (faultLog s t c d op q id st).tw.press = s.tw.press ∧ (faultLog s t c d op q id st).tw.chargerOn = s.tw.chargerOn
    ∧ (faultLog s t c d op q id st).tw.xferBusy = s.tw.xferBusy
    ∧ (faultLog s t c d op q id st).tw.xferCode = s.tw.xferCode
    ∧ (faultLog s t c d op q id st).tw.xferBytes = s.tw.xferBytes
    ∧ (faultLog s t c d op q id st).tw.voutMode = s.tw.voutMode ∧ getDom (faultLog s t c d op q id st) = getDom s
    ∧ getQp (faultLog s t c d op q id st) = getQp s ∧ findCmd (faultLog s t c d op q id st) = findCmd s
    ∧ getAcc (faultLog s t c d op q id st) = getAcc s ∧ getSpoke (faultLog s t c d op q id st) = getSpoke s
    ∧ getChan (faultLog s t c d op q id st) = getChan s ∧ getThr (faultLog s t c d op q id st) = getThr s
    ∧ getLeak (faultLog s t c d op q id st) = getLeak s ∧ getMotor (faultLog s t c d op q id st) = getMotor s
    ∧ getPort (faultLog s t c d op q id st) = getPort s ∧ getBed (faultLog s t c d op q id st) = getBed s
    ∧ getGrain (faultLog s t c d op q id st) = getGrain s ∧ getThread (faultLog s t c d op q id st) = getThread s
    ∧ getRemap (faultLog s t c d op q id st) = getRemap s ∧ getKslot (faultLog s t c d op q id st) = getKslot s
    ∧ getModel (faultLog s t c d op q id st) = getModel s ∧ getWindow (faultLog s t c d op q id st) = getWindow s
    ∧ findRec (faultLog s t c d op q id st) = findRec s ∧ getAccBoot (faultLog s t c d op q id st) = getAccBoot s
    ∧ hostRead (faultLog s t c d op q id st) = hostRead s ∧ gmRead (faultLog s t c d op q id st) = gmRead s
    ∧ accRead (faultLog s t c d op q id st) = accRead s ∧ flashRead (faultLog s t c d op q id st) = flashRead s
    ∧ lsRead (faultLog s t c d op q id st) = lsRead s ∧ getBusy (faultLog s t c d op q id st) = getBusy s
    ∧ cfgGet (faultLog s t c d op q id st) = cfgGet s ∧ cfgN (faultLog s t c d op q id st) = cfgN s
    ∧ cfgF (faultLog s t c d op q id st) = cfgF s ∧ cfgD (faultLog s t c d op q id st) = cfgD s
    ∧ ltGet (faultLog s t c d op q id st) = ltGet s := by
  rw [faultLog_frame]
  refine ⟨?_, ?_, ?_, ?_, ?_, ?_, ?_, ?_, ?_, ?_, ?_, ?_, ?_, ?_, ?_, ?_, ?_, ?_, ?_, ?_, ?_, ?_, ?_, ?_, ?_, ?_, ?_, ?_, ?_, ?_, ?_, ?_, ?_, ?_, ?_, ?_, ?_, ?_, ?_, ?_, ?_, ?_, ?_, ?_, ?_, ?_, ?_, ?_, ?_, ?_, ?_, ?_, ?_, ?_, ?_, ?_, ?_, ?_, ?_, ?_, ?_, ?_, ?_, ?_, ?_, ?_, ?_, ?_, ?_, ?_, ?_, ?_, ?_⟩ <;> rfl

/-- The events of a completion change the performance monitor alone. -/
theorem countCompletion_frame (s : State) (c : Cmd) (r : Result) :
    countCompletion s c r = { s with pm := (countCompletion s c r).pm } := by
  have fc : ∀ (u : State) (e : Nat) (o : Occ), count u e o = { u with pm := (count u e o).pm } := fun u e o => count_frame u e o 1
  unfold countCompletion
  dsimp only
  repeat' split
  all_goals (repeat rw [fc])

/-- What countCompletion leaves as it is. -/
@[simp] theorem countCompletion_keeps (s : State) (c : Cmd) (r : Result) :
    (countCompletion s c r).pending = s.pending ∧ (countCompletion s c r).tick = s.tick
    ∧ (countCompletion s c r).freeCtr = s.freeCtr ∧ (countCompletion s c r).resp = s.resp
    ∧ (countCompletion s c r).crd = s.crd ∧ (countCompletion s c r).doms = s.doms
    ∧ (countCompletion s c r).domSeqs = s.domSeqs ∧ (countCompletion s c r).regs = s.regs
    ∧ (countCompletion s c r).hz = s.hz ∧ (countCompletion s c r).qc = s.qc ∧ (countCompletion s c r).slog = s.slog
    ∧ (countCompletion s c r).boot = s.boot ∧ (countCompletion s c r).sealEng = s.sealEng
    ∧ (countCompletion s c r).garr = s.garr ∧ (countCompletion s c r).strata = s.strata
    ∧ (countCompletion s c r).links = s.links ∧ (countCompletion s c r).pow = s.pow
    ∧ (countCompletion s c r).therm = s.therm ∧ (countCompletion s c r).leaks = s.leaks
    ∧ (countCompletion s c r).motors = s.motors ∧ (countCompletion s c r).tw = s.tw
    ∧ (countCompletion s c r).jtag = s.jtag ∧ (countCompletion s c r).mem = s.mem
    ∧ getDom (countCompletion s c r) = getDom s ∧ getQp (countCompletion s c r) = getQp s
    ∧ getTen (countCompletion s c r) = getTen s ∧ findCmd (countCompletion s c r) = findCmd s
    ∧ getAcc (countCompletion s c r) = getAcc s ∧ getSpoke (countCompletion s c r) = getSpoke s
    ∧ getChan (countCompletion s c r) = getChan s ∧ getThr (countCompletion s c r) = getThr s
    ∧ getLeak (countCompletion s c r) = getLeak s ∧ getMotor (countCompletion s c r) = getMotor s
    ∧ getPort (countCompletion s c r) = getPort s ∧ getBed (countCompletion s c r) = getBed s
    ∧ getGrain (countCompletion s c r) = getGrain s ∧ getThread (countCompletion s c r) = getThread s
    ∧ getRemap (countCompletion s c r) = getRemap s ∧ getKslot (countCompletion s c r) = getKslot s
    ∧ getModel (countCompletion s c r) = getModel s ∧ getWindow (countCompletion s c r) = getWindow s
    ∧ findRec (countCompletion s c r) = findRec s ∧ getAccBoot (countCompletion s c r) = getAccBoot s
    ∧ hostRead (countCompletion s c r) = hostRead s ∧ gmRead (countCompletion s c r) = gmRead s
    ∧ accRead (countCompletion s c r) = accRead s ∧ flashRead (countCompletion s c r) = flashRead s
    ∧ lsRead (countCompletion s c r) = lsRead s ∧ getBusy (countCompletion s c r) = getBusy s
    ∧ cfgGet (countCompletion s c r) = cfgGet s ∧ cfgN (countCompletion s c r) = cfgN s
    ∧ cfgF (countCompletion s c r) = cfgF s ∧ cfgD (countCompletion s c r) = cfgD s
    ∧ ltGet (countCompletion s c r) = ltGet s := by
  rw [countCompletion_frame]
  refine ⟨?_, ?_, ?_, ?_, ?_, ?_, ?_, ?_, ?_, ?_, ?_, ?_, ?_, ?_, ?_, ?_, ?_, ?_, ?_, ?_, ?_, ?_, ?_, ?_, ?_, ?_, ?_, ?_, ?_, ?_, ?_, ?_, ?_, ?_, ?_, ?_, ?_, ?_, ?_, ?_, ?_, ?_, ?_, ?_, ?_, ?_, ?_, ?_, ?_, ?_, ?_, ?_, ?_, ?_⟩ <;> rfl

/-- A completion entry changes queue control, the notifications, host memory and the performance monitor. -/
theorem writeCompletion_frame (s : State) (c : Cmd) (r : Result) :
    writeCompletion s c r = { s with qc := (writeCompletion s c r).qc, pm := (writeCompletion s c r).pm, tw := { s.tw with hn := (writeCompletion s c r).tw.hn }, mem := { s.mem with host := (writeCompletion s c r).mem.host } } := by
  have hm : ∀ (u : State) (f v : Nat), ∃ m q, msix u f v = { u with qc := { u.qc with msix := m }, pm := q } :=
    fun u f v => ⟨_, _, msix_frame u f v⟩
  unfold writeCompletion
  dsimp only
  generalize getQp s c.tenant c.qp = p
  generalize ringNext p.cqTail p.cqEntries = nx
  split
  · split
    · rw [faultLog_frame]
    · generalize ({ p with cqTail := nx, phase := if nx = 0 then !p.phase else p.phase } : Qp) = p'
      split
      · obtain ⟨m, q, h⟩ := hm (setQp (hostWrite s (p.cqBase.toNat + 32 * p.cqTail)
          (cqEntry c r p.sqHead (s.tick - c.acc) p.phase)) c.tenant c.qp p') c.tenant c.qp
        rw [h]
        unfold setQp hostWrite
        generalize KMap.writeN mem0 s.mem.host _ _ = H
        rfl
      · unfold setQp hostWrite
        generalize KMap.writeN mem0 s.mem.host _ _ = H
        rfl
  · split
    · rw [hostNote_frame]; rfl
    · rfl

/-- What writeCompletion leaves as it is. -/
@[simp] theorem writeCompletion_keeps (s : State) (c : Cmd) (r : Result) :
    (writeCompletion s c r).pending = s.pending ∧ (writeCompletion s c r).tick = s.tick
    ∧ (writeCompletion s c r).freeCtr = s.freeCtr ∧ (writeCompletion s c r).resp = s.resp
    ∧ (writeCompletion s c r).crd = s.crd ∧ (writeCompletion s c r).doms = s.doms
    ∧ (writeCompletion s c r).domSeqs = s.domSeqs ∧ (writeCompletion s c r).regs = s.regs
    ∧ (writeCompletion s c r).hz = s.hz ∧ (writeCompletion s c r).slog = s.slog ∧ (writeCompletion s c r).boot = s.boot
    ∧ (writeCompletion s c r).sealEng = s.sealEng ∧ (writeCompletion s c r).garr = s.garr
    ∧ (writeCompletion s c r).strata = s.strata ∧ (writeCompletion s c r).links = s.links
    ∧ (writeCompletion s c r).pow = s.pow ∧ (writeCompletion s c r).therm = s.therm
    ∧ (writeCompletion s c r).leaks = s.leaks ∧ (writeCompletion s c r).motors = s.motors
    ∧ (writeCompletion s c r).jtag = s.jtag ∧ (writeCompletion s c r).tw.ports = s.tw.ports
    ∧ (writeCompletion s c r).tw.pecErrs = s.tw.pecErrs ∧ (writeCompletion s c r).tw.nacks = s.tw.nacks
    ∧ (writeCompletion s c r).tw.timeouts = s.tw.timeouts ∧ (writeCompletion s c r).tw.w0Last = s.tw.w0Last
    ∧ (writeCompletion s c r).tw.hnDropped = s.tw.hnDropped ∧ (writeCompletion s c r).tw.result = s.tw.result
    ∧ (writeCompletion s c r).tw.flow = s.tw.flow ∧ (writeCompletion s c r).tw.press = s.tw.press
    ∧ (writeCompletion s c r).tw.chargerOn = s.tw.chargerOn ∧ (writeCompletion s c r).tw.xferBusy = s.tw.xferBusy
    ∧ (writeCompletion s c r).tw.xferCode = s.tw.xferCode ∧ (writeCompletion s c r).tw.xferBytes = s.tw.xferBytes
    ∧ (writeCompletion s c r).tw.voutMode = s.tw.voutMode ∧ (writeCompletion s c r).mem.ls = s.mem.ls
    ∧ (writeCompletion s c r).mem.gm = s.mem.gm ∧ (writeCompletion s c r).mem.flash = s.mem.flash
    ∧ (writeCompletion s c r).mem.acc = s.mem.acc ∧ getDom (writeCompletion s c r) = getDom s
    ∧ getAcc (writeCompletion s c r) = getAcc s ∧ getSpoke (writeCompletion s c r) = getSpoke s
    ∧ getChan (writeCompletion s c r) = getChan s ∧ getThr (writeCompletion s c r) = getThr s
    ∧ getLeak (writeCompletion s c r) = getLeak s ∧ getMotor (writeCompletion s c r) = getMotor s
    ∧ getPort (writeCompletion s c r) = getPort s ∧ getBed (writeCompletion s c r) = getBed s
    ∧ getGrain (writeCompletion s c r) = getGrain s ∧ getThread (writeCompletion s c r) = getThread s
    ∧ getRemap (writeCompletion s c r) = getRemap s ∧ getKslot (writeCompletion s c r) = getKslot s
    ∧ getModel (writeCompletion s c r) = getModel s ∧ getWindow (writeCompletion s c r) = getWindow s
    ∧ findRec (writeCompletion s c r) = findRec s ∧ getAccBoot (writeCompletion s c r) = getAccBoot s
    ∧ gmRead (writeCompletion s c r) = gmRead s ∧ accRead (writeCompletion s c r) = accRead s
    ∧ flashRead (writeCompletion s c r) = flashRead s ∧ lsRead (writeCompletion s c r) = lsRead s
    ∧ getBusy (writeCompletion s c r) = getBusy s ∧ cfgGet (writeCompletion s c r) = cfgGet s
    ∧ cfgN (writeCompletion s c r) = cfgN s ∧ cfgF (writeCompletion s c r) = cfgF s
    ∧ cfgD (writeCompletion s c r) = cfgD s ∧ ltGet (writeCompletion s c r) = ltGet s := by
  rw [writeCompletion_frame]
  refine ⟨?_, ?_, ?_, ?_, ?_, ?_, ?_, ?_, ?_, ?_, ?_, ?_, ?_, ?_, ?_, ?_, ?_, ?_, ?_, ?_, ?_, ?_, ?_, ?_, ?_, ?_, ?_, ?_, ?_, ?_, ?_, ?_, ?_, ?_, ?_, ?_, ?_, ?_, ?_, ?_, ?_, ?_, ?_, ?_, ?_, ?_, ?_, ?_, ?_, ?_, ?_, ?_, ?_, ?_, ?_, ?_, ?_, ?_, ?_, ?_, ?_, ?_, ?_, ?_, ?_⟩ <;> rfl

/-- The end of RUNNING changes the pairs alone. -/
theorem runningCheck_frame (s : State) (t q : Nat) :
    runningCheck s t q = { s with qc := { s.qc with qps := (runningCheck s t q).qc.qps } } := by
  unfold runningCheck
  dsimp only
  split <;> rfl

/-- What runningCheck leaves as it is. -/
@[simp] theorem runningCheck_keeps (s : State) (t q : Nat) :
    (runningCheck s t q).pending = s.pending ∧ (runningCheck s t q).tick = s.tick
    ∧ (runningCheck s t q).freeCtr = s.freeCtr ∧ (runningCheck s t q).resp = s.resp ∧ (runningCheck s t q).crd = s.crd
    ∧ (runningCheck s t q).doms = s.doms ∧ (runningCheck s t q).domSeqs = s.domSeqs ∧ (runningCheck s t q).regs = s.regs
    ∧ (runningCheck s t q).hz = s.hz ∧ (runningCheck s t q).slog = s.slog ∧ (runningCheck s t q).pm = s.pm
    ∧ (runningCheck s t q).boot = s.boot ∧ (runningCheck s t q).sealEng = s.sealEng ∧ (runningCheck s t q).garr = s.garr
    ∧ (runningCheck s t q).strata = s.strata ∧ (runningCheck s t q).links = s.links ∧ (runningCheck s t q).pow = s.pow
    ∧ (runningCheck s t q).therm = s.therm ∧ (runningCheck s t q).leaks = s.leaks
    ∧ (runningCheck s t q).motors = s.motors ∧ (runningCheck s t q).tw = s.tw ∧ (runningCheck s t q).jtag = s.jtag
    ∧ (runningCheck s t q).mem = s.mem ∧ (runningCheck s t q).qc.tenants = s.qc.tenants
    ∧ (runningCheck s t q).qc.t64 = s.qc.t64 ∧ (runningCheck s t q).qc.cmds = s.qc.cmds
    ∧ (runningCheck s t q).qc.nextSeq = s.qc.nextSeq ∧ (runningCheck s t q).qc.firstServed = s.qc.firstServed
    ∧ (runningCheck s t q).qc.vfs = s.qc.vfs ∧ (runningCheck s t q).qc.msix = s.qc.msix
    ∧ (runningCheck s t q).qc.hostBeat = s.qc.hostBeat ∧ (runningCheck s t q).qc.bmcBeat = s.qc.bmcBeat
    ∧ getDom (runningCheck s t q) = getDom s ∧ getTen (runningCheck s t q) = getTen s
    ∧ findCmd (runningCheck s t q) = findCmd s ∧ getAcc (runningCheck s t q) = getAcc s
    ∧ getSpoke (runningCheck s t q) = getSpoke s ∧ getChan (runningCheck s t q) = getChan s
    ∧ getThr (runningCheck s t q) = getThr s ∧ getLeak (runningCheck s t q) = getLeak s
    ∧ getMotor (runningCheck s t q) = getMotor s ∧ getPort (runningCheck s t q) = getPort s
    ∧ getBed (runningCheck s t q) = getBed s ∧ getGrain (runningCheck s t q) = getGrain s
    ∧ getThread (runningCheck s t q) = getThread s ∧ getRemap (runningCheck s t q) = getRemap s
    ∧ getKslot (runningCheck s t q) = getKslot s ∧ getModel (runningCheck s t q) = getModel s
    ∧ getWindow (runningCheck s t q) = getWindow s ∧ findRec (runningCheck s t q) = findRec s
    ∧ getAccBoot (runningCheck s t q) = getAccBoot s ∧ hostRead (runningCheck s t q) = hostRead s
    ∧ gmRead (runningCheck s t q) = gmRead s ∧ accRead (runningCheck s t q) = accRead s
    ∧ flashRead (runningCheck s t q) = flashRead s ∧ lsRead (runningCheck s t q) = lsRead s
    ∧ getBusy (runningCheck s t q) = getBusy s ∧ cfgGet (runningCheck s t q) = cfgGet s
    ∧ cfgN (runningCheck s t q) = cfgN s ∧ cfgF (runningCheck s t q) = cfgF s ∧ cfgD (runningCheck s t q) = cfgD s
    ∧ ltGet (runningCheck s t q) = ltGet s ∧ pmGet (runningCheck s t q) = pmGet s := by
  rw [runningCheck_frame]
  refine ⟨?_, ?_, ?_, ?_, ?_, ?_, ?_, ?_, ?_, ?_, ?_, ?_, ?_, ?_, ?_, ?_, ?_, ?_, ?_, ?_, ?_, ?_, ?_, ?_, ?_, ?_, ?_, ?_, ?_, ?_, ?_, ?_, ?_, ?_, ?_, ?_, ?_, ?_, ?_, ?_, ?_, ?_, ?_, ?_, ?_, ?_, ?_, ?_, ?_, ?_, ?_, ?_, ?_, ?_, ?_, ?_, ?_, ?_, ?_, ?_, ?_, ?_, ?_⟩ <;> rfl

/-- A completion changes queue control, the notifications, host memory and the performance monitor alone. -/
theorem complete_frame (s : State) (c : Nat) (r : Result) :
    complete s c r = { s with qc := (complete s c r).qc, pm := (complete s c r).pm, tw := { s.tw with hn := (complete s c r).tw.hn }, mem := { s.mem with host := (complete s c r).mem.host } } := by
  unfold complete
  split
  · rfl
  · dsimp only
    have h1 : ∀ (u : State) (d : Cmd), ∃ p, countCompletion u d r = { u with pm := p } :=
      fun u d => ⟨_, countCompletion_frame u d r⟩
    have h2 : ∀ (u : State) (d : Cmd), ∃ q p t m, writeCompletion u d r
        = { u with qc := q, pm := p, tw := { u.tw with hn := t }, mem := { u.mem with host := m } } :=
      fun u d => ⟨_, _, _, _, writeCompletion_frame u d r⟩
    have h3 : ∀ (u : State) (t q : Nat), ∃ qs, runningCheck u t q = { u with qc := { u.qc with qps := qs } } :=
      fun u t q => ⟨_, runningCheck_frame u t q⟩
    have h4 : ∀ (u : State) (a b d e f g h : Nat), ∃ tn ms p t, faultLog u a b d e f g h
        = { u with qc := { u.qc with tenants := tn, msix := ms }, pm := p, tw := { u.tw with hn := t } } :=
      fun u a b d e f g h => ⟨_, _, _, _, faultLog_frame u a b d e f g h⟩
    obtain ⟨p, e1⟩ := h1 (dropCmd s c) _
    rw [e1]
    repeat' split
    all_goals
      try (obtain ⟨_, _, _, _, e⟩ := h4 { dropCmd s c with pm := p } _ 1 _ _ _ _ _; rw [e]; clear e)
      obtain ⟨_, _, _, _, e⟩ := h2 _ _
      rw [e]
      clear e
      try (obtain ⟨_, e⟩ := h3 _ _ _; rw [e]; clear e)
      rfl

/-- What complete leaves as it is. -/
@[simp] theorem complete_keeps (s : State) (c : Nat) (r : Result) :
    (complete s c r).pending = s.pending ∧ (complete s c r).tick = s.tick ∧ (complete s c r).freeCtr = s.freeCtr
    ∧ (complete s c r).resp = s.resp ∧ (complete s c r).crd = s.crd ∧ (complete s c r).doms = s.doms
    ∧ (complete s c r).domSeqs = s.domSeqs ∧ (complete s c r).regs = s.regs ∧ (complete s c r).hz = s.hz
    ∧ (complete s c r).slog = s.slog ∧ (complete s c r).boot = s.boot ∧ (complete s c r).sealEng = s.sealEng
    ∧ (complete s c r).garr = s.garr ∧ (complete s c r).strata = s.strata ∧ (complete s c r).links = s.links
    ∧ (complete s c r).pow = s.pow ∧ (complete s c r).therm = s.therm ∧ (complete s c r).leaks = s.leaks
    ∧ (complete s c r).motors = s.motors ∧ (complete s c r).jtag = s.jtag ∧ (complete s c r).tw.ports = s.tw.ports
    ∧ (complete s c r).tw.pecErrs = s.tw.pecErrs ∧ (complete s c r).tw.nacks = s.tw.nacks
    ∧ (complete s c r).tw.timeouts = s.tw.timeouts ∧ (complete s c r).tw.w0Last = s.tw.w0Last
    ∧ (complete s c r).tw.hnDropped = s.tw.hnDropped ∧ (complete s c r).tw.result = s.tw.result
    ∧ (complete s c r).tw.flow = s.tw.flow ∧ (complete s c r).tw.press = s.tw.press
    ∧ (complete s c r).tw.chargerOn = s.tw.chargerOn ∧ (complete s c r).tw.xferBusy = s.tw.xferBusy
    ∧ (complete s c r).tw.xferCode = s.tw.xferCode ∧ (complete s c r).tw.xferBytes = s.tw.xferBytes
    ∧ (complete s c r).tw.voutMode = s.tw.voutMode ∧ (complete s c r).mem.ls = s.mem.ls
    ∧ (complete s c r).mem.gm = s.mem.gm ∧ (complete s c r).mem.flash = s.mem.flash
    ∧ (complete s c r).mem.acc = s.mem.acc ∧ getDom (complete s c r) = getDom s ∧ getAcc (complete s c r) = getAcc s
    ∧ getSpoke (complete s c r) = getSpoke s ∧ getChan (complete s c r) = getChan s ∧ getThr (complete s c r) = getThr s
    ∧ getLeak (complete s c r) = getLeak s ∧ getMotor (complete s c r) = getMotor s
    ∧ getPort (complete s c r) = getPort s ∧ getBed (complete s c r) = getBed s ∧ getGrain (complete s c r) = getGrain s
    ∧ getThread (complete s c r) = getThread s ∧ getRemap (complete s c r) = getRemap s
    ∧ getKslot (complete s c r) = getKslot s ∧ getModel (complete s c r) = getModel s
    ∧ getWindow (complete s c r) = getWindow s ∧ findRec (complete s c r) = findRec s
    ∧ getAccBoot (complete s c r) = getAccBoot s ∧ gmRead (complete s c r) = gmRead s
    ∧ accRead (complete s c r) = accRead s ∧ flashRead (complete s c r) = flashRead s
    ∧ lsRead (complete s c r) = lsRead s ∧ getBusy (complete s c r) = getBusy s ∧ cfgGet (complete s c r) = cfgGet s
    ∧ cfgN (complete s c r) = cfgN s ∧ cfgF (complete s c r) = cfgF s ∧ cfgD (complete s c r) = cfgD s
    ∧ ltGet (complete s c r) = ltGet s := by
  rw [complete_frame]
  refine ⟨?_, ?_, ?_, ?_, ?_, ?_, ?_, ?_, ?_, ?_, ?_, ?_, ?_, ?_, ?_, ?_, ?_, ?_, ?_, ?_, ?_, ?_, ?_, ?_, ?_, ?_, ?_, ?_, ?_, ?_, ?_, ?_, ?_, ?_, ?_, ?_, ?_, ?_, ?_, ?_, ?_, ?_, ?_, ?_, ?_, ?_, ?_, ?_, ?_, ?_, ?_, ?_, ?_, ?_, ?_, ?_, ?_, ?_, ?_, ?_, ?_, ?_, ?_, ?_, ?_⟩ <;> rfl

/-- Changing a spoke. -/
theorem modSpoke_frame (s : State) (n : Nat) (g : Spoke → Spoke) :
    modSpoke s n g = { s with links := { s.links with spokes := (modSpoke s n g).links.spokes } } := by
  rfl

/-- What modSpoke leaves as it is. -/
@[simp] theorem modSpoke_keeps (s : State) (n : Nat) (g : Spoke → Spoke) :
    (modSpoke s n g).pending = s.pending ∧ (modSpoke s n g).tick = s.tick ∧ (modSpoke s n g).freeCtr = s.freeCtr
    ∧ (modSpoke s n g).resp = s.resp ∧ (modSpoke s n g).crd = s.crd ∧ (modSpoke s n g).doms = s.doms
    ∧ (modSpoke s n g).domSeqs = s.domSeqs ∧ (modSpoke s n g).regs = s.regs ∧ (modSpoke s n g).hz = s.hz
    ∧ (modSpoke s n g).qc = s.qc ∧ (modSpoke s n g).slog = s.slog ∧ (modSpoke s n g).pm = s.pm
    ∧ (modSpoke s n g).boot = s.boot ∧ (modSpoke s n g).sealEng = s.sealEng ∧ (modSpoke s n g).garr = s.garr
    ∧ (modSpoke s n g).strata = s.strata ∧ (modSpoke s n g).pow = s.pow ∧ (modSpoke s n g).therm = s.therm
    ∧ (modSpoke s n g).leaks = s.leaks ∧ (modSpoke s n g).motors = s.motors ∧ (modSpoke s n g).tw = s.tw
    ∧ (modSpoke s n g).jtag = s.jtag ∧ (modSpoke s n g).mem = s.mem ∧ (modSpoke s n g).links.u = s.links.u
    ∧ getDom (modSpoke s n g) = getDom s ∧ getQp (modSpoke s n g) = getQp s ∧ getTen (modSpoke s n g) = getTen s
    ∧ findCmd (modSpoke s n g) = findCmd s ∧ getAcc (modSpoke s n g) = getAcc s ∧ getChan (modSpoke s n g) = getChan s
    ∧ getThr (modSpoke s n g) = getThr s ∧ getLeak (modSpoke s n g) = getLeak s ∧ getMotor (modSpoke s n g) = getMotor s
    ∧ getPort (modSpoke s n g) = getPort s ∧ getBed (modSpoke s n g) = getBed s ∧ getGrain (modSpoke s n g) = getGrain s
    ∧ getThread (modSpoke s n g) = getThread s ∧ getRemap (modSpoke s n g) = getRemap s
    ∧ getKslot (modSpoke s n g) = getKslot s ∧ getModel (modSpoke s n g) = getModel s
    ∧ getWindow (modSpoke s n g) = getWindow s ∧ findRec (modSpoke s n g) = findRec s
    ∧ getAccBoot (modSpoke s n g) = getAccBoot s ∧ hostRead (modSpoke s n g) = hostRead s
    ∧ gmRead (modSpoke s n g) = gmRead s ∧ accRead (modSpoke s n g) = accRead s
    ∧ flashRead (modSpoke s n g) = flashRead s ∧ lsRead (modSpoke s n g) = lsRead s
    ∧ getBusy (modSpoke s n g) = getBusy s ∧ cfgGet (modSpoke s n g) = cfgGet s ∧ cfgN (modSpoke s n g) = cfgN s
    ∧ cfgF (modSpoke s n g) = cfgF s ∧ cfgD (modSpoke s n g) = cfgD s ∧ ltGet (modSpoke s n g) = ltGet s
    ∧ pmGet (modSpoke s n g) = pmGet s := by
  rw [modSpoke_frame]
  refine ⟨?_, ?_, ?_, ?_, ?_, ?_, ?_, ?_, ?_, ?_, ?_, ?_, ?_, ?_, ?_, ?_, ?_, ?_, ?_, ?_, ?_, ?_, ?_, ?_, ?_, ?_, ?_, ?_, ?_, ?_, ?_, ?_, ?_, ?_, ?_, ?_, ?_, ?_, ?_, ?_, ?_, ?_, ?_, ?_, ?_, ?_, ?_, ?_, ?_, ?_, ?_, ?_, ?_, ?_, ?_⟩ <;> rfl

/-- Changing an accelerator. -/
theorem modAcc_frame (s : State) (n : Nat) (g : Acc → Acc) :
    modAcc s n g = { s with pow := { s.pow with accs := (modAcc s n g).pow.accs } } := by
  rfl

/-- What modAcc leaves as it is. -/
@[simp] theorem modAcc_keeps (s : State) (n : Nat) (g : Acc → Acc) :
    (modAcc s n g).pending = s.pending ∧ (modAcc s n g).tick = s.tick ∧ (modAcc s n g).freeCtr = s.freeCtr
    ∧ (modAcc s n g).resp = s.resp ∧ (modAcc s n g).crd = s.crd ∧ (modAcc s n g).doms = s.doms
    ∧ (modAcc s n g).domSeqs = s.domSeqs ∧ (modAcc s n g).regs = s.regs ∧ (modAcc s n g).hz = s.hz
    ∧ (modAcc s n g).qc = s.qc ∧ (modAcc s n g).slog = s.slog ∧ (modAcc s n g).pm = s.pm ∧ (modAcc s n g).boot = s.boot
    ∧ (modAcc s n g).sealEng = s.sealEng ∧ (modAcc s n g).garr = s.garr ∧ (modAcc s n g).strata = s.strata
    ∧ (modAcc s n g).links = s.links ∧ (modAcc s n g).therm = s.therm ∧ (modAcc s n g).leaks = s.leaks
    ∧ (modAcc s n g).motors = s.motors ∧ (modAcc s n g).tw = s.tw ∧ (modAcc s n g).jtag = s.jtag
    ∧ (modAcc s n g).mem = s.mem ∧ (modAcc s n g).pow.lock = s.pow.lock ∧ (modAcc s n g).pow.trayPlim = s.pow.trayPlim
    ∧ (modAcc s n g).pow.trayPceil = s.pow.trayPceil ∧ (modAcc s n g).pow.avg = s.pow.avg
    ∧ (modAcc s n g).pow.peak = s.pow.peak ∧ (modAcc s n g).pow.pubAvg = s.pow.pubAvg
    ∧ (modAcc s n g).pow.pubPeak = s.pow.pubPeak ∧ (modAcc s n g).pow.gov = s.pow.gov
    ∧ (modAcc s n g).pow.chargePct = s.pow.chargePct ∧ (modAcc s n g).pow.charging = s.pow.charging
    ∧ (modAcc s n g).pow.tempInhibit = s.pow.tempInhibit ∧ (modAcc s n g).pow.inputLost = s.pow.inputLost
    ∧ (modAcc s n g).pow.rideThrough = s.pow.rideThrough ∧ (modAcc s n g).pow.lostSince = s.pow.lostSince
    ∧ (modAcc s n g).pow.stewardPower = s.pow.stewardPower ∧ getDom (modAcc s n g) = getDom s
    ∧ getQp (modAcc s n g) = getQp s ∧ getTen (modAcc s n g) = getTen s ∧ findCmd (modAcc s n g) = findCmd s
    ∧ getSpoke (modAcc s n g) = getSpoke s ∧ getChan (modAcc s n g) = getChan s ∧ getThr (modAcc s n g) = getThr s
    ∧ getLeak (modAcc s n g) = getLeak s ∧ getMotor (modAcc s n g) = getMotor s ∧ getPort (modAcc s n g) = getPort s
    ∧ getBed (modAcc s n g) = getBed s ∧ getGrain (modAcc s n g) = getGrain s ∧ getThread (modAcc s n g) = getThread s
    ∧ getRemap (modAcc s n g) = getRemap s ∧ getKslot (modAcc s n g) = getKslot s ∧ getModel (modAcc s n g) = getModel s
    ∧ getWindow (modAcc s n g) = getWindow s ∧ findRec (modAcc s n g) = findRec s
    ∧ getAccBoot (modAcc s n g) = getAccBoot s ∧ hostRead (modAcc s n g) = hostRead s ∧ gmRead (modAcc s n g) = gmRead s
    ∧ accRead (modAcc s n g) = accRead s ∧ flashRead (modAcc s n g) = flashRead s ∧ lsRead (modAcc s n g) = lsRead s
    ∧ getBusy (modAcc s n g) = getBusy s ∧ cfgGet (modAcc s n g) = cfgGet s ∧ cfgN (modAcc s n g) = cfgN s
    ∧ cfgF (modAcc s n g) = cfgF s ∧ cfgD (modAcc s n g) = cfgD s ∧ ltGet (modAcc s n g) = ltGet s
    ∧ pmGet (modAcc s n g) = pmGet s := by
  rw [modAcc_frame]
  refine ⟨?_, ?_, ?_, ?_, ?_, ?_, ?_, ?_, ?_, ?_, ?_, ?_, ?_, ?_, ?_, ?_, ?_, ?_, ?_, ?_, ?_, ?_, ?_, ?_, ?_, ?_, ?_, ?_, ?_, ?_, ?_, ?_, ?_, ?_, ?_, ?_, ?_, ?_, ?_, ?_, ?_, ?_, ?_, ?_, ?_, ?_, ?_, ?_, ?_, ?_, ?_, ?_, ?_, ?_, ?_, ?_, ?_, ?_, ?_, ?_, ?_, ?_, ?_, ?_, ?_, ?_, ?_, ?_, ?_⟩ <;> rfl

/-- Changing a motor channel. -/
theorem modMotor_frame (s : State) (n : Nat) (g : Motor → Motor) :
    modMotor s n g = { s with motors := (modMotor s n g).motors } := by
  rfl

/-- What modMotor leaves as it is. -/
@[simp] theorem modMotor_keeps (s : State) (n : Nat) (g : Motor → Motor) :
    (modMotor s n g).pending = s.pending ∧ (modMotor s n g).tick = s.tick ∧ (modMotor s n g).freeCtr = s.freeCtr
    ∧ (modMotor s n g).resp = s.resp ∧ (modMotor s n g).crd = s.crd ∧ (modMotor s n g).doms = s.doms
    ∧ (modMotor s n g).domSeqs = s.domSeqs ∧ (modMotor s n g).regs = s.regs ∧ (modMotor s n g).hz = s.hz
    ∧ (modMotor s n g).qc = s.qc ∧ (modMotor s n g).slog = s.slog ∧ (modMotor s n g).pm = s.pm
    ∧ (modMotor s n g).boot = s.boot ∧ (modMotor s n g).sealEng = s.sealEng ∧ (modMotor s n g).garr = s.garr
    ∧ (modMotor s n g).strata = s.strata ∧ (modMotor s n g).links = s.links ∧ (modMotor s n g).pow = s.pow
    ∧ (modMotor s n g).therm = s.therm ∧ (modMotor s n g).leaks = s.leaks ∧ (modMotor s n g).tw = s.tw
    ∧ (modMotor s n g).jtag = s.jtag ∧ (modMotor s n g).mem = s.mem ∧ getDom (modMotor s n g) = getDom s
    ∧ getQp (modMotor s n g) = getQp s ∧ getTen (modMotor s n g) = getTen s ∧ findCmd (modMotor s n g) = findCmd s
    ∧ getAcc (modMotor s n g) = getAcc s ∧ getSpoke (modMotor s n g) = getSpoke s ∧ getChan (modMotor s n g) = getChan s
    ∧ getThr (modMotor s n g) = getThr s ∧ getLeak (modMotor s n g) = getLeak s ∧ getPort (modMotor s n g) = getPort s
    ∧ getBed (modMotor s n g) = getBed s ∧ getGrain (modMotor s n g) = getGrain s
    ∧ getThread (modMotor s n g) = getThread s ∧ getRemap (modMotor s n g) = getRemap s
    ∧ getKslot (modMotor s n g) = getKslot s ∧ getModel (modMotor s n g) = getModel s
    ∧ getWindow (modMotor s n g) = getWindow s ∧ findRec (modMotor s n g) = findRec s
    ∧ getAccBoot (modMotor s n g) = getAccBoot s ∧ hostRead (modMotor s n g) = hostRead s
    ∧ gmRead (modMotor s n g) = gmRead s ∧ accRead (modMotor s n g) = accRead s
    ∧ flashRead (modMotor s n g) = flashRead s ∧ lsRead (modMotor s n g) = lsRead s
    ∧ getBusy (modMotor s n g) = getBusy s ∧ cfgGet (modMotor s n g) = cfgGet s ∧ cfgN (modMotor s n g) = cfgN s
    ∧ cfgF (modMotor s n g) = cfgF s ∧ cfgD (modMotor s n g) = cfgD s ∧ ltGet (modMotor s n g) = ltGet s
    ∧ pmGet (modMotor s n g) = pmGet s := by
  rw [modMotor_frame]
  refine ⟨?_, ?_, ?_, ?_, ?_, ?_, ?_, ?_, ?_, ?_, ?_, ?_, ?_, ?_, ?_, ?_, ?_, ?_, ?_, ?_, ?_, ?_, ?_, ?_, ?_, ?_, ?_, ?_, ?_, ?_, ?_, ?_, ?_, ?_, ?_, ?_, ?_, ?_, ?_, ?_, ?_, ?_, ?_, ?_, ?_, ?_, ?_, ?_, ?_, ?_, ?_, ?_, ?_, ?_⟩ <;> rfl

/-- Changing a domain. -/
theorem modDom_frame (s : State) (n : Nat) (g : Dom → Dom) :
    modDom s n g = { s with doms := (modDom s n g).doms } := by
  rfl

/-- What modDom leaves as it is. -/
@[simp] theorem modDom_keeps (s : State) (n : Nat) (g : Dom → Dom) :
    (modDom s n g).pending = s.pending ∧ (modDom s n g).tick = s.tick ∧ (modDom s n g).freeCtr = s.freeCtr
    ∧ (modDom s n g).resp = s.resp ∧ (modDom s n g).crd = s.crd ∧ (modDom s n g).domSeqs = s.domSeqs
    ∧ (modDom s n g).regs = s.regs ∧ (modDom s n g).hz = s.hz ∧ (modDom s n g).qc = s.qc ∧ (modDom s n g).slog = s.slog
    ∧ (modDom s n g).pm = s.pm ∧ (modDom s n g).boot = s.boot ∧ (modDom s n g).sealEng = s.sealEng
    ∧ (modDom s n g).garr = s.garr ∧ (modDom s n g).strata = s.strata ∧ (modDom s n g).links = s.links
    ∧ (modDom s n g).pow = s.pow ∧ (modDom s n g).therm = s.therm ∧ (modDom s n g).leaks = s.leaks
    ∧ (modDom s n g).motors = s.motors ∧ (modDom s n g).tw = s.tw ∧ (modDom s n g).jtag = s.jtag
    ∧ (modDom s n g).mem = s.mem ∧ getQp (modDom s n g) = getQp s ∧ getTen (modDom s n g) = getTen s
    ∧ findCmd (modDom s n g) = findCmd s ∧ getAcc (modDom s n g) = getAcc s ∧ getSpoke (modDom s n g) = getSpoke s
    ∧ getChan (modDom s n g) = getChan s ∧ getThr (modDom s n g) = getThr s ∧ getLeak (modDom s n g) = getLeak s
    ∧ getMotor (modDom s n g) = getMotor s ∧ getPort (modDom s n g) = getPort s ∧ getBed (modDom s n g) = getBed s
    ∧ getGrain (modDom s n g) = getGrain s ∧ getThread (modDom s n g) = getThread s
    ∧ getRemap (modDom s n g) = getRemap s ∧ getKslot (modDom s n g) = getKslot s ∧ getModel (modDom s n g) = getModel s
    ∧ getWindow (modDom s n g) = getWindow s ∧ findRec (modDom s n g) = findRec s
    ∧ getAccBoot (modDom s n g) = getAccBoot s ∧ hostRead (modDom s n g) = hostRead s ∧ gmRead (modDom s n g) = gmRead s
    ∧ accRead (modDom s n g) = accRead s ∧ flashRead (modDom s n g) = flashRead s ∧ lsRead (modDom s n g) = lsRead s
    ∧ getBusy (modDom s n g) = getBusy s ∧ cfgGet (modDom s n g) = cfgGet s ∧ cfgN (modDom s n g) = cfgN s
    ∧ cfgF (modDom s n g) = cfgF s ∧ cfgD (modDom s n g) = cfgD s ∧ ltGet (modDom s n g) = ltGet s
    ∧ pmGet (modDom s n g) = pmGet s := by
  rw [modDom_frame]
  refine ⟨?_, ?_, ?_, ?_, ?_, ?_, ?_, ?_, ?_, ?_, ?_, ?_, ?_, ?_, ?_, ?_, ?_, ?_, ?_, ?_, ?_, ?_, ?_, ?_, ?_, ?_, ?_, ?_, ?_, ?_, ?_, ?_, ?_, ?_, ?_, ?_, ?_, ?_, ?_, ?_, ?_, ?_, ?_, ?_, ?_, ?_, ?_, ?_, ?_, ?_, ?_, ?_, ?_, ?_⟩ <;> rfl

/-- Changing a tenant. -/
theorem modTen_frame (s : State) (n : Nat) (g : Tenant → Tenant) :
    modTen s n g = { s with qc := { s.qc with tenants := (modTen s n g).qc.tenants } } := by
  rfl

/-- What modTen leaves as it is. -/
@[simp] theorem modTen_keeps (s : State) (n : Nat) (g : Tenant → Tenant) :
    (modTen s n g).pending = s.pending ∧ (modTen s n g).tick = s.tick ∧ (modTen s n g).freeCtr = s.freeCtr
    ∧ (modTen s n g).resp = s.resp ∧ (modTen s n g).crd = s.crd ∧ (modTen s n g).doms = s.doms
    ∧ (modTen s n g).domSeqs = s.domSeqs ∧ (modTen s n g).regs = s.regs ∧ (modTen s n g).hz = s.hz
    ∧ (modTen s n g).slog = s.slog ∧ (modTen s n g).pm = s.pm ∧ (modTen s n g).boot = s.boot
    ∧ (modTen s n g).sealEng = s.sealEng ∧ (modTen s n g).garr = s.garr ∧ (modTen s n g).strata = s.strata
    ∧ (modTen s n g).links = s.links ∧ (modTen s n g).pow = s.pow ∧ (modTen s n g).therm = s.therm
    ∧ (modTen s n g).leaks = s.leaks ∧ (modTen s n g).motors = s.motors ∧ (modTen s n g).tw = s.tw
    ∧ (modTen s n g).jtag = s.jtag ∧ (modTen s n g).mem = s.mem ∧ (modTen s n g).qc.qps = s.qc.qps
    ∧ (modTen s n g).qc.t64 = s.qc.t64 ∧ (modTen s n g).qc.cmds = s.qc.cmds ∧ (modTen s n g).qc.nextSeq = s.qc.nextSeq
    ∧ (modTen s n g).qc.firstServed = s.qc.firstServed ∧ (modTen s n g).qc.vfs = s.qc.vfs
    ∧ (modTen s n g).qc.msix = s.qc.msix ∧ (modTen s n g).qc.hostBeat = s.qc.hostBeat
    ∧ (modTen s n g).qc.bmcBeat = s.qc.bmcBeat ∧ getDom (modTen s n g) = getDom s ∧ getQp (modTen s n g) = getQp s
    ∧ findCmd (modTen s n g) = findCmd s ∧ getAcc (modTen s n g) = getAcc s ∧ getSpoke (modTen s n g) = getSpoke s
    ∧ getChan (modTen s n g) = getChan s ∧ getThr (modTen s n g) = getThr s ∧ getLeak (modTen s n g) = getLeak s
    ∧ getMotor (modTen s n g) = getMotor s ∧ getPort (modTen s n g) = getPort s ∧ getBed (modTen s n g) = getBed s
    ∧ getGrain (modTen s n g) = getGrain s ∧ getThread (modTen s n g) = getThread s
    ∧ getRemap (modTen s n g) = getRemap s ∧ getKslot (modTen s n g) = getKslot s ∧ getModel (modTen s n g) = getModel s
    ∧ getWindow (modTen s n g) = getWindow s ∧ findRec (modTen s n g) = findRec s
    ∧ getAccBoot (modTen s n g) = getAccBoot s ∧ hostRead (modTen s n g) = hostRead s ∧ gmRead (modTen s n g) = gmRead s
    ∧ accRead (modTen s n g) = accRead s ∧ flashRead (modTen s n g) = flashRead s ∧ lsRead (modTen s n g) = lsRead s
    ∧ getBusy (modTen s n g) = getBusy s ∧ cfgGet (modTen s n g) = cfgGet s ∧ cfgN (modTen s n g) = cfgN s
    ∧ cfgF (modTen s n g) = cfgF s ∧ cfgD (modTen s n g) = cfgD s ∧ ltGet (modTen s n g) = ltGet s
    ∧ pmGet (modTen s n g) = pmGet s := by
  rw [modTen_frame]
  refine ⟨?_, ?_, ?_, ?_, ?_, ?_, ?_, ?_, ?_, ?_, ?_, ?_, ?_, ?_, ?_, ?_, ?_, ?_, ?_, ?_, ?_, ?_, ?_, ?_, ?_, ?_, ?_, ?_, ?_, ?_, ?_, ?_, ?_, ?_, ?_, ?_, ?_, ?_, ?_, ?_, ?_, ?_, ?_, ?_, ?_, ?_, ?_, ?_, ?_, ?_, ?_, ?_, ?_, ?_, ?_, ?_, ?_, ?_, ?_, ?_, ?_, ?_, ?_⟩ <;> rfl

/-- Changing a queue pair. -/
theorem modQp_frame (s : State) (f q : Nat) (g : Qp → Qp) :
    modQp s f q g = { s with qc := { s.qc with qps := (modQp s f q g).qc.qps } } := by
  rfl

/-- What modQp leaves as it is. -/
@[simp] theorem modQp_keeps (s : State) (f q : Nat) (g : Qp → Qp) :
    (modQp s f q g).pending = s.pending ∧ (modQp s f q g).tick = s.tick ∧ (modQp s f q g).freeCtr = s.freeCtr
    ∧ (modQp s f q g).resp = s.resp ∧ (modQp s f q g).crd = s.crd ∧ (modQp s f q g).doms = s.doms
    ∧ (modQp s f q g).domSeqs = s.domSeqs ∧ (modQp s f q g).regs = s.regs ∧ (modQp s f q g).hz = s.hz
    ∧ (modQp s f q g).slog = s.slog ∧ (modQp s f q g).pm = s.pm ∧ (modQp s f q g).boot = s.boot
    ∧ (modQp s f q g).sealEng = s.sealEng ∧ (modQp s f q g).garr = s.garr ∧ (modQp s f q g).strata = s.strata
    ∧ (modQp s f q g).links = s.links ∧ (modQp s f q g).pow = s.pow ∧ (modQp s f q g).therm = s.therm
    ∧ (modQp s f q g).leaks = s.leaks ∧ (modQp s f q g).motors = s.motors ∧ (modQp s f q g).tw = s.tw
    ∧ (modQp s f q g).jtag = s.jtag ∧ (modQp s f q g).mem = s.mem ∧ (modQp s f q g).qc.tenants = s.qc.tenants
    ∧ (modQp s f q g).qc.t64 = s.qc.t64 ∧ (modQp s f q g).qc.cmds = s.qc.cmds
    ∧ (modQp s f q g).qc.nextSeq = s.qc.nextSeq ∧ (modQp s f q g).qc.firstServed = s.qc.firstServed
    ∧ (modQp s f q g).qc.vfs = s.qc.vfs ∧ (modQp s f q g).qc.msix = s.qc.msix
    ∧ (modQp s f q g).qc.hostBeat = s.qc.hostBeat ∧ (modQp s f q g).qc.bmcBeat = s.qc.bmcBeat
    ∧ getDom (modQp s f q g) = getDom s ∧ getTen (modQp s f q g) = getTen s ∧ findCmd (modQp s f q g) = findCmd s
    ∧ getAcc (modQp s f q g) = getAcc s ∧ getSpoke (modQp s f q g) = getSpoke s ∧ getChan (modQp s f q g) = getChan s
    ∧ getThr (modQp s f q g) = getThr s ∧ getLeak (modQp s f q g) = getLeak s ∧ getMotor (modQp s f q g) = getMotor s
    ∧ getPort (modQp s f q g) = getPort s ∧ getBed (modQp s f q g) = getBed s ∧ getGrain (modQp s f q g) = getGrain s
    ∧ getThread (modQp s f q g) = getThread s ∧ getRemap (modQp s f q g) = getRemap s
    ∧ getKslot (modQp s f q g) = getKslot s ∧ getModel (modQp s f q g) = getModel s
    ∧ getWindow (modQp s f q g) = getWindow s ∧ findRec (modQp s f q g) = findRec s
    ∧ getAccBoot (modQp s f q g) = getAccBoot s ∧ hostRead (modQp s f q g) = hostRead s
    ∧ gmRead (modQp s f q g) = gmRead s ∧ accRead (modQp s f q g) = accRead s ∧ flashRead (modQp s f q g) = flashRead s
    ∧ lsRead (modQp s f q g) = lsRead s ∧ getBusy (modQp s f q g) = getBusy s ∧ cfgGet (modQp s f q g) = cfgGet s
    ∧ cfgN (modQp s f q g) = cfgN s ∧ cfgF (modQp s f q g) = cfgF s ∧ cfgD (modQp s f q g) = cfgD s
    ∧ ltGet (modQp s f q g) = ltGet s ∧ pmGet (modQp s f q g) = pmGet s := by
  rw [modQp_frame]
  refine ⟨?_, ?_, ?_, ?_, ?_, ?_, ?_, ?_, ?_, ?_, ?_, ?_, ?_, ?_, ?_, ?_, ?_, ?_, ?_, ?_, ?_, ?_, ?_, ?_, ?_, ?_, ?_, ?_, ?_, ?_, ?_, ?_, ?_, ?_, ?_, ?_, ?_, ?_, ?_, ?_, ?_, ?_, ?_, ?_, ?_, ?_, ?_, ?_, ?_, ?_, ?_, ?_, ?_, ?_, ?_, ?_, ?_, ?_, ?_, ?_, ?_, ?_, ?_⟩ <;> rfl

/-- Changing a bed. -/
theorem modBed_frame (s : State) (n : Nat) (g : Bed → Bed) :
    modBed s n g = { s with garr := { s.garr with beds := (modBed s n g).garr.beds } } := by
  rfl

/-- What modBed leaves as it is. -/
@[simp] theorem modBed_keeps (s : State) (n : Nat) (g : Bed → Bed) :
    (modBed s n g).pending = s.pending ∧ (modBed s n g).tick = s.tick ∧ (modBed s n g).freeCtr = s.freeCtr
    ∧ (modBed s n g).resp = s.resp ∧ (modBed s n g).crd = s.crd ∧ (modBed s n g).doms = s.doms
    ∧ (modBed s n g).domSeqs = s.domSeqs ∧ (modBed s n g).regs = s.regs ∧ (modBed s n g).hz = s.hz
    ∧ (modBed s n g).qc = s.qc ∧ (modBed s n g).slog = s.slog ∧ (modBed s n g).pm = s.pm ∧ (modBed s n g).boot = s.boot
    ∧ (modBed s n g).sealEng = s.sealEng ∧ (modBed s n g).strata = s.strata ∧ (modBed s n g).links = s.links
    ∧ (modBed s n g).pow = s.pow ∧ (modBed s n g).therm = s.therm ∧ (modBed s n g).leaks = s.leaks
    ∧ (modBed s n g).motors = s.motors ∧ (modBed s n g).tw = s.tw ∧ (modBed s n g).jtag = s.jtag
    ∧ (modBed s n g).mem = s.mem ∧ (modBed s n g).garr.remap = s.garr.remap ∧ (modBed s n g).garr.grains = s.garr.grains
    ∧ (modBed s n g).garr.threads = s.garr.threads ∧ (modBed s n g).garr.kslots = s.garr.kslots
    ∧ (modBed s n g).garr.launches = s.garr.launches ∧ (modBed s n g).garr.launchSeq = s.garr.launchSeq
    ∧ (modBed s n g).garr.nextLaunch = s.garr.nextLaunch ∧ (modBed s n g).garr.unfenceStatus = s.garr.unfenceStatus
    ∧ (modBed s n g).garr.unfencing = s.garr.unfencing ∧ (modBed s n g).garr.rsvs = s.garr.rsvs
    ∧ getDom (modBed s n g) = getDom s ∧ getQp (modBed s n g) = getQp s ∧ getTen (modBed s n g) = getTen s
    ∧ findCmd (modBed s n g) = findCmd s ∧ getAcc (modBed s n g) = getAcc s ∧ getSpoke (modBed s n g) = getSpoke s
    ∧ getChan (modBed s n g) = getChan s ∧ getThr (modBed s n g) = getThr s ∧ getLeak (modBed s n g) = getLeak s
    ∧ getMotor (modBed s n g) = getMotor s ∧ getPort (modBed s n g) = getPort s ∧ getGrain (modBed s n g) = getGrain s
    ∧ getThread (modBed s n g) = getThread s ∧ getRemap (modBed s n g) = getRemap s
    ∧ getKslot (modBed s n g) = getKslot s ∧ getModel (modBed s n g) = getModel s
    ∧ getWindow (modBed s n g) = getWindow s ∧ findRec (modBed s n g) = findRec s
    ∧ getAccBoot (modBed s n g) = getAccBoot s ∧ hostRead (modBed s n g) = hostRead s ∧ gmRead (modBed s n g) = gmRead s
    ∧ accRead (modBed s n g) = accRead s ∧ flashRead (modBed s n g) = flashRead s ∧ lsRead (modBed s n g) = lsRead s
    ∧ getBusy (modBed s n g) = getBusy s ∧ cfgGet (modBed s n g) = cfgGet s ∧ cfgN (modBed s n g) = cfgN s
    ∧ cfgF (modBed s n g) = cfgF s ∧ cfgD (modBed s n g) = cfgD s ∧ ltGet (modBed s n g) = ltGet s
    ∧ pmGet (modBed s n g) = pmGet s := by
  rw [modBed_frame]
  refine ⟨?_, ?_, ?_, ?_, ?_, ?_, ?_, ?_, ?_, ?_, ?_, ?_, ?_, ?_, ?_, ?_, ?_, ?_, ?_, ?_, ?_, ?_, ?_, ?_, ?_, ?_, ?_, ?_, ?_, ?_, ?_, ?_, ?_, ?_, ?_, ?_, ?_, ?_, ?_, ?_, ?_, ?_, ?_, ?_, ?_, ?_, ?_, ?_, ?_, ?_, ?_, ?_, ?_, ?_, ?_, ?_, ?_, ?_, ?_, ?_, ?_, ?_, ?_, ?_⟩ <;> rfl

/-- Changing a grain. -/
theorem modGrain_frame (s : State) (n : Nat) (g : Grain → Grain) :
    modGrain s n g = { s with garr := { s.garr with grains := (modGrain s n g).garr.grains } } := by
  rfl

/-- What modGrain leaves as it is. -/
@[simp] theorem modGrain_keeps (s : State) (n : Nat) (g : Grain → Grain) :
    (modGrain s n g).pending = s.pending ∧ (modGrain s n g).tick = s.tick ∧ (modGrain s n g).freeCtr = s.freeCtr
    ∧ (modGrain s n g).resp = s.resp ∧ (modGrain s n g).crd = s.crd ∧ (modGrain s n g).doms = s.doms
    ∧ (modGrain s n g).domSeqs = s.domSeqs ∧ (modGrain s n g).regs = s.regs ∧ (modGrain s n g).hz = s.hz
    ∧ (modGrain s n g).qc = s.qc ∧ (modGrain s n g).slog = s.slog ∧ (modGrain s n g).pm = s.pm
    ∧ (modGrain s n g).boot = s.boot ∧ (modGrain s n g).sealEng = s.sealEng ∧ (modGrain s n g).strata = s.strata
    ∧ (modGrain s n g).links = s.links ∧ (modGrain s n g).pow = s.pow ∧ (modGrain s n g).therm = s.therm
    ∧ (modGrain s n g).leaks = s.leaks ∧ (modGrain s n g).motors = s.motors ∧ (modGrain s n g).tw = s.tw
    ∧ (modGrain s n g).jtag = s.jtag ∧ (modGrain s n g).mem = s.mem ∧ (modGrain s n g).garr.remap = s.garr.remap
    ∧ (modGrain s n g).garr.beds = s.garr.beds ∧ (modGrain s n g).garr.threads = s.garr.threads
    ∧ (modGrain s n g).garr.kslots = s.garr.kslots ∧ (modGrain s n g).garr.launches = s.garr.launches
    ∧ (modGrain s n g).garr.launchSeq = s.garr.launchSeq ∧ (modGrain s n g).garr.nextLaunch = s.garr.nextLaunch
    ∧ (modGrain s n g).garr.unfenceStatus = s.garr.unfenceStatus ∧ (modGrain s n g).garr.unfencing = s.garr.unfencing
    ∧ (modGrain s n g).garr.rsvs = s.garr.rsvs ∧ getDom (modGrain s n g) = getDom s ∧ getQp (modGrain s n g) = getQp s
    ∧ getTen (modGrain s n g) = getTen s ∧ findCmd (modGrain s n g) = findCmd s ∧ getAcc (modGrain s n g) = getAcc s
    ∧ getSpoke (modGrain s n g) = getSpoke s ∧ getChan (modGrain s n g) = getChan s ∧ getThr (modGrain s n g) = getThr s
    ∧ getLeak (modGrain s n g) = getLeak s ∧ getMotor (modGrain s n g) = getMotor s
    ∧ getPort (modGrain s n g) = getPort s ∧ getBed (modGrain s n g) = getBed s
    ∧ getThread (modGrain s n g) = getThread s ∧ getRemap (modGrain s n g) = getRemap s
    ∧ getKslot (modGrain s n g) = getKslot s ∧ getModel (modGrain s n g) = getModel s
    ∧ getWindow (modGrain s n g) = getWindow s ∧ findRec (modGrain s n g) = findRec s
    ∧ getAccBoot (modGrain s n g) = getAccBoot s ∧ hostRead (modGrain s n g) = hostRead s
    ∧ gmRead (modGrain s n g) = gmRead s ∧ accRead (modGrain s n g) = accRead s
    ∧ flashRead (modGrain s n g) = flashRead s ∧ lsRead (modGrain s n g) = lsRead s
    ∧ getBusy (modGrain s n g) = getBusy s ∧ cfgGet (modGrain s n g) = cfgGet s ∧ cfgN (modGrain s n g) = cfgN s
    ∧ cfgF (modGrain s n g) = cfgF s ∧ cfgD (modGrain s n g) = cfgD s ∧ ltGet (modGrain s n g) = ltGet s
    ∧ pmGet (modGrain s n g) = pmGet s := by
  rw [modGrain_frame]
  refine ⟨?_, ?_, ?_, ?_, ?_, ?_, ?_, ?_, ?_, ?_, ?_, ?_, ?_, ?_, ?_, ?_, ?_, ?_, ?_, ?_, ?_, ?_, ?_, ?_, ?_, ?_, ?_, ?_, ?_, ?_, ?_, ?_, ?_, ?_, ?_, ?_, ?_, ?_, ?_, ?_, ?_, ?_, ?_, ?_, ?_, ?_, ?_, ?_, ?_, ?_, ?_, ?_, ?_, ?_, ?_, ?_, ?_, ?_, ?_, ?_, ?_, ?_, ?_, ?_⟩ <;> rfl

/-- Changing a thread. -/
theorem modThread_frame (s : State) (p t : Nat) (g : Thread → Thread) :
    modThread s p t g = { s with garr := { s.garr with threads := (modThread s p t g).garr.threads } } := by
  rfl

/-- What modThread leaves as it is. -/
@[simp] theorem modThread_keeps (s : State) (p t : Nat) (g : Thread → Thread) :
    (modThread s p t g).pending = s.pending ∧ (modThread s p t g).tick = s.tick
    ∧ (modThread s p t g).freeCtr = s.freeCtr ∧ (modThread s p t g).resp = s.resp ∧ (modThread s p t g).crd = s.crd
    ∧ (modThread s p t g).doms = s.doms ∧ (modThread s p t g).domSeqs = s.domSeqs ∧ (modThread s p t g).regs = s.regs
    ∧ (modThread s p t g).hz = s.hz ∧ (modThread s p t g).qc = s.qc ∧ (modThread s p t g).slog = s.slog
    ∧ (modThread s p t g).pm = s.pm ∧ (modThread s p t g).boot = s.boot ∧ (modThread s p t g).sealEng = s.sealEng
    ∧ (modThread s p t g).strata = s.strata ∧ (modThread s p t g).links = s.links ∧ (modThread s p t g).pow = s.pow
    ∧ (modThread s p t g).therm = s.therm ∧ (modThread s p t g).leaks = s.leaks ∧ (modThread s p t g).motors = s.motors
    ∧ (modThread s p t g).tw = s.tw ∧ (modThread s p t g).jtag = s.jtag ∧ (modThread s p t g).mem = s.mem
    ∧ (modThread s p t g).garr.remap = s.garr.remap ∧ (modThread s p t g).garr.beds = s.garr.beds
    ∧ (modThread s p t g).garr.grains = s.garr.grains ∧ (modThread s p t g).garr.kslots = s.garr.kslots
    ∧ (modThread s p t g).garr.launches = s.garr.launches ∧ (modThread s p t g).garr.launchSeq = s.garr.launchSeq
    ∧ (modThread s p t g).garr.nextLaunch = s.garr.nextLaunch
    ∧ (modThread s p t g).garr.unfenceStatus = s.garr.unfenceStatus
    ∧ (modThread s p t g).garr.unfencing = s.garr.unfencing ∧ (modThread s p t g).garr.rsvs = s.garr.rsvs
    ∧ getDom (modThread s p t g) = getDom s ∧ getQp (modThread s p t g) = getQp s
    ∧ getTen (modThread s p t g) = getTen s ∧ findCmd (modThread s p t g) = findCmd s
    ∧ getAcc (modThread s p t g) = getAcc s ∧ getSpoke (modThread s p t g) = getSpoke s
    ∧ getChan (modThread s p t g) = getChan s ∧ getThr (modThread s p t g) = getThr s
    ∧ getLeak (modThread s p t g) = getLeak s ∧ getMotor (modThread s p t g) = getMotor s
    ∧ getPort (modThread s p t g) = getPort s ∧ getBed (modThread s p t g) = getBed s
    ∧ getGrain (modThread s p t g) = getGrain s ∧ getRemap (modThread s p t g) = getRemap s
    ∧ getKslot (modThread s p t g) = getKslot s ∧ getModel (modThread s p t g) = getModel s
    ∧ getWindow (modThread s p t g) = getWindow s ∧ findRec (modThread s p t g) = findRec s
    ∧ getAccBoot (modThread s p t g) = getAccBoot s ∧ hostRead (modThread s p t g) = hostRead s
    ∧ gmRead (modThread s p t g) = gmRead s ∧ accRead (modThread s p t g) = accRead s
    ∧ flashRead (modThread s p t g) = flashRead s ∧ lsRead (modThread s p t g) = lsRead s
    ∧ getBusy (modThread s p t g) = getBusy s ∧ cfgGet (modThread s p t g) = cfgGet s
    ∧ cfgN (modThread s p t g) = cfgN s ∧ cfgF (modThread s p t g) = cfgF s ∧ cfgD (modThread s p t g) = cfgD s
    ∧ ltGet (modThread s p t g) = ltGet s ∧ pmGet (modThread s p t g) = pmGet s := by
  rw [modThread_frame]
  refine ⟨?_, ?_, ?_, ?_, ?_, ?_, ?_, ?_, ?_, ?_, ?_, ?_, ?_, ?_, ?_, ?_, ?_, ?_, ?_, ?_, ?_, ?_, ?_, ?_, ?_, ?_, ?_, ?_, ?_, ?_, ?_, ?_, ?_, ?_, ?_, ?_, ?_, ?_, ?_, ?_, ?_, ?_, ?_, ?_, ?_, ?_, ?_, ?_, ?_, ?_, ?_, ?_, ?_, ?_, ?_, ?_, ?_, ?_, ?_, ?_, ?_, ?_, ?_, ?_⟩ <;> rfl

@[simp] theorem getDom_modDom (s : State) (d k : Nat) (g : Dom → Dom) :
    getDom (modDom s d g) k = if k = d then g (getDom s d) else getDom s k := by
  simp [modDom]

@[simp] theorem getAcc_modAcc (s : State) (d k : Nat) (g : Acc → Acc) :
    getAcc (modAcc s d g) k = if k = d then g (getAcc s d) else getAcc s k := by
  simp [modAcc]

@[simp] theorem getSpoke_modSpoke (s : State) (d k : Nat) (g : Spoke → Spoke) :
    getSpoke (modSpoke s d g) k = if k = d then g (getSpoke s d) else getSpoke s k := by
  simp [modSpoke]

@[simp] theorem getMotor_modMotor (s : State) (d k : Nat) (g : Motor → Motor) :
    getMotor (modMotor s d g) k = if k = d then g (getMotor s d) else getMotor s k := by
  simp [modMotor]

@[simp] theorem getTen_modTen (s : State) (d k : Nat) (g : Tenant → Tenant) :
    getTen (modTen s d g) k = if k = d then g (getTen s d) else getTen s k := by
  simp [modTen]

@[simp] theorem getBed_modBed (s : State) (d k : Nat) (g : Bed → Bed) :
    getBed (modBed s d g) k = if k = d then g (getBed s d) else getBed s k := by
  simp [modBed]

@[simp] theorem getGrain_modGrain (s : State) (d k : Nat) (g : Grain → Grain) :
    getGrain (modGrain s d g) k = if k = d then g (getGrain s d) else getGrain s k := by
  simp [modGrain]

@[simp] theorem getQp_modQp (s : State) (f q k : Nat) (g : Qp → Qp) :
    getQp (modQp s f q g) f k = if k = q then g (getQp s f q) else getQp s f k := by
  simp [modQp]

@[simp] theorem getThread_modThread (s : State) (p t k : Nat) (g : Thread → Thread) :
    getThread (modThread s p t g) p k = if k = t then g (getThread s p t) else getThread s p k := by
  simp [modThread]

/-- Marking a command started. -/
theorem markStarted_frame (s : State) (c : Nat) :
    markStarted s c = { s with qc := { s.qc with cmds := (markStarted s c).qc.cmds }, pm := (markStarted s c).pm } := by
  unfold markStarted
  rw [count_frame]
  rfl

/-- What markStarted leaves as it is. -/
@[simp] theorem markStarted_keeps (s : State) (c : Nat) :
    (markStarted s c).pending = s.pending ∧ (markStarted s c).tick = s.tick ∧ (markStarted s c).freeCtr = s.freeCtr
    ∧ (markStarted s c).resp = s.resp ∧ (markStarted s c).crd = s.crd ∧ (markStarted s c).doms = s.doms
    ∧ (markStarted s c).domSeqs = s.domSeqs ∧ (markStarted s c).regs = s.regs ∧ (markStarted s c).hz = s.hz
    ∧ (markStarted s c).slog = s.slog ∧ (markStarted s c).boot = s.boot ∧ (markStarted s c).sealEng = s.sealEng
    ∧ (markStarted s c).garr = s.garr ∧ (markStarted s c).strata = s.strata ∧ (markStarted s c).links = s.links
    ∧ (markStarted s c).pow = s.pow ∧ (markStarted s c).therm = s.therm ∧ (markStarted s c).leaks = s.leaks
    ∧ (markStarted s c).motors = s.motors ∧ (markStarted s c).tw = s.tw ∧ (markStarted s c).jtag = s.jtag
    ∧ (markStarted s c).mem = s.mem ∧ (markStarted s c).qc.qps = s.qc.qps ∧ (markStarted s c).qc.tenants = s.qc.tenants
    ∧ (markStarted s c).qc.t64 = s.qc.t64 ∧ (markStarted s c).qc.nextSeq = s.qc.nextSeq
    ∧ (markStarted s c).qc.firstServed = s.qc.firstServed ∧ (markStarted s c).qc.vfs = s.qc.vfs
    ∧ (markStarted s c).qc.msix = s.qc.msix ∧ (markStarted s c).qc.hostBeat = s.qc.hostBeat
    ∧ (markStarted s c).qc.bmcBeat = s.qc.bmcBeat ∧ getDom (markStarted s c) = getDom s
    ∧ getQp (markStarted s c) = getQp s ∧ getTen (markStarted s c) = getTen s ∧ getAcc (markStarted s c) = getAcc s
    ∧ getSpoke (markStarted s c) = getSpoke s ∧ getChan (markStarted s c) = getChan s
    ∧ getThr (markStarted s c) = getThr s ∧ getLeak (markStarted s c) = getLeak s
    ∧ getMotor (markStarted s c) = getMotor s ∧ getPort (markStarted s c) = getPort s
    ∧ getBed (markStarted s c) = getBed s ∧ getGrain (markStarted s c) = getGrain s
    ∧ getThread (markStarted s c) = getThread s ∧ getRemap (markStarted s c) = getRemap s
    ∧ getKslot (markStarted s c) = getKslot s ∧ getModel (markStarted s c) = getModel s
    ∧ getWindow (markStarted s c) = getWindow s ∧ findRec (markStarted s c) = findRec s
    ∧ getAccBoot (markStarted s c) = getAccBoot s ∧ hostRead (markStarted s c) = hostRead s
    ∧ gmRead (markStarted s c) = gmRead s ∧ accRead (markStarted s c) = accRead s
    ∧ flashRead (markStarted s c) = flashRead s ∧ lsRead (markStarted s c) = lsRead s
    ∧ getBusy (markStarted s c) = getBusy s ∧ cfgGet (markStarted s c) = cfgGet s ∧ cfgN (markStarted s c) = cfgN s
    ∧ cfgF (markStarted s c) = cfgF s ∧ cfgD (markStarted s c) = cfgD s ∧ ltGet (markStarted s c) = ltGet s := by
  rw [markStarted_frame]
  refine ⟨?_, ?_, ?_, ?_, ?_, ?_, ?_, ?_, ?_, ?_, ?_, ?_, ?_, ?_, ?_, ?_, ?_, ?_, ?_, ?_, ?_, ?_, ?_, ?_, ?_, ?_, ?_, ?_, ?_, ?_, ?_, ?_, ?_, ?_, ?_, ?_, ?_, ?_, ?_, ?_, ?_, ?_, ?_, ?_, ?_, ?_, ?_, ?_, ?_, ?_, ?_, ?_, ?_, ?_, ?_, ?_, ?_, ?_, ?_, ?_, ?_⟩ <;> rfl

/-- A command gives up its resources. -/
theorem releaseRes_frame (s : State) (c : Nat) :
    releaseRes s c = { s with qc := { s.qc with cmds := (releaseRes s c).qc.cmds } } := by
  rfl

/-- What releaseRes leaves as it is. -/
@[simp] theorem releaseRes_keeps (s : State) (c : Nat) :
    (releaseRes s c).pending = s.pending ∧ (releaseRes s c).tick = s.tick ∧ (releaseRes s c).freeCtr = s.freeCtr
    ∧ (releaseRes s c).resp = s.resp ∧ (releaseRes s c).crd = s.crd ∧ (releaseRes s c).doms = s.doms
    ∧ (releaseRes s c).domSeqs = s.domSeqs ∧ (releaseRes s c).regs = s.regs ∧ (releaseRes s c).hz = s.hz
    ∧ (releaseRes s c).slog = s.slog ∧ (releaseRes s c).pm = s.pm ∧ (releaseRes s c).boot = s.boot
    ∧ (releaseRes s c).sealEng = s.sealEng ∧ (releaseRes s c).garr = s.garr ∧ (releaseRes s c).strata = s.strata
    ∧ (releaseRes s c).links = s.links ∧ (releaseRes s c).pow = s.pow ∧ (releaseRes s c).therm = s.therm
    ∧ (releaseRes s c).leaks = s.leaks ∧ (releaseRes s c).motors = s.motors ∧ (releaseRes s c).tw = s.tw
    ∧ (releaseRes s c).jtag = s.jtag ∧ (releaseRes s c).mem = s.mem ∧ (releaseRes s c).qc.qps = s.qc.qps
    ∧ (releaseRes s c).qc.tenants = s.qc.tenants ∧ (releaseRes s c).qc.t64 = s.qc.t64
    ∧ (releaseRes s c).qc.nextSeq = s.qc.nextSeq ∧ (releaseRes s c).qc.firstServed = s.qc.firstServed
    ∧ (releaseRes s c).qc.vfs = s.qc.vfs ∧ (releaseRes s c).qc.msix = s.qc.msix
    ∧ (releaseRes s c).qc.hostBeat = s.qc.hostBeat ∧ (releaseRes s c).qc.bmcBeat = s.qc.bmcBeat
    ∧ getDom (releaseRes s c) = getDom s ∧ getQp (releaseRes s c) = getQp s ∧ getTen (releaseRes s c) = getTen s
    ∧ getAcc (releaseRes s c) = getAcc s ∧ getSpoke (releaseRes s c) = getSpoke s ∧ getChan (releaseRes s c) = getChan s
    ∧ getThr (releaseRes s c) = getThr s ∧ getLeak (releaseRes s c) = getLeak s ∧ getMotor (releaseRes s c) = getMotor s
    ∧ getPort (releaseRes s c) = getPort s ∧ getBed (releaseRes s c) = getBed s ∧ getGrain (releaseRes s c) = getGrain s
    ∧ getThread (releaseRes s c) = getThread s ∧ getRemap (releaseRes s c) = getRemap s
    ∧ getKslot (releaseRes s c) = getKslot s ∧ getModel (releaseRes s c) = getModel s
    ∧ getWindow (releaseRes s c) = getWindow s ∧ findRec (releaseRes s c) = findRec s
    ∧ getAccBoot (releaseRes s c) = getAccBoot s ∧ hostRead (releaseRes s c) = hostRead s
    ∧ gmRead (releaseRes s c) = gmRead s ∧ accRead (releaseRes s c) = accRead s
    ∧ flashRead (releaseRes s c) = flashRead s ∧ lsRead (releaseRes s c) = lsRead s
    ∧ getBusy (releaseRes s c) = getBusy s ∧ cfgGet (releaseRes s c) = cfgGet s ∧ cfgN (releaseRes s c) = cfgN s
    ∧ cfgF (releaseRes s c) = cfgF s ∧ cfgD (releaseRes s c) = cfgD s ∧ ltGet (releaseRes s c) = ltGet s
    ∧ pmGet (releaseRes s c) = pmGet s := by
  rw [releaseRes_frame]
  refine ⟨?_, ?_, ?_, ?_, ?_, ?_, ?_, ?_, ?_, ?_, ?_, ?_, ?_, ?_, ?_, ?_, ?_, ?_, ?_, ?_, ?_, ?_, ?_, ?_, ?_, ?_, ?_, ?_, ?_, ?_, ?_, ?_, ?_, ?_, ?_, ?_, ?_, ?_, ?_, ?_, ?_, ?_, ?_, ?_, ?_, ?_, ?_, ?_, ?_, ?_, ?_, ?_, ?_, ?_, ?_, ?_, ?_, ?_, ?_, ?_, ?_, ?_, ?_⟩ <;> rfl

/-- A command that times out. -/
theorem timeOut_frame (s : State) (c : Cmd) :
    timeOut s c = { s with qc := (timeOut s c).qc, pm := (timeOut s c).pm, tw := { s.tw with hn := (timeOut s c).tw.hn }, mem := { s.mem with host := (timeOut s c).mem.host } } := by
  unfold timeOut
  rw [complete_frame, count_frame]

/-- What timeOut leaves as it is. -/
@[simp] theorem timeOut_keeps (s : State) (c : Cmd) :
    (timeOut s c).pending = s.pending ∧ (timeOut s c).tick = s.tick ∧ (timeOut s c).freeCtr = s.freeCtr
    ∧ (timeOut s c).resp = s.resp ∧ (timeOut s c).crd = s.crd ∧ (timeOut s c).doms = s.doms
    ∧ (timeOut s c).domSeqs = s.domSeqs ∧ (timeOut s c).regs = s.regs ∧ (timeOut s c).hz = s.hz
    ∧ (timeOut s c).slog = s.slog ∧ (timeOut s c).boot = s.boot ∧ (timeOut s c).sealEng = s.sealEng
    ∧ (timeOut s c).garr = s.garr ∧ (timeOut s c).strata = s.strata ∧ (timeOut s c).links = s.links
    ∧ (timeOut s c).pow = s.pow ∧ (timeOut s c).therm = s.therm ∧ (timeOut s c).leaks = s.leaks
    ∧ (timeOut s c).motors = s.motors ∧ (timeOut s c).jtag = s.jtag ∧ (timeOut s c).tw.ports = s.tw.ports
    ∧ (timeOut s c).tw.pecErrs = s.tw.pecErrs ∧ (timeOut s c).tw.nacks = s.tw.nacks
    ∧ (timeOut s c).tw.timeouts = s.tw.timeouts ∧ (timeOut s c).tw.w0Last = s.tw.w0Last
    ∧ (timeOut s c).tw.hnDropped = s.tw.hnDropped ∧ (timeOut s c).tw.result = s.tw.result
    ∧ (timeOut s c).tw.flow = s.tw.flow ∧ (timeOut s c).tw.press = s.tw.press
    ∧ (timeOut s c).tw.chargerOn = s.tw.chargerOn ∧ (timeOut s c).tw.xferBusy = s.tw.xferBusy
    ∧ (timeOut s c).tw.xferCode = s.tw.xferCode ∧ (timeOut s c).tw.xferBytes = s.tw.xferBytes
    ∧ (timeOut s c).tw.voutMode = s.tw.voutMode ∧ (timeOut s c).mem.ls = s.mem.ls ∧ (timeOut s c).mem.gm = s.mem.gm
    ∧ (timeOut s c).mem.flash = s.mem.flash ∧ (timeOut s c).mem.acc = s.mem.acc ∧ getDom (timeOut s c) = getDom s
    ∧ getAcc (timeOut s c) = getAcc s ∧ getSpoke (timeOut s c) = getSpoke s ∧ getChan (timeOut s c) = getChan s
    ∧ getThr (timeOut s c) = getThr s ∧ getLeak (timeOut s c) = getLeak s ∧ getMotor (timeOut s c) = getMotor s
    ∧ getPort (timeOut s c) = getPort s ∧ getBed (timeOut s c) = getBed s ∧ getGrain (timeOut s c) = getGrain s
    ∧ getThread (timeOut s c) = getThread s ∧ getRemap (timeOut s c) = getRemap s ∧ getKslot (timeOut s c) = getKslot s
    ∧ getModel (timeOut s c) = getModel s ∧ getWindow (timeOut s c) = getWindow s ∧ findRec (timeOut s c) = findRec s
    ∧ getAccBoot (timeOut s c) = getAccBoot s ∧ gmRead (timeOut s c) = gmRead s ∧ accRead (timeOut s c) = accRead s
    ∧ flashRead (timeOut s c) = flashRead s ∧ lsRead (timeOut s c) = lsRead s ∧ getBusy (timeOut s c) = getBusy s
    ∧ cfgGet (timeOut s c) = cfgGet s ∧ cfgN (timeOut s c) = cfgN s ∧ cfgF (timeOut s c) = cfgF s
    ∧ cfgD (timeOut s c) = cfgD s ∧ ltGet (timeOut s c) = ltGet s := by
  rw [timeOut_frame]
  refine ⟨?_, ?_, ?_, ?_, ?_, ?_, ?_, ?_, ?_, ?_, ?_, ?_, ?_, ?_, ?_, ?_, ?_, ?_, ?_, ?_, ?_, ?_, ?_, ?_, ?_, ?_, ?_, ?_, ?_, ?_, ?_, ?_, ?_, ?_, ?_, ?_, ?_, ?_, ?_, ?_, ?_, ?_, ?_, ?_, ?_, ?_, ?_, ?_, ?_, ?_, ?_, ?_, ?_, ?_, ?_, ?_, ?_, ?_, ?_, ?_, ?_, ?_, ?_, ?_, ?_⟩ <;> rfl

/-! ### When a command starts (R86) -/

/-- The acceptance number of a command found by it. -/
theorem findCmd_seq {s : State} {c : Nat} {cmd : Cmd} (h : findCmd s c = some cmd) : cmd.seq = c := by
  have := List.find?_some h
  simpa using this

/-- A command that starts, with its domains ON and no latch set, does what its opcode does from step 10. -/
theorem startCmd_starts {s : State} {c op : Nat} {log : Option Nat} {cmd : Cmd} (doms : State → Cmd → Option Nat)
    (hold : State → Cmd → Bool) (body : State → Cmd → State) (hf : findCmd s c = some cmd)
    (hm : rowMatches op log cmd = true) (he : eligible s cmd = true) (hn : cmd.noop = false)
    (hp : deadlinePassed s cmd = false) (hd : doms s cmd = none) (hh : hold s cmd = false) :
    startCmd s c op log doms hold body = body (markStarted s c) cmd := by
  simp [startCmd, hf, hm, he, hn, hp, hd, hh]

/-- An OK_NOOP whose turn has come completes. -/
theorem startCmd_noop {s : State} {c op : Nat} {log : Option Nat} {cmd : Cmd} (doms : State → Cmd → Option Nat)
    (hold : State → Cmd → Bool) (body : State → Cmd → State) (hf : findCmd s c = some cmd)
    (hm : rowMatches op log cmd = true) (he : eligible s cmd = true) (hn : cmd.noop = true) :
    startCmd s c op log doms hold body = complete s c { status := .okNoop } := by
  simp [startCmd, hf, hm, he, hn]

/-- A command that something accepted earlier keeps back does nothing. -/
theorem startCmd_waits {s : State} {c op : Nat} {log : Option Nat} {cmd : Cmd} (doms : State → Cmd → Option Nat)
    (hold : State → Cmd → Bool) (body : State → Cmd → State) (hf : findCmd s c = some cmd) (he : eligible s cmd = false) :
    startCmd s c op log doms hold body = s := by
  simp [startCmd, hf, he]

/-- The command behind another of its ring waits where either has ORDER set (R90). -/
theorem eligible_order {s : State} {e c : Cmd} (he : e ∈ s.qc.cmds) (ht : e.tenant = c.tenant) (hq : e.qp = c.qp)
    (hs : e.seq < c.seq) (ho : c.order = true ∨ e.order = true) : eligible s c = false := by
  have hb : blocks e c = true := by
    rcases ho with h | h <;> simp [blocks, sameRing, ht, hq, h]
  cases hx : eligible s c with
  | false => rfl
  | true =>
    simp only [eligible, Bool.and_eq_true, List.all_eq_true] at hx
    have := hx.2 e he
    simp [hs, hb] at this

end Sys2Proof.Machine
end

