-- ==== Sys2Proof/Laws/Idle.lean ====
section
/-! SUPPORT. What the idle step's counters of time can do: they write the performance monitor alone. -/

namespace Sys2Proof.Machine

/-- A fold whose steps write the performance monitor alone writes it alone. -/
theorem fold_pm {α : Type} (f : State → α → State) (hf : ∀ u a, ∃ m, f u a = { u with pm := m }) (l : List α) (s : State) :
    ∃ m, l.foldl f s = { s with pm := m } := by
  induction l generalizing s with
  | nil => exact ⟨s.pm, rfl⟩
  | cons a l ih =>
    obtain ⟨m, h⟩ := hf s a
    obtain ⟨k, h'⟩ := ih (f s a)
    exact ⟨k, by rw [List.foldl_cons, h', h]⟩

theorem countIf_pm (s : State) (b : Bool) (e : Nat) (o : Occ) (n : Nat) : ∃ m, countIf s b e o n = { s with pm := m } := by
  unfold countIf
  split
  · exact ⟨_, count_frame s e o n⟩
  · exact ⟨s.pm, rfl⟩

theorem grainTime_pm (s : State) (g : Nat) : ∃ m, grainTime s g = { s with pm := m } :=
  fold_pm _ (fun u e => countIf_pm u _ _ _ _) _ s

theorem threadTime_pm (s : State) (g : Nat) : ∃ m, threadTime s g = { s with pm := m } := by
  refine fold_pm _ (fun u e => ?_) _ s
  obtain ⟨m, h⟩ := countIf_pm (count u 9 (grainOcc s (e.1 / 8)) g) (waitEvent e.2.wait).isSome ((waitEvent e.2.wait).getD 0)
    (grainOcc s (e.1 / 8)) g
  exact ⟨m, by rw [h, count_frame u 9 _ g]⟩

theorem bedTime_pm (s : State) : ∃ m, bedTime s = { s with pm := m } :=
  fold_pm _ (fun u l => ⟨_, count_frame u _ _ _⟩) _ s

theorem gatedTime_pm (s : State) (g : Nat) : ∃ m, gatedTime s g = { s with pm := m } := by
  unfold gatedTime
  split
  · exact ⟨s.pm, rfl⟩
  · exact fold_pm _ (fun u b => countIf_pm u _ _ _ _) _ s

theorem blockTime_pm (s : State) : ∃ m, blockTime s = { s with pm := m } :=
  fold_pm _ (fun u x => countIf_pm u _ _ _ _) _ s

theorem msTime_pm (s : State) : ∃ m, msTime s = { s with pm := m } :=
  fold_pm _ (fun u x => countIf_pm u _ _ _ _) _ s

end Sys2Proof.Machine
end

