-- ==== Sys2Proof/Laws/Memory.lean ====
section
/-! SUPPORT. Laws of the memories: reading after a write, and the canonical form, which every memory operation keeps. -/

namespace Sys2Proof.Machine

/-! ### Reading after a write -/

/-- What was written is read back. -/
@[simp] theorem hostRead_hostWrite (s : State) (a : Nat) (l : List Byte) : hostRead (hostWrite s a l) a l.length = l :=
  KMap.readN_writeN_self _ _ _ _

/-- Bytes outside the written ones read as before. -/
theorem hostRead_hostWrite_other (s : State) (a b n : Nat) (l : List Byte) (h : b + n ≤ a ∨ a + l.length ≤ b) :
    hostRead (hostWrite s a l) b n = hostRead s b n := KMap.readN_writeN_other _ _ _ _ _ _ h

/-- What was written is read back. -/
@[simp] theorem gmRead_gmWrite (s : State) (a : Nat) (l : List Byte) : gmRead (gmWrite s a l) a l.length = l :=
  KMap.readN_writeN_self _ _ _ _

/-- Bytes outside the written ones read as before. -/
theorem gmRead_gmWrite_other (s : State) (a b n : Nat) (l : List Byte) (h : b + n ≤ a ∨ a + l.length ≤ b) :
    gmRead (gmWrite s a l) b n = gmRead s b n := KMap.readN_writeN_other _ _ _ _ _ _ h

/-- What was written is read back. -/
@[simp] theorem accRead_accWrite (s : State) (n a : Nat) (l : List Byte) : accRead (accWrite s n a l) n a l.length = l :=
  KMap.readN_writeN_self _ _ _ _

/-- What was programmed is read back. -/
@[simp] theorem flashRead_flashProg (s : State) (a : Nat) (l : List Byte) : flashRead (flashProg s a l) a l.length = l :=
  KMap.readN_writeN_self _ _ _ _

/-- Bytes outside the programmed ones read as before. -/
theorem flashRead_flashProg_other (s : State) (a b n : Nat) (l : List Byte) (h : b + n ≤ a ∨ a + l.length ≤ b) :
    flashRead (flashProg s a l) b n = flashRead s b n := KMap.readN_writeN_other _ _ _ _ _ _ h

/-- What was written is read back. -/
@[simp] theorem lsRead_lsWrite (s : State) (p o : Nat) (l : List Byte) : lsRead (lsWrite s p o l) p o l.length = l :=
  KMap.readN_writeN_self _ _ _ _

/-- Bytes outside the written ones read as before. -/
theorem lsRead_lsWrite_other (s : State) (p o b n : Nat) (l : List Byte) (h : b + n ≤ o ∨ o + l.length ≤ b) :
    lsRead (lsWrite s p o l) p b n = lsRead s p b n := KMap.readN_writeN_other _ _ _ _ _ _ (by omega)

/-! ### The canonical form -/

/-- Reset's memories are canonical. -/
theorem reset_mem_wf : State.reset.mem.wf = true := by decide

theorem hostWrite_wf (s : State) (a : Nat) (l : List Byte) (h : s.mem.wf = true) : (hostWrite s a l).mem.wf = true := by
  simp only [Mems.wf, Bool.and_eq_true, hostWrite] at h ⊢
  exact ⟨⟨h.1.1, KMap.wf_writeN _ _ _ _ h.1.2⟩, h.2⟩

theorem gmWrite_wf (s : State) (a : Nat) (l : List Byte) (h : s.mem.wf = true) : (gmWrite s a l).mem.wf = true := by
  simp only [Mems.wf, Bool.and_eq_true, gmWrite] at h ⊢
  exact ⟨⟨⟨⟨h.1.1.1.1, KMap.wf_writeN _ _ _ _ h.1.1.1.2⟩, h.1.1.2⟩, h.1.2⟩, h.2⟩

theorem accWrite_wf (s : State) (n a : Nat) (l : List Byte) (h : s.mem.wf = true) : (accWrite s n a l).mem.wf = true := by
  simp only [Mems.wf, Bool.and_eq_true, accWrite] at h ⊢
  exact ⟨h.1, KMap.wf_writeN _ _ _ _ h.2⟩

theorem flashProg_wf (s : State) (a : Nat) (l : List Byte) (h : s.mem.wf = true) : (flashProg s a l).mem.wf = true := by
  simp only [Mems.wf, Bool.and_eq_true, flashProg] at h ⊢
  exact ⟨⟨⟨h.1.1.1, KMap.wf_writeN _ _ _ _ h.1.1.2⟩, h.1.2⟩, h.2⟩

theorem flashErase_wf (s : State) (lo hi : Nat) (h : s.mem.wf = true) : (flashErase s lo hi).mem.wf = true := by
  simp only [Mems.wf, Bool.and_eq_true, flashErase] at h ⊢
  exact ⟨⟨⟨h.1.1.1, KMap.wf_clearRange _ _ _ _ h.1.1.2⟩, h.1.2⟩, h.2⟩

theorem lsWrite_wf (s : State) (p o : Nat) (l : List Byte) (h : s.mem.wf = true) : (lsWrite s p o l).mem.wf = true := by
  simp only [Mems.wf, Bool.and_eq_true, lsWrite] at h ⊢
  exact ⟨⟨⟨⟨KMap.wf_writeN _ _ _ _ h.1.1.1.1, h.1.1.1.2⟩, h.1.1.2⟩, h.1.2⟩, h.2⟩

theorem lsZero_wf (s : State) (p lo hi : Nat) (h : s.mem.wf = true) : (lsZero s p lo hi).mem.wf = true := by
  simp only [Mems.wf, Bool.and_eq_true, lsZero] at h ⊢
  exact ⟨⟨⟨⟨KMap.wf_clearRange _ _ _ _ h.1.1.1.1, h.1.1.1.2⟩, h.1.1.2⟩, h.1.2⟩, h.2⟩

end Sys2Proof.Machine
end

