-- ==== Sys2Proof/Laws/Ports.lean ====
section
/-! SUPPORT. What the shared operations of the two-wire ports and of a motor channel can do. -/

namespace Sys2Proof.Machine

/-- An error of a transaction changes its port and the performance monitor alone. -/
theorem portErr_frame (s : State) (p code : Nat) :
    portErr s p code = { s with tw := (portErr s p code).tw, pm := (portErr s p code).pm } := by
  unfold portErr
  rw [count_frame]
  rfl

/-- Reads on a port succeed only where it is up and the bus says OK, and then nothing changes. -/
theorem portRead_ok {s : State} {p : Nat} {r : TwResult} (h : (portRead s p r).2 = true) :
    portUp s p = true ∧ r = .ok ∧ portRead s p r = (s, true) := by
  unfold portRead at h ⊢
  unfold portUp
  split at h
  · cases h
  · split at h
    · cases h
    · split at h
      · cases h
      · split at h
        · simp_all
        · cases h

/-- Reads on a port that is up end as the bus says. -/
theorem portRead_up {s : State} {p : Nat} (h : portUp s p = true) (r : TwResult) :
    portRead s p r = if r = .ok then (s, true) else (portErr s p (twCode r), false) := by
  simp only [portUp, Bool.and_eq_true, decide_eq_true_eq] at h
  simp [portRead, h.1.1, h.1.2, h.2]

/-- However reads on a port end, they change the port and the performance monitor alone. -/
theorem portRead_frame (s : State) (p : Nat) (r : TwResult) :
    (portRead s p r).1 = { s with tw := (portRead s p r).1.tw, pm := (portRead s p r).1.pm } := by
  unfold portRead
  split
  · rfl
  · split
    · exact portErr_frame s p 0xB
    · split
      · rfl
      · split
        · rfl
        · exact portErr_frame s p (twCode r)

/-- A W0 write on which W0 acts does what its code does. -/
theorem w0Write_acts {s : State} {code n : Nat} {block : Bool} {w : W0Write} (h : w0Acts s code n block w = true)
    (act : State → List Byte → State) : w0Write s code n block w act = act s (w.data.take n) := by
  simp only [w0Acts, Bool.and_eq_true, Bool.or_eq_true, Bool.not_eq_true', decide_eq_true_eq] at h
  obtain ⟨⟨⟨⟨⟨hp, hb⟩, hr⟩, he⟩, hl⟩, hc⟩ := h
  have hb' : ¬ (block = true ∧ w.count ≠ n) := by
    rintro ⟨h1, h2⟩
    rcases hb with h | h
    · simp [h] at h1
    · exact h2 h
  unfold w0Write
  simp only [hp, hr, he, ne_eq, not_true_eq_false, if_false, Bool.false_eq_true, false_and, false_or, hb', Nat.not_lt.mpr hl]
  change (match w0Pec n w with
    | some p => _
    | none => _) = _
  cases hq : w0Pec n w with
  | none => simp only [hq, Bool.not_eq_true'] at hc; simp [hc]
  | some b =>
    simp only [hq, decide_eq_true_eq] at hc
    exact if_neg (not_not.mpr hc)

/-- Following a target before the steward runs changes nothing. -/
theorem motorFollow_still {s : State} (h : s.crd.phase ≠ .running) (m : Nat) : motorFollow s m = s := by
  simp [motorFollow, h]

/-- A channel of LOCKOUT follows no target. -/
theorem motorFollow_lockout {s : State} {m : Nat} (h : (getMotor s m).st = .lockout) : motorFollow s m = s := by
  unfold motorFollow
  split
  · rfl
  · simp [h]

/-- A COOL_SET releases nothing but the drive of the two pumps. -/
theorem leakReleases_frame (s : State) (m : Nat) : leakReleases s m = { s with therm := (leakReleases s m).therm } := by
  unfold leakReleases
  split <;> rfl

/-- The start duty is less than PWM_PER, so that a duty clamped between the two exists. -/
theorem rampDuty_le (s : State) (m : Nat) : rampDuty s m ≤ pwmPer s m := by
  have h : startDuty s m < 256 := by
    unfold startDuty cfgF bf
    exact lt_of_lt_of_le (BitVec.extractLsb' _ _ _).isLt (by decide)
  unfold rampDuty
  calc startDuty s m * pwmPer s m / 256 ≤ 256 * pwmPer s m / 256 :=
        Nat.div_le_div_right (Nat.mul_le_mul_right _ h.le)
    _ = pwmPer s m := Nat.mul_div_cancel_left _ (by decide)

end Sys2Proof.Machine
end

