-- ==== Sys2Proof/Laws/RegRows.lean ====
section
/-! SUPPORT. What each register write with a row of its own does: the write rules of R50 to R58 lead to one operation. -/

namespace Sys2Proof.Machine

/-- A 4-byte write of the host of a 32-bit PF register is a write of its block. -/
theorem hostWrites_pf {s : State} (off : Nat) (v : Word) (h : hostMay s 0 = true) (ht : taken 0 off 4 = true)
    (hp : 0x1000 ≤ off) (hw : wide 0 off = false) (hh : (off % 8 = 4 && wide 0 (off - 4)) = false) :
    hostWrites s 0 off v = pfWrite s off v.toNat := by
  have hn : ¬ off < 0x1000 := by omega
  have hb : onPage 0 off = false := by simp [onPage, hn]
  rw [hostWrites, if_pos h, regWrite]
  simp only [ht, hb, writeWord, hw, hh]
  rfl

/-- A HOST_HB write. -/
theorem exec_hostHb {s : State} (v : Word) (h : hostMay s 0 = true) :
    exec (.hostHb v) s = .next (settle (hostHbWrite s v)) := by
  simp [exec, execHostHb, done, hostWrites_pf _ v h, taken, beyond, accessOk, wide, isQp, qpBase, pfWrite, blockOff, blockOf,
    blockBase, wrQc]

/-- A RESET_CTRL write with WARM. -/
theorem exec_resetCtrlWarm {s : State} (v : Word) (h : hostMay s 0 = true) :
    exec (.resetCtrlWarm v) s = .next (settle (resetCtrlWrite s v)) := by
  simp [exec, execResetCtrlWarm, done, hostWrites_pf _ v h, taken, beyond, accessOk, wide, isQp, qpBase, pfWrite, blockOff,
    blockOf, blockBase, wrCrd]

/-- A RESET_CTRL write with MARL. -/
theorem exec_resetCtrlMarl {s : State} (v : Word) (h : hostMay s 0 = true) :
    exec (.resetCtrlMarl v) s = .next (settle (resetCtrlWrite s v)) := by
  simp [exec, execResetCtrlMarl, done, hostWrites_pf _ v h, taken, beyond, accessOk, wide, isQp, qpBase, pfWrite, blockOff,
    blockOf, blockBase, wrCrd]

/-- A RESET_CTRL write with DOM_GO. -/
theorem exec_resetCtrlDomGo {s : State} (v : Word) (h : hostMay s 0 = true) :
    exec (.resetCtrlDomGo v) s = .next (settle (resetCtrlWrite s v)) := by
  simp [exec, execResetCtrlDomGo, done, hostWrites_pf _ v h, taken, beyond, accessOk, wide, isQp, qpBase, pfWrite, blockOff,
    blockOf, blockBase, wrCrd]

/-- A GCLK_CTRL write. -/
theorem exec_gclkReq {s : State} (v : Word) (h : hostMay s 0 = true) :
    exec (.gclkReq v) s = .next (settle (gclkWrite s v)) := by
  simp [exec, execGclkReq, done, hostWrites_pf _ v h, taken, beyond, accessOk, wide, isQp, qpBase, pfWrite, blockOff, blockOf,
    blockBase, wrCrd]

/-- Every DOM_CTRL register is a 32-bit register of block 3. -/
theorem domCtrl_reg : ∀ d : Fin 92, blockOf (0x100100 + 4 * d.val) = 3 ∧ taken 0 (0x100100 + 4 * d.val) 4 = true
    ∧ wide 0 (0x100100 + 4 * d.val) = false
    ∧ ((0x100100 + 4 * d.val) % 8 = 4 && wide 0 (0x100100 + 4 * d.val - 4)) = false := by decide

/-- A DOM_CTRL write. -/
theorem exec_domCtrl {s : State} (d : Fin 92) (v : Word) (h : hostMay s 0 = true) :
    exec (.domCtrl d v) s = .next (settle (domCtrlWrite s d.val v)) := by
  have hd := d.isLt
  obtain ⟨ho, h1, h2, h3⟩ := domCtrl_reg d
  have e : hostWrites s 0 (0x100100 + 4 * d.val) v = domCtrlWrite s d.val v := by
    rw [hostWrites_pf _ v h h1 (by omega) h2 h3]
    simp only [pfWrite, ho, blockOff, blockBase]
    have e1 : 1048832 + 4 * d.val - 1048576 = 256 + 4 * d.val := by omega
    have a1 : 256 + 4 * d.val < 624 := by omega
    have e2 : wrCrd s (256 + 4 * d.val) v.toNat = domCtrlWrite s ((256 + 4 * d.val - 0x100) / 4) (BitVec.ofNat 32 v.toNat) := by
      generalize hk : 256 + 4 * d.val = k
      have hk1 : 256 ≤ k ∧ k < 0x270 := by omega
      clear hk
      match k, hk1 with
      | k + 13, hk1 => simp [wrCrd, hk1]
    have e3 : (256 + 4 * d.val - 0x100) / 4 = d.val := by omega
    simpa [e1, e3] using e2
  simp [exec, execDomCtrl, done, e]

/-- A BOOT_RELEASE write. -/
theorem exec_bootRelease {s : State} (v : Word) (h : hostMay s 0 = true) :
    exec (.bootRelease v) s = .next (settle (bootReleaseWrite s v)) := by
  simp [exec, execBootRelease, done, hostWrites_pf _ v h, taken, beyond, accessOk, wide, isQp, qpBase, pfWrite, blockOff, blockOf,
    blockBase, wrBoot]

/-- A KEY_LOCK write of the PF. -/
theorem exec_keyLock {s : State} (v : Word) (h : hostMay s 0 = true) :
    exec (.keyLock 0 v) s = .next (settle (keyLockWrite s v)) := by
  simp [exec, execKeyLock, done, hostWrites_pf _ v h, taken, beyond, accessOk, wide, isQp, qpBase, pfWrite, blockOff, blockOf,
    blockBase, wrBoot]

/-- An UNFENCE write with D04 neither OFF nor in RETENTION. -/
theorem exec_unfence {s : State} (v : Word) (h : hostMay s 0 = true) (hb : blockOff s 5 = false) :
    exec (.unfence v) s = .next (settle (unfenceWrite v s)) := by
  simp [exec, execUnfence, done, hostWrites_pf _ v h, taken, beyond, accessOk, wide, isQp, qpBase, pfWrite, hb, blockOf,
    blockBase, wrTilth]

/-- Every SPOKE_CTRL is a 32-bit register of the power block. -/
theorem spokeCtrl_reg : ∀ n : Fin 8, blockOf (0x508104 + 0x40 * n.val) = 7 ∧ taken 0 (0x508104 + 0x40 * n.val) 4 = true
    ∧ wide 0 (0x508104 + 0x40 * n.val) = false
    ∧ ((0x508104 + 0x40 * n.val) % 8 = 4 && wide 0 (0x508104 + 0x40 * n.val - 4)) = false := by decide

/-- A SPOKE_CTRL write. -/
theorem exec_retrain {s : State} (n : Fin 8) (v : Word) (h : hostMay s 0 = true) :
    exec (.retrain n v) s = .next (settle (spokeCtrlWrite s n.val v.toNat)) := by
  have hn := n.isLt
  obtain ⟨ho, h1, h2, h3⟩ := spokeCtrl_reg n
  have e : hostWrites s 0 (0x508104 + 0x40 * n.val) v = spokeCtrlWrite s n.val v.toNat := by
    rw [hostWrites_pf _ v h h1 (by omega) h2 h3]
    simp only [pfWrite, ho, blockOff, blockBase]
    have e1 : 0x508104 + 0x40 * n.val - (7 - 2) * 0x100000 = 0x8104 + 0x40 * n.val := by omega
    have a1 : ¬ 0x8104 + 0x40 * n.val < 0x900 := by omega
    have a2 : 0x8104 + 0x40 * n.val < 0x9000 := by omega
    have a3 : 0x8104 + 0x40 * n.val < 0x8300 := by omega
    have a4 : (0x8104 + 0x40 * n.val - 0x8100) / 0x40 = n.val := by omega
    have a5 : (0x8104 + 0x40 * n.val) % 0x40 = 4 := by omega
    have a6 : 0x8000 ≤ 0x8104 + 0x40 * n.val ∧ 0x8100 ≤ 0x8104 + 0x40 * n.val := by omega
    have e2 : wrAp s (0x8104 + 0x40 * n.val) v.toNat = wrLink s (0x8104 + 0x40 * n.val) v.toNat := by
      generalize 0x8104 + 0x40 * n.val = k at a1 a2 a6
      match k, a1, a2, a6 with
      | k + 29, a1, a2, a6 =>
        unfold wrAp
        simp only [a1, a2, a6, and_false, and_self, if_true, if_false]
    simp only [e1, e2]
    simp only [wrLink, a3, a4, a5, a6, and_self, if_true]
    rfl
  simp [exec, execRetrain, done, e]

/-- A TH_CLEAR write. -/
theorem exec_thClear {s : State} (v : Word) (h : hostMay s 0 = true) :
    exec (.thClear v) s = .next (settle (motorsFollow (thClearWrite s v))) := by
  simp [exec, execThClear, done, hostWrites_pf _ v h, taken, beyond, accessOk, wide, isQp, qpBase, pfWrite, blockOff, blockOf,
    blockBase, wrTh]

/-- An MC_CLEAR write. -/
theorem exec_mcClear {s : State} (v : Word) (h : hostMay s 0 = true) :
    exec (.mcClear v) s = .next (settle (mcClearWrite s v)) := by
  simp [exec, execMcClear, done, hostWrites_pf _ v h, taken, beyond, accessOk, wide, isQp, qpBase, pfWrite, blockOff, blockOf,
    blockBase, wrMc]

/-- An XFER_CTRL write. -/
theorem exec_xferCtrlGo {s : State} (v : Word) (h : hostMay s 0 = true) :
    exec (.xferCtrlGo v) s = .next (settle (xferCtrlWrite s v)) := by
  simp [exec, execXferCtrlGo, done, hostWrites_pf _ v h, taken, beyond, accessOk, wide, isQp, qpBase, pfWrite, blockOff, blockOf,
    blockBase, wrTw]

/-- A PM_SAMP_CTRL write of the PF. -/
theorem exec_samplingEnable {s : State} (v : Word) (h : hostMay s 0 = true) :
    exec (.samplingEnable 0 v) s = .next (settle (sampCtrlWrite s v)) := by
  simp [exec, execSamplingEnable, done, hostWrites_pf _ v h, taken, beyond, accessOk, wide, isQp, qpBase, pfWrite, blockOff,
    blockOf, blockBase, wrPm]

/-! ### Queue pairs -/

/-- Every 32-bit register of a queue pair is one of its function's BAR0. -/
theorem qp_reg : ∀ q : Fin 8, ∀ o ∈ [0, 0x20, 0x28],
    (blockOf (0x21000 + 0x40 * q.val + o) = 2 ∧ taken 0 (0x21000 + 0x40 * q.val + o) 4 = true
      ∧ wide 0 (0x21000 + 0x40 * q.val + o) = false
      ∧ ((0x21000 + 0x40 * q.val + o) % 8 = 4 && wide 0 (0x21000 + 0x40 * q.val + o - 4)) = false) := by decide

/-- A 32-bit register of queue pair q of the PF. -/
theorem hostWrites_qpPf {s : State} (q o : Nat) (v : Word) (hq : q < 8) (ho : o = 0 ∨ o = 0x20 ∨ o = 0x28)
    (h : hostMay s 0 = true) : hostWrites s 0 (qpOff 0 q o) v = qpWrite s 0 q o v.toNat := by
  obtain ⟨h0, h1, h2, h3⟩ := qp_reg ⟨q, hq⟩ o (by simpa using ho)
  simp only [] at h0 h1 h2 h3
  have hoff : qpOff 0 q o = 0x21000 + 0x40 * q + o := by simp [qpOff, qpBase]
  rw [hoff, hostWrites_pf _ v h h1 (by omega) h2 h3]
  have e1 : 0x21000 + 0x40 * q + o - 0x20000 = 0x1000 + 0x40 * q + o := by omega
  have a2 : ¬ (0x1000 + 0x40 * q + o = 4) := by omega
  have a3 : ¬ (0x1000 + 0x40 * q + o < 0x200) := by omega
  have a4 : 0x1000 ≤ 0x1000 + 0x40 * q + o ∧ 0x1000 + 0x40 * q + o < 0x1200 := by omega
  have a5 : (0x1000 + 0x40 * q + o - 0x1000) / 0x40 = q := by omega
  have a6 : (0x1000 + 0x40 * q + o) % 0x40 = o := by omega
  simp only [pfWrite, h0, blockOff, blockBase, e1]
  simp [wrQc, a2, a3, a4, a5, a6]

/-- A 32-bit register of queue pair q of a VF. -/
theorem hostWrites_qpVf {s : State} (fn q o : Nat) (v : Word) (hf : 1 ≤ fn ∧ fn ≤ 63) (hq : q < 8)
    (ho : o = 0 ∨ o = 0x20 ∨ o = 0x28) (h : hostMay s fn = true) :
    hostWrites s fn (qpOff fn q o) v = qpWrite s fn q o v.toNat := by
  have f0 : ¬ (fn = 0 ∨ fn = 64) := by omega
  have hoff : qpOff fn q o = 0x2000 + 0x40 * q + o := by simp [qpOff, qpBase, f0]
  have b1 : (0x2000 + 0x40 * q + o) % 4 = 0 := by omega
  have b2 : (0x2000 + 0x40 * q + o) % 8 = 0 := by omega
  have b3 : 0x2000 ≤ 0x2000 + 0x40 * q + o ∧ 0x2000 + 0x40 * q + o < 0x2200 := by omega
  have b4 : (0x2000 + 0x40 * q + o - 0x2000) / 0x40 = q := by omega
  have b5 : (0x2000 + 0x40 * q + o) % 0x40 = o := by omega
  have b7 : ¬ (0x2000 + 0x40 * q + o < 0x2000) := by omega
  have g1 : ¬ fn = 0 := by omega
  have g2 : ¬ fn = 64 := by omega
  have b8 : ¬ (o = 8 ∨ o = 0x10) := by omega
  have t1 : taken fn (0x2000 + 0x40 * q + o) 4 = true := by simp [taken, beyond, accessOk, b1, g1, g2]
  have t2 : onPage fn (0x2000 + 0x40 * q + o) = false := by simp [onPage, g1, g2, b7]
  have t3 : isQp fn (0x2000 + 0x40 * q + o) = true := by simp [isQp, qpBase, g1, g2, b3]
  have t4 : wide fn (0x2000 + 0x40 * q + o) = false := by
    simp only [wide, b2, t3, b5]; simpa using b8
  rw [hoff, hostWrites, if_pos h, regWrite]
  simp [t1, t2, writeWord, t4, b2, g1, g2, vfWrite, b3, b4, b5]

/-- A 32-bit register of queue pair q of the PF or of a VF. -/
theorem hostWrites_qp {s : State} (fn q o : Nat) (v : Word) (hf : fn ≤ 63) (hq : q < 8) (ho : o = 0 ∨ o = 0x20 ∨ o = 0x28)
    (h : hostMay s fn = true) : hostWrites s fn (qpOff fn q o) v = qpWrite s fn q o v.toNat := by
  by_cases h0 : fn = 0
  · subst h0; exact hostWrites_qpPf q o v hq ho h
  · exact hostWrites_qpVf fn q o v ⟨by omega, hf⟩ hq ho h

end Sys2Proof.Machine
end

