-- ==== Sys2Proof/Laws/Settle.lean ====
section
/-! SUPPORT. What the end of every command does: what HZ_FAULT depends on, and what settling keeps. -/

namespace Sys2Proof.Machine

/-- HZ_FAULT depends on these fields alone. -/
theorem faultWord_congr {s t : State} (v : Nat) (h1 : s.therm = t.therm) (h2 : s.leaks = t.leaks) (h3 : s.pow = t.pow)
    (h4 : s.motors = t.motors) (h5 : s.garr = t.garr) (h6 : s.strata = t.strata) (h7 : s.crd = t.crd)
    (h8 : s.links = t.links) (h9 : s.boot = t.boot) (h10 : s.hz.stale = t.hz.stale) (h11 : s.hz.pub = t.hz.pub)
    (h12 : s.qc = t.qc) (h13 : s.hz.held = t.hz.held) : faultWord s v = faultWord t v := by
  have hl : leakActs s = leakActs t := by
    funext l; simp only [leakActs, getLeak, armed, h2]
  simp only [faultWord, faultBits, heldBit, stoppedBits, h13, hl, h1, h3, h4, h5, h6, h7, h9, h10, h11, hostAlive, bmcAlive, bothLapsed, unread,
    getTen, getSpoke, h8, h12]
  rfl

/-- A Host Notify changes no fault. -/
@[simp] theorem hostNote_faultWord (x : State) (r d v : Nat) : faultWord (hostNote x r d) v = faultWord x v := by
  unfold hostNote
  split
  · rfl
  · split <;> (apply faultWord_congr <;> rfl)

/-- Settling changes HZ_FAULT's compared value and count and the pending Host Notifys alone. -/
theorem settle_frame (s : State) :
    settle s = { s with hz := (settle s).hz, tw := { s.tw with hn := (settle s).tw.hn } } := by
  unfold settle
  dsimp only
  split
  · rw [hostNote_frame]
  · rfl

/-- What settling does to the Horizon page's own fields. -/
theorem settle_hz (s : State) :
    (settle s).hz = { s.hz with
      faultCount := s.hz.faultCount
        + BitVec.ofNat 32 (popCount 21 (faultWord s 64 &&& ~~~ s.hz.lastFault).toNat),
      lastFault := faultWord s 64 } := by
  unfold settle
  dsimp only
  split
  · rw [hostNote_frame]
  · rfl

/-- Settling changes no fault. -/
@[simp] theorem settle_faultWord (s : State) (v : Nat) : faultWord (settle s) v = faultWord s v := by
  rw [settle_frame, settle_hz]
  apply faultWord_congr <;> rfl

end Sys2Proof.Machine
end

