-- ==== Sys2Proof/Laws/Starts.lean ====
section
/-! SUPPORT. Starting a command of the command table, in the words of the statements. -/

namespace Sys2Proof.Machine

/-- A command that starts now is in the table under its acceptance number. -/
theorem startsNow_find {s : State} {c op : Nat} {log : Option Nat} {cmd : Cmd} (h : startsNow s c op log cmd = true) :
    findCmd s c = some cmd := by
  simp only [startsNow, Bool.and_eq_true, decide_eq_true_eq] at h
  exact h.1.1.1.1

/-- The acceptance number of a command that starts now. -/
theorem startsNow_seq {s : State} {c op : Nat} {log : Option Nat} {cmd : Cmd} (h : startsNow s c op log cmd = true) :
    cmd.seq = c := findCmd_seq (startsNow_find h)

/-- A command that starts now has not started. -/
theorem startsNow_started {s : State} {c op : Nat} {log : Option Nat} {cmd : Cmd} (h : startsNow s c op log cmd = true) :
    cmd.started = false := by
  simp only [startsNow, eligible, Bool.and_eq_true, Bool.not_eq_true'] at h
  exact h.1.1.2.1

/-- What a command that starts now does. -/
theorem startCmd_now {s : State} {c op : Nat} {log : Option Nat} {cmd : Cmd} (doms : State → Cmd → Option Nat)
    (hold : State → Cmd → Bool) (body : State → Cmd → State) (h : startsNow s c op log cmd = true)
    (hd : doms s cmd = none) (hh : hold s cmd = false) :
    startCmd s c op log doms hold body = body (markStarted s c) cmd := by
  simp only [startsNow, Bool.and_eq_true, decide_eq_true_eq, Bool.not_eq_true'] at h
  obtain ⟨⟨⟨⟨h1, h2⟩, h3⟩, h4⟩, h5⟩ := h
  exact startCmd_starts doms hold body h1 h2 h3 h4 h5 hd hh

/-- What an OK_NOOP whose turn has come does. -/
theorem startCmd_noopNow {s : State} {c op : Nat} {log : Option Nat} {cmd : Cmd} (doms : State → Cmd → Option Nat)
    (hold : State → Cmd → Bool) (body : State → Cmd → State) (h : noopNow s c op log cmd = true) :
    startCmd s c op log doms hold body = complete s c { status := .okNoop } := by
  simp only [noopNow, Bool.and_eq_true, decide_eq_true_eq] at h
  obtain ⟨⟨⟨h1, h2⟩, h3⟩, h4⟩ := h
  exact startCmd_noop doms hold body h1 h2 h3 h4

end Sys2Proof.Machine
end

