-- ==== Sys2Proof/WellFormed.lean ====
section
/-! DEFINITION. Which commands an outside agent can form: operand ranges that the types do not already fix. -/

namespace Sys2Proof

/-- Every byte-string and number operand in the range its field has (the rule of each is that of the command). -/
def RegAccess.wf (w : RegAccess) : Bool :=
  decide (w.fn ≤ 63) && (decide (w.size = 1) || decide (w.size = 2) || decide (w.size = 4) || decide (w.size = 8))
  && decide (w.be < 2 ^ w.size) && decide (w.off % 2 ^ 32 = w.off)

/-- A word of a bus address or a memory address: 64 bits. -/
def addrWf (a : Nat) : Bool := decide (a < 2 ^ 64)

/-- A memory BAR: one of six, its size a power of two (R238). -/
def BarIn.wf (b : BarIn) : Bool := decide (b.index < 6) && decide (2 ^ Nat.log2 b.size = b.size) && decide (b.size < 2 ^ 64)

/-- A vendor-specific capability: the widths of its fields (R244). -/
def DvsecIn.wf (c : DvsecIn) : Bool :=
  decide (c.vendor < 2 ^ 16) && decide (c.id < 2 ^ 16) && decide (c.revision < 16) && decide (c.loc < 2 ^ 32) && decide (c.locHi < 2 ^ 32)

/-- What an enumeration reads: BARs, capabilities, and registers of the widths of Table 10.2. -/
def EnumIn.wf (e : EnumIn) : Bool :=
  e.bars.all BarIn.wf && decide (e.bars.length ≤ 6) && e.caps.all DvsecIn.wf && decide (e.kcId < 2 ^ 32)
  && decide (e.exportLoc < 2 ^ 64) && decide (e.exportSize < 2 ^ 64) && decide (e.bootLoc < 2 ^ 64) && decide (e.bootSize < 2 ^ 32)

/-- A W0 write: a count byte, and at most a block of data (14 Table 14.4). -/
def W0Write.wf (w : W0Write) : Bool := decide (w.count ≤ 255) && decide (w.data.length ≤ 255)

/-- Can an outside agent form this command. The types fix the operands of every command not named here. -/
def Instr.wf : Instr → Bool
  | .tenantResetEnd t => decide (t ≤ 64)
  | .flr fn => decide (fn ≤ 63)
  | .sqTail fn q _ => decide (fn ≤ 63) && decide (q ≤ 7)
  | .cqHead fn q _ => decide (fn ≤ 63) && decide (q ≤ 7)
  | .qpCtrlEn fn q _ => decide (fn ≤ 63) && decide (q ≤ 7)
  | .submissionFetchError fn q _ => decide (fn ≤ 63) && decide (q ≤ 7)
  | .completionWriteError fn q _ _ => decide (fn ≤ 63) && decide (q ≤ 7)
  | .trimPassEnd ws vid _ => decide (ws.length ≤ 512) && decide (vid < 64)
  | .registerWrite w => w.wf
  | .rcRead fn r => decide (fn ≤ 63) && decide (1 ≤ r.len)
  | .lowWordRead fn off => decide (fn ≤ 63) && decide (off % 8 = 0)
  | .horizonPageRead fn _ len => decide (fn ≤ 63) && decide (1 ≤ len)
  | .bar2Read _ len _ => decide (1 ≤ len)
  | .bar2Write _ bs => decide (1 ≤ bs.length)
  | .keyLock fn _ => decide (fn ≤ 63)
  | .getCertificate _ off len => decide (off < 65536) && decide (len < 65536)
  | .challenge slot nonce => decide (slot ≤ 255) && decide (nonce.length = 32)
  | .getMeasurements index _ nonce => decide (index ≤ 255) && decide (nonce.length = 32)
  | .vfEnableCleared vfs => decide (vfs ≤ 63)
  | .uLinkUp rate width vfs bar2Bits =>
    decide (1 ≤ rate) && decide (rate ≤ 6) && decide (1 ≤ width) && decide (width ≤ 16) && decide (vfs ≤ 63)
    && decide (20 ≤ bar2Bits) && decide (bar2Bits ≤ 36)
  | .spokeLinkUp _ rate width => decide (1 ≤ rate) && decide (rate ≤ 6) && decide (1 ≤ width) && decide (width ≤ 16)
  | .spokeEnumeration _ e => e.wf
  | .hbmUe a => addrWf a
  | .hbmCe a => addrWf a
  | .outboundWriteError _ _ a => addrWf a
  | .temperatureSample _ (some v) => decide (-32768 < v) && decide (v < 32768)
  | .loopDeviceRead a b c d charge =>
    [a, b, c, d].all (fun x => decide (x.value < 65536)) && decide (charge.value ≤ 255)
  | .twoWireTransaction _ _ data => decide (data.length ≤ 255)
  | .w0ReadCompletion len => decide (len ≤ 255)
  | .w0ReadBuffer len => decide (len ≤ 255)
  | .w0Result len => decide (len ≤ 255)
  | .horizonMirrorRead code r =>
    decide (0x80 ≤ code) && decide (code ≤ 0xFF) && decide (r.len ≤ 255) && r.bad.all (fun w => decide (w < 1024))
  | .overflowSample _ _ _ skid => decide (skid ≤ 255)
  | .tagSample _ _ a latency eflags => addrWf a && decide (latency < 2 ^ 32) && decide (eflags < 2 ^ 16)
  | .samplingEnable fn _ => decide (fn ≤ 63)
  | .w0StageLow w => w.wf
  | .w0PostEntry w => w.wf
  | .w0ConsumeCompletion w => w.wf
  | .w0SetBufferPointer w => w.wf
  | .bmcHb w => w.wf
  | .kcpReset w => w.wf
  | .w0ThClear w => w.wf
  | .w0McClear w => w.wf
  | .notifyMask w => w.wf
  | _ => true

end Sys2Proof
end

