-- ==== Sys2Proof/Tests/Slice0.lean ====
section
/-! SUPPORT. The ill-formed commands that WellFormed refuses, the states that meet the hypotheses of the statements, and a few
steps whose outcome the spec gives. -/

namespace Sys2Proof.Tests

open Sys2Proof.Machine

/-! ### States -/

/-- The steward running, at 20 s, with U in L0. -/
def up : State := { State.reset with
  tick := 20000000,
  crd := { State.reset.crd with
    phase := .running, porN := true, supplyOk := true, rootOk := true, pllLock := true, trimDone := true, fwUp := true },
  links := { State.reset.links with u := { State.reset.links.u with l0 := true, rate := 6, width := 16 } } }

/-- The 64 bytes of an entry: its opcode, and its parameters from byte 8. -/
def rawOf (op : Nat) (ps : List Byte) : List Byte :=
  BitVec.ofNat 8 op :: List.replicate 7 0 ++ ps ++ List.replicate (56 - ps.length) 0

/-- Command 5 of the table, from pair 0 of a tenant. -/
def cmdOf (tenant op : Nat) (ps : List Byte) : Cmd :=
  { seq := 5, tenant := tenant, qp := 0, cls := 0, raw := rawOf op ps, acc := 0 }

/-- A state with one command in its table. -/
def holding (s : State) (c : Cmd) : State := { s with qc := { s.qc with cmds := [c], nextSeq := 6 } }

/-! ### WellFormed refuses each ill-formed command -/

theorem wf_tenantResetEnd : (Instr.tenantResetEnd 65).wf = false := by decide
theorem wf_flr : (Instr.flr 64).wf = false := by decide
theorem wf_sqTail : (Instr.sqTail 0 8 0).wf = false := by decide
theorem wf_cqHead : (Instr.cqHead 64 0 0).wf = false := by decide
theorem wf_qpCtrlEn : (Instr.qpCtrlEn 0 8 0).wf = false := by decide
theorem wf_submissionFetchError : (Instr.submissionFetchError 64 0 0).wf = false := by decide
theorem wf_completionWriteError : (Instr.completionWriteError 0 8 0 0).wf = false := by decide
theorem wf_trimPassEnd : (Instr.trimPassEnd [] 64 true).wf = false := by decide
theorem wf_registerWrite : (Instr.registerWrite ⟨64, 0, 4, 15, 0, false⟩).wf = false
    ∧ (Instr.registerWrite ⟨0, 0, 3, 7, 0, false⟩).wf = false
    ∧ (Instr.registerWrite ⟨0, 0, 4, 16, 0, false⟩).wf = false
    ∧ (Instr.registerWrite ⟨0, 2 ^ 32, 4, 15, 0, false⟩).wf = false := by decide
theorem wf_rcRead : (Instr.rcRead 0 ⟨2, 0⟩).wf = false := by decide
theorem wf_lowWordRead : (Instr.lowWordRead 0 4).wf = false := by decide
theorem wf_horizonPageRead : (Instr.horizonPageRead 0 0 0).wf = false := by decide
theorem wf_bar2Read : (Instr.bar2Read 0 0 false).wf = false := by decide
theorem wf_bar2Write : (Instr.bar2Write 0 []).wf = false := by decide
theorem wf_keyLock : (Instr.keyLock 64 0).wf = false := by decide
theorem wf_getCertificate : (Instr.getCertificate 0 65536 0).wf = false ∧ (Instr.getCertificate 0 0 65536).wf = false := by decide
theorem wf_challenge : (Instr.challenge 256 (List.replicate 32 0)).wf = false ∧ (Instr.challenge 0 []).wf = false := by decide
theorem wf_getMeasurements : (Instr.getMeasurements 256 false (List.replicate 32 0)).wf = false
    ∧ (Instr.getMeasurements 0 false []).wf = false := by decide
theorem wf_vfEnableCleared : (Instr.vfEnableCleared 64).wf = false := by decide
theorem wf_uLinkUp : (Instr.uLinkUp 0 1 0 20).wf = false ∧ (Instr.uLinkUp 7 1 0 20).wf = false ∧ (Instr.uLinkUp 6 0 0 20).wf = false
    ∧ (Instr.uLinkUp 6 17 0 20).wf = false ∧ (Instr.uLinkUp 6 16 64 20).wf = false ∧ (Instr.uLinkUp 6 16 0 19).wf = false
    ∧ (Instr.uLinkUp 6 16 0 37).wf = false := by decide
theorem wf_spokeLinkUp : (Instr.spokeLinkUp 0 0 1).wf = false ∧ (Instr.spokeLinkUp 0 7 1).wf = false
    ∧ (Instr.spokeLinkUp 0 6 0).wf = false ∧ (Instr.spokeLinkUp 0 6 17).wf = false := by decide
theorem wf_spokeEnumeration : (Instr.spokeEnumeration 0 ⟨[], [], 2 ^ 32, 0, 0, 0, 0⟩).wf = false
    ∧ (Instr.spokeEnumeration 0 ⟨[], [], 0, 2 ^ 64, 0, 0, 0⟩).wf = false
    ∧ (Instr.spokeEnumeration 0 ⟨[], [], 0, 0, 2 ^ 64, 0, 0⟩).wf = false
    ∧ (Instr.spokeEnumeration 0 ⟨[], [], 0, 0, 0, 2 ^ 64, 0⟩).wf = false
    ∧ (Instr.spokeEnumeration 0 ⟨[], [], 0, 0, 0, 0, 2 ^ 32⟩).wf = false
    ∧ (Instr.spokeEnumeration 0 ⟨List.replicate 7 ⟨0, 4096, false, 0⟩, [], 0, 0, 0, 0, 0⟩).wf = false := by decide
theorem wf_bars : (Instr.spokeEnumeration 0 ⟨[⟨6, 4096, false, 0⟩], [], 0, 0, 0, 0, 0⟩).wf = false
    ∧ (Instr.spokeEnumeration 0 ⟨[⟨0, 4097, false, 0⟩], [], 0, 0, 0, 0, 0⟩).wf = false
    ∧ (Instr.spokeEnumeration 0 ⟨[⟨0, 2 ^ 64, false, 0⟩], [], 0, 0, 0, 0, 0⟩).wf = false := by decide
theorem wf_caps : (Instr.spokeEnumeration 0 ⟨[], [⟨65536, 0, 0, 0, 0⟩], 0, 0, 0, 0, 0⟩).wf = false
    ∧ (Instr.spokeEnumeration 0 ⟨[], [⟨0, 65536, 0, 0, 0⟩], 0, 0, 0, 0, 0⟩).wf = false
    ∧ (Instr.spokeEnumeration 0 ⟨[], [⟨0, 0, 16, 0, 0⟩], 0, 0, 0, 0, 0⟩).wf = false
    ∧ (Instr.spokeEnumeration 0 ⟨[], [⟨0, 0, 0, 2 ^ 32, 0⟩], 0, 0, 0, 0, 0⟩).wf = false
    ∧ (Instr.spokeEnumeration 0 ⟨[], [⟨0, 0, 0, 0, 2 ^ 32⟩], 0, 0, 0, 0, 0⟩).wf = false := by decide
theorem wf_addresses : (Instr.hbmUe (2 ^ 64)).wf = false ∧ (Instr.hbmCe (2 ^ 64)).wf = false
    ∧ (Instr.outboundWriteError 0 0 (2 ^ 64)).wf = false := by decide
theorem wf_temperatureSample : (Instr.temperatureSample 0 (some (-32768))).wf = false
    ∧ (Instr.temperatureSample 0 (some 32768)).wf = false := by decide
theorem wf_loopDeviceRead : (Instr.loopDeviceRead ⟨.ok, 65536⟩ ⟨.ok, 0⟩ ⟨.ok, 0⟩ ⟨.ok, 0⟩ ⟨.ok, 0⟩).wf = false
    ∧ (Instr.loopDeviceRead ⟨.ok, 0⟩ ⟨.ok, 0⟩ ⟨.ok, 0⟩ ⟨.ok, 0⟩ ⟨.ok, 256⟩).wf = false := by decide
theorem wf_twoWireTransaction : (Instr.twoWireTransaction 1 .ok (List.replicate 256 0)).wf = false := by
  simp only [Instr.wf, List.length_replicate]; decide
theorem wf_w0Reads : (Instr.w0ReadCompletion 256).wf = false ∧ (Instr.w0ReadBuffer 256).wf = false ∧ (Instr.w0Result 256).wf = false
    ∧ (Instr.horizonMirrorRead 0x7F ⟨32, []⟩).wf = false ∧ (Instr.horizonMirrorRead 0x100 ⟨32, []⟩).wf = false
    ∧ (Instr.horizonMirrorRead 0x80 ⟨256, []⟩).wf = false ∧ (Instr.horizonMirrorRead 0x80 ⟨32, [1024]⟩).wf = false := by decide
theorem wf_samples : (Instr.overflowSample 0 0 0 256).wf = false ∧ (Instr.tagSample 0 0 (2 ^ 64) 0 0).wf = false
    ∧ (Instr.tagSample 0 0 0 (2 ^ 32) 0).wf = false ∧ (Instr.tagSample 0 0 0 0 (2 ^ 16)).wf = false
    ∧ (Instr.samplingEnable 64 0).wf = false := by decide
theorem wf_w0Writes : (Instr.w0StageLow ⟨256, [], none, false, false⟩).wf = false ∧ (Instr.w0PostEntry ⟨256, [], none, false, false⟩).wf = false
    ∧ (Instr.w0ConsumeCompletion ⟨256, [], none, false, false⟩).wf = false
    ∧ (Instr.w0SetBufferPointer ⟨256, [], none, false, false⟩).wf = false ∧ (Instr.bmcHb ⟨256, [], none, false, false⟩).wf = false
    ∧ (Instr.kcpReset ⟨256, [], none, false, false⟩).wf = false ∧ (Instr.w0ThClear ⟨256, [], none, false, false⟩).wf = false
    ∧ (Instr.w0McClear ⟨256, [], none, false, false⟩).wf = false ∧ (Instr.notifyMask ⟨256, [], none, false, false⟩).wf = false := by decide
theorem wf_good : (Instr.sqTail 63 7 0).wf = true ∧ (Instr.uLinkUp 1 1 63 36).wf = true ∧ (Instr.scalarAlu 1087 7 .add).wf = true := by
  decide

/-! ### States that meet the hypotheses of the statements -/

/-- O1, O2: a command waits; a tick with and without a carry of POWERED_S, and no tick. -/
theorem wit_stepAndTick : { up with pending := [.rootOk] }.pending = [.rootOk] ∧ up.pending = [] ∧ up.crd.rootOk = true
    ∧ up.slog.poweredRem + 1 < 1000000
    ∧ 1000000 ≤ { up with slog := { up.slog with poweredRem := 999999 } }.slog.poweredRem + 1
    ∧ State.reset.pending = [] ∧ State.reset.crd.rootOk = false ∧ State.reset.crd.fallback = false := by decide

/-- O5: a step answers a next state. -/
theorem wit_stepAnswers : ∃ t, step up = .next t := ⟨_, rfl⟩

/-- O8: a command in flight on a pair whose completion writes work, at slot 3 of 4. -/
theorem wit_completion : findCmd (holding up (cmdOf 0 0 [])) 5 = some (cmdOf 0 0 []) ∧ (cmdOf 0 0 []).tenant < 64
    ∧ (cmdOf 0 0 []).qp < 8 ∧ (getQp (holding up (cmdOf 0 0 [])) 0 0).cqFail = false := by decide

/-- O9: NOP, ECHO and an OK_NOOP that start now. -/
theorem wit_nopEcho : startsNow (holding up (cmdOf 0 0 [])) 5 0x00 none (cmdOf 0 0 []) = true
    ∧ startsNow (holding up (cmdOf 3 1 [1, 2])) 5 0x01 none (cmdOf 3 1 [1, 2]) = true
    ∧ (getQp (holding up (cmdOf 3 1 [1, 2])) 3 0).cqFail = false
    ∧ noopNow (holding up { cmdOf 0 0x71 [] with noop := true }) 5 0x71 none { cmdOf 0 0x71 [] with noop := true } = true
    ∧ noopNow (holding up { cmdOf 0 0x70 [1] with noop := true }) 5 0x70 (some 1) { cmdOf 0 0x70 [1] with noop := true } = true := by
  (try dsimp only); and_intros <;> decide

/-- A state with a pair of the PF. -/
def paired (p : Qp) : State := setQp up 0 7 p

/-- O10: the last tail of a ring, one past it, a disabled pair; heads up to the tail and one beyond; EN on a pair that is not running,
with good and bad sizes, and on one that still runs; a pair of a tenant in reset. -/
theorem wit_queueTails :
    let e : Qp := { en := true, running := true, sqEntries := 4096, cqEntries := 4, cqTail := 3 }
    hostMay (paired e) 0 = true ∧ (getTen (paired e) 0).reset = none ∧ (getQp (paired e) 0 7) = e
    ∧ (8191#32).toNat % 4096 < e.sqEntries ∧ ({ e with sqEntries := 16 } : Qp).sqEntries ≤ (16#32).toNat % 4096
    ∧ (getQp (paired {}) 0 7).en = false ∧ (getQp (paired {}) 0 7).running = false
    ∧ (getTen (modTen (paired e) 0 (fun x => { x with reset := some { causes := 1, issuer := 0xFF, start := 0, cmds := [] } })) 0).reset
      ≠ none
    ∧ ((3 + 4 - 0) % 4 ≤ (e.cqTail + e.cqEntries - e.cqHead) % e.cqEntries ∧ e.cqEntries ≤ (4#32).toNat % 4096)
    ∧ (getQp (paired { e with cqTail := 2 }) 0 7).cqTail < 3
    ∧ ringSizeOk 4096 = true ∧ ringSizeOk 16 = true ∧ ringSizeOk 0 = false ∧ (1#32).getLsbD 0 = true ∧ bf 0x31#32 5 4 = 3
    ∧ (getQp (paired { running := true }) 0 7).en = false := by (try dsimp only); and_intros <;> decide

/-- O10: rounds that accept, and each reason to accept nothing. -/
theorem wit_rounds : up.crd.phase = .running ∧ up.crd.fwUp = true ∧ up.qc.cmds.length < 4096 ∧ up.pow.inputLost = false
    ∧ up.boot.drainUntil = none ∧ State.reset.crd.phase ≠ .running
    ∧ acceptCheck up { cmdOf 0 0 [] with seq := 0 } = .wait
    ∧ acceptCheck up { cmdOf 0 0x71 [] with seq := 0, cls := 2 } = .noop := by (try dsimp only); and_intros <;> decide

/-- O11: heartbeats at and before their times, a deadline past and to come, an entry to fetch, and a running pair. -/
theorem wit_lapses :
    let s (h b : Nat) : State := { up with qc := { up.qc with hostBeat := some h, bmcBeat := some b } }
    (s 18000000 10000000).qc.hostBeat = some 18000000 ∧ 18000000 + 2000000 ≤ (s 18000000 10000000).tick
    ∧ (s 18000001 0).tick < 18000001 + 2000000 ∧ 10000000 + 10000000 ≤ (s 18000000 10000000).tick
    ∧ (let c := { cmdOf 0 0 [] with raw := [0, 0, 0, 0, 0x20, 0x4E, 0, 0] ++ List.replicate 56 0 }
       findCmd (holding { up with tick := 20000001 } c) 5 = some c ∧ c.deadline ≠ 0 ∧ c.acc + c.deadline * 1000 < 20000001
       ∧ 19999999 < c.acc + c.deadline * 1000)
    ∧ (let q : State := paired { en := true, running := true, sqEntries := 4, cqEntries := 4, sqTail := 1 }
       mayAccept q = true ∧ pairWaits q 0 7 = true ∧ slotFree q 0 7 = true ∧ (getQp q 0 7).running = true) := by (try dsimp only); and_intros <;> decide

/-- O12: TENANT_RESET that starts, resets to come and in progress, of T64 too. -/
theorem wit_tenantResets :
    let c := cmdOf 0 0x7F [7]
    startsNow (holding up c) 5 0x7F none c = true ∧ up.links.u.l0 = true
    ∧ fnEnabled { up with qc := { up.qc with vfs := 63 } } 63 = true ∧ (getTen up 64).reset = none
    ∧ (getTen (modTen up 64 (fun x => { x with reset := some ⟨1, 0xFF, 0, []⟩ })) 64).reset = some ⟨1, 0xFF, 0, []⟩
    ∧ up.crd.fwUp = true := by (try dsimp only); and_intros <;> decide

/-- O13: TEST_EN high and low. -/
theorem wit_testAccessPort : { up.crd with testEn := true }.testEn = true ∧ up.crd.testEn = false := by (try dsimp only); and_intros <;> decide

/-- O14: each edge of the power-on sequence, and good and bad trim passes. -/
theorem wit_powerOn :
    let s (c : Crd) : State := { State.reset with crd := c }
    (s {}).crd.porN = false ∧ up.crd.porN = true
    ∧ ((s { porN := true, supplyOk := true }).crd.phase = .por ∧ (s { porN := true }).crd.supplyOk = false)
    ∧ (s { phase := .qualifying }).crd.rootOk = false
    ∧ ((s { phase := .locking, rootOk := true }).crd.rootOk = true ∧ (s { phase := .locking, rootOk := true }).crd.pllLock = false)
    ∧ ((s { phase := .trim }).crd.fallback = false ∧ (s { phase := .trim }).crd.secondPass = false ∧ trimGood [] 36 true = false)
    ∧ (s { phase := .trim, secondPass := true }).crd.secondPass = true ∧ up.crd.phase ≠ .trim := by (try dsimp only); and_intros <;> decide

/-- O14: a pass of 512 words whose last is the CRC of the others. -/
theorem wit_trimGood : ∃ ws : List Word, ws.length = 512
    ∧ ws.getD 511 0 = crc32 ((ws.take 511).flatMap (fun w => leBytes 4 w.toNat)) := by
  obtain ⟨xs, h⟩ : ∃ xs : List Word, xs.length = 511 := ⟨List.replicate 511 0, List.length_replicate ..⟩
  refine ⟨xs ++ [crc32 (xs.flatMap (fun w => leBytes 4 w.toNat))], by simp [h], ?_⟩
  rw [List.take_append_of_le_length (by omega), List.take_of_length_le (by omega), List.getD_eq_getElem?_getD,
    List.getElem?_append_right (by omega)]
  simp [h]

/-- A word of RESET_CTRL. -/
def rstWord (v : Nat) : Word := BitVec.ofNat 32 (0xC5 + v)

/-- O15: the causes of a warm reset and of a Marl reset, in clock fallback too. -/
theorem wit_warmMarl :
    let f : State := { up with crd := { up.crd with fallback := true, warmWaiting := true, rootSince := 19990000 } }
    up.crd.phase = .running ∧ up.crd.fallback = false ∧ up.crd.perstN = true ∧ up.links.u.l0 = true ∧ hostMay up 0 = true
    ∧ bf (rstWord 0x100) 7 0 = 0xC5 ∧ (rstWord 0x100).getLsbD 8 = true ∧ (rstWord 0x200).getLsbD 8 = false
    ∧ (rstWord 0x200).getLsbD 9 = true ∧ up.crd.warmWaiting = false ∧ f.crd.fallback = true ∧ f.crd.warmWaiting = true
    ∧ f.crd.rootOk = true ∧ f.crd.rootSince + 10000 ≤ f.tick ∧ f.crd.pllLock = true
    ∧ { f with tick := 19999999 }.tick < f.crd.rootSince + 10000 ∧ bf (0#32) 7 0 ≠ 0xC5 := by (try dsimp only); and_intros <;> decide

/-- A state with domains changed. -/
def doms (ds : List (Nat × Dom)) : State := ds.foldl (fun s x => setDom s x.1 x.2) up
/-- A domain that is ON. -/
def isOn : Dom := { cur := .on, req := .on, target := .on }

/-- O16: each refusal of DOM_GO in order, and a reset of a bed and of a spoke domain. -/
theorem wit_domGo :
    let w (d : Nat) : Word := rstWord (0x1000000 + 0x10000 * d)
    (bf (w 91) 22 16 = 91 ∧ bf (w 92) 22 16 = 92 ∧ (w 91).getLsbD 24 = true ∧ (w 91).getLsbD 8 = false ∧ (w 91).getLsbD 9 = false)
    ∧ domBusy (doms [(28, { isOn with phase := .leg })]) 28 = true
    ∧ domHeld (setAcc (doms [(6, isOn)]) 0 { st := .idle }) 6 .gated true = true
    ∧ (domBusy up 28 = false ∧ domHeld up 28 .gated true = false ∧ domUsed up 28 = false ∧ (getDom up 28).cur ≠ .on)
    ∧ (let s := modBed (doms [(28, isOn)]) 0 (fun b => { b with holder := some 1 })
       domBusy s 28 = false ∧ domHeld s 28 .gated true = false ∧ domUsed s 28 = true)
    ∧ (let s := doms [(91, isOn)]
       domBusy s 91 = false ∧ domHeld s 91 .gated true = false ∧ domUsed s 91 = false ∧ (getDom s 91).cur = .on) := by (try dsimp only); and_intros <;> decide

/-- O17: a switch of GCLK to come, and clock loss in and out of fallback. -/
theorem wit_clocks : hostMay up 0 = true ∧ { up.crd with switching := true }.switching = true ∧ up.crd.fallback = false
    ∧ up.crd.phase = .running ∧ { up.crd with fallback := true }.fallback = true ∧ State.reset.crd.phase ≠ .trim
    ∧ State.reset.crd.phase ≠ .running := by (try dsimp only); and_intros <;> decide

/-- O18: DOMAIN_STATE of part of the HBM group, of all of it and of none; the refusals, steps and ends of transitions. -/
theorem wit_domains :
    let c (f n : Nat) := cmdOf 0 0x40 [BitVec.ofNat 8 f, BitVec.ofNat 8 n, 3]
    (startsNow (holding up (c 14 5)) 5 0x40 none (c 14 5) = true
      ∧ (((List.range 5).map (fun i => 14 + i)).filter isHbm).length < 6)
    ∧ (startsNow (holding up (c 14 6)) 5 0x40 none (c 14 6) = true ∧ 6 ≤ (((List.range 6).map (fun i => 14 + i)).filter isHbm).length)
    ∧ (startsNow (holding up (c 28 64)) 5 0x40 none (c 28 64) = true ∧ ((List.range 64).map (fun i => 28 + i)).filter isHbm = [])
    ∧ ((unitOf 0).any (domBusy up) = false ∧ domErr up 0 .gated ≠ 0)
    ∧ ((unitOf 28).any (domBusy up) = false ∧ domErr up 28 .off = 0 ∧ (getDom up 28).cur = .off)
    ∧ (hostMay up 0 = true ∧ domBusy up 91 = false ∧ domErr up 91 .off = 0 ∧ domErr up 4 .gated = domErr up 4 .gated
      ∧ isHbm 14 = true ∧ isHbm 19 = true ∧ domErr up 91 .on = 0 ∧ (getDom up 91).cur ≠ .on)
    ∧ domBusy (doms [(91, { isOn with phase := .resetting })]) 91 = true
    ∧ (let s := doms [(28, { isOn with phase := .leg, target := .gated })]
       (getDom s 28).phase = .leg ∧ (getDom s 28).target = .gated ∧ (getDom s 28).cur = .on)
    ∧ (let s := doms [(28, { isOn with cur := .off, phase := .switching, since := 20000000 - switchUs 28 })]
       (getDom s 28).phase = .switching ∧ (getDom s 28).since + switchUs 28 ≤ s.tick ∧ s.domSeqs = []
       ∧ { s with tick := 19999999 }.tick < (getDom s 28).since + switchUs 28)
    ∧ (getDom (doms [(91, { isOn with phase := .resetting })]) 91).phase = .resetting := by (try dsimp only); and_intros <;> decide

/-! ### Images -/

theorem leAt_mid (a b c : List Byte) (o n : Nat) (ho : o = a.length) (hn : n = b.length) : leAt (a ++ (b ++ c)) o n = ofLe b := by
  subst ho hn; simp [leAt]

theorem leAt_left (a c : List Byte) (o n : Nat) (h : o + n ≤ a.length) : leAt (a ++ c) o n = leAt a o n := by
  simp only [leAt]
  rw [List.drop_append_of_le_length (by omega), List.take_append_of_le_length (by simp; omega)]

theorem ofLe_leBytes (n v : Nat) (h : v < 256 ^ n) : ofLe (leBytes n v) = v := by
  induction n generalizing v with
  | zero => simp at h; subst h; rfl
  | succ n ih =>
    simp only [leBytes, ofLe]
    rw [ih _ (by rw [pow_succ] at h; omega)]
    simp only [BitVec.toNat_ofNat]; omega

theorem leBytes_length (n v : Nat) : (leBytes n v).length = n := by
  induction n generalizing v with
  | zero => rfl
  | succ n ih => simp [leBytes, ih]

theorem ofLe_crc (l : List Byte) : ofLe (leBytes 4 (crc32 l).toNat) = (crc32 l).toNat :=
  ofLe_leBytes _ _ (crc32 l).isLt

/-- The header of a boot image up to its digest: magic, version, length 128, entry 0. -/
def bootHead : List Byte := leBytes 4 0x4E495844 ++ leBytes 4 0 ++ leBytes 8 1 ++ leBytes 4 128 ++ leBytes 4 0
/-- The header of a payload up to HDR_CRC. -/
def bootBody (p : List Byte) : List Byte := bootHead ++ (digestBytes (sha384 p) ++ List.replicate 4020 0)
/-- The image of a payload. -/
def bootImg (p : List Byte) : List Byte := bootBody p ++ (leBytes 4 (crc32 (bootBody p)).toNat ++ p)

theorem bootBody_length (p : List Byte) : (bootBody p).length = 0xFFC := by
  simp only [bootBody, List.length_append, List.length_replicate, digestBytes, List.length_reverse, leBytes_length]; rfl

theorem bootImg_header (p : List Byte) (o n : Nat) (h : o + n ≤ 24) : leAt (bootImg p) o n = leAt bootHead o n := by
  have h1 : bootHead.length = 24 := rfl
  rw [bootImg, leAt_left _ _ _ _ (by rw [bootBody_length]; omega), bootBody, leAt_left _ _ _ _ (by omega)]

theorem leAt_take (l : List Byte) (k o n : Nat) (h : o + n ≤ k) : leAt (l.take k) o n = leAt l o n := by
  simp only [leAt, List.drop_take, List.take_take]; rw [Nat.min_eq_left (by omega)]

/-- A payload of 128 bytes with its header is a well-formed image, whatever SHA-384 is. -/
theorem wit_bootImage (p : List Byte) (hp : p.length = 128) : bootImageOk (bootImg p) = true ∧ (bootImg p).length = 4096 + 128
    ∧ leAt (bootImg p) 0x10 4 = 128 := by
  have hl : (bootImg p).length = 4096 + 128 := by
    simp only [bootImg, List.length_append, bootBody_length, leBytes_length, hp]
  have hn : leAt (bootImg p) 0x10 4 = 128 := by rw [bootImg_header _ _ _ (by omega)]; decide
  have hd : (bootImg p).drop 4096 = p := by
    rw [bootImg, ← List.append_assoc, List.drop_left']
    simp [bootBody_length, leBytes_length]
  have ht : (bootImg p).take 0xFFC = bootBody p := by rw [bootImg, List.take_left' (bootBody_length p)]
  refine ⟨?_, hl, hn⟩
  simp only [bootImageOk, bootHeaderOk, hn, hd, Bool.and_eq_true, decide_eq_true_eq]
  simp only [leAt_take _ 4096 _ _ (show 0 + 4 ≤ 4096 by omega), leAt_take _ 4096 _ _ (show 0xFFC + 4 ≤ 4096 by omega),
    leAt_take _ 4096 _ _ (show 0x10 + 4 ≤ 4096 by omega), leAt_take _ 4096 _ _ (show 0x14 + 4 ≤ 4096 by omega), hn, List.take_take,
    List.length_take, hl, show min 0xFFC 4096 = 0xFFC from rfl, ht]
  rw [bootImg_header _ 0 4 (by omega), bootImg_header _ 0x14 4 (by omega)]
  have hc : leAt (bootImg p) 0xFFC 4 = (crc32 (bootBody p)).toNat := by
    rw [bootImg, leAt_mid _ _ _ _ _ (bootBody_length p).symm (leBytes_length 4 _).symm, ofLe_crc]
  rw [hc]
  have hs : ((bootImg p).drop 0x18).take 48 = digestBytes (sha384 p) := by
    rw [bootImg, bootBody, List.append_assoc, List.drop_left' (by rfl), List.append_assoc, List.take_left']
    simp only [digestBytes, List.length_reverse, leBytes_length]
  rw [hs, List.take_of_length_le (by omega)]
  refine ⟨⟨⟨⟨⟨⟨⟨?_, ?_⟩, ?_⟩, ?_⟩, ?_⟩, ?_⟩, ?_⟩, rfl⟩ <;> first | decide | rfl

theorem readN_split {α : Type} (d : Nat → α) (m : KMap α) (a n k : Nat) :
    KMap.readN d m a (n + k) = KMap.readN d m a n ++ KMap.readN d m (a + n) k := by
  induction n generalizing a with
  | zero => simp [KMap.readN]
  | succ n ih =>
    rw [show n + 1 + k = (n + k) + 1 by omega]
    simp only [KMap.readN, List.cons_append]
    rw [ih, show a + 1 + n = a + (n + 1) by omega]

/-- An image programmed into a slot is that slot's image. -/
theorem wit_slots (p : List Byte) (hp : p.length = 128) (k : Nat) :
    slotImage (flashProg State.reset (slotBase k) (bootImg p)) k = bootImg p := by
  obtain ⟨-, hl, hn⟩ := wit_bootImage p hp
  have hr := flashRead_flashProg State.reset (slotBase k) (bootImg p)
  rw [hl] at hr
  have h1 : flashRead (flashProg State.reset (slotBase k) (bootImg p)) (slotBase k) 4096
      ++ flashRead (flashProg State.reset (slotBase k) (bootImg p)) (slotBase k + 4096) 128 = bootImg p := by
    simp only [flashRead]; rw [← readN_split]; exact hr
  have hlen : (flashRead (flashProg State.reset (slotBase k) (bootImg p)) (slotBase k) 4096).length = 4096 := by
    simp [flashRead]
  have h2 : flashRead (flashProg State.reset (slotBase k) (bootImg p)) (slotBase k) 4096 = (bootImg p).take 4096 := by
    conv_rhs => rw [← h1]
    rw [List.take_left' hlen]
  simp only [slotImage, payloadLen, h2]
  rw [leAt_take _ 4096 _ _ (by omega), hn, ← h2]
  exact h1

/-- An image of 256 bytes of code: BRK and zeros. -/
def kernelBody : List Byte := leBytes 4 0xF1900000 ++ List.replicate 252 0
/-- Its header up to BODY_CRC. -/
def kernelTop : List Byte :=
  leBytes 4 0x3146524C ++ leBytes 2 1 ++ [1, 0] ++ leBytes 4 256 ++ leBytes 4 0 ++ leBytes 4 0 ++ List.replicate 20 0
  ++ leBytes 4 320 ++ List.replicate 12 0
/-- Its header up to HDR_CRC. -/
def kernelHead : List Byte := kernelTop ++ leBytes 4 (crc32 kernelBody).toNat
/-- A good kernel image. -/
def kernelImage : List Byte := kernelHead ++ (leBytes 4 (crc32 kernelHead).toNat ++ kernelBody)

theorem kernelImage_left (o n : Nat) (h : o + n ≤ 56) : leAt kernelImage o n = leAt kernelTop o n := by
  have h1 : kernelTop.length = 56 := rfl
  have h2 : kernelHead.length = 60 := by rw [kernelHead, List.length_append, leBytes_length]; rfl
  rw [kernelImage, leAt_left _ _ _ _ (by omega), kernelHead, leAt_left _ _ _ _ (by omega)]

theorem kernelImage_zero (o n : Nat) (h : o + n ≤ 56) : zeroAt kernelImage o n = zeroAt kernelTop o n := by
  have h1 : kernelTop.length = 56 := rfl
  simp only [zeroAt, kernelImage, kernelHead, List.append_assoc]
  rw [List.drop_append_of_le_length (by omega), List.take_append_of_le_length (by simp; omega)]

/-- O27: a good image, a bad header, a bad body. -/
theorem wit_kernelImages : imgHeaderOk kernelImage 320 = true ∧ imgBodyOk kernelImage = true ∧ imgHeaderOk [] 0 = false := by
  have h2 : kernelHead.length = 60 := by rw [kernelHead, List.length_append, leBytes_length]; rfl
  have h3 : kernelBody.length = 256 := by rw [kernelBody, List.length_append, leBytes_length, List.length_replicate]
  have h4 : kernelImage.length = 320 := by
    simp only [kernelImage, List.length_append, leBytes_length, h2, h3]
  have ht : kernelImage.take 0x3C = kernelHead := by rw [kernelImage, List.take_left' h2]
  have hd : kernelImage.drop 64 = kernelBody := by
    rw [kernelImage, ← List.append_assoc, List.drop_left']
    simp [h2, leBytes_length]
  have hc : leAt kernelImage 0x3C 4 = (crc32 kernelHead).toNat := by
    rw [kernelImage, leAt_mid _ _ _ _ _ h2.symm (leBytes_length 4 _).symm, ofLe_crc]
  have hb : leAt kernelImage 0x38 4 = (crc32 kernelBody).toNat := by
    rw [kernelImage, kernelHead, List.append_assoc, leAt_mid kernelTop _ _ 0x38 _ rfl (leBytes_length 4 _).symm, ofLe_crc]
  refine ⟨?_, ?_, by decide⟩
  · simp only [imgHeaderOk, imgThreads, imgCode, imgRodata, imgEntry, hc, ht, h4]
    simp only [show List.range 8 = [0, 1, 2, 3, 4, 5, 6, 7] from rfl, List.all_cons, List.all_nil]
    simp only [kernelImage_left _ _ (show 0 + 4 ≤ 56 by omega), kernelImage_left _ _ (show 4 + 2 ≤ 56 by omega),
      kernelImage_left _ _ (show 6 + 1 ≤ 56 by omega), kernelImage_left _ _ (show 8 + 4 ≤ 56 by omega),
      kernelImage_left _ _ (show 12 + 4 ≤ 56 by omega), kernelImage_left _ _ (show 0x10 + 4 ≤ 56 by omega),
      kernelImage_left _ _ (show 0x28 + 4 ≤ 56 by omega), kernelImage_left _ _ (show 0x18 + 2 * 0 + 2 ≤ 56 by omega),
      kernelImage_left _ _ (show 0x18 + 2 * 1 + 2 ≤ 56 by omega), kernelImage_left _ _ (show 0x18 + 2 * 2 + 2 ≤ 56 by omega),
      kernelImage_left _ _ (show 0x18 + 2 * 3 + 2 ≤ 56 by omega), kernelImage_left _ _ (show 0x18 + 2 * 4 + 2 ≤ 56 by omega),
      kernelImage_left _ _ (show 0x18 + 2 * 5 + 2 ≤ 56 by omega), kernelImage_left _ _ (show 0x18 + 2 * 6 + 2 ≤ 56 by omega),
      kernelImage_left _ _ (show 0x18 + 2 * 7 + 2 ≤ 56 by omega), kernelImage_zero _ _ (show 7 + 1 ≤ 56 by omega),
      kernelImage_zero _ _ (show 0x16 + 2 ≤ 56 by omega), kernelImage_zero _ _ (show 0x2C + 12 ≤ 56 by omega)]
    decide
  · simp only [imgBodyOk, hb, hd, imgCode, imgRodata, kernelImage_left _ _ (show 8 + 4 ≤ 56 by omega),
      kernelImage_left _ _ (show 12 + 4 ≤ 56 by omega)]
    rw [List.take_of_length_le (by rw [h3]; decide)]
    simp

/-- O27: an empty body with another BODY_CRC is bad. -/
theorem wit_badBody : imgBodyOk (List.replicate 56 0 ++ [1]) = false := by decide

/-- O19: each form of a register write: outside the BAR, misaligned, on the page, short, with bytes off, the halves of a 64-bit
register, a 32-bit register of the PF and of a VF, and both words at once. -/
theorem wit_registerWrites :
    let v : State := { up with qc := { up.qc with vfs := 1 } }
    hostMay up 0 = true ∧ hostMay v 1 = true ∧ taken 0 0xC00000 4 = false ∧ taken 0 0xBFFFFC 4 = true ∧ taken 0 2 4 = false
    ∧ (onPage 0 0xFFC = true ∧ onPage 0 0x1000 = false ∧ onPage 1 0x1000 = true)
    ∧ (taken 0 0x10000 2 = true ∧ onPage 0 0x10000 = false)
    ∧ (wide 0 0x200008 = true ∧ blockOff up (blockOf 0x200008) = false ∧ wide 0 0x20000C = false)
    ∧ (wide 0 0x20004 = false ∧ ¬ (0x20004 % 8 = 4 ∧ wide 0 (0x20004 - 4) = true))
    ∧ (taken 1 0 4 = true ∧ onPage 1 0 = false ∧ wide 1 0 = false ∧ ¬ (0 % 8 = 4 ∧ wide 1 (0 - 4) = true))
    ∧ taken 0 0x200008 8 = true := by (try dsimp only); and_intros <;> decide

/-- O20: a low word and its high word; a latched high word. -/
theorem wit_reads : taken 0 0x900020 4 = true ∧ wideRead 0 0x900020 = true ∧ taken 0 0x900024 4 = true
    ∧ wideRead 0 0x900024 = false ∧ getLatch (setLatch up 0 0x900020 (some 7)) 0 0x900020 = some 7 := by
  (try dsimp only); and_intros <;> decide

/-- O21: page reads that fit and do not, the due and the early publish, Daxrin stale. -/
theorem wit_page : pageTakes 0xFC0 64 = true ∧ pageTakes 1 3 = true ∧ pageTakes 2 3 = false ∧ pageTakes 0 5 = false
    ∧ up.crd.fwUp = true ∧ up.crd.fallback = false ∧ up.hz.lastPub + 100000 ≤ up.tick
    ∧ { up.hz with lastPub := 19990000 }.lastPub + 10000 ≤ up.tick ∧ up.tick < { up.hz with lastPub := 19990001 }.lastPub + 10000
    ∧ up.tick < { up.hz with lastPub := 19990001 }.lastPub + 100000 := by (try dsimp only); and_intros <;> decide

/-- BAR2 enabled at a base, with the domains of Loam ON or not. -/
def bar2 (hi lo : Nat) (ds : List (Nat × Dom)) : State :=
  cfgSet (cfgSet (cfgSet (doms ds) 0x10108 1) 0x10100 (BitVec.ofNat 32 lo)) 0x10104 (BitVec.ofNat 32 hi)

/-- O22: the last bytes of the BAR in Loam with its slice ON and OFF, HBM with and without a bad line, and nothing there. -/
theorem wit_bar2 :
    let l := bar2 2 0 [(20, isOn)]
    let h := bar2 0x40 0 []
    let x : State := { h with strata := { h.strata with badLines := [0x4000000000] } }
    (0xFFFF8 + 8 ≤ l.regs.bar2Size ∧ bar2Takes l 0 8 = true ∧ bar2On l (bar2Addr l 0) 8 = true ∧ badLineIn l (bar2Addr l 0) 8 = false)
    ∧ (bar2Takes (bar2 2 0 []) 0 8 = true ∧ bar2On (bar2 2 0 []) (bar2Addr (bar2 2 0 []) 0) 8 = false)
    ∧ (bar2Takes h 0 8 = true ∧ bar2On h (bar2Addr h 0) 8 = true ∧ isLoam (bar2Addr h 0) = false)
    ∧ badLineIn x (bar2Addr x 0) 8 = true ∧ bar2Takes up 0 8 = false := by (try dsimp only); and_intros <;> decide

/-- A state whose loader is to run, with a pending descriptor. -/
def loading (d : BootDesc) (r : Option RunRecord) (host : Bool) : State :=
  { up with crd := { up.crd with bootHost := host, fwUp := false },
            boot := { up.boot with loaderRunning := true, pending := some d, retained := r, trialArmed := true } }

/-- O23: a loader to run, with each descriptor, retained image and strap. -/
theorem wit_loader :
    let d : BootDesc := ⟨1, 0, false, 0, 0⟩
    let r : RunRecord := ⟨(sha384 []).toNat, 0, 0, 0, 0, 0, 0⟩
    (loading d none false).crd.phase = .running ∧ (loading d none false).boot.loaderRunning = true
    ∧ (loading d none false).boot.started = false ∧ (loading d none false).boot.waitHost = false
    ∧ (loading d none true).boot.pending.isSome = true ∧ (descNow (loading d none true)).trial = false
    ∧ (loading d none true).boot.retained = none ∧ (loading d none true).crd.bootHost = true
    ∧ (loading d (some r) false).boot.retained = some r
    ∧ (sha384 ((loading d (some r) false).boot.code.take r.len)).toNat = r.digest
    ∧ (sha384 ((loading d none false).boot.code.take 0)).toNat ≠ { r with digest := r.digest + 1 }.digest
    ∧ (descNow (loading ⟨1, 0, true, 1, 0⟩ none false)).trial = true
    ∧ (loading ⟨1, 0, true, 1, 0⟩ none false).boot.trialArmed = true ∧ (loading d (some r) false).boot.codeBad = false := by
  refine ⟨rfl, rfl, rfl, rfl, rfl, rfl, rfl, rfl, rfl, rfl, ?_, rfl, rfl, rfl⟩
  simp [loading, up, State.reset]

/-- O24: BOOT_RELEASE without its key, with it and a waiting loader, and an image in HBM; KEY_LOCK bits; FW_UP to come; a descriptor
to write. -/
theorem wit_bootRelease :
    let w : State := cfgSet (cfgSet { up with boot := { up.boot with waitHost := true } } 0x20000C 0x40) 0x200010 4224
    hostMay w 0 = true ∧ bf 0#32 7 0 ≠ 0x5A ∧ up.boot.waitHost = false ∧ bf 0x5A#32 7 0 = 0x5A ∧ w.boot.waitHost = true
    ∧ Config.hbmBase ≤ cfgD w 0x200008
    ∧ cfgD w 0x200008 + cfgF w 0x200010 22 0 ≤ Config.hbmBase + Config.hbmBytes ∧ domOn w 14 = true
    ∧ (1#32).getLsbD 0 = true ∧ (2#32).getLsbD 0 = false
    ∧ (let s : State := { up with crd := { up.crd with fwUp := false }, boot := { up.boot with started := true } }
       s.crd.phase = .running ∧ s.boot.started = true ∧ s.crd.fwUp = false)
    ∧ (let s : State := { up with therm := { up.therm with flashInhibit := false },
                                  boot := { up.boot with pending := some ⟨1, 0, false, 0, 0⟩ } }
       s.boot.pending = some ⟨1, 0, false, 0, 0⟩ ∧ s.crd.fwUp = true ∧ flashOpen s = true)
    ∧ up.boot.pending = none := by (try dsimp only); and_intros <;> decide

/-- O25: FW_STAGE, FW_COMMIT_TRIAL and FW_CONFIRM that start, in a trial and outside one; drains and watchdogs due and not. -/
theorem wit_stage :
    let o (s : State) : State := { s with therm := { s.therm with flashInhibit := false } }
    let c (op : Nat) := cmdOf 0 op [60]
    startsNow (holding (o up) (c 0x50)) 5 0x50 none (c 0x50) = true
    ∧ (let u := markStarted (holding (o up) (c 0x50)) 5
       (descNow u).trial = false ∧ u.boot.pending = none ∧ flashOpen u = true ∧ bootImageOk [] = false
       ∧ sealHolds u (sealWho 5) = false ∧ sealFree u = true ∧ u.sealEng.waiting.any (fun r => r.who = sealWho 5) = false
       ∧ (let b : SealReq := ⟨20, 1, false⟩
          sealFree { u with sealEng := { u.sealEng with ctx0 := some b, ctx1 := some b } } = false))
    ∧ (descNow (loading ⟨1, 0, true, 1, 0⟩ none false)).trial = true
    ∧ startsNow (holding (o up) (c 0x51)) 5 0x51 none (c 0x51) = true
    ∧ (startsNow (holding (o up) (c 0x52)) 5 0x52 none (c 0x52) = true ∧ trialOver (holding (o up) (c 0x52)) = false
      ∧ (markStarted (holding (o up) (c 0x52)) 5).boot.trialWindow = 0)
    ∧ (let s := holding { o up with boot := { up.boot with trialWindow := 60, trialEnd := some 20000001 } } (c 0x52)
       startsNow s 5 0x52 none (c 0x52) = true ∧ trialOver s = false ∧ (markStarted s 5).crd.fwUp = true
       ∧ (markStarted s 5).boot.trialWindow ≠ 0 ∧ flashOpen (markStarted s 5) = true ∧ s.tick < 20000001)
    ∧ ({ up.boot with drainUntil := some 20000000 }.drainUntil = some 20000000 ∧ 20000000 ≤ up.tick ∧ up.qc.cmds = [])
    ∧ ({ up.boot with trialEnd := some 20000000 }.trialEnd = some 20000000) := by (try dsimp only); and_intros <;> decide

/-- O26: seal contexts with segments to go and none waiting, with one waiting, empty, and at the last segment; DOE ready. -/
theorem wit_seal :
    let s (x y : Option SealReq) (w : List SealReq) : State :=
      { up with sealEng := { up.sealEng with ctx0 := x, ctx1 := y, waiting := w, bootReserved := false, doeBusy := false } }
    (s (some ⟨1, 2, false⟩) none []).sealEng.ctx0 = some ⟨1, 2, false⟩ ∧ (s none (some ⟨1, 2, false⟩) []).sealEng.ctx1 = some ⟨1, 2, false⟩
    ∧ (s (some ⟨1, 2, false⟩) (some ⟨2, 1, false⟩) [⟨3, 1, false⟩]).sealEng.waiting = [⟨3, 1, false⟩]
    ∧ (s (some ⟨1, 2, false⟩) (some ⟨2, 1, false⟩) [⟨3, 1, false⟩]).sealEng.bootReserved = false ∧ (s none none []).sealEng.ctx0 = none
    ∧ (s (some ⟨1, 1, false⟩) none []).sealEng.ctx0 = some ⟨1, 1, false⟩ ∧ (s none none []).sealEng.doeBusy = false ∧ up.links.u.l0 = true
    ∧ { up.boot with provisioned := true, keyLock := false }.provisioned = true ∧ up.boot.keyLock = true
    ∧ (measurement up 2).isSome = true ∧ (measurement up 15).isSome = true ∧ up.sealEng.doeBusy = true
    ∧ (measurementBlock up 2).isSome = true ∧ ({ up.sealEng with negotiated := 1 } : Seal).negotiated ≠ 0 ∧ up.sealEng.negotiated = 0
    ∧ (sealHolds (s none none []) spdmWho = false ∧ (s none none []).sealEng.waiting.any (fun r => r.who = spdmWho) = false
      ∧ sealFree (s none none []) = true)
    ∧ (sealHolds (s (some ⟨20, 1, false⟩) (some ⟨21, 1, false⟩) []) spdmWho = false
      ∧ sealFree (s (some ⟨20, 1, false⟩) (some ⟨21, 1, false⟩) []) = false) := by
  (try dsimp only); and_intros <;> first | decide | rfl

/-- A launch of slot 3 on bed 0. -/
def launchOf (items next : Nat) (todo : Option (List Nat)) : Launch :=
  { id := 9, cmd := some 4, tenant := 2, qp := 1, cmdId := 7, kslot := 3, image := [], beds := [0], items := items,
    args := 0, failmap := 0, todo := todo, next := next, seq := 1, start := 0 }

/-- Bed 0 ON in the host pool, with that launch on it. -/
def launched (items next : Nat) (todo : Option (List Nat)) : State :=
  let s := doms [(28, isOn)]
  let s := modBed s 0 (fun b => { b with inHost := true, holder := some 9 })
  let s := modGrain s 0 (fun g => { g with launch := some 9, codeEnd := 256, tenant := 2 })
  { s with garr := { s.garr with nextLaunch := 10, launches := [launchOf items next todo] } }

/-- O27: KERNEL_LOAD into a free slot and KERNEL_LAUNCH refused and started, and KERNEL_ABORT of no launch, of one over and of one that
runs. -/
theorem wit_kernels :
    let l := cmdOf 0 0x60 ([0, 0, 0, 0, 0, 0, 0, 0] ++ leBytes 8 0x1000 ++ leBytes 8 320)
    let k := cmdOf 2 0x61 ([3, 0, 1, 0] ++ leBytes 4 1)
    let a := cmdOf 2 0x62 [1, 0, 7, 0]
    let slotted (s : State) : State := setKslot s 3 ⟨2, []⟩
    (startsNow (holding up l) 5 0x60 none l = true ∧ domOn (holding up l) 4 = true
      ∧ slotRunning (markStarted (holding up l) 5) 0 = 0 ∧ (getKslot (markStarted (holding up l) 5) 0).owner = 255
      ∧ 320 ≤ imageFree (markStarted (holding up l) 5))
    ∧ (startsNow (holding up k) 5 0x61 none k = true ∧ up.therm.latch.getLsbD 8 = false
      ∧ (launchRefusal (markStarted (holding up k) 5) k).isSome = true)
    ∧ (let s := holding (slotted (modBed (doms [(28, isOn)]) 0 (fun b => { b with inHost := true }))) k
       startsNow s 5 0x61 none k = true ∧ launchRefusal (markStarted s 5) k = none)
    ∧ (startsNow (holding up a) 5 0x62 none a = true ∧ (markStarted (holding up a) 5).garr.launches = [])
    ∧ (let s := holding (launched 1 1 none) a
       startsNow s 5 0x62 none a = true ∧ s.garr.launches.all (fun x => launchOver (markStarted s 5) x) = true)
    ∧ (let s := holding (launched 2 1 none) a
       startsNow s 5 0x62 none a = true ∧ s.garr.launches.all (fun x => !launchOver (markStarted s 5) x) = true) := by
  (try dsimp only); and_intros <;> decide

/-- O27: items to give to a free grain, by count and by list, none left, no grain free; an item that is over, well and failed; a launch
that is over, with and without FAILMAP, and one that is not. -/
theorem wit_items :
    let run (f : Bool) : State := modGrain (launched 2 2 none) 0 (fun g => { g with item := some 1, itemFailed := f })
    ((findLaunch (launched 2 1 none) 9).isSome = true
      ∧ (findLaunch (launched 2 1 none) 9).all (fun x => decide (x.next < x.items ∧ x.todo = none ∧ x.aborted = false
        ∧ (usableIn (launched 2 1 none) x.beds).find? (grainFree (launched 2 1 none) x) = some 0)))
    ∧ (findLaunch (launched 2 1 (some [4])) 9).all (fun x => decide (x.todo = some [4])) = true
    ∧ (findLaunch (run false) 9).all (fun x => decide ((usableIn (run false) x.beds).find? (grainFree (run false) x) = none)) = true
    ∧ (findLaunch (launched 2 2 none) 9).all (fun x => decide (x.items ≤ x.next)) = true
    ∧ ((getGrain (run false) 0).item = some 1 ∧ (grainLaunch (run false) 0).isSome = true ∧ itemOver (run false) 0 = true
      ∧ (getGrain (run false) 0).itemFailed = false ∧ (getGrain (run true) 0).itemFailed = true)
    ∧ itemOver (setThread (run false) 0 7 { live := true }) 0 = false
    ∧ (findLaunch (launched 2 2 none) 9).all (fun x => launchOver (launched 2 2 none) x && decide (x.cmd = some 4 ∧ x.failmap = 0)) = true
    ∧ (findLaunch (run false) 9).all (fun x => !launchOver (run false) x) = true := by (try dsimp only); and_intros <;> decide

/-- O28: the watchdog due and not; beds without a failure; UNFENCE of index 16 and 17; a passed test with and without an absent
index. -/
theorem wit_failures :
    let s := launched 2 2 none
    let w (k : Nat) : State :=
      modGrain { s with garr := { s.garr with cycles16 := k } } 0 (fun g => { g with item := some 1, wdog := 1, itemStart := 0 })
    let f := modBed (doms [(28, isOn)]) 0 (fun b => { b with fencedMask := 0x10000 })
    domOn s (bedDom 0) = true ∧ (getGrain s 0).fenced = false ∧ watchdogDue (w 0x100000) 0 = true ∧ watchdogDue (w 0xFFFFF) 0 = false
    ∧ ((getBed s 0).fencedMask.getLsbD 0 = false ∧ (getBed s 0).failing = [] ∧ (getBed s 0).takeovers = [])
    ∧ (let q := modBed (setRemap s 15 ⟨16, false⟩) 0 (fun b => { b with takeovers := [⟨15, 16⟩] })
       domOn q (bedDom 0) = true ∧ (getBed q 0).fencedMask.getLsbD 16 = false ∧ (getBed q 0).failing = []
       ∧ (getBed q 0).takeovers = [⟨15, 16⟩] ∧ logicalOf q 16 = some 15)
    ∧ (bf 0x10#32 4 0 ≤ 16 ∧ 16 < bf 0x11#32 4 0 ∧ hostMay f 0 = true ∧ domOn f 4 = true ∧ domOn f (bedDom (bf 0x10#32 13 8)) = true
      ∧ (getBed f (bf 0x10#32 13 8)).fencedMask.getLsbD (bf 0x10#32 4 0) = true ∧ (getBed f 0).holder = none
      ∧ f.garr.unfencing = none)
    ∧ (List.range 16).find? (fun i => (getRemap (setRemap f 15 ⟨16, true⟩) (16 * (16 / 17) + i)).absent) = some 15
    ∧ (List.range 16).find? (fun i => (getRemap f (16 * (16 / 17) + i)).absent) = none := by
  (try dsimp only); and_intros <;> decide


/-! ### Grain threads -/

/-- A word of a class with its 5-bit fields D, A, B, C and its low 8 bits. -/
def insn (cls d a b c low : Nat) : Word :=
  BitVec.ofNat 32 (cls * 2 ^ 28 + d * 2 ^ 23 + a * 2 ^ 18 + b * 2 ^ 13 + c * 2 ^ 8 + low)
/-- A word of a memory class: D, A, OP4, the low 14 bits. -/
def memInsn (cls d a op low : Nat) : Word := BitVec.ofNat 32 (cls * 2 ^ 28 + d * 2 ^ 23 + a * 2 ^ 18 + op * 2 ^ 14 + low)
/-- A tile word: TOP, TILE, A, B, FMT. -/
def tileInsn (top tile a b fmt : Nat) : Word :=
  BitVec.ofNat 32 (9 * 2 ^ 28 + top * 2 ^ 24 + tile * 2 ^ 22 + a * 2 ^ 17 + b * 2 ^ 12 + fmt * 2 ^ 8)

/-- Bed 0 ON, its physical grain 0 running an item of 256 bytes of code, and a thread of it at 0xFC. -/
def threaded (f : Thread → Thread) : State :=
  setThread (modGrain (doms [(28, isOn)]) 0 (fun g => { g with item := some 1, codeEnd := 256, bedCount := 1 })) 0 3
    (f { live := true, pc := 0xFC })
/-- That thread with a word at its PC. -/
def atWord (w : Word) (f : Thread → Thread) : State := lsWrite (threaded f) 0 0xFC (leBytes 4 w.toNat)
/-- Registers 2, 4 and 6 of a thread. -/
def regs (x y z : Dword) (th : Thread) : Thread := setGpr (setGpr (setGpr th 2 x) 4 y) 6 z
/-- A thread's queued load of register 31. -/
def busy31 (th : Thread) : Thread := { th with loads := [⟨31, 7⟩] }

/-- O29: each form runs; shift amounts at 0 and 63, zero and the overflowing quotient. -/
theorem wit_scalar :
    let r := insn 0 1 2 3 4 0
    let i := insn 1 1 2 31 31 255
    (runsWord (atWord r busy31) 0 3 r = true ∧ kindOf r = .scalarR ∧ regsBusy (getThread (atWord r busy31) 0 3) (scalarRegs .add r) = false)
    ∧ (runsWord (atWord i busy31) 0 3 i = true ∧ kindOf i = .scalarI ∧ regsBusy (getThread (atWord i busy31) 0 3) (scalarRegs .addi i) = false)
    ∧ (scalarImm .add = false ∧ scalarImm .addi = true ∧ ScalarOp.add ≠ .illegal)
    ∧ ((63#64).toNat < 64 ∧ (0#64).toNat < 64 ∧ ¬ (64#64).toNat < 64 ∧ (1#64) ≠ 0)
    ∧ ¬ (BitVec.intMin 64 = BitVec.intMin 64 ∧ (1#64) = BitVec.allOnes 64) := by (try dsimp only); and_intros <;> decide

/-- O30: JAL, JALR, BEQ taken and not; threads that may not run; a PC at the last word and past it; a word of class 0xF. -/
theorem wit_branches :
    let w (c : Nat) : Word := BitVec.ofNat 32 (2 * 2 ^ 28 + c * 2 ^ 25 + 2 * 2 ^ 20 + 4 * 2 ^ 15 + 0x7FFF)
    let x : Word := 0xF1900000
    (∀ c : Fin 8, kindOf (w c) = .branch ∧ bf (w c) 27 25 = c)
    ∧ (runsWord (atWord (w 7) busy31) 0 3 (w 7) = true ∧ regsBusy (getThread (atWord (w 7) busy31) 0 3) (branchRegs (w 7)) = false)
    ∧ (runsWord (atWord (w 0) busy31) 0 3 (w 0) = true
      ∧ regsBusy (getThread (atWord (w 0) busy31) 0 3) (branchRegs (w 0)) = false
      ∧ branchTaken 0 0 0 = true ∧ branchTaken 1 0 0 = false ∧ branchTaken 5 0 1 = false)
    ∧ (getThread up 0 3).live = false
    ∧ ((getThread (threaded id) 0 3).live = true ∧ (getThread (threaded id) 0 3).wait = .ready ∧ domOn (threaded id) (bedDom (0 / 17)) = true
      ∧ (getGrain (threaded id) 0).fenced = false ∧ (getGrain (threaded id) 0).item ≠ none ∧ (getBed (threaded id) (0 / 17)).failing = []
      ∧ turn (threaded id) 0 3 = true ∧ turn (setThread (threaded id) 0 2 { live := true }) 0 3 = false)
    ∧ (getThread (threaded (fun t => { t with tileErrs := [2, 2] })) 0 3).tileErrs = [2, 2]
    ∧ (getThread (threaded (fun t => { t with pc := 0x100 })) 0 3).tileErrs = []
    ∧ (getGrain (threaded (fun t => { t with pc := 0x100 })) 0).codeEnd ≤ (getThread (threaded (fun t => { t with pc := 0x100 })) 0 3).pc.toNat
    ∧ (runsWord (atWord x id) 0 3 x = true ∧ kindOf x = .illegal) := by (try dsimp only); and_intros <;> decide

/-- O31: a word legal for VADD, VSEL and VEXT, one that is not; WIDTH word; a lane on and off. -/
theorem wit_vectors :
    let w := insn 7 15 15 15 0 0
    (runsWord (atWord w busy31) 0 3 w = true ∧ kindOf w = .vector ∧ regsBusy (getThread (atWord w busy31) 0 3) (vecRegs .add w) = false
      ∧ regsBusy (getThread (atWord w busy31) 0 3) (vecRegs .ext w) = false)
    ∧ vecLegal .add w = true ∧ vecLegal .sel w = true ∧ vecLegal .ext w = true ∧ vecLegal .cmpEq w = false ∧ vecLegal .illegal w = false
    ∧ bf w 9 8 = 0 ∧ vecGroup .add = .int ∧ vecGroup .fadd = .fp ∧ vecGroup .mov = .mov ∧ vecGroup .bcast = .bcast ∧ vecGroup .perm = .perm
    ∧ 63 < 64 ∧ fD w < 32
    ∧ (vpr (setVpr {} 1 (1#64 <<< 63)) 1).getLsbD 63 = true ∧ (vpr (setVpr {} 1 1) 1).getLsbD 63 = false := by
  (try dsimp only); and_intros <;> decide

/-- O32: each tile instruction with its last aligned operand, started work, a mismatched TMMA and TSYNC. -/
theorem wit_tiles :
    let o : TileOp := { thread := 3, top := 3, tile := 1, addrA := 0, addrB := 0, fmt := 4, modf := 0, started := true }
    let q (m : List TileOp) : State := modGrain (threaded id) 0 (fun g => { g with queue := m })
    (∀ e ∈ [(0, 1), (1, 2), (2, 7), (3, 8), (5, 0)], kindOf (tileInsn e.1 3 2 4 e.2) = .tile e.1)
    ∧ (let w := tileInsn 3 3 2 4 0
       let s := atWord w (regs 0x3EC00 0x3EC00 0)
       runsWord s 0 3 w = true ∧ regsBusy (getThread s 0 3) (tileRegs 3 w) = false ∧ tileQueueFull (issued s 0 3) 0 = false
       ∧ heldOn (issued s 0 3) 0 3 (fun l => l = 9) = false
       ∧ tileQueueFull (modGrain s 0 (fun g => { g with queue := List.replicate 16 { o with started := false } })) 0 = true
       ∧ tileQueueFull (modGrain s 0 (fun g => { g with queue := o :: List.replicate 15 { o with started := false } })) 0 = false
       ∧ tileAddr s 0 (gpr (getThread s 0 3) (tA w)).toNat (1024 * tmmaSize (tFmt w)) = .inl 0x3EC00
       ∧ tileAddr s 0 (gpr (getThread s 0 3) (tB w)).toNat (1024 * tmmaSize (tFmt w)) = .inl 0x3EC00)
    ∧ (let w := tileInsn 1 0 2 0 2
       let s := atWord w (regs 0x3D000 0 0)
       runsWord s 0 3 w = true ∧ tileAddr s 0 (gpr (getThread s 0 3) (tA w)).toNat (1024 * tloadSize (tFmt w)) = .inl 0x3D000)
    ∧ (getGrain (q [o]) 0).queue.find? (fun x => x.started && x.mul = true) = some o
    ∧ (o.top = 3 ∧ tmmaMatch o.fmt (getTile (getGrain (q [o]) 0) o.tile) = false)
    ∧ ({ o with top := 0 }.top = 0)
    ∧ (let w := tileInsn 4 0 0 0 0
       runsWord (atWord w id) 0 3 w = true ∧ kindOf w = .tile 4 ∧ (getThread (atWord w id) 0 3).tileOps = 0
       ∧ (getThread (atWord w (fun t => { t with tileOps := 1 })) 0 3).tileOps ≠ 0) := by (try dsimp only); and_intros <;> decide

/-- A thread of the steward's own kernels. -/
def internal (s : State) : State := modGrain s 0 (fun g => { g with tenant := 65 })
/-- Spoke 0 with its domain ON and its link in a state. -/
def spokeLink (l : LinkSt) : State :=
  let up := decide (l = .l0)
  internal (setSpoke (setDom (threaded id) 6 isOn) 0 { getSpoke (threaded id) 0 with
    link := l, trained := decide (l ≠ .off), ready := up, locked := up, memSpace := true })

/-- O33: a misaligned address, one out of reach, a device, a link that is down, retrains and is up, and the last bytes of the own
local store. -/
theorem wit_accesses :
    ((0x3F7F9 : Nat) % 8 ≠ 0 ∧ reach (threaded id) 0 0x3F7F8 8 true = 0 ∧ reach (threaded id) 0 0x3F800 8 true = 2
      ∧ reach (threaded id) 0 0x3FFF8 8 false = 0 ∧ (0x3F700 : Nat) % 64 = 0 ∧ reach (threaded id) 0 0x3F700 256 true = 0)
    ∧ (reach (internal (threaded id)) 0 0x18000000000 8 true = 0 ∧ resolve (internal (threaded id)) 0 0x18000000000 = .dev 0)
    ∧ (reach (spokeLink .off) 0 0xC000000000 8 false = 4 ∧ (0xC000000000 : Nat) % 8 = 0)
    ∧ (reach (spokeLink .recovery) 0 0xC000000000 8 false = 1 ∧ reach (spokeLink .l0) 0 0xC000000000 8 false = 0)
    ∧ (resolve (spokeLink .l0) 0 0xC000000000 = .spoke 0 0 ∧ regionType (spokeLink .l0) 0 0xC000000000 ≠ 0)
    ∧ (allNormal (spokeLink .l0) 0 0xC000000000 8 = false ∧ allNormal (threaded id) 0 0x3F700 256 = true)
    ∧ (let s := modBed (threaded id) 0 (fun b => { b with takeovers := [⟨1, 16⟩] })
       reach s 0 0x100040000 8 false = 1 ∧ resolve s 0 0x100040000 = .ls 1 0)
    ∧ (resolve (threaded id) 0 0 = .ls 0 0) := by (try dsimp only); and_intros <;> decide

/-- O34: each memory form at the last bytes it may reach of the own local store, a load from another grain of the bed, a queued
load and a buffered store. -/
theorem wit_loadsStores :
    (let w := memInsn 3 1 2 3 0
     let s := atWord w (regs 0x3FFF8 0 0)
     let u := issued s 0 3
     runsWord s 0 3 w = true ∧ kindOf w = .load ∧ (getThread s 0 3).loads.length < 8 ∧ regsBusy (getThread s 0 3) [fA w] = false
     ∧ allNormal u 0 0x3FFF8 8 = true ∧ badLineAt (countAccess u 0 0x3FFF8 false) 0 0x3FFF8 8 = none
     ∧ 8 = 2 ^ (fOp4 w % 4) ∧ addrM (getThread s 0 3) w = 0x3FFF8 ∧ 0x3FFF8 % 8 = 0 ∧ reach u 0 0x3FFF8 8 false = 0
     ∧ resolve u 0 0x3FFF8 = .ls 0 0x3FFF8 ∧ regionType u 0 0x3FFF8 = 0)
    ∧ (let w := memInsn 3 1 2 3 0
       let s := atWord w (regs 0x100040000 0 0)
       let u := issued s 0 3
       runsWord s 0 3 w = true ∧ addrM (getThread s 0 3) w = 0x100040000 ∧ reach u 0 0x100040000 8 false = 0
       ∧ resolve u 0 0x100040000 = .ls 1 0 ∧ ownLs (countAccess u 0 0x100040000 false) 0 0x100040000 8 = false)
    ∧ (let w := memInsn 3 1 2 3 0
       let s := atWord w (fun t => regs 0x3FFF8 0 0 { t with loads := List.replicate 8 ⟨31, 7⟩ })
       runsWord s 0 3 w = true ∧ 8 ≤ (getThread s 0 3).loads.length ∧ regsBusy (getThread s 0 3) [fA w] = false)
    ∧ (let w := memInsn 3 1 2 3 0
       let s := internal (atWord w (regs 0x4000000000 0 0))
       let u := setDom (issued s 0 3) 14 isOn
       let u := { u with strata := { u.strata with badLines := [0x4000000000] } }
       reach u 0 0x4000000000 8 false = 0 ∧ badLineAt (countAccess u 0 0x4000000000 false) 0 0x4000000000 8 = some 0x4000000000)
    ∧ (let w := memInsn 3 2 4 7 0
       let s := atWord w (regs 0 0x3FFF0 0)
       let u := issued s 0 3
       runsWord s 0 3 w = true ∧ kindOf w = .ldp ∧ regsBusy (getThread s 0 3) [fA w] = false
       ∧ addrM (getThread s 0 3) w = 0x3FFF0 ∧ reach u 0 0x3FFF0 16 false = 0 ∧ resolve u 0 0x3FFF0 = .ls 0 0x3FFF0
       ∧ resolve (loadBytes (countAccess u 0 0x3FFF0 false) 0 3 0x3FFF0 8).2 0 0x3FFF8 = .ls 0 0x3FFF8)
    ∧ (let w := memInsn 8 15 2 0 0
       let s := atWord w (regs 0x3FF00 0 0)
       runsWord s 0 3 w = true ∧ kindOf w = .ldv ∧ addrVm (getThread s 0 3) w = 0x3FF00 ∧ reach (issued s 0 3) 0 0x3FF00 256 false = 0
       ∧ resolve (issued s 0 3) 0 0x3FF00 = .ls 0 0x3FF00)
    ∧ (let w := memInsn 4 0 2 3 0
       let s := atWord w (regs 0x3F7F8 0 0)
       runsWord s 0 3 w = true ∧ kindOf w = .store ∧ 8 = 2 ^ fOp4 w ∧ addrM (getThread s 0 3) w = 0x3F7F8
       ∧ reach (issued s 0 3) 0 0x3F7F8 8 true = 0 ∧ resolve (issued s 0 3) 0 0x3F7F8 = .ls 0 0x3F7F8)
    ∧ (let w := memInsn 4 4 2 7 0
       let s := atWord w (regs 0x3F7F0 0 0)
       runsWord s 0 3 w = true ∧ kindOf w = .stp ∧ addrM (getThread s 0 3) w = 0x3F7F0 ∧ reach (issued s 0 3) 0 0x3F7F0 16 true = 0)
    ∧ (let w := memInsn 8 15 2 1 0
       let s := atWord w (regs 0x3F700 0 0)
       runsWord s 0 3 w = true ∧ kindOf w = .stv ∧ addrVm (getThread s 0 3) w = 0x3F700 ∧ reach (issued s 0 3) 0 0x3F700 256 true = 0)
    ∧ (getThread (threaded busy31) 0 3).loads = [⟨31, 7⟩]
    ∧ (let s := threaded (fun t => { t with wait := .vector 0 0x3FF00 [1] })
       (getThread s 0 3).loads = [] ∧ (getThread s 0 3).wait = .vector 0 0x3FF00 [1])
    ∧ (let n : PendStore := { addr := 0xC000000000, bytes := [some 1] }
       let q (st : PendStore) : State := setThread (spokeLink .l0) 0 3 { getThread (spokeLink .l0) 0 3 with stores := [st] }
       heads (q n) 0 [] (getThread (q n) 0 3).stores = [n] ∧ storeLink (q n) 0 n = 0 ∧ n.stage ≠ 3
       ∧ heads (q { n with stage := 3 }) 0 [] (getThread (q { n with stage := 3 }) 0 3).stores = [{ n with stage := 3 }]
       ∧ storeHeld (spokeLink .recovery) 0 n = true)
    ∧ ((getThread (threaded (fun t => { t with stores := [{ addr := 0, bytes := [some 1] }] })) 0 3).stores = [{ addr := 0, bytes := [some 1] }]
      ∧ heads (threaded id) 0 [] [{ addr := 0, bytes := [some 1] }] = [{ addr := 0, bytes := [some 1] }]
      ∧ storeLink (threaded id) 0 { addr := 0, bytes := [some 1] } = 9) := by (try dsimp only); and_intros <;> decide

/-- O35: each atomic on the last operand of the own local store, with and without a reservation. -/
theorem wit_atomics :
    (∀ k : Fin 12, kindOf (insn 5 1 2 4 6 (16 * k + 1)) = .atomic k)
    ∧ (let w := insn 5 1 2 4 6 0x91
       let s := atWord w (regs 0x3F7F8 0 0)
       let u := issued s 0 3
       runsWord s 0 3 w = true ∧ regsBusy (getThread s 0 3) (atomicRegs 9 w) = false
       ∧ (gpr (getThread s 0 3) (fA w)).toNat = 0x3F7F8 ∧ fFunc w % 2 = 1 ∧ resolve u 0 0x3F7F8 = .ls 0 0x3F7F8
       ∧ reach u 0 0x3F7F8 8 true = 0 ∧ reach u 0 0x3F7F8 8 false = 0 ∧ badLineAt u 0 0x3F7F8 8 = none
       ∧ heldOn u 0 3 (fun _ => true) = false)
    ∧ (let w := insn 5 1 2 4 6 0xB1
       let s := atWord w (regs 0x3F7F8 0 0)
       let d (s : State) := let u := issued s 0 3
         let c := countAccess u 0 0x3F7F8 true
         forceScoped (count c 22 (grainOcc c 0 (some 0x3F7F8))) 0 3 (resolve c 0 0x3F7F8) 8
       runsWord s 0 3 w = true ∧ heldOn (d s) 0 3 (fun l => l = 9) = false ∧ rsvHeld (d s) 0 3 0x3F7F8 = false ∧ rsvHeld (d (setRsv s 0 3 0x3F7F8)) 0 3 0x3F7F8 = true
       ∧ rsvHeld (drainLinks (d (setRsv s 0 3 0x3F7F8)) 0 3 (fun l => l = 9)) 0 3 0x3F7F8 = true
       ∧ (let v := setThread (d (setRsv s 0 3 0x3F7F8)) 0 3 { getThread (d (setRsv s 0 3 0x3F7F8)) 0 3 with
            stores := [{ addr := 0x3F7F0, bytes := [some 1] }] }
          rsvHeld v 0 3 0x3F7F8 = true ∧ rsvHeld (drainLinks v 0 3 (fun l => l = 9)) 0 3 0x3F7F8 = false)) := by
  (try dsimp only); and_intros <;> decide +kernel

/-- O36: BCOPY with a misaligned source, nothing to copy, 1 MiB less what the store cannot hold, and no side in the own local store; a
copy to complete; a live thread; U and a spoke held and up; each fence, barrier and wait on both sides of its condition. -/
theorem wit_copies :
    let w := insn 10 2 4 6 0 0
    let at' (d a n : Dword) : State := atWord w (regs d a n)
    let bed1 : Nat := 0x100040000
    (kindOf w = .copy ∧ runsWord (at' 0 32 64) 0 3 w = true ∧ regsBusy (getThread (at' 0 32 64) 0 3) [fD w, fA w, fB w] = false)
    ∧ ((gpr (getThread (at' 0 32 64) 0 3) (fA w)).toNat % 64 ≠ 0)
    ∧ (runsWord (at' 64 128 0) 0 3 w = true ∧ (gpr (getThread (at' 64 128 0) 0 3) (fB w)).toNat = 0)
    ∧ (let s := at' 0 0x100040000 0x3F800
       let u := issued s 0 3
       runsWord s 0 3 w = true ∧ ownLs u 0 0 0x3F800 = true ∧ copySide u 0 bed1 0x3F800 false = 0 ∧ copySide u 0 0 0x3F800 true = 0
       ∧ heldOn u 0 3 (fun l => l = 9) = false)
    ∧ (let s := at' 0x100040000 0x100040000 64
       runsWord s 0 3 w = true ∧ ownLs (issued s 0 3) 0 bed1 64 = false)
    ∧ (let c : PendCopy := { src := 0, dst := 64, len := 64 }
       (getThread (threaded (fun t => { t with copies := [c] })) 0 3).copies = [c] ∧ copyHeld (threaded id) 0 c = false
       ∧ badLineAt (threaded id) 0 c.src c.len = none ∧ copyHeld (spokeLink .recovery) 0 { c with dst := 0xC000000000 } = true)
    ∧ (let s (k : Nat) : State :=
         let s := spokeLink .recovery
         { setThread s 0 3 { getThread s 0 3 with wait := .held 0 0xC000000000 0 } with tick := k }
       (getThread (s 0) 0 3).wait = .held 0 0xC000000000 0 ∧ (getThread (s 0) 0 3).stores = [] ∧ (getThread (s 0) 0 3).copies = []
       ∧ heldLong (s 10000) 0 0 = true ∧ heldLong (s 9999) 0 0 = false)
    ∧ (getThread (threaded id) 0 3).live = true ∧ uAccess up = 0
    ∧ uAccess { up with links := { up.links with u := { up.links.u with recovering := true } } } ≠ 0
    ∧ spokeAccess (spokeLink .recovery) 0 ≠ 0 := by (try dsimp only); and_intros <;> decide +kernel

/-- O36, the system instructions. -/
theorem wit_waits :
    let sys (f : Nat) : Word := insn 6 1 2 4 3 f
    let at' (f : Nat) (g : Thread → Thread) : State := atWord (sys f) g
    let st : PendStore := { addr := 0, bytes := [some 1] }
    let b (n k : Dword) : State := at' 9 (regs k n 0)
    (∀ f ∈ [0, 1, 2, 3, 8, 9, 10, 11], kindOf (sys f) = .sys f ∧ runsWord (at' f id) 0 3 (sys f) = true
      ∧ regsBusy (getThread (at' f id) 0 3) [fA (sys f), fB (sys f)] = false)
    ∧ (let u (f : Nat) : State := drainOwn (issued (at' f (fun t => { t with stores := [st] })) 0 3) 0 3
       (getThread (u 0) 0 3).stores = [] ∧ (getThread (u 1) 0 3).stores = [])
    ∧ (let z : PendStore := { addr := 0xC000000000, bytes := [some 1], stage := 3 }
       let s := spokeLink .l0
       let q (y : PendStore) : State := setThread s 0 3 { getThread s 0 3 with stores := [y] }
       fenceDone (q z) 0 3 2 = true ∧ fenceDone (q { z with stage := 0 }) 0 3 2 = false ∧ storeLink (q z) 0 z ≠ 9)
    ∧ ((getThread (at' 2 id) 0 3).stores = [] ∧ (getThread (at' 2 (fun t => { t with stores := [st] })) 0 3).stores ≠ []
      ∧ runsWord (at' 2 (fun t => { t with stores := [st] })) 0 3 (sys 2) = true)
    ∧ ((getThread (at' 3 id) 0 3).tileOps = 0 ∧ (getThread (at' 3 id) 0 3).copies = [] ∧ (getThread (at' 3 id) 0 3).postErr = none
      ∧ (getThread (at' 3 (fun t => { t with tileOps := 1 })) 0 3).tileOps ≠ 0
      ∧ runsWord (at' 3 (fun t => { t with tileOps := 1 })) 0 3 (sys 3) = true)
    ∧ ((((gpr (getThread (at' 8 (regs 0 0xF7 0)) 0 3) (fB (sys 8))).toNat % 256) >>> 3) % 2 = 0
      ∧ (((gpr (getThread (at' 8 (regs 0 0x108 0)) 0 3) (fB (sys 8))).toNat % 256) >>> 3) % 2 = 1
      ∧ runsWord (at' 8 (regs 0 0xF7 0)) 0 3 (sys 8) = true ∧ runsWord (at' 8 (regs 0 0x108 0)) 0 3 (sys 8) = true)
    ∧ (runsWord (b 4097 0) 0 3 (sys 9) = true ∧ (gpr (getThread (b 4097 0) 0 3) (fB (sys 9))).toNat = 4097
      ∧ runsWord (b 1 16) 0 3 (sys 9) = true ∧ (gpr (getThread (b 1 16) 0 3) (fA (sys 9))).toNat = 16
      ∧ runsWord (b 0 15) 0 3 (sys 9) = true ∧ runsWord (b 1 15) 0 3 (sys 9) = true ∧ runsWord (b 4096 15) 0 3 (sys 9) = true
      ∧ (KMap.get (fun _ => ({} : Barrier)) (getBed (b 4096 15) 0).barriers 15).count = 0
      ∧ (⟨4096, 1⟩ : Barrier).count < (⟨4096, 1⟩ : Barrier).target ∧ (⟨1, 1⟩ : Barrier).target ≤ (⟨1, 1⟩ : Barrier).count)
    ∧ (let s := at' 10 (regs 0x3FFF8 1 0)
       let z := at' 10 (regs 0x3FFF8 0 0)
       runsWord s 0 3 (sys 10) = true ∧ runsWord z 0 3 (sys 10) = true ∧ ownLs (issued s 0 3) 0 0x3FFF8 8 = true
       ∧ heldOn (issued s 0 3) 0 3 (fun l => l = 9) = false
       ∧ ofLe (loadBytes (issued s 0 3) 0 3 0x3FFF8 8).1 ≠ 1 ∧ ofLe (loadBytes (issued z 0 3) 0 3 0x3FFF8 8).1 = 0
       ∧ runsWord (at' 10 (regs 4 0 0)) 0 3 (sys 10) = true ∧ (4 : Nat) % 8 ≠ 0)
    ∧ (let c3 (t : Thread) : Thread := { t with copies := [{ src := 0, dst := 64, len := 64 }, { src := 0, dst := 64, len := 64 }, { src := 0, dst := 64, len := 64 }] }
       let c4 (t : Thread) : Thread := { t with copies := { src := 0, dst := 64, len := 64 } :: (c3 t).copies }
       fC (sys 11) = 3 ∧ (getThread (at' 11 c3) 0 3).copies.length = 3 ∧ (getThread (at' 11 c4) 0 3).copies.length = 4
       ∧ runsWord (at' 11 c3) 0 3 (sys 11) = true ∧ runsWord (at' 11 c4) 0 3 (sys 11) = true
       ∧ (getThread (at' 11 c3) 0 3).copyErr = none)
    ∧ (let s (k : Nat) : State :=
         let s := threaded (fun t => { t with wait := .sleep 0 7 1 16 })
         { s with garr := { s.garr with cycles16 := k } }
       (getThread (s 0) 0 3).wait = .sleep 0 7 1 16 ∧ 65536 ≤ grainCycles (s 0x100010) 16 ∧ grainCycles (s 0x10000F) 16 < 65536) := by (try dsimp only); and_intros <;> decide +kernel

/-- A launch of the steward's own on bed 0. -/
def ownLaunch : Launch :=
  { id := 9, cmd := none, tenant := 65, qp := 0, cmdId := 0, kslot := 255, image := [], beds := [0], items := 1, args := 0,
    failmap := 0, seq := 1, start := 0 }
/-- Physical grain 0 runs an item of it. -/
def inLaunch (s : State) : State :=
  let s := modGrain s 0 (fun g => { g with launch := some 9 })
  { s with garr := { s.garr with launches := [ownLaunch] } }

/-- O37: each SYSR index and the next one, SYSW of XVEC and of another, XRET in and outside an exception, BRK, END; threads with
and without a handler. -/
theorem wit_system :
    let sys (c f : Nat) : Word := insn 6 1 2 4 c f
    let q (s : State) : State := modGrain s 0 (fun g => { g with queue := [{ thread := 3, top := 0, tile := 0, addrA := 0, addrB := 0, fmt := 0, modf := 0 }] })
    (∀ c : Fin 8, kindOf (sys c 0x10) = .sys 0x10 ∧ fC (sys c 0x10) = c)
    ∧ (runsWord (atWord (sys 4 0x10) id) 0 3 (sys 4 0x10) = true ∧ runsWord (q (atWord (sys 4 0x10) id)) 0 3 (sys 4 0x10) = true
      ∧ runsWord (inLaunch (atWord (sys 1 0x10) id)) 0 3 (sys 1 0x10) = true
      ∧ grainLaunch (inLaunch (atWord (sys 1 0x10) id)) 0 = some ownLaunch
      ∧ (getGrain (atWord (sys 4 0x10) id) 0).queue = [] ∧ (getGrain (q (atWord (sys 4 0x10) id)) 0).queue ≠ [])
    ∧ (∀ c : Fin 4, kindOf (sys c 0x11) = .sys 0x11 ∧ runsWord (atWord (sys c 0x11) id) 0 3 (sys c 0x11) = true)
    ∧ (∀ f ∈ [0x18, 0x19, 0x1A], kindOf (sys 0 f) = .sys f ∧ runsWord (atWord (sys 0 f) id) 0 3 (sys 0 f) = true)
    ∧ (runsWord (atWord (sys 0 0x18) (fun t => { t with xactive := true })) 0 3 (sys 0 0x18) = true
      ∧ (getThread (atWord (sys 0 0x18) (fun t => { t with xactive := true })) 0 3).xactive = true
      ∧ (getThread (atWord (sys 0 0x18) id) 0 3).xactive = false)
    ∧ (let th := getThread (atWord (sys 0 0x1A) id) 0 3
       th.tileOps = 0 ∧ th.copies = [] ∧ th.copyErr = none ∧ th.postErr = none ∧ th.stores = [])
    ∧ (let th := getThread (threaded (fun t => { t with xvec := 4 })) 0 3
       th.xvec ≠ 0 ∧ th.xactive = false ∧ th.stores = [] ∧ th.loads = [])
    ∧ (getThread (threaded id) 0 3).xvec = 0 := by (try dsimp only); and_intros <;> decide

/-! ### Strata -/

/-- The header of a root of no block, up to COMMIT. -/
def rootTop : List Byte := leBytes 4 0x41525453 ++ List.replicate 0xF4 0
/-- That header, generation 1. -/
def rootHeader : List Byte := rootTop ++ (leBytes 4 (crc32 rootTop).toNat ++ leBytes 4 1)

theorem rootTop_length : rootTop.length = 0xF8 := by
  rw [rootTop, List.length_append, leBytes_length, List.length_replicate]
theorem rootHeader_length : rootHeader.length = 256 := by
  rw [rootHeader, List.length_append, List.length_append, rootTop_length, leBytes_length, leBytes_length]

theorem rootHeader_left (o n : Nat) (h : o + n ≤ 0xF8) : leAt rootHeader o n = leAt rootTop o n :=
  leAt_left _ _ _ _ (by rw [rootTop_length]; exact h)

theorem rootHeader_valid : headerValid rootHeader = true := by
  have ht : rootHeader.take 0xF8 = rootTop := by rw [rootHeader, List.take_left' rootTop_length]
  have hc : leAt rootHeader 0xF8 4 = (crc32 rootTop).toNat := by
    rw [rootHeader, leAt_mid _ _ _ _ _ rootTop_length.symm (leBytes_length 4 _).symm, ofLe_crc]
  simp only [headerValid, ht, hc, rootHeader_left 0 4 (by omega)]
  decide

/-- A state whose HBM begins with that root. -/
def withRoot (s : State) : State := gmWrite s Config.hbmBase rootHeader

/-- The root is the current copy, in any state of that memory. -/
theorem withRoot_copy (s t : State) (hg : s.mem.gm = []) (ht : t.mem = (withRoot s).mem) :
    currentCopy t Config.hbmBase = some (0, rootHeader) := by
  have h0 : gmRead t Config.hbmBase 256 = rootHeader := by
    have := gmRead_gmWrite s Config.hbmBase rootHeader
    rw [rootHeader_length] at this
    rw [← this]; simp only [gmRead, ht, withRoot]
  have h1 : gmRead t (Config.hbmBase + 0x100) 256 = List.replicate 256 0 := by
    have := gmRead_gmWrite_other s Config.hbmBase (Config.hbmBase + 0x100) 256 rootHeader (.inr (by rw [rootHeader_length]))
    simp only [gmRead, ht]; simp only [gmRead, withRoot] at this ⊢; rw [this, hg]; decide +kernel
  simp only [currentCopy, h0, h1, rootHeader_valid]
  rw [show headerValid (List.replicate 256 0) = false by decide +kernel]

/-- A stratum of one layer, one head of 32, FP16, 1 token, at the first unit of HBM. -/
def rec7 (h : Home) : Stratum := { handle := 7, home := h, shape := ⟨1, 1, 32, 0⟩, tokens := 1, root := Config.hbmBase, generation := 1 }
/-- The steward with what a stratum command needs ON, spoke 0 in contract with an export window of 128 bytes, and records. -/
def strataUp (rs : List Stratum) : State :=
  let s := doms ([2, 4, 6, 14, 15, 16, 17, 18, 19, 20, 21, 22, 23, 24, 25, 26, 27, 28].map (fun d => (d, isOn)))
  let s := setSpoke (setAcc s 0 { st := .idle }) 0 { link := .l0, ready := true, contract := true, exportSize := 128 }
  { s with strata := { s.strata with recs := rs }, boot := { s.boot with keyLock := false } }
/-- The entry of a PARK or RESTORE of handle 7 and A0, of one token. -/
def moveRaw (h : Nat) : List Byte :=
  leBytes 8 h ++ [0, 0, 0xFF, 0] ++ leBytes 4 1 ++ leBytes 8 0 ++ leBytes 2 1 ++ [1, 0] ++ leBytes 2 32
/-- A move of command 5. -/
def moveOf (op spoke : Nat) (raw : List Byte) (st : MoveStage) : Move :=
  { cmd := 5, tenant := 0, spoke := spoke, op := op, raw := rawOf op raw, stage := st }
/-- A state with that move. -/
def moving (s : State) (m : Move) : State := { s with strata := { s.strata with moves := [m] } }
/-- A state whose free HBM is `n` units. -/
def hbmLeft (s : State) (n : Nat) : State := { s with strata := { s.strata with extents := [⟨0, hbmUnits s - n, 2, 77⟩] } }

/-- O38: PARK refused, with no room for its root and block, and with just enough; a move on the spoke; RESTORE of no record, refused,
of a root with no copy and with one; DROP; KEY_LOCK. -/
theorem wit_parks :
    let p := cmdOf 0 0x10 (moveRaw 7)
    let r := cmdOf 0 0x11 (moveRaw 7)
    let d := cmdOf 0 0x13 (leBytes 8 7)
    let on (s : State) (c : Cmd) : State := holding s c
    (startsNow (on (strataUp []) p) 5 0x10 none p = true ∧ spokeMove (on (strataUp []) p) p.accN = none
      ∧ moveDoms (fun _ c => c.f 0x11 1 ≠ 0) (on (strataUp []) p) p = none ∧ (on (strataUp []) p).therm.latch.getLsbD p.accN = false)
    ∧ (parkRefusal (markStarted (on (strataUp []) p) 5) p = none
      ∧ (allocateAll (markStarted (on (strataUp []) p) 5) 3 5 (parkUnits p.shape (p.f 0x11 1) (p.f 0x14 4))).isSome = true)
    ∧ (let s := on (strataUp [rec7 .steward]) p
       startsNow s 5 0x10 none p = true ∧ (parkRefusal (markStarted s 5) p).isSome = true)
    ∧ (let s (n : Nat) := on (hbmLeft (strataUp []) n) p
       startsNow (s 3) 5 0x10 none p = true ∧ parkRefusal (markStarted (s 3) 5) p = none
       ∧ allocateAll (markStarted (s 3) 5) 3 5 (parkUnits p.shape (p.f 0x11 1) (p.f 0x14 4)) = none
       ∧ (allocateAll (markStarted (s 4) 5) 3 5 (parkUnits p.shape (p.f 0x11 1) (p.f 0x14 4))).isSome = true)
    ∧ (findCmd (on (moving (strataUp []) (moveOf 0x11 0 [] .data)) p) 5 = some p
      ∧ spokeMove (on (moving (strataUp []) (moveOf 0x11 0 [] .data)) p) p.accN ≠ none ∧ p.noop = false)
    ∧ (startsNow (on (strataUp []) r) 5 0x11 none r = true ∧ moveDoms restoreGrains (on (strataUp []) r) r = none
      ∧ findRec (markStarted (on (strataUp []) r) 5) r.handle = none)
    ∧ (let s := on (strataUp [rec7 .host]) r
       startsNow s 5 0x11 none r = true ∧ moveDoms restoreGrains s r = none ∧ findRec (markStarted s 5) r.handle = some (rec7 .host)
       ∧ (restoreRefusal (markStarted s 5) r (rec7 .host)).isSome = true)
    ∧ (let s := on (strataUp [rec7 .steward]) r
       startsNow s 5 0x11 none r = true ∧ moveDoms restoreGrains s r = none
       ∧ findRec (markStarted s 5) r.handle = some (rec7 .steward) ∧ restoreRefusal (markStarted s 5) r (rec7 .steward) = none
       ∧ currentCopy (markStarted s 5) (rec7 .steward).root = none)
    ∧ (let s := on (strataUp [rec7 .steward]) d
       startsNow s 5 0x13 none d = true ∧ findRec (markStarted s 5) d.handle ≠ none)
    ∧ (startsNow (on (strataUp []) d) 5 0x13 none d = true ∧ findRec (markStarted (on (strataUp []) d) 5) d.handle = none) := by
  (try dsimp only); and_intros <;> decide +kernel

/-- O38: a RESTORE whose root has a copy. -/
theorem wit_restore :
    let r := cmdOf 0 0x11 (moveRaw 7)
    let s := withRoot (holding (strataUp [rec7 .steward]) r)
    startsNow s 5 0x11 none r = true ∧ spokeMove s r.accN = none ∧ moveDoms restoreGrains s r = none ∧ s.therm.latch.getLsbD r.accN = false
    ∧ findRec (markStarted s 5) r.handle = some (rec7 .steward) ∧ restoreRefusal (markStarted s 5) r (rec7 .steward) = none
    ∧ currentCopy (markStarted s 5) (rec7 .steward).root ≠ none := by
  refine ⟨by decide, by decide, ?_, by decide, by decide, by decide, ?_⟩
  · have h1 : firstNotOn (withRoot (holding (strataUp [rec7 .steward]) (cmdOf 0 0x11 (moveRaw 7))))
        ([4, 6 + (cmdOf 0 0x11 (moveRaw 7)).accN] ++ hbmDoms) = none := by decide
    have h2 : (internalPool (withRoot (holding (strataUp [rec7 .steward]) (cmdOf 0 0x11 (moveRaw 7))))).isEmpty = false := by decide
    simp only [moveDoms, h1, h2, Bool.and_false]; rfl
  · show currentCopy _ Config.hbmBase ≠ none
    rw [withRoot_copy (holding (strataUp [rec7 .steward]) (cmdOf 0 0x11 (moveRaw 7))) _ (by decide)
      (by simp only [markStarted_keeps])]
    simp

/-- A SPILL of handle 7 into `len` bytes. -/
def spillCmd (len : Nat) : Cmd := cmdOf 0 0x14 (leBytes 8 7 ++ leBytes 8 0x1000 ++ leBytes 8 len)
/-- That SPILL, of a stratum whose root has a copy. -/
def spillAt (len : Nat) : State := withRoot (holding (strataUp [rec7 .steward]) (spillCmd len))

/-- O38: a SPILL into one byte too little and into just enough. -/
theorem wit_spill : ∀ len ∈ [527, 528], startsNow (spillAt len) 5 0x14 none (spillCmd len) = true
    ∧ sealDoms (spillAt len) (spillCmd len) = none
    ∧ findRec (markStarted (spillAt len) 5) (spillCmd len).handle = some (rec7 .steward) ∧ (spillAt len).boot.keyLock = false
    ∧ (spillCmd len).f 0x18 8 = len := by
  intro len hl
  simp only [List.mem_cons, List.not_mem_nil, or_false] at hl
  rcases hl with rfl | rfl <;> and_intros <;> decide +kernel

theorem spillAt_mem (len : Nat) : (markStarted (spillAt len) 5).mem
    = (withRoot (holding (strataUp [rec7 .steward]) (spillCmd len))).mem := by
  simp only [markStarted_keeps, spillAt]

theorem strataUp_gm (c : Cmd) : (holding (strataUp [rec7 .steward]) c).mem.gm = [] := rfl

theorem spillAt_copy (len : Nat) : currentCopy (markStarted (spillAt len) 5) (rec7 .steward).root = some (0, rootHeader) :=
  withRoot_copy _ _ (strataUp_gm _) (spillAt_mem len)

theorem currentTable_none (s : State) (r k : Nat) : currentTable s r k rootHeader = [] := by
  rw [currentTable, rootHeader_left _ _ (by omega), show leAt rootTop 0x1A 2 = 0 by decide]
  simp [gmRead, KMap.readN, tableOf, chunks, chunksAux]

theorem recTable_of (s : State) (r : Stratum) (k : Nat) (h : List Byte) (hc : currentCopy s r.root = some (k, h)) :
    recTable s r = currentTable s r.root k h := by rw [recTable, hc]

theorem spillLen_of (s : State) (r : Stratum) (h : recTable s r = []) : imageLen (spillLen s r) = 528 := by
  rw [spillLen, h]; decide

theorem wit_spillSize (len : Nat) : currentCopy (markStarted (spillAt len) 5) (rec7 .steward).root ≠ none
    ∧ imageLen (spillLen (markStarted (spillAt len) 5) (rec7 .steward)) = 528 := by
  refine ⟨by rw [spillAt_copy]; exact Option.some_ne_none _, ?_⟩
  exact spillLen_of _ _ ((recTable_of _ _ _ _ (spillAt_copy len)).trans (currentTable_none _ _ _))

/-- O38: SPILL while keys are locked and of a root with no copy; FETCH. -/
theorem wit_sealKeys :
    let fe := cmdOf 0 0x15 (leBytes 8 7 ++ leBytes 8 0x1000 ++ leBytes 8 528)
    let lock (s : State) : State := { s with boot := { s.boot with keyLock := true } }
    let n := holding (strataUp [rec7 .steward]) (spillCmd 528)
    let f := holding (strataUp [rec7 .host]) fe
    (startsNow (lock n) 5 0x14 none (spillCmd 528) = true ∧ (lock n).boot.keyLock = true ∧ (rec7 .steward).home = .steward)
    ∧ (startsNow n 5 0x14 none (spillCmd 528) = true ∧ currentCopy (markStarted n 5) (rec7 .steward).root = none)
    ∧ (startsNow f 5 0x15 none fe = true ∧ sealDoms f fe = none ∧ findRec (markStarted f 5) fe.handle = some (rec7 .host)
      ∧ (rec7 .host).home = .host ∧ f.boot.keyLock = false ∧ (lock f).boot.keyLock = true
      ∧ startsNow (lock f) 5 0x15 none fe = true) := by (try dsimp only); and_intros <;> decide +kernel

/-! ### A model image -/

/-- The header of a model image of one layer, one head of 32, FP16 and four sections, up to HDR_CRC. -/
def modelTop : List Byte :=
  leBytes 4 0x4D524C54 ++ leBytes 2 1 ++ leBytes 2 1 ++ [1, 0] ++ leBytes 2 32 ++ [0, 0] ++ leBytes 2 4
  ++ leBytes 4 100 ++ leBytes 4 1000 ++ leBytes 4 64 ++ List.replicate 32 0
/-- A section table entry. -/
def modelSec (kind off len crc : Nat) : List Byte :=
  leBytes 2 kind ++ leBytes 2 0 ++ leBytes 4 0 ++ leBytes 8 off ++ leBytes 8 len ++ leBytes 4 crc ++ leBytes 4 0
/-- The section table: two kernels, the phases, the weights of layer 0. -/
def modelTab (k p w : Nat) : List Byte :=
  modelSec 1 192 320 k ++ (modelSec 2 512 320 k ++ (modelSec 3 832 16 p ++ modelSec 5 896 64 w))
/-- The one phase: 64 bytes of weights, one item. -/
def modelPh : List Byte := leBytes 4 0 ++ leBytes 4 64 ++ leBytes 4 1 ++ leBytes 4 0
/-- The weights. -/
def modelW : List Byte := List.replicate 64 0
/-- CRC of some bytes. -/
def crcN (l : List Byte) : Nat := (crc32 l).toNat
/-- Header and table. -/
def modelHead : List Byte := (modelTop ++ leBytes 4 (crcN modelTop)) ++ modelTab (crcN kernelImage) (crcN modelPh) (crcN modelW)
/-- A good model image of 960 bytes. -/
def modelImage : List Byte := modelHead ++ (kernelImage ++ (kernelImage ++ (modelPh ++ (List.replicate 48 0 ++ modelW))))
/-- Its sections. -/
def modelXs (k p w : Nat) : List Section := [⟨1, 0, 192, 320, k⟩, ⟨2, 0, 512, 320, k⟩, ⟨3, 0, 832, 16, p⟩, ⟨5, 0, 896, 64, w⟩]

theorem kernelImage_length : kernelImage.length = 320 := by
  rw [kernelImage, kernelHead, List.length_append, List.length_append, List.length_append, leBytes_length, leBytes_length, kernelBody,
    List.length_append, leBytes_length, List.length_replicate]
  rfl

theorem modelHead_length : modelHead.length = 192 := by rfl

theorem modelSec_fields (kind off len c : Nat) (hk : kind < 256) (ho : off < 2 ^ 64) (hn : len < 2 ^ 64) :
    (⟨leAt (modelSec kind off len c) 0 1, leAt (modelSec kind off len c) 2 2, leAt (modelSec kind off len c) 8 8,
      leAt (modelSec kind off len c) 0x10 8, leAt (modelSec kind off len c) 0x18 4⟩ : Section)
    = ⟨kind, 0, off, len, ofLe (leBytes 4 c)⟩ := by
  have h0 : leAt (modelSec kind off len c) 0 1 = kind := by simp [modelSec, leBytes, leAt, ofLe]; omega
  have h1 : leAt (modelSec kind off len c) 2 2 = 0 := by simp [modelSec, leBytes, leAt, ofLe]
  have h2 : leAt (modelSec kind off len c) 8 8 = off := by
    refine Eq.trans ?_ (ofLe_leBytes 8 off (by omega)); simp [modelSec, leBytes, leAt]
  have h3 : leAt (modelSec kind off len c) 0x10 8 = len := by
    refine Eq.trans ?_ (ofLe_leBytes 8 len (by omega)); simp [modelSec, leBytes, leAt]
  have h4 : leAt (modelSec kind off len c) 0x18 4 = ofLe (leBytes 4 c) := by simp [modelSec, leBytes, leAt]
  rw [h0, h1, h2, h3, h4]

theorem modelSections_gen (h k p w : Nat) : modelSections ((modelTop ++ leBytes 4 h) ++ modelTab k p w)
    = modelXs (ofLe (leBytes 4 k)) (ofLe (leBytes 4 p)) (ofLe (leBytes 4 w)) := by
  have ha : (modelTop ++ leBytes 4 h).length = 64 := rfl
  have hn : leAt ((modelTop ++ leBytes 4 h) ++ modelTab k p w) 0xE 2 = 4 := by
    rw [List.append_assoc, leAt_left _ _ _ _ (show 0xE + 2 ≤ 60 by omega)]; decide
  have e (a s b : List Byte) (n : Nat) (hl : a.length = n) (hs : s.length = 32) : ((a ++ (s ++ b)).drop n).take 32 = s := by
    rw [List.drop_left' hl, List.take_left' hs]
  have e0 := e (modelTop ++ leBytes 4 h) (modelSec 1 192 320 k) (modelSec 2 512 320 k ++ (modelSec 3 832 16 p ++ modelSec 5 896 64 w))
    64 rfl rfl
  have e1 := e ((modelTop ++ leBytes 4 h) ++ modelSec 1 192 320 k) (modelSec 2 512 320 k) (modelSec 3 832 16 p ++ modelSec 5 896 64 w)
    96 rfl rfl
  have e2 := e ((modelTop ++ leBytes 4 h) ++ (modelSec 1 192 320 k ++ modelSec 2 512 320 k)) (modelSec 3 832 16 p) (modelSec 5 896 64 w)
    128 rfl rfl
  have e3 := e ((modelTop ++ leBytes 4 h) ++ (modelSec 1 192 320 k ++ (modelSec 2 512 320 k ++ modelSec 3 832 16 p))) (modelSec 5 896 64 w)
    [] 160 rfl rfl
  simp only [List.append_assoc, List.append_nil] at e0 e1 e2 e3
  rw [modelSections, hn]
  simp only [show List.range 4 = [0, 1, 2, 3] from rfl, List.map_cons, List.map_nil, modelTab, List.append_assoc,
    show 0x40 + 32 * 0 = 64 from rfl, show 0x40 + 32 * 1 = 96 from rfl, show 0x40 + 32 * 2 = 128 from rfl,
    show 0x40 + 32 * 3 = 160 from rfl, e0, e1, e2, e3]
  simp only [modelSec_fields _ _ _ _ (show 1 < 256 by omega) (show 192 < 2 ^ 64 by omega) (show 320 < 2 ^ 64 by omega),
    modelSec_fields _ _ _ _ (show 2 < 256 by omega) (show 512 < 2 ^ 64 by omega) (show 320 < 2 ^ 64 by omega),
    modelSec_fields _ _ _ _ (show 3 < 256 by omega) (show 832 < 2 ^ 64 by omega) (show 16 < 2 ^ 64 by omega),
    modelSec_fields _ _ _ _ (show 5 < 256 by omega) (show 896 < 2 ^ 64 by omega) (show 64 < 2 ^ 64 by omega), modelXs]

theorem modelHead_sections : modelSections modelHead = modelXs (crcN kernelImage) (crcN modelPh) (crcN modelW) := by
  rw [modelHead, modelSections_gen]
  simp only [crcN, ofLe_crc]

theorem modelImage_length : modelImage.length = 960 := by
  simp only [modelImage, List.length_append, modelHead_length, kernelImage_length, List.length_replicate, modelW, modelPh, leBytes_length]

theorem modelSection1 (c : Nat) : sectionBytes modelImage ⟨1, 0, 192, 320, c⟩ = kernelImage := by
  rw [sectionBytes, modelImage, List.drop_left' modelHead_length, List.take_left' kernelImage_length]
theorem modelSection2 (c : Nat) : sectionBytes modelImage ⟨2, 0, 512, 320, c⟩ = kernelImage := by
  rw [sectionBytes, modelImage, ← List.append_assoc, List.drop_left', List.take_left' kernelImage_length]
  rw [List.length_append, modelHead_length, kernelImage_length]
theorem modelSection3 (c : Nat) : sectionBytes modelImage ⟨3, 0, 832, 16, c⟩ = modelPh := by
  rw [sectionBytes, modelImage, ← List.append_assoc, ← List.append_assoc, List.drop_left']
  · exact List.take_left' rfl
  rw [List.length_append, List.length_append, modelHead_length, kernelImage_length]
theorem modelSection5 (c : Nat) : sectionBytes modelImage ⟨5, 0, 896, 64, c⟩ = modelW := by
  rw [sectionBytes, modelImage, ← List.append_assoc, ← List.append_assoc, ← List.append_assoc, ← List.append_assoc, List.drop_left',
    List.take_of_length_le (by rw [modelW, List.length_replicate])]
  simp only [List.length_append, modelHead_length, kernelImage_length, List.length_replicate, modelPh, leBytes_length]

theorem model_left (x : List Byte) (o n : Nat) (h : o + n ≤ 60) : leAt (modelHead ++ x) o n = leAt modelTop o n := by
  have hl : modelTop.length = 60 := rfl
  rw [leAt_left _ _ _ _ (by rw [modelHead_length]; omega), modelHead, List.append_assoc, leAt_left _ _ _ _ (by omega)]

theorem modelImage_crcs : (modelXs (crcN kernelImage) (crcN modelPh) (crcN modelW)).any
    (fun x => x.crc ≠ (crc32 (sectionBytes modelImage x)).toNat) = false := by
  simp only [modelXs, List.any_cons, List.any_nil, modelSection1, modelSection2, modelSection3, modelSection5, crcN]
  simp

theorem kernelImage_ok : kernelOk kernelImage = true := by
  rw [kernelOk, kernelImage_length, wit_kernelImages.1, wit_kernelImages.2.1]; rfl

theorem modelImage_structure (k p w : Nat) : modelStructureOk modelImage (modelXs k p w) 960 = true := by
  have h1 : ofKind (modelXs k p w) 1 = [⟨1, 0, 192, 320, k⟩] := rfl
  have h2 : ofKind (modelXs k p w) 2 = [⟨2, 0, 512, 320, k⟩] := rfl
  have h3 : ofKind (modelXs k p w) 3 = [⟨3, 0, 832, 16, p⟩] := rfl
  have h4 : ofKind (modelXs k p w) 4 = [] := rfl
  have h5 : ofKind (modelXs k p w) 5 = [⟨5, 0, 896, 64, w⟩] := rfl
  have h6 : ofKind (modelXs k p w) 6 = [] := rfl
  have hp : phasesOf modelPh = [(0, 64, 1)] := by decide
  have hl : modelPh.length = 16 := rfl
  simp only [modelStructureOk, h1, h2, h3, h4, h5, h6, List.flatMap_cons, List.flatMap_nil, List.append_nil, modelSection3, hp, hl,
    List.cons_append, List.nil_append, List.all_cons, List.all_nil, modelSection1, modelSection2, kernelImage_ok]
  simp only [modelXs, modelImage, model_left _ _ _ (show 6 + 2 ≤ 60 by omega), model_left _ _ _ (show 0xD + 1 ≤ 60 by omega),
    show leAt modelTop 6 2 = 1 from rfl, show leAt modelTop 0xD 1 = 0 from rfl]
  simp [show List.range 1 = [0] from rfl]

theorem modelHead_ok : modelHeaderOk (modelTop ++ leBytes 4 (crcN modelTop)) 960 = true := by
  have hl : modelTop.length = 60 := rfl
  have ht : (modelTop ++ leBytes 4 (crcN modelTop)).take 0x3C = modelTop := List.take_left' hl
  have hc : leAt (modelTop ++ leBytes 4 (crcN modelTop)) 0x3C 4 = (crc32 modelTop).toNat := by
    have := leAt_mid modelTop (leBytes 4 (crcN modelTop)) [] 0x3C 4 rfl rfl
    rw [List.append_nil] at this
    rw [this, crcN, ofLe_crc]
  have hz : zeroAt (modelTop ++ leBytes 4 (crcN modelTop)) 0x1C 32 = true := by
    rw [zeroAt, List.drop_append_of_le_length (by omega), List.take_append_of_le_length (by rw [List.length_drop]; omega)]; decide
  simp only [modelHeaderOk, ht, hc, hz]
  simp only [leAt_left modelTop _ _ _ (show 0 + 4 ≤ _ from by omega), leAt_left modelTop _ _ _ (show 4 + 2 ≤ _ from by omega),
    leAt_left modelTop _ _ _ (show 6 + 2 ≤ _ from by omega), leAt_left modelTop _ _ _ (show 8 + 1 ≤ _ from by omega),
    leAt_left modelTop _ _ _ (show 0xA + 2 ≤ _ from by omega), leAt_left modelTop _ _ _ (show 0xC + 1 ≤ _ from by omega),
    leAt_left modelTop _ _ _ (show 0xD + 1 ≤ _ from by omega), leAt_left modelTop _ _ _ (show 0xE + 2 ≤ _ from by omega)]
  simp only [decide_true, Bool.and_true]
  decide

/-- MODEL_LOAD of that image at 0x1000 into slot 1. -/
def modelCmd : Cmd := cmdOf 0 0x16 (leBytes 8 1 ++ leBytes 8 0x1000 ++ leBytes 8 960)
/-- The steward with that command and the image in host memory. -/
def modelUp : State := hostWrite (holding (strataUp []) modelCmd) 0x1000 modelImage

theorem modelUp_read (n : Nat) (h : n ≤ 960) : hostRead (markStarted modelUp 5) 0x1000 n = modelImage.take n := by
  obtain ⟨k, hk⟩ := Nat.exists_eq_add_of_le h
  have hf := hostRead_hostWrite (holding (strataUp []) modelCmd) 0x1000 modelImage
  rw [modelImage_length] at hf
  have hm : (markStarted modelUp 5).mem = (hostWrite (holding (strataUp []) modelCmd) 0x1000 modelImage).mem := by
    simp only [markStarted_keeps, modelUp]
  have ha : hostRead (markStarted modelUp 5) 0x1000 960 = modelImage := by rw [← hf]; simp only [hostRead, hm]
  rw [hostRead] at ha
  rw [hk, readN_split] at ha
  rw [← ha, List.take_left' (by simp), hostRead]

/-- O40: MODEL_LOAD of a good image. -/
theorem wit_modelLoad :
    let u := markStarted modelUp 5
    startsNow modelUp 5 0x16 none modelCmd = true ∧ modelDoms modelUp modelCmd = none
    ∧ (modelCmd.f 8 1 = 1 ∧ modelCmd.f 0x10 8 = 0x1000 ∧ modelCmd.f 0x18 8 = 960)
    ∧ (getModel u 1).loaded = false ∧ boundTo u 1 = [] := by (try dsimp only); and_intros <;> decide +kernel

theorem wit_modelImage :
    let u := markStarted modelUp 5
    let top := hostRead u 0x1000 (0x40 + 32 * leAt (hostRead u 0x1000 0x40) 0xE 2)
    let xs := modelSections top
    modelHeaderOk (hostRead u 0x1000 0x40) 960 = true
    ∧ xs = modelXs (crcN kernelImage) (crcN modelPh) (crcN modelW)
    ∧ xs.any (fun x => x.crc ≠ (crc32 (sectionBytes (hostRead u 0x1000 960) x)).toNat) = false
    ∧ modelStructureOk (hostRead u 0x1000 960) xs 960 = true := by
  have h64 : hostRead (markStarted modelUp 5) 0x1000 0x40 = modelTop ++ leBytes 4 (crcN modelTop) := by
    rw [modelUp_read _ (by omega), modelImage, modelHead, List.append_assoc]
    exact List.take_left' rfl
  have hn : leAt (hostRead (markStarted modelUp 5) 0x1000 0x40) 0xE 2 = 4 := by
    rw [h64, leAt_left _ _ _ _ (show 0xE + 2 ≤ 60 by omega)]; decide
  have htop : hostRead (markStarted modelUp 5) 0x1000 (0x40 + 32 * leAt (hostRead (markStarted modelUp 5) 0x1000 0x40) 0xE 2)
      = modelHead := by
    rw [hn, modelUp_read _ (by omega), modelImage, List.take_left' modelHead_length]
  have himg : hostRead (markStarted modelUp 5) 0x1000 960 = modelImage := by
    rw [modelUp_read _ (by omega), List.take_of_length_le (by rw [modelImage_length])]
  (try dsimp only)
  rw [htop, himg, h64, modelHead_sections]
  exact ⟨modelHead_ok, rfl, modelImage_crcs, modelImage_structure _ _ _⟩

theorem wit_modelRoom (k p w : Nat) :
    let u := markStarted modelUp 5
    let xs := modelXs k p w
    (((xs.filter (fun x => x.kind = 1 || x.kind = 2)).map (·.len)).foldl (· + ·) 0) ≤ modelStoreFree u
    ∧ (allocateAll u 1 1 ((xs.filter inHbm).map (fun x => unitsOf x.len))).isSome = true := by
  (try dsimp only)
  have h1 : ((modelXs k p w).filter inHbm).map (fun x => unitsOf x.len) = [1] := by
    simp [modelXs, inHbm, unitsOf, ceilDiv]
  have h2 : ((((modelXs k p w).filter (fun x => x.kind = 1 || x.kind = 2)).map (·.len)).foldl (· + ·) 0) = 640 := rfl
  rw [h1, h2]; and_intros <;> decide +kernel

/-- O39: moves not in their data stage, stopped, on a spoke that is not ready and that is ready; a PARK with its blocks reserved. -/
theorem wit_parkEnds :
    let m (st : MoveStage) := moveOf 0x10 0 (moveRaw 7) st
    let s (st : MoveStage) := moving (strataUp []) (m st)
    let r : State := { s .data with strata := { (s .data).strata with extents := [⟨0, 3, 3, 5⟩, ⟨3, 1, 3, 5⟩] } }
    findMove up 5 = none ∧ (findMove (s .begin) 5 = some (m .begin) ∧ (m .begin).stage ≠ .data)
    ∧ (findMove (moving (strataUp []) { m .data with stopping := true }) 5 = some { m .data with stopping := true })
    ∧ (findMove (s .data) 5 = some (m .data) ∧ (m .data).stopping = false ∧ (m .data).spoke < 8 ∧ spokeReady (s .data) 0 = true
      ∧ spokeReady (moving up (m .data)) 0 = false)
    ∧ (findMove r 5 = some (m .data) ∧ reserved r 5 = [Config.hbmBase, Config.hbmBase + 0x30000]
      ∧ (storeBlocks (m .data).asCmd (m .data).model (m .data).asCmd.shape 0 (List.range (blockCount ((m .data).asCmd.f 0x14 4)))
          [Config.hbmBase + 0x30000] r).isSome = true
      ∧ (findRec (parkEnd r (m .data)) (m .data).handle).isSome = true) := by (try dsimp only); and_intros <;> decide +kernel

/-- A move of a stratum whose root has a copy, its first unit with a failed line or none. -/
def movingRoot (m : Move) (bad : List Nat) : State :=
  let s := moving (strataUp [rec7 .steward]) m
  withRoot { s with strata := { s.strata with extents := [⟨0, 3, 0, 7⟩], badLines := bad },
                    sealEng := { s.sealEng with ctx1 := some ⟨21, 1, false⟩ } }

/-- O39: a RESTORE and a SPILL, the last line of the root failed and none. -/
theorem wit_restoreEnds : ∀ bad ∈ [[], [Config.hbmBase + 0x2FFC0]],
    let m := moveOf 0x11 0 (moveRaw 7) .data
    let p := moveOf 0x14 8 (leBytes 8 7) .data
    findMove (movingRoot m bad) 5 = some m ∧ spokeReady (movingRoot m bad) 0 = true
    ∧ findRec (movingRoot m bad) m.handle = some (rec7 .steward) ∧ hasBadLine (movingRoot m bad) 7 = !bad.isEmpty
    ∧ findMove (movingRoot p bad) 5 = some p ∧ findRec (movingRoot p bad) p.handle = some (rec7 .steward)
    ∧ sealHolds (movingRoot p bad) (sealWho 5) = true ∧ hasBadLine (movingRoot p bad) 7 = !bad.isEmpty := by
  intro bad hb
  simp only [List.mem_cons, List.not_mem_nil, or_false] at hb
  rcases hb with rfl | rfl <;> (try dsimp only) <;> and_intros <;> decide +kernel

theorem wit_restoreCopy (m : Move) (bad : List Nat) : currentCopy (movingRoot m bad) (rec7 .steward).root ≠ none := by
  have h : currentCopy (movingRoot m bad) Config.hbmBase = some (0, rootHeader) := withRoot_copy _ _ rfl rfl
  exact fun e => Option.some_ne_none _ (h.symm.trans e)

/-- O39: a FETCH of a good image of 528 bytes into too few and just enough, and of an image with another magic. -/
theorem wit_fetchEnds :
    let m (len : Nat) := moveOf 0x15 8 (leBytes 8 7 ++ leBytes 8 0x1000 ++ leBytes 8 len) .data
    let b (len : Nat) : State :=
      let s := moving (strataUp [rec7 .host]) (m len)
      { s with sealEng := { s.sealEng with ctx1 := some ⟨21, 1, false⟩ } }
    let s (len : Nat) := hostWrite (b len) 0x1000
      (leBytes 4 0x4C505354 ++ leBytes 2 1 ++ leBytes 2 0 ++ leBytes 8 7 ++ leBytes 8 0 ++ leBytes 8 256)
    let hdr (s : State) := hostRead s 0x1000 256
    (∀ len ∈ [256, 527, 528], findMove (s len) 5 = some (m len) ∧ (m len).stage = .data ∧ (m len).spoke = 8
      ∧ findRec (s len) (m len).handle = some (rec7 .host) ∧ sealHolds (s len) (sealWho 5) = true
      ∧ (m len).asCmd.f 0x10 8 = 0x1000 ∧ (m len).asCmd.f 0x18 8 = len)
    ∧ (leAt (hdr (b 256)) 0 4 ≠ 0x4C505354 ∧ findMove (b 256) 5 = some (m 256) ∧ sealHolds (b 256) (sealWho 5) = true)
    ∧ (leAt (hdr (s 528)) 0 4 = 0x4C505354 ∧ leAt (hdr (s 528)) 6 1 = 0 ∧ leAt (hdr (s 528)) 8 8 = 7
      ∧ leAt (hdr (s 528)) 0x10 8 = (rec7 .host).spillSeq ∧ imageLen (leAt (hdr (s 528)) 0x18 8) = 528) := by
  (try dsimp only); and_intros <;> decide +kernel

/-- A loaded model of one layer. -/
def model1 : ModelSlot := { loaded := true, shape := ⟨1, 1, 32, 0⟩, maxTokens := 3, phases := [(0, 64, 1), (0, 64, 1)] }
/-- A session of command 5 for handle 7. -/
def session7 : Session := { cmd := 5, tenant := 0, handle := 7, ingested := 1, heldBack := 0, buf := 0 }
/-- A window of slot 1 that opened at 20 s less 1 ms. -/
def window1 (len : Nat) : Window := { slot := 1, opened := 19999000, lengthUs := len, maxSessions := 8, sessions := [session7] }

/-- O40: MODEL_LOAD into a loaded slot and of a bad header; MODEL_UNLOAD of each kind of slot. -/
theorem wit_models :
    let l := modelCmd
    let u := cmdOf 0 0x17 [1]
    let md (s : State) : State := setModel s 1 model1
    let bnd : Stratum := { rec7 .host with mode := 2, slot := 1 }
    (startsNow (holding (md (strataUp [])) l) 5 0x16 none l = true ∧ modelDoms (holding (md (strataUp [])) l) l = none
      ∧ (getModel (markStarted (holding (md (strataUp [])) l) 5) 1).loaded = true)
    ∧ (startsNow (holding (strataUp []) l) 5 0x16 none l = true ∧ modelDoms (holding (strataUp []) l) l = none
      ∧ (getModel (markStarted (holding (strataUp []) l) 5) 1).loaded = false
      ∧ modelHeaderOk (hostRead (markStarted (holding (strataUp []) l) 5) 0x1000 0x40) 960 = false)
    ∧ (startsNow (holding up u) 5 0x17 none u = true ∧ (getModel (markStarted (holding up u) 5) 1).loaded = false)
    ∧ (let s := holding (setWindow (md up) 1 (some (window1 1000))) u
       startsNow s 5 0x17 none u = true ∧ (getModel (markStarted s 5) 1).loaded = true ∧ 0 < batchesOf (markStarted s 5) 1)
    ∧ (let s := holding (md (strataUp [bnd])) u
       startsNow s 5 0x17 none u = true ∧ batchesOf (markStarted s 5) 1 = 0 ∧ boundTo (markStarted s 5) 1 ≠ [])
    ∧ (let s := holding (md up) u
       startsNow s 5 0x17 none u = true ∧ (getModel (markStarted s 5) 1).loaded = true ∧ batchesOf (markStarted s 5) 1 = 0
       ∧ boundTo (markStarted s 5) 1 = []) := by (try dsimp only); and_intros <;> decide +kernel

/-- O40: the first and the last byte of HBM, in no stratum and in one that a transfer reads and does not. -/
theorem wit_hbmErrors :
    let s := strataUp [rec7 .steward]
    let x : State := { s with strata := { s.strata with extents := [⟨0, 3, 0, 7⟩] } }
    let m := moveOf 0x11 0 (moveRaw 7) .data
    let f (s : State) : Option Move := s.strata.moves.find? (fun m => m.handle = 7 && m.stage = .data && (m.op = 0x11 || m.op = 0x14))
    domOn s 14 = true ∧ Config.hbmBase ≤ Config.hbmBase + Config.hbmBytes - 1
    ∧ Config.hbmBase + Config.hbmBytes - 1 < Config.hbmBase + Config.hbmBytes ∧ stratumAt s Config.hbmBase = none
    ∧ stratumAt x (Config.hbmBase + 0x2FFFF) = some 7 ∧ stratumAt x (Config.hbmBase + 0x30000) = none
    ∧ (f (moving x m) = some m ∧ m.stopping = false) ∧ (f x = none ∧ x.strata.batch = none) := by
  (try dsimp only); and_intros <;> decide +kernel

/-- An INGEST of handle 7 with slot 1, of `n` tokens, the last of them kept or held back. -/
def ingestCmd (n : Nat) (keep : Byte) : Cmd := cmdOf 0 0x12 (leBytes 8 7 ++ [1, keep, 0, 0] ++ leBytes 4 n ++ leBytes 8 0x1000)

/-- O41: an INGEST refused (one token beyond MAX_TOKENS), one that adds none. -/
theorem wit_ingests :
    let s (c : Cmd) := holding (setModel (strataUp [rec7 .steward]) 1 model1) c
    (∀ c ∈ [ingestCmd 3 1, ingestCmd 1 0], startsNow (s c) 5 0x12 none c = true ∧ modelDoms (s c) c = none
      ∧ (s c).therm.latch.getLsbD 8 = false ∧ findRec (markStarted (s c) 5) c.handle = some (rec7 .steward))
    ∧ (ingestRefusal (markStarted (s (ingestCmd 3 1)) 5) (ingestCmd 3 1) (rec7 .steward)).isSome = true
    ∧ ingestRefusal (markStarted (s (ingestCmd 1 0)) 5) (ingestCmd 1 0) (rec7 .steward) = none := by
  (try dsimp only); and_intros <;> decide +kernel

/-- An INGEST of two tokens into a stratum whose root has a copy, with `n` units of HBM free. -/
def ingestAt (n : Nat) : State := withRoot (holding (hbmLeft (setModel (strataUp [rec7 .steward]) 1 model1) n) (ingestCmd 2 1))

/-- O41: one unit and two units left for a session that needs two. -/
theorem wit_ingestRoom : ∀ n ∈ [1, 2],
    let u := markStarted (ingestAt n) 5
    let c := ingestCmd 2 1
    startsNow (ingestAt n) 5 0x12 none c = true ∧ modelDoms (ingestAt n) c = none ∧ (ingestAt n).therm.latch.getLsbD 8 = false
    ∧ findRec u c.handle = some (rec7 .steward) ∧ ingestRefusal u c (rec7 .steward) = none
    ∧ (allocateAll u 3 5 ((newBlocks 1 2).map (fun k => unitsOf (k * (rec7 .steward).shape.tokenBytes))
        ++ [unitsOf (rowBytes (getModel u 1) 2)])).isSome = decide (n = 2) := by
  intro n hn
  simp only [List.mem_cons, List.not_mem_nil, or_false] at hn
  rcases hn with rfl | rfl <;> (try dsimp only) <;> and_intros <;> decide +kernel

theorem wit_ingestCopy (n : Nat) : currentCopy (markStarted (ingestAt n) 5) (rec7 .steward).root ≠ none := by
  have hm : (markStarted (ingestAt n) 5).mem
      = (withRoot (holding (hbmLeft (setModel (strataUp [rec7 .steward]) 1 model1) n) (ingestCmd 2 1))).mem := by
    simp only [markStarted_keeps, ingestAt]
  have h : currentCopy (markStarted (ingestAt n) 5) Config.hbmBase = some (0, rootHeader) := withRoot_copy _ _ rfl hm
  exact fun e => Option.some_ne_none _ (h.symm.trans e)

/-- O41: a window whose length has just passed and one that lacks 1 us; batches that start, or do not; a batch with a next phase, with
items to run again and with none; sessions to fail. -/
theorem wit_batches :
    let b (layer phase : Nat) (redo : List Nat) : Batch := { win := window1 0, layer := layer, phase := phase, redo := redo }
    let md (s : State) : State := setModel s 1 model1
    let q (s : State) : State := { s with strata := { s.strata with queue := [window1 0] } }
    let on := strataUp [rec7 .steward]
    (getWindow (setWindow up 1 (some (window1 1000))) 1 = some (window1 1000) ∧ (window1 1000).opened + (window1 1000).lengthUs ≤ up.tick
      ∧ up.tick < (window1 1001).opened + (window1 1001).lengthUs)
    ∧ ((q on).strata.batch = none ∧ (q on).strata.queue = [window1 0] ∧ (q on).therm.latch.getLsbD 8 = false
      ∧ firstNotOn (q on) (4 :: (hbmDoms ++ loamDoms)) = none ∧ (getModel (q on) 1).loaded = false
      ∧ (getModel (q (md on)) 1).loaded = true ∧ firstNotOn (q (md on)) (4 :: (hbmDoms ++ loamDoms)) = none
      ∧ { (q on).therm with latch := 0x100 }.latch.getLsbD 8 = true)
    ∧ (on.strata.queue = [] ∧ (setBatch on (some (b 0 0 []))).strata.batch = some (b 0 0 []))
    ∧ (b 0 0 []).launch = none ∧ (b 0 0 []).redo = [] ∧ nextPhase model1 (b 0xFFFF 0 []) = some (0, 0)
    ∧ nextPhase model1 (b 0 0 []) = some (0, 1) ∧ nextPhase model1 (b 0 1 []) = none
    ∧ ((b 0 1 [4]).redo ≠ [] ∧ (b 0 1 [4]).layer ≠ 0xFFFF)
    ∧ (findRec on session7.handle = some (rec7 .steward) ∧ { session7 with ue := true }.ue = true) := by
  (try dsimp only); and_intros <;> decide +kernel

/-! ### Links and accelerators -/

/-- Spoke 0 and A0 as given, its domain ON since 20 s less 100 us. -/
def spokeAcc (x : Spoke) (a : Acc) : State := setSpoke (setAcc (doms [(6, { isOn with since := 19999900 })]) 0 a) 0 x
/-- A0 with VCORE good since 20 s less k us. -/
def vcoreSince (p : AccPhase) (k : Nat) : Acc := { phase := p, rails := [(4, { en := true, pg := true, onSince := 20000000 - k })] }

/-- O42: U up and not, its forms at their bounds, VF counts and BAR2 sizes at their bounds, and in Recovery. -/
theorem wit_uLink :
    up.crd.phase = .running ∧ up.crd.fallback = false ∧ up.crd.perstN = true ∧ linkForm 1 1 = true ∧ linkForm 6 16 = true
    ∧ linkForm 0 1 = false ∧ linkForm 7 16 = false ∧ linkForm 6 2 = false
    ∧ ({ up.qc with vfs := 1 }.vfs ≠ 0 ∧ (63 < 64 ∧ (19 < 20 ∨ 36 < 19) ∧ (37 < 20 ∨ 36 < 37))) ∧ (up.qc.vfs = 0 ∧ 63 ≤ 63 ∧ 20 ≤ 20 ∧ 36 ≤ 36)
    ∧ { up.crd with perstN := false }.perstN = false ∧ up.links.u.l0 = true ∧ up.links.u.recovering = false
    ∧ { up.links.u with recovering := true }.recovering = true := by and_intros <;> decide

/-- O42: SPERST_N 100 us and 99 us after VCORE; each state of a spoke's link, with its times due and not. -/
theorem wit_spokeLink :
    let t (k : Nat) := spokeAcc {} (vcoreSince .link k)
    let e (x : Spoke) := spokeAcc x (vcoreSince .link 100)
    let v (x : Spoke) := spokeAcc x { st := .run }
    ((getAcc (t 100) 0).phase = .link ∧ (getSpoke (t 100) 0).sperstHigh = false ∧ domOn (t 100) 6 = true
      ∧ (getDom (t 100) 6).since + 100 ≤ (t 100).tick ∧ (getRail (getAcc (t 100) 0) 4).onSince + 100 ≤ (t 100).tick
      ∧ (t 99).tick < (getRail (getAcc (t 99) 0) 4).onSince + 100 ∧ (getAcc (t 99) 0).phase = .link)
    ∧ (linkForm 6 16 = true ∧ 6 ≤ (getSpoke (e { link := .training }) 0).maxRate ∧ 16 ≤ (getSpoke (e { link := .training }) 0).maxWidth
      ∧ domOn (e { link := .training }) 6 = true ∧ (getSpoke (e { link := .training }) 0).link = .training)
    ∧ ((getSpoke (e { link := .recovery, enum := .done }) 0).link = .recovery ∧ (getSpoke (e { link := .recovery, enum := .done }) 0).enum = .done)
    ∧ ((getSpoke (e { link := .l0 }) 0).link = .l0 ∧ spokeMove (e { link := .l0 }) 0 = none
      ∧ spokeMove (moving (e { link := .l0 }) (moveOf 0x11 0 [] .data)) 0 = some (moveOf 0x11 0 [] .data))
    ∧ (getSpoke (e {}) 0).link ≠ .l0 ∧ (accLive (getAcc (v { link := .l0 }) 0) = true ∧ (getSpoke (v { link := .l0 }) 0).link = .l0)
    ∧ (let r (k : Nat) := v { link := .detect, linkDown := true, retryAt := some (19999999 + k) }
       (getSpoke (r 1) 0).retryAt = some 20000000 ∧ (getSpoke (r 1) 0).linkDown = true ∧ (getSpoke (r 1) 0).link ≠ .l0
       ∧ accLive (getAcc (r 1) 0) = true ∧ 20000000 ≤ (r 1).tick ∧ (r 2).tick < 20000001)
    ∧ (let m (k : Nat) := spokeAcc { link := .training, since := 19979999 + k } { vcoreSince .link 100 with before := .retain }
       (getAcc (m 1) 0).phase = .link ∧ (getSpoke (m 1) 0).link = .training ∧ (getSpoke (m 1) 0).since + 20000 ≤ (m 1).tick
       ∧ (getAcc (m 1) 0).before = .retain ∧ (m 2).tick < (getSpoke (m 2) 0).since + 20000) := by
  (try dsimp only); and_intros <;> decide

/-- O42 to O44: a clock driven and not, 100 us old and 99; a link that relocks; L0p with and without L0P_EN, and of U; the contract's
capability, of another vendor and of none; a context free, held and none left. -/
theorem wit_linkForms :
    let e (x : Spoke) := spokeAcc x { st := .run }
    let u : ULink := { l0 := true, rate := 6, width := 16 }
    let r (who : Nat) : SealReq := ⟨who, 1, false⟩
    let q (a b : Option SealReq) : State := { up with sealEng := { up.sealEng with ctx0 := a, ctx1 := b, bootReserved := false } }
    (refClock (e {}) 0 = true ∧ refClock State.reset 0 = false ∧ (getSpoke (e { clkSince := 19999900 }) 0).clkSince + 100 ≤ (e {}).tick
      ∧ (e {}).tick < (getSpoke (e { clkSince := 19999901 }) 0).clkSince + 100)
    ∧ (let x : Spoke := { link := .l0, enum := .done, rate := 6, width := 16, locked := true }
       (getSpoke (e { x with locked := false }) 0).locked = false ∧ (getSpoke (e x) 0).locked = true ∧ x.rate = 6 ∧ 16 ≤ x.width ∧ 8 < x.width
       ∧ 6 ≤ x.maxRate ∧ 16 ≤ x.maxWidth ∧ cfgF (cfgSet (e x) 0x508104 0x10) 0x508104 4 4 = 1 ∧ cfgF (cfgSet (e x) 0x508104 0) 0x508104 4 4 = 0)
    ∧ (u.l0 = true ∧ u.recovering = false ∧ u.rate = 6 ∧ 8 ≤ u.width ∧ (5 : Nat) ≠ u.rate ∧ ({} : ULink).l0 = false)
    ∧ (e { link := .l0, ready := true }).tick ≤ 19990000 + 10000
    ∧ (sealFree (q none none) = true ∧ sealFree (q (some (r 3)) (some (r 4))) = false ∧ sealHolds (q (some (r 3)) none) 3 = true
      ∧ sealHolds (q none none) 3 = false ∧ (q none none).sealEng.waiting.any (fun y => y.who = 3) = false) := by
  (try dsimp only); and_intros <;> decide

/-- O43: an enumeration that finds the contract. -/
theorem wit_contractFound :
    let e : EnumIn := ⟨[⟨2, 0x2000, true, 0x100000000⟩], [⟨Config.vendorId, 0x0A80, 0, 2, 0⟩], 0x4B430100, 0, 0, 0, 0⟩
    barsFit e.bars = true ∧ barsPlaced e.bars = true ∧ findsContract e = true
    ∧ findsContract { e with kcId := 0x4B440100 } = false ∧ findsContract { e with kcId := 0x4B430200 } = false
    ∧ findsContract { e with bars := [] } = false := by
  refine ⟨by decide, by decide, ?_, ?_, ?_, ?_⟩ <;> simp [findsContract, contractCap, barAt]

/-- O43: enumeration 99.999 ms after L0, one that fits with a contract, with another signature, and one that does not fit; KC_STAT at 1
ms; each answer of a mailbox, at its time limit; the RETAIN handshake at its grace; a command held for 10 ms; a retrain. -/
theorem wit_contract :
    let g : EnumIn := ⟨[⟨0, 0x2000, true, 0x100000000⟩], [], 0x4B430100, 0, 0, 0, 0⟩
    let e (x : Spoke) := spokeAcc x { st := .run }
    let m (st : MoveStage) (k : Nat) : Move := { moveOf 0x10 0 (moveRaw 7) st with mbxSeq := 1, since := k }
    let w (st : MoveStage) (k : Nat) := moving (e { link := .l0, ready := true }) (m st k)
    let lim (s : State) : Nat := cfgF s (0x50810C + 0x40 * 0) 15 0
    ((getSpoke (e { link := .l0, enum := .readiness, since := 19900001 }) 0).enum = .readiness
      ∧ (e {}).tick < 19900001 + 100000)
    ∧ ((getSpoke (e { link := .l0, enum := .enumerate, locked := true }) 0).enum = .enumerate ∧ barsFit g.bars = true
      ∧ (getSpoke (e { link := .l0, enum := .enumerate, locked := true }) 0).locked = true
      ∧ barsPlaced g.bars = true ∧ findsContract g = false
      ∧ barsFit [⟨0, 2 ^ 32, false, 0⟩] = true ∧ barsFit [⟨0, 2 ^ 32, false, 0⟩, ⟨1, 4096, false, 0⟩] = false
      ∧ barsFit [⟨0, 2 ^ 36, true, 0⟩] = true ∧ barsFit [⟨0, 2 ^ 36, true, 0⟩, ⟨2, 4096, false, 0⟩] = false
      ∧ (getSpoke (e { link := .l0, enum := .readiness, since := 19900000 }) 0).since + 100000 ≤ (e {}).tick)
    ∧ ((getSpoke (e { link := .l0, enum := .poll, since := 19999000 }) 0).enum = .poll ∧ (e {}).tick ≤ 19999000 + 1000
      ∧ (e {}).tick < 19999001 + 1000)
    ∧ (∀ st ∈ [MoveStage.begin, .ending], spokeMove (w st 0) 0 = some (m st 0) ∧ mbxWaits (m st 0) = true
      ∧ spokeReady (w st 0) 0 = true ∧ (w st 0).tick < (m st 20000000).since + lim (w st 0)
      ∧ (m st (20000000 - lim (w st 0))).since + lim (w st 0) ≤ (w st 0).tick)
    ∧ (2 ≠ (m .begin 0).mbxSeq)
    ∧ (let h (k : Nat) := spokeAcc { link := .l0, ready := true } { st := .run, phase := .handshake, since := k }
       let l := graceUs (h 0) 0
       (getAcc (h 0) 0).phase = .handshake ∧ getStop (h 0) 0 = none ∧ spokeReady (h 0) 0 = true ∧ (h 0).tick ≤ (20000000 - l) + l
       ∧ (h 0).tick < (20000001 - l) + l)
    ∧ (let c (k : Nat) : Cmd := { cmdOf 0 0x23 [] with holdSince := some k }
       let p (k : Nat) : Cmd := { cmdOf 0 0x10 (moveRaw 7) with holdSince := some k }
       findCmd (holding up (c 19990000)) 5 = some (c 19990000) ∧ 19990000 + 10000 ≤ up.tick ∧ up.tick < 19990001 + 10000
       ∧ (c 0).op ≠ 0x20 ∧ findMove (holding up (c 19990000)) 5 = none
       ∧ findCmd (holding (moving up (m .begin 0)) (p 19990000)) 5 = some (p 19990000) ∧ (p 0).op ≠ 0x20
       ∧ findMove (holding (moving up (m .begin 0)) (p 19990000)) 5 = some (m .begin 0))
    ∧ (let v : Word := 0x11006
       hostMay (e { link := .l0 }) 0 = true ∧ 1 ≤ bf v 3 0 ∧ bf v 3 0 ≤ 6 ∧ bf v 12 8 = 16 ∧ v.getLsbD 16 = true
       ∧ (getAcc (e { link := .l0 }) 0).st = .run ∧ (getSpoke (e { link := .l0 }) 0).link = .l0
       ∧ (getAcc up 0).st ≠ .idle ∧ (getAcc up 0).st ≠ .run ∧ hostMay up 0 = true) := by (try dsimp only); and_intros <;> decide

/-- O44: a push that ends at the window's end and one byte past it, to a ready spoke and one that is not; a release likewise; RELEASED
after 100 ms less 1 us and after 100 ms. -/
theorem wit_accFw :
    let push (len : Nat) := cmdOf 0 0x23 ([0, 0, 0, 0, 0, 0, 0, 0] ++ leBytes 8 0x1000 ++ leBytes 8 len ++ leBytes 8 0)
    let rel := cmdOf 0 0x24 [0]
    let b (ready : Bool) (c : Cmd) := holding (setAccBoot
      (spokeAcc { link := .l0, ready := ready, contract := true, bootSize := 4096 } { st := .run }) 0 { windowOpen := true }) c
    let r (k : Nat) (c : Cmd) := setAccBoot (b true c) 0 { windowOpen := true, relCmd := some 5, relSince := k }
    (∀ ready ∈ [true, false], startsNow (b ready (push 4096)) 5 0x23 none (push 4096) = true
      ∧ domOn (b ready (push 4096)) (6 + (push 4096).accN) = true
      ∧ bootRefusal (markStarted (b ready (push 4096)) 5) (push 4096) = none
      ∧ spokeReady (markStarted (b ready (push 4096)) 5) (push 4096).accN = ready
      ∧ startsNow (b ready rel) 5 0x24 none rel = true ∧ bootRefusal (markStarted (b ready rel) 5) rel = none
      ∧ spokeReady (markStarted (b ready rel) 5) rel.accN = ready)
    ∧ (startsNow (b true (push 4100)) 5 0x23 none (push 4100) = true
      ∧ (bootRefusal (markStarted (b true (push 4100)) 5) (push 4100)).isSome = true)
    ∧ (let s := holding (doms [(6, isOn)]) rel
       startsNow s 5 0x24 none rel = true ∧ domOn s (6 + rel.accN) = true ∧ (bootRefusal (markStarted s 5) rel).isSome = true)
    ∧ ((getAccBoot (r 19900000 rel) 0).relCmd = some 5 ∧ spokeReady (r 19900000 rel) 0 = true ∧ findCmd (r 19900000 rel) 5 ≠ none
      ∧ (getAccBoot (r 19900000 rel) 0).relSince + 100000 ≤ (r 19900000 rel).tick
      ∧ (r 0 rel).tick < (getAccBoot (r 19900001 rel) 0).relSince + 100000) := by (try dsimp only); and_intros <;> decide

/-- An ACC_POWER_STATE of A0. -/
def powerCmd (tenant : Nat) (want : Byte) : Cmd := cmdOf tenant 0x20 [0, want]

/-- O45: a refusal, the target reached already, a transition to begin and one under way; T64's ceiling at the state. -/
theorem wit_power :
    let s (a : Acc) (c : Cmd) := holding (spokeAcc {} a) c
    let c (want : Byte) := powerCmd 0 want
    (∀ want ∈ [2, 0, 1], startsNow (s {} (c want)) 5 0x20 none (c want) = true ∧ (c want).tenant ≠ 64 ∧ (getAcc (s {} (c want)) 0).phase = .none
      ∧ getStop (s {} (c want)) 0 = none ∧ powerDoms (s {} (c want)) (c want) = none ∧ (c want).accN = 0)
    ∧ (powerRefusal (markStarted (s {} (c 2)) 5) 0 .retain).isSome = true
    ∧ (powerRefusal (markStarted (s {} (c 0)) 5) 0 .off = none ∧ (getAcc (s {} (c 0)) 0).st = .off)
    ∧ (powerRefusal (markStarted (s {} (c 1)) 5) 0 .aux = none ∧ (getAcc (s {} (c 1)) 0).st ≠ .aux)
    ∧ (findCmd (s { phase := .link } (c 1)) 5 = some (c 1) ∧ (getAcc (s { phase := .link } (c 1)) 0).phase ≠ .none)
    ∧ (let b := powerCmd 64 1
       startsNow (s { st := .aux } b) 5 0x20 none b = true ∧ b.tenant = 64 ∧ (getAcc (s { st := .aux } b) 0).phase = .none
       ∧ (getAcc (s { st := .aux } b) 0).st.code ≤ (AccSt.ofCode (b.f 9 1)).code) := by (try dsimp only); and_intros <;> decide

/-- O45: rails to come up and to go off, due and 1 us before; a rail that becomes good, the last of a sequence to AUX and of one to RUN;
PG_TIMEOUT; power-good falling on an armed rail and on one that is not. -/
theorem wit_rails :
    let s (a : Acc) := spokeAcc {} a
    let bad : KMap Rail := [(0, { en := true, onSince := 19990000 })]
    let good : KMap Rail := [(0, { en := true, pg := true, armed := true })]
    (let u (k : Nat) (r : KMap Rail) : Acc := { phase := .up [1, 2], upped := [0], rails := r, since := 19999000 + k }
     (∀ q ∈ (u 0 good).upped, (getRail (u 0 good) q).pg = true) ∧ (getAcc (s (u 0 good)) 0).since + upSpace (u 0 good) ≤ (s (u 0 good)).tick
     ∧ (s (u 1 good)).tick < (u 1 good).since + upSpace (u 1 good) ∧ (∃ q ∈ (u 0 bad).upped, (getRail (u 0 bad) q).pg = false)
     ∧ (getAcc (s (u 0 good)) 0).phase = .up (1 :: [2]))
    ∧ (let d (p : AccPhase) (k : Nat) : Acc := { phase := p, since := 19999000 + k }
       (getAcc (s (d (.down [0]) 0)) 0).phase = .down [0] ∧ (d (.down [0]) 0).since + downSpace (d (.down [0]) 0) ≤ (s {}).tick
       ∧ (getAcc (s (d (.failed [0]) 0)) 0).phase = .failed [0] ∧ (s {}).tick < (d (.failed [0]) 1).since + downSpace (d (.failed [0]) 1))
    ∧ (let p (ph : AccPhase) (want : AccSt) : Acc := { phase := ph, target := want, upped := [0], rails := bad }
       (getRail (p .none .off) 0).en = true ∧ (getRail (p .none .off) 0).pg = false ∧ (p .none .off).phase = .none
       ∧ (∀ want ∈ [AccSt.aux, .run], (getAcc (s (p (.up []) want)) 0).phase = .up [] ∧ (getAcc (s (p (.up []) want)) 0).target = want
         ∧ ∀ q ∈ (getAcc (s (p (.up []) want)) 0).upped, (getRail (getAcc (modRail (s (p (.up []) want)) 0 0
           (fun x => { x with pg := true, armed := true, onSince := 20000000 })) 0) q).pg = true))
    ∧ (let a : Acc := { phase := .up [1], upped := [0], rails := bad }
       (getAcc (s a) 0).phase = .up [1] ∧ 0 ∈ (getAcc (s a) 0).upped ∧ (getRail (getAcc (s a) 0) 0).pg = false
       ∧ (getRail (getAcc (s a) 0) 0).onSince + pgLimit (getAcc (s a) 0) ≤ (s a).tick)
    ∧ (∀ r ∈ ([0, 4] : List (Fin 5)), (getRail (getAcc (s { rails := bad }) 0) r.val).armed = false)
    ∧ (getRail (getAcc (s { rails := good }) 0) 0).armed = true := by (try dsimp only); and_intros <;> decide

/-- An ACC_RAIL_SET of rail 1 of A0. -/
def railCmd (mv : Nat) : Cmd := cmdOf 0 0x21 ([0, 1, 0, 0] ++ leBytes 4 mv ++ leBytes 4 10)
/-- Rail 1 of A0 with a regulator and a range of 800 to 900 mV. -/
def railRange (a : Acc) : State := cfgSet (cfgSet (spokeAcc {} a) (railBase 0 1) 0x20) (railBase 0 1 + 4) (BitVec.ofNat 32 (900 * 65536 + 800))

/-- O46: rail settings with no regulator, at and beyond both ends of the range, cut, in another mode, raised under a latch. -/
theorem wit_railSet :
    let s (a : Acc) (mv : Nat) := holding (railRange a) (railCmd mv)
    let x (s : State) : Rail := getRail (getAcc s 0) 1
    (∀ mv ∈ [799, 800, 900, 901], startsNow (s {} mv) 5 0x21 none (railCmd mv) = true ∧ (railCmd mv).f 0xC 4 = mv
      ∧ hasReg (s {} mv) 0 1 = true ∧ bf (cfgGet (s {} mv) (railBase 0 1 + 4)) 31 16 = 900
      ∧ bf (cfgGet (s {} mv) (railBase 0 1 + 4)) 15 0 = 800)
    ∧ (startsNow (holding up (railCmd 800)) 5 0x21 none (railCmd 800) = true ∧ hasReg (holding up (railCmd 800)) 0 1 = false)
    ∧ (startsNow (s { cut := true } 800) 5 0x21 none (railCmd 800) = true ∧ (getAcc (s { cut := true } 800) 0).cut = true)
    ∧ (let m (v : Nat) : State := let t := s {} 800
         { t with tw := { t.tw with voutMode := KMap.set (fun _ => none) t.tw.voutMode 1 (some v) } }
       startsNow (m 32) 5 0x21 none (railCmd 800) = true ∧ modeUnsupported (m 32) 0 1 = true ∧ modeUnsupported (m 31) 0 1 = false)
    ∧ (let t : State := { s {} 800 with therm := { up.therm with latch := 1 } }
       startsNow t 5 0x21 none (railCmd 800) = true ∧ t.therm.latch.getLsbD 0 = true
       ∧ railTarget (x t) < railTarget { x t with hostMv := 800 } ∧ modeUnsupported t 0 1 = false ∧ (getAcc t 0).cut = false
       ∧ (s {} 800).therm.latch.getLsbD 0 = false) := by (try dsimp only); and_intros <;> decide

/-- O46: a step due on the grid and not; its last step with and without a command, one that goes on; the third and the fourth try;
limits; an effective limit to write, retried at 100 ms. -/
theorem wit_slew :
    let s (x : Rail) := cfgSet (spokeAcc {} { rails := [(1, x)] }) (railBase 0 1) 0x20
    let m : Rail := { en := true, moving := true, target := 850, applied := 800, slew := 1, lastStep := some 19999999 }
    let z : Rail := { target := 850, applied := 800 }
    (stepDue (s m) (getRail (getAcc (s m) 0) 1) = true ∧ nextMv (getRail (getAcc (s m) 0) 1) ≠ 850
      ∧ stepDue (s m) { m with lastStep := some 20000000 } = false ∧ storedDue (s m) 0 1 = false ∧ hasReg (s m) 0 1 = true
      ∧ hasReg (spokeAcc {} { rails := [(1, { m with slewing := some 5 })] }) 0 1 = false)
    ∧ (storedDue (s z) 0 1 = true ∧ (getRail (getAcc (s z) 0) 1).tries < 3
      ∧ 3 ≤ (getRail (getAcc (s { z with tries := 3 }) 0) 1).tries ∧ storedDue (s { z with tries := 3 }) 0 1 = true)
    ∧ (nextMv { m with slew := 0 } = 850 ∧ m.slewing = none ∧ { m with slewing := some 5 }.slewing = some 5
      ∧ stepDue (s m) { m with slew := 0, slewing := some 5 } = true)
    ∧ ({ m with tries := 2 }.tries < 3 ∧ 3 ≤ { m with tries := 3 }.tries ∧ stepDue (s m) { m with tries := 3 } = true)
    ∧ (let c := cmdOf 0 0x22 ([7, 0, 0, 0] ++ leBytes 4 100 ++ leBytes 4 0)
       startsNow (holding up c) 5 0x22 none c = true ∧ c.f 8 1 < 8 ∧ c.tenant ≠ 64)
    ∧ (let l (a : Acc) := cfgSet (cfgSet (spokeAcc {} a) (railBase 0 4) 0x20) (accBase 0 + 8) 5000
       let a : Acc := { st := .run, tries := 2 }
       ((getAcc (l { a with phase := .limit, target := .run }) 0).phase = .limit
         ∧ hasReg (l { a with phase := .limit, target := .run }) 0 4 = true
         ∧ hasReg (spokeAcc {} { a with phase := .limit, target := .run }) 0 4 = false)
       ∧ (getAcc (l a) 0).phase = .none ∧ limitDue (l a) 0 = true ∧ a.failedMa ≠ some (limitIn (l a) 0 .run) ∧ a.tries < 3
       ∧ (let b : Acc := { a with tries := 3, retryAt := some 20000000 }
          limitDue (l b) 0 = true ∧ 3 ≤ b.tries ∧ (getAcc (l b) 0).retryAt = some 20000000 ∧ 20000000 ≤ (l b).tick ∧ (l b).tick < 20000001)) := by
  (try dsimp only); and_intros <;> decide

/-- O47: samples that fail and are good, with a limit of one below none and none, VCORE read and not; windows at their end and 1 us
before; the governor with and without work; input lost and present. -/
theorem wit_telemetry :
    let x : TelemIn := ⟨0, 0, [7], .ok⟩
    let at_ (k : Nat) (s : State) : State := { s with pow := { s.pow with sampleAt := KMap.set (fun _ => none) s.pow.sampleAt k (some 19999001) } }
    let l (a : Acc) := spokeAcc {} a
    let al (s : State) : Nat := min (plimApplied (getAcc s 0)) (getAcc s 0).share
    let mon (s : State) : State := cfgSet s 0x50001C 0x20
    let win (k : Nat) : State := { up with pow := { up.pow with avg := [(0, { start := 19000000 + k })], peak := [(0, { start := 19000000 + k })] } }
    let w (m : KMap TelemWin) : TelemWin := KMap.get (fun _ => ({} : TelemWin)) m 0
    (sampleDue up 0 1 = true ∧ sampleDue (at_ 0 up) 0 1 = false ∧ sampleDue up 8 9 = true ∧ sampleDue (at_ 8 up) 8 9 = false
      ∧ hasReg (cfgSet up (railBase 0 4) 0x20) 0 4 = true ∧ hasReg up 0 4 = false ∧ portUp up 1 = true ∧ portUp up 9 = true
      ∧ portEn (cfgSet up 0x800140 0) 1 = false ∧ (getPort (setPort up 1 { st := 2 }) 1).st = 2)
    ∧ ({ x with result := .pecBad }.result ≠ .ok ∧ x.result = .ok ∧ al (l {}) = 0xFFFFFFFF ∧ al (l { plimHost := 0xFFFFFFFE }) ≠ 0xFFFFFFFF
      ∧ { x with vcoreMv := 800 }.vcoreMv ≠ 0 ∧ x.vcoreMv = 0)
    ∧ (cfgF up 0x50001C 6 0 = 0 ∧ cfgF (mon up) 0x50001C 6 0 ≠ 0)
    ∧ ((w (win 0).pow.avg).start + (w (win 0).pow.avg).len ≤ (win 0).tick ∧ (win 1).tick < (w (win 1).pow.avg).start + (w (win 1).pow.avg).len
      ∧ (w (win 0).pow.peak).start + (w (win 0).pow.peak).len ≤ (win 0).tick
      ∧ (win 1).tick < (w (win 1).pow.peak).start + (w (win 1).pow.peak).len)
    ∧ trayApplied up = 0xFFFFFFFF
    ∧ (let g : State := mon { up with pow := { up.pow with trayPlim := 1000, gov := [(8, { sum := 2002, count := 2 })] } }
       trayApplied g ≠ 0xFFFFFFFF ∧ cfgF g 0x50001C 6 0 ≠ 0 ∧ govMean g 8 = some 1001 ∧ trayApplied g < 1001)
    ∧ (accLive (getAcc (l { st := .run }) 0) = true ∧ accLive (getAcc up 0) = false)
    ∧ (up.pow.govAt + 10000 ≤ up.tick ∧ up.tick < { up.pow with govAt := 19990001 }.govAt + 10000)
    ∧ (up.pow.inputLost = false ∧ { up.pow with inputLost := true }.inputLost = true) := by (try dsimp only); and_intros <;> decide

/-- O48: the steward running and in reset; a die zone, an off-die channel present, with each count of failures; readings 12.0 K and
one step more from the median; levels; steps at 4, 5, 15 and 16, due and 1 us before; a stop at its grace; both keys. -/
theorem wit_thermal :
    let ch (s : State) (x : Chan) : State := setChan s 20 x
    let en : State := cfgSet up (0x600100 + 0x20 * 20) 0x80000048
    let k (t : Throttle) : State := setThr up 8 t
    State.reset.crd.phase ≠ .running ∧ up.crd.phase = .running ∧ (-32768 < (-32767 : Int) ∧ (32767 : Int) < 32768)
    ∧ ((15 : Nat) < 16 ∧ cfgF en (0x600100 + 0x20 * 20) 6 0 ≠ 0)
    ∧ ((getChan (ch en { fails := 1 }) 20).fails < 2 ∧ (getChan (ch en { fails := 2 }) 20).fails = 2)
    ∧ (192 < ((193 : Int) - 0).natAbs ∧ ((192 : Int) - 0).natAbs ≤ 192 ∧ ({ apart := 2 } : Chan).apart = 2 ∧ ({ apart := 1 } : Chan).apart < 2
      ∧ ({} : Chan).suspect = false ∧ ({ suspect := true, near := 2 } : Chan).near = 2 ∧ ({ near := 1 } : Chan).near < 2)
    ∧ ((10 : Int) ≤ 10 ∧ (6 : Int) < 10 - 3 ∧ (7 : Int) < 10 ∧ (10 : Int) - 3 ≤ 7)
    ∧ (chanEn en 20 = true ∧ chanEn (cfgSet up 0x600380 0) 20 = false ∧ chanLevel en 20 0x0C ≤ chanLevel en 20 0x0C
      ∧ chanEn up 0 = true ∧ (shutMap (cfgSet up 0x600118 0x10001) 0 >>> 0) % 2 = 1)
    ∧ ((getThr (k { throttled := true, k := 5, nextAt := 20000000 }) 8).throttled = true
      ∧ (getThr (k { throttled := true, k := 5, nextAt := 20000000 }) 8).nextAt ≤ (k {}).tick ∧ 4 < 5
      ∧ (getThr (k { throttled := true, k := 4 }) 8).k = 4 ∧ (k {}).tick < (getThr (k { throttled := true, nextAt := 20000001 }) 8).nextAt)
    ∧ ((getThr (k { k := 15 }) 8).throttled = false ∧ (getThr (k { k := 15 }) 8).k < 16 ∧ 16 ≤ (getThr (k {}) 8).k)
    ∧ up.crd.phase ≠ .por
    ∧ (let g := graceUs up 0
       let p (n : Nat) := setStop up 0 (some ⟨n, [1]⟩)
       getStop (p (20000000 - g)) 0 = some ⟨20000000 - g, [1]⟩ ∧ (20000000 - g) + graceUs (p (20000000 - g)) 0 ≤ up.tick
       ∧ up.tick < (20000001 - g) + g)
    ∧ (hostMay up 0 = true ∧ bf 0x3D#32 7 0 ≠ 0x3C ∧ bf 0x1FF003C#32 7 0 = 0x3C) := by (try dsimp only); and_intros <;> decide

/-! ### Leaks, motors, two-wire, log -/

/-- O48, O49: a channel enabled and not, readings that fail, the die latch; a leak on a pump's loop and none. -/
theorem wit_thermalForms :
    let off : State := cfgSet (cfgSet up (0x600100 + 0x20 * 20) 0x48) 0x600114 0
    (chanEn off 20 = false ∧ 16 ≤ 20 ∧ cfgF off (0x600100 + 0x20 * 20) 6 0 ≠ 0
      ∧ (getChan (setChan off 20 { suspect := true, fails := 1 }) 20).suspect = true)
    ∧ (thermN up = true ∧ thermN { up with therm := { up.therm with latch := 0x100 } } = false
      ∧ thermN { up with therm := { up.therm with hwTrip := true } } = false)
    ∧ (leakOn (setLeak up 0 { confirmed := true, armHost := true }) (pumpLoop up 6) = true ∧ leakOn up (pumpLoop up 6) = false) := by
  (try dsimp only); and_intros <;> decide

/-- O49: a leak sample at the thresholds, an excitation that fails; counts at CONFIRM_MS and one less; 99 and 100 open samples;
LEAK_ARM of T0 and of T64. -/
theorem wit_leaks :
    let th (s : State) : Nat := cfgF s 0x600808 15 0
    let conf (s : State) : Nat := cfgF s 0x600808 31 16
    let l (x : Leak) := setLeak up 7 x
    let a (t : Nat) := cmdOf t 0x32 [0x81, 1]
    (up.crd.phase = .running ∧ State.reset.crd.phase ≠ .running ∧ th up ≤ th up ∧ ¬ th up ≤ th up - 1)
    ∧ ((getLeak (l { suspected := true, count := conf up }) 7).suspected = true ∧ (getLeak (l { suspected := true, count := conf up }) 7).confirmed = false
      ∧ conf (l {}) ≤ (getLeak (l { suspected := true, count := conf up }) 7).count
      ∧ (getLeak (l { suspected := true, count := conf up - 1 }) 7).count < conf (l {}))
    ∧ ((getLeak (l { openCount := 100 }) 7).openCount = 100 ∧ (getLeak (l { openCount := 100 }) 7).opened = false
      ∧ (getLeak (l { openCount := 99 }) 7).openCount ≠ 100)
    ∧ (startsNow (holding up (a 0)) 5 0x32 none (a 0) = true ∧ (a 0).tenant ≠ 64 ∧ startsNow (holding up (a 64)) 5 0x32 none (a 64) = true
      ∧ (a 64).tenant = 64) := by (try dsimp only); and_intros <;> decide

/-- Motor channel 7 as given. -/
def motor7 (x : Motor) : State := setMotor up 7 x
/-- Motor channel 7 with a control word. -/
def motorC (c : Word) (x : Motor) : State := cfgSet (cfgSet (motor7 x) 0x70081C 6000) 0x700800 c

/-- O50: COOL_SET at MAX_RPM and one above; tables of rising and of equal temperatures and one with a read error; a channel that
runs with DRIVE SPEED; ramps; channels to stop, to start, locked out. -/
theorem wit_cooling :
    let c (rpm : Nat) := cmdOf 0 0x30 ([7, 0, 0, 0] ++ leBytes 4 rpm)
    let t := cmdOf 0 0x31 ([7, 2] ++ List.replicate 6 0 ++ leBytes 8 0x1000)
    let r := maxRpm up 7
    let h (w : Nat) := holding (hostWrite up 0x1000 (leBytes 4 0 ++ leBytes 4 w)) t
    let ws (s : State) := (List.range (t.f 9 1)).map (fun i => leAt (hostRead s (t.f 0x10 8 + 4 * i) 4) 0 4)
    let good (s : State) := pointsOk (maxRpm s (t.f 8 1)) ((ws s).map (fun w => (sext 16 (w % 65536), w / 65536)))
    (startsNow (holding up (c r)) 5 0x30 none (c r) = true ∧ (c r).f 0xC 4 = r ∧ startsNow (holding up (c (r + 1))) 5 0x30 none (c (r + 1)) = true
      ∧ (c (r + 1)).f 0xC 4 = r + 1
      ∧ (let b : Cmd := { c r with tenant := 64 }
         startsNow (holding up b) 5 0x30 none b = true))
    ∧ (let l (x : Leak) := setLeak (setLeak up 7 x) 0 x
       leakOn (l {}) (pumpLoop (l {}) 7) = false ∧ leakOn (l { confirmed := true, armHost := true }) (pumpLoop up 6) = true
       ∧ leakOn (l { confirmed := true, armHost := true }) (pumpLoop up 7) = true)
    ∧ (startsNow (h 1) 5 0x31 none t = true ∧ good (h 1) = true ∧ t.f 9 1 ≤ 16 ∧ startsNow (h 0) 5 0x31 none t = true ∧ good (h 0) = false)
    ∧ (let s := motorC 1 { st := .running }
       (getMotor s 7).st = .running ∧ motorDrive s 7 = 0 ∧ (getMotor up 7).st ≠ .running
       ∧ motorDrive (motorC 3 { st := .running }) 7 ≠ 0)
    ∧ ((getMotor (motor7 { st := .lockout }) 7).st = .lockout ∧ (getMotor (motorC 0 { st := .running }) 7).st ≠ .lockout
      ∧ runTarget (motorC 0 { st := .running }) 7 = 0)
    ∧ (let s := motorC 1 { failsafe := 2, en := true }
       (getMotor s 7).st = .stopped ∧ runTarget s 7 ≠ 0 ∧ motorDrive s 7 ≠ 2)
    ∧ (let s := motorC 5 { failsafe := 2, en := true }
       (getMotor s 7).st = .stopped ∧ runTarget s 7 ≠ 0 ∧ motorDrive s 7 = 2)
    ∧ (let s (k a : Nat) := motorC 1 { ramped := k, accel := a, failsafe := 2, en := true }
       (getMotor (s 0 1) 7).accel ≠ 0 ∧ (getMotor (s 0 1) 7).ramped = 0 ∧ runTarget (s 0 1) 7 ≠ 0
       ∧ runTarget (motorC 0 { accel := 1 }) 7 * 1000 ≤ (getMotor (motorC 0 { accel := 1 }) 7).ramped ∧ (getMotor (s 0 0) 7).accel = 0) := by
  (try dsimp only); and_intros <;> decide

/-- O51, O59: edges at a quarter of T_P and just before, in the last tenth of a window and just before it, the third synthetic
tooth, the alignment, a ramp step and the ramp's end, the pause, blanking, both keys, and the speed of a channel; of each event what
is not due. -/
theorem wit_motors :
    let sl : Word := 9
    let c (x : Motor) := motorC 0x200 x
    (up.crd.phase = .running ∧ motorDrive (c {}) 7 ≠ 2 ∧ motorDrive (motorC 4 {}) 7 = 2 ∧ State.reset.crd.phase ≠ .running)
    ∧ (sensorless (c { lastHall := 1 }) 7 = false ∧ (getMotor (c { lastHall := 1 }) 7).lastHall = 1
      ∧ (getMotor (c { st := .running }) 7).st = .running ∧ (getMotor (c {}) 7).st ≠ .ramp ∧ (getMotor (c {}) 7).st ≠ .running)
    ∧ (sensorless (motorC sl {}) 7 = true ∧ (getMotor (motorC sl { st := .ramp }) 7).aligning = false
      ∧ motorDrive (motorC sl { st := .running }) 7 ≠ 2)
    ∧ (let e := getMotor (c { tp := 4000, last := 1000 }) 7
       e.pendingComm = none ∧ (1999 : Nat) < e.last + e.tp / 4 ∧ e.last + e.tp / 4 ≤ 2000)
    ∧ (let e : Motor := { tp := 400, last := 1000, pendingComm := some (2000, 3) }
       (getMotor (c e) 7).pendingComm = some (2000, 3) ∧ (1099 : Nat) < e.last + e.tp / 4 ∧ e.last + e.tp / 4 ≤ 1100
       ∧ (1901 : Nat) < 2000 ∧ (2000 - 1901 : Nat) < (2000 - e.last) / 10 ∧ (2000 - e.last) / 10 ≤ 2000 - 1900
       ∧ e.good < 5 ∧ 5 ≤ { e with good := 5 }.good)
    ∧ (let s := motorC sl { st := .running, pendingComm := some (100, 3) }
       (getMotor s 7).pendingComm = some (100, 3) ∧ (getMotor s 7).st = .running ∧ sensorless s 7 = true ∧ (100 : Nat) ≤ 100 ∧ (99 : Nat) < 100
       ∧ (getMotor (c {}) 7).pendingComm = none)
    ∧ (let x : Motor := { st := .running, tp := 4000, last := 1000, synth := 1 }
       (getMotor (c x) 7).st = .running ∧ (getMotor (c x) 7).tp ≠ 0 ∧ x.last + x.tp * 3 / 2 ≤ 7000 ∧ (6999 : Nat) < x.last + x.tp * 3 / 2
       ∧ x.synth ≠ 2 ∧ x.pendingComm = none ∧ { x with synth := 2 }.synth = 2)
    ∧ (let s := motorC sl { st := .ramp, aligning := true }
       (getMotor s 7).st = .ramp ∧ (getMotor s 7).aligning = true ∧ (getMotor s 7).rampStart + alignCycles s 7 ≤ alignCycles s 7
       ∧ 0 < alignCycles (cfgSet s (motorBase 7 + 0x24) 0x10000) 7)
    ∧ (let s (k : Nat) := motorC sl { st := .ramp, pendingComm := some (100, 3), rampStart := k }
       sensorless (s 0) 7 = true ∧ (getMotor (s 0) 7).aligning = false ∧ (getMotor (s 0) 7).pendingComm = some (100, 3)
       ∧ (getMotor (s 0) 7).rampStart + rampCycles (s 0) 7 ≤ 200 * (s 0).tick
       ∧ 200 * (s 0).tick < (getMotor (cfgSet (s 4000000000) (motorBase 7 + 0x24) 1) 7).rampStart + rampCycles (cfgSet (s 4000000000) (motorBase 7 + 0x24) 1) 7)
    ∧ (let s := c { st := .restart, pauseStart := 7, pause := 1 }
       (getMotor s 7).st = .restart ∧ (getMotor s 7).pauseStart + pauseCycles s 7 ≤ 7 + pauseCycles s 7 ∧ 0 < pauseCycles s 7
       ∧ (getMotor (c {}) 7).st ≠ .restart)
    ∧ ((getMotor (c { latchedLegs := [0, 2], latchedSoft := true }) 7).latchedLegs = [0, 2]
      ∧ (getMotor (c { latchedSoft := true }) 7).latchedSoft = true)
    ∧ (let n (x : Motor) (t : Nat) := (x.desatTimes.filter (fun y => t ≤ y + 2000000000)).length
       (getMotor (c { st := .running, desatTimes := [0, 1] }) 7).st = .running ∧ (getMotor (c { st := .running, desatTimes := [0, 1] }) 7).firstJudged = none
       ∧ n { desatTimes := [0, 1] } 2000000000 = 2 ∧ n { desatTimes := [0, 1] } 2000000001 = 1)
    ∧ (hostMay up 0 = true ∧ bf 0x6C#32 7 0 ≠ 0x6D ∧ bf 0xFF6D#32 7 0 = 0x6D ∧ hostMay State.reset 0 = false)
    ∧ (let s := c { st := .running, tp := 4000, intervals := [1, 2, 3, 4, 5] }
       5 ≤ (getMotor s 7).intervals.length ∧ (getMotor s 7).aligning = false ∧ (getMotor s 7).tp * polePairs s 7 ≠ 0
       ∧ (getMotor (c { aligning := true }) 7).aligning = true)
    ∧ (2 ≤ ([0, 1] : List (Fin 3)).eraseDups.length ∧ (getMotor (c { firstJudged := some (100, 0) }) 7).firstJudged = some (100, 0)
      ∧ (108 : Nat) ≤ 100 + 8 ∧ (1 : Fin 3) ≠ 0) := by (try dsimp only); and_intros <;> decide

/-- Port 10 enabled, its charger to be switched on, in a state. -/
def port10 (x : Port) : State :=
  let s := cfgSet (cfgSet (setPort up 10 x) (portCfg 10) 1) 0x50000C 0x200000
  { s with pow := { s.pow with charging := true } }

/-- O52: no request; a request on a port disabled, DOWN, clearing and usable; the seventh and eighth loss; the pass-through, and one
that waits for its clear; clears at 1 ms and DOWN at 1 s; XFER_CTRL at its bounds; the loop devices at 100 ms, with and without a
device. -/
theorem wit_ports :
    let x (lo : Nat) : Word := BitVec.ofNat 32 (0x80000000 + lo)
    (up.crd.phase = .running ∧ nextReq up 10 = none ∧ State.reset.crd.phase ≠ .running)
    ∧ (nextReq (port10 {}) 10 = some (.charger true) ∧ portEn (port10 {}) 10 = true ∧ (getPort (port10 {}) 10).st = 0
      ∧ reqReads (port10 {}) (.charger true) = 0 ∧ portEn (cfgSet (port10 {}) (portCfg 10) 0) 10 = false
      ∧ (getPort (port10 { st := 3 }) 10).st = 3 ∧ (getPort (port10 { st := 2 }) 10).st = 2)
    ∧ ((getPort (port10 { losses := 6 }) 10).losses < 7 ∧ 7 ≤ (getPort (port10 { losses := 7 }) 10).losses ∧ TwReq.charger true ≠ .xfer)
    ∧ (let s : State := cfgSet { port10 {} with tw := { up.tw with xferBusy := true, chargerOn := true } } 0x801000 0xA000001
       nextReq s 10 = some .xfer ∧ portEn s 10 = true ∧ s.tw.xferBusy = true ∧ hostMay s 0 = true ∧ xferPort s = 10
       ∧ s.tw.xferWait = none ∧ { s.tw with xferWait := some 5 }.xferWait = some 5)
    ∧ (let s (b : Nat) : State := cfgSet { up with tw := { up.tw with hn := [⟨1, 0, 0, 0⟩] } } 0x800004 (BitVec.ofNat 32 b)
       notifyOn (s 0) = false ∧ notifyOn (s 2) = true ∧ (s 2).tw.hn = ⟨1, 0, 0, 0⟩ :: [])
    ∧ ((getPort (port10 { st := 2, attempts := 1, since := 19999000 }) 10).since + 1000 ≤ up.tick ∧ up.tick < 19999001 + 1000
      ∧ ({ attempts := 2 } : Port).attempts < 3 ∧ 3 ≤ ({ attempts := 3 } : Port).attempts ∧ (getPort up 10).st ≠ 2
      ∧ (getPort (port10 { st := 3, since := 19000000 }) 10).since + 1000000 ≤ up.tick ∧ up.tick < 19000001 + 1000000)
    ∧ (hostMay up 0 = true ∧ up.tw.xferBusy = false ∧ (x 0x9000001).getLsbD 31 = true ∧ 9 ≤ bf (x 0x9000001) 27 24
      ∧ bf (x 0xB000020) 27 24 ≤ 11 ∧ bf (x 0xB000020) 5 0 ≤ 32 ∧ 1 ≤ bf (x 0x9000001) 5 0 ∧ bf (x 0x8000001) 27 24 < 9
      ∧ 11 < bf (x 0xC000001) 27 24 ∧ bf (x 0x9000000) 5 0 = 0 ∧ 32 < bf (x 0x9000021) 5 0 ∧ hostMay State.reset 0 = false)
    ∧ (let l (k : Nat) : State := { up with tw := { up.tw with loopAt := some k } }
       loopsDue (l 19900000) = true ∧ loopsDue (l 19900001) = false ∧ loopsDue up = true ∧ up.crd.fwUp = true
       ∧ { up.crd with fwUp := false }.fwUp = false)
    ∧ (portRead up 11 .ok = (up, true) ∧ (portRead up 11 .nackAddr).2 = false ∧ portRead (port10 {}) 10 .ok = (port10 {}, true)
      ∧ (portRead (port10 {}) 10 .pecBad).2 = false ∧ portUp up 11 = true ∧ portEn (cfgSet up (portCfg 11) 0) 11 = false
      ∧ cfgF (port10 {}) 0x50000C 22 16 ≠ 0 ∧ cfgF up 0x50000C 22 16 = 0)
    ∧ (lin11 0 100 = 0 ∧ lin11 0x28F 100 = 65500 ∧ lin11 0 10 = 0)
    ∧ (cfgF (cfgSet up 0x800800 0x40) (0x800800 + 4 * 0) 6 0 ≠ 0 ∧ cfgF (cfgSet up 0x800800 0) (0x800800 + 4 * 0) 6 0 = 0
      ∧ cfgF (cfgSet up 0x800804 0x400000) (0x800800 + 4 * 1) 22 16 ≠ 0 ∧ cfgF (cfgSet up 0x800804 0x40) (0x800800 + 4 * 1) 22 16 = 0) := by
  (try dsimp only); and_intros <;> decide

/-- A W0 write of data bytes with no PEC. -/
def w0Of (count : Nat) (d : List Byte) : W0Write := ⟨count, d, none, false, false⟩

/-- O53: W0 up and not; for each code a write it acts on, with PEC and without; another count, an early STOP, a repeated START, a wrong
PEC and an absent one; T64's pairs full and with room, a completion and none; a Host Notify first in line; codes at their bounds. -/
theorem wit_w0 :
    let e : List Byte := List.replicate 32 0
    let q (n : Nat) : State := setT64 up { up.qc.t64 with q0 := List.replicate n e, q1 := List.replicate n e }
    let room (s : State) : Nat := (t64Entries s (t64Pair (leAt (stagedLow s) 0 1))).length
    let p := cfgSet up 0x800004 1
    let w := w0Of 32 e
    (State.reset.crd.phase ≠ .running ∧ up.crd.phase = .running ∧ pecReq p = true ∧ pecReq up = false)
    ∧ (w0Acts up 0x20 32 true w = true ∧ w0Acts p 0x20 32 true { w with pec := some (w0Sum p 0x20 32 true w) } = true
      ∧ w0Pec 32 w = none ∧ w0Acts up 0x21 32 true w = true ∧ (31 : Nat) ≠ 32 ∧ { w with restart := true }.restart = true
      ∧ { w with stopEarly := true }.stopEarly = true ∧ (w0Of 32 (e.drop 1)).data.length < 32
      ∧ w0Pec 32 { w with pec := some (w0Sum up 0x20 32 true w + 1) } = some (w0Sum up 0x20 32 true w + 1)
      ∧ w0Sum up 0x20 32 true w + 1 ≠ w0Sum up 0x20 32 true w)
    ∧ ((getTen up 64).reset = none ∧ room (q 15) < 16 ∧ 16 ≤ room (q 16)
      ∧ (getTen (modTen up 64 (fun t => { t with reset := some { causes := 16, issuer := 0xFF, start := 0, cmds := [] } })) 64).reset ≠ none)
    ∧ (let s := setT64 up { up.qc.t64 with cq := [e], returned := true }
       w0Acts s 0x23 0 false (w0Of 0 []) = true ∧ s.qc.t64.returned = true ∧ up.qc.t64.returned = false ∧ up.qc.t64.cq = [])
    ∧ (w0Acts up 0x25 2 false (w0Of 0 [0x7F, 0]) = true ∧ leAt ([0x7F, 0] : List Byte) 0 2 ≤ 127
      ∧ w0Acts up 0x25 2 false (w0Of 0 [0x80, 0]) = true ∧ 127 < leAt ([0x80, 0] : List Byte) 0 2)
    ∧ (w0Acts up 0x26 0 false (w0Of 0 []) = true ∧ w0Acts up 0x2F 0 false (w0Of 0 []) = true
      ∧ w0Acts up 0x18 4 true (w0Of 4 [1, 2, 3, 4]) = true)
    ∧ (w0Acts up 0x10 3 true (w0Of 3 [0x3D, 0, 0]) = true ∧ leAt ([0x3D, 0, 0] : List Byte) 0 1 ≠ 0x3C
      ∧ w0Acts up 0x10 3 true (w0Of 3 [0x3C, 0xFF, 1]) = true ∧ leAt ([0x3C, 0xFF, 1] : List Byte) 0 1 = 0x3C
      ∧ w0Acts up 0x11 2 false (w0Of 0 [0x6C, 0]) = true ∧ leAt ([0x6C, 0] : List Byte) 0 1 ≠ 0x6D
      ∧ w0Acts up 0x11 2 false (w0Of 0 [0x6D, 0xFF]) = true ∧ leAt ([0x6D, 0xFF] : List Byte) 0 1 = 0x6D)
    ∧ (let s : State := cfgSet { up with tw := { up.tw with hn := [⟨1, 0, 19900000, 7⟩] } } 0x800004 2
       s.tw.hn = ⟨1, 0, 19900000, 7⟩ :: [] ∧ s.crd.phase = .running ∧ cfgF s 0x800004 1 1 = 1 ∧ up.tw.hn = [])
    ∧ ((0x80 : Nat) ≤ 0x80 ∧ (0xFF : Nat) ≤ 0xFF ∧ (0x7F : Nat) < 0x80 ∧ 0xFF < (0x100 : Nat)) := by
  (try dsimp only); and_intros <;> decide +kernel

/-- The steward with one unread and one read fault-log entry of T0 and a log that may be written, its head at a slot. -/
def logUp (slot : Nat) (q : List Rec) (mm : Nat) : State :=
  let s := modTen up 0 (fun t => { t with log := [{ seq := 1, code := 3, source := 0, severity := 1, time := 0, read := true },
    { seq := 2, code := 3, source := 0, severity := 1, time := 0 }], logSeq := 3 })
  { s with slog := { s.slog with restored := true, headSlot := slot, queue := q, mismatches := mm },
           therm := { s.therm with flashInhibit := false } }
/-- A queued record. -/
def rec1 : Rec := ⟨9, 3, 9, 0, 0, 0, []⟩

/-- O54: both LOG_READ rows with records and without, of T0 and of T64; the calendar at its second; a checkpoint due; the head at
slots 1 and 1023, full, at a first and a third mismatch; an erase that goes on, is held and is suspended; the retry of the head
search. -/
theorem wit_logs :
    let f (t : Nat) := cmdOf t 0x70 ([0, 0, 0, 0] ++ leBytes 4 64 ++ leBytes 8 0x1000)
    let g (t : Nat) := cmdOf t 0x70 ([1, 0, 0, 0] ++ leBytes 4 64 ++ leBytes 8 0x1000 ++ leBytes 8 9)
    let n (t : Nat) := cmdOf t 0x71 (leBytes 2 447 ++ leBytes 2 1 ++ leBytes 4 0 ++ leBytes 8 0x1000)
    let k := cmdOf 0 0x72 (leBytes 8 77)
    let todo (s : State) := (getTen s 0).log.filter (fun e => !e.read)
    let out (s : State) : List (Nat × List Byte) := (committedBySeq s).filter (fun x => 9 ≤ x.1)
        ++ (s.slog.queue.filter (fun r => 9 ≤ r.seq)).map (fun r => (r.seq, queuedBytes r))
    let inFlash := flashProg up (slotAddr 1) (recBytes ⟨9, 3, 9, 0, 0, 0, List.replicate 36 0⟩)
    (∀ t ∈ [0, 63, 64], startsNow (holding (logUp 1 [] 0) (f t)) 5 0x70 (some 0) (f t) = true
      ∧ startsNow (holding (logUp 1 [rec1] 0) (g t)) 5 0x70 (some 1) (g t) = true
      ∧ startsNow (holding up (n t)) 5 0x71 none (n t) = true)
    ∧ ((todo (logUp 1 [] 0)).length = 1 ∧ todo up = [] ∧ startsNow (holding up k) 5 0x72 none k = true
      ∧ (out (logUp 1 [rec1] 0)).length = 1 ∧ out up = [])
    ∧ (0 < min ((g 0).f 0xC 4) ((committedBySeq inFlash).filter (fun x => 9 ≤ x.1)).length)
    ∧ (let c (v w : Nat) : State := { up with slog := { up.slog with calendar := v, calSince := w } }
       (c 1 19000000).slog.calendar ≠ 0 ∧ (c 1 19000000).slog.calSince + 1000000 ≤ up.tick ∧ up.tick < (c 1 19000001).slog.calSince + 1000000
       ∧ up.slog.calendar = 0)
    ∧ (let due (s : State) : Nat := s.slog.lastCheckpoint + cfgF s 0x900018 16 0 * 1000000
       let s : State := cfgSet (logUp 1 [] 0) 0x900018 20
       s.crd.fwUp = true ∧ s.slog.restored = true ∧ due s ≤ s.tick ∧ s.tick < due (cfgSet s 0x900018 21))
    ∧ (logWritable (logUp 1 [rec1] 0) = true ∧ (logUp 1 [rec1] 0).slog.queue = rec1 :: [] ∧ (logUp 1023 [rec1] 1).slog.headSlot < 1024
      ∧ (logUp 1 [rec1] 1).slog.mismatches < 2 ∧ 2 ≤ (logUp 1 [rec1] 2).slog.mismatches
      ∧ 1024 ≤ (logUp 1024 [rec1] 0).slog.headSlot ∧ (logUp 0 [rec1] 0).slog.headSlot = 0 ∧ (logUp 1 [] 0).slog.queue = []
      ∧ RecordEnd.cut ≠ .good ∧ (logUp 1024 [rec1] 0).slog.dropReport = 0 ∧ (logUp 1024 [rec1] 0).slog.erasing = none)
    ∧ (let s (held : Bool) (lost : Bool) : State := { logUp 1 [] 0 with
         slog := { (logUp 1 [] 0).slog with erasing := some 255, eraseHeld := held }, pow := { up.pow with inputLost := lost },
         boot := { up.boot with sfdp := { up.boot.sfdp with suspend := true } } }
       (s false false).slog.erasing = some 255 ∧ (s false false).slog.eraseHeld = false ∧ eraseSuspended (s false false) = false
       ∧ (s true false).slog.eraseHeld = true ∧ eraseSuspended (s false true) = true)
    ∧ (let s : State := { up with slog := { up.slog with retryAt := some 20000000 } }
       s.slog.retryAt = some 20000000 ∧ s.crd.fwUp = true ∧ 20000000 ≤ s.tick ∧ s.tick < 20000001 ∧ up.slog.retryAt = none) := by
  (try dsimp only); and_intros <;> decide +kernel

/-- A sample. -/
def sample1 : Sample := ⟨1, 0, 3, 40, 0, 0, 0, 0, 0, 0, 0, 0, 0, 0, 0⟩

/-- O55: EN rising and set already; samples due to logical grain 0, to any and to another, in its skid and past it; a tagged
instruction; queues of 3 and 4; a ring with room for one record, two and none. -/
theorem wit_samples :
    let on (d : KMap (List Nat)) : State := { threaded id with pm := { up.pm with en := true, samp := [(0, 0x11)], due := d } }
    let q (k : Nat) : State := { up with pm := { up.pm with queues := [(63, List.replicate k sample1)] } }
    let ring (r : Nat) (l : Nat) : State := cfgSet { up with pm := { up.pm with rptr := r, lostReport := l, queues := [(63, [sample1])] } } 0xA00018 12
    (hostMay up 0 = true ∧ (1#32).getLsbD 0 = true ∧ (2#32).getLsbD 0 = false ∧ up.pm.en = false ∧ (on []).pm.en = true)
    ∧ (let fits (s : State) (lg : Nat) : Bool := decide (lg = 1024) || decide (logicalOf s 0 = some lg)
       let due (s : State) : List Nat := KMap.get (fun _ => []) s.pm.due 0
       (due (on [(0, [5, 0])])).find? (fits (on [(0, [5, 0])])) = some 0 ∧ (due (on [(0, [5, 1024])])).find? (fits (on [(0, [5, 1024])])) = some 1024
       ∧ (due (on [(0, [5])])).find? (fits (on [(0, [5])])) = none
       ∧ sampling (on [(0, [0])]) 0 = true ∧ noCause 0 (bf (sampOf (on [(0, [0])]) 0) 3 0) = false ∧ decide ((40 : Nat) ≤ 40) = true
       ∧ decide ((41 : Nat) ≤ 40) = false ∧ sampling up 0 = false)
    ∧ (KMap.get (fun _ => none) { up.pm with tagged := [(0, some (3, 4))] }.tagged 0 = some (3, 4) ∧ KMap.get (fun _ => none) up.pm.tagged 0 = none)
    ∧ ((bedSamples (q 3) 63).length < 4 ∧ 4 ≤ (bedSamples (q 4) 63).length ∧ bedSamples (q 0) 63 = [])
    ∧ (bedSamples (ring 1 0) 63 = sample1 :: [] ∧ ringRoom (ring 1 0) = 0 ∧ ringRoom (ring 2 0) = 1 ∧ (ring 2 0).pm.lostReport = 0
      ∧ ringRoom (ring 3 1) = 2 ∧ (ring 3 1).pm.lostReport ≠ 0
      ∧ (let v (r : Nat) := ringPut (ring r 1) (lostSample (ring r 1))
         ringRoom (v 3) ≠ 0 ∧ ringRoom (v 2) = 0)) := by (try dsimp only); and_intros <;> decide

/-- O56: a command with ORDER set behind an earlier one of its ring, and one behind a command with ORDER set. -/
theorem wit_ordered :
    let e : Cmd := { cmdOf 0 0 [] with seq := 4 }
    let c : Cmd := { cmdOf 0 1 [] with raw := [1, 1] ++ List.replicate 62 0 }
    let s : State := { up with qc := { up.qc with cmds := [e, c] } }
    findCmd s 5 = some c ∧ c.started = false ∧ e ∈ s.qc.cmds ∧ e.tenant = c.tenant ∧ e.qp = c.qp ∧ e.seq < 5 ∧ c.order = true
    ∧ { e with raw := [1, 1] }.order = true := by (try dsimp only); and_intros <;> decide

/-- O57: a table of 4096 commands, and one of none. -/
theorem wit_table :
    4096 ≤ ({ up with qc := { up.qc with cmds := List.replicate 4096 (cmdOf 0 0 []) } } : State).qc.cmds.length
    ∧ up.qc.cmds.length ≤ 4096 ∧ ∃ t, exec .arbitrationRound up = .next t :=
  ⟨by simp only [List.length_replicate]; exact Nat.le_refl _, by decide, _, rfl⟩

/-- O58: a host heartbeat may be written; another value. -/
theorem wit_heartbeat : hostMay up 0 = true ∧ (0x4843#32) ≠ 0x4842#32 ∧ (63 : Nat) < 64 ∧ up.crd.phase = .running ∧ pecReq up = false := by
  and_intros <;> decide
/-! ### Values that the spec's worked examples give -/

/-- 14, worked example: 785 mV and 780 mV under VOUT_MODE 0x17, and the PEC of the write. -/
theorem test_setpoint_word :
    voutWord 0x17 785 = 0x0192 ∧ voutWord 0x17 780 = 0x018F
    ∧ writeBytes true 0x40 [0x21, 0x92, 0x01] = [0x80, 0x21, 0x92, 0x01, 0xD5] := by decide +kernel

/-- 11, worked example: a slew of 100 µV/µs steps 5 mV, and the last step lands on the target. -/
theorem test_slew_step :
    nextMv { applied := 790, target := 750, slew := 100 } = 785 ∧ nextMv { applied := 785, target := 790, slew := 100 } = 790
    ∧ nextMv { applied := 752, target := 750, slew := 100 } = 750 := by decide

/-- Table 13.2: leg U in one period with PWM_PER 8000, DUTY 4000 and DEAD 20. -/
theorem test_pwm_period :
    ([0, 1999, 2000, 2039, 2040, 5999, 6000, 6039, 6040, 7999].map (pwmLeg 8000 4000 40))
      = [(false, true), (false, true), (false, false), (false, false), (true, false), (true, false), (false, false),
         (false, false), (false, true), (false, true)] := by decide +kernel

/-- Table 13.1: the reset HALL_MAP gives codes 1 to 6 the steps 5, 3, 4, 1, 0 and 2; 0 and 7 name none. -/
theorem test_hall_map :
    [0, 1, 2, 3, 4, 5, 6, 7].map (hallStep State.reset 0)
      = [none, some 5, some 3, some 4, some 1, some 0, some 2, none] := by decide

/-- 07, worked example: the words of TZERO, TMMA and TSTORE. -/
theorem test_tile_words :
    kindOf 0x90800000#32 = .tile 0 ∧ kindOf 0x93885000#32 = .tile 3 ∧ kindOf 0x928C0100#32 = .tile 2
    ∧ bf 0x93885000#32 23 22 = 2 := by decide

/-- Table 4.15: the submission entry of a STRATUM_INGEST. -/
theorem test_ingest_entry :
    let c : Cmd := { seq := 0, tenant := 5, qp := 1, cls := 1, acc := 0, raw :=
      [0x12, 0x02, 0x11, 0x03, 0, 0, 0, 0, 0x2B, 0x1A, 0, 0, 0, 0, 0, 0x05, 0, 0, 0, 0, 0x58, 0x02, 0, 0,
       0, 0x60, 0x45, 0x23, 0x01, 0, 0, 0] ++ List.replicate 32 0 }
    c.op = 0x12 ∧ c.id = 0x0311 ∧ c.notify = true ∧ c.order = false ∧ c.handle = 0x0500000000001A2B ∧ c.f 0x14 4 = 600
    ∧ c.f 0x18 8 = 0x0000000123456000 := by decide

/-- 09: TOKEN_BYTES of E34, and the bytes of a token in mode 2. -/
theorem test_token_bytes :
    (Shape.tokenBytes ⟨48, 8, 128, 1⟩) = 98304 ∧ mode2Size ⟨48, 8, 128, 1⟩ 1 = 52224 := by decide

/-- 16, worked example: ELEC_STATUS with CORE_VID 36 and every strap low; R389: IDCODE. -/
theorem test_identity : idWord State.reset 0x200 = 0x00240000 ∧ idcodeWord = 0x20880A6F := by decide

/-- 13, worked example: at 10 000 rpm and 4 pole pairs an interval is 50 000 PCLK cycles. -/
theorem test_speed : 2000000000 / (10000 * 4) = 50000
    ∧ (let s := cfgSetF up (motorBase 1) 11 8 4
       motorSpeed (modMotor s 1 (fun x => { x with st := .running, tp := 50000 })) 1 = 10000) := by decide

end Sys2Proof.Tests
end

section
/-! PROOFS. Heartbeat lapses, deadlines and the errors of the rings (R18, R81, R104): which fields the motor channels write as they
follow their targets, and what each of the five rows does. -/

namespace Sys2Proof.Machine

/-! ### What following a target may write -/

/-- State t differs from s in the motor channels, the performance monitor and the count of free values alone. -/
def motorFrame (s t : State) : Prop := t = { s with freeCtr := t.freeCtr, motors := t.motors, pm := t.pm }

section
variable {s t u : State} {m : Nat}

theorem motorFrame_refl (s : State) : motorFrame s s := rfl

theorem motorFrame_trans (h : motorFrame s t) (h' : motorFrame t u) : motorFrame s u := by
  unfold motorFrame at *
  rw [h', h]

theorem motorFrame_ite {p : Prop} [Decidable p] (ht : motorFrame s t) (hu : motorFrame s u) :
    motorFrame s (if p then t else u) := by
  split
  · exact ht
  · exact hu

theorem motorFrame_motors (s : State) (ms : KMap Motor) : motorFrame s { s with motors := ms } := rfl

protected theorem motorFrame.setMotor {x : Motor} (h : motorFrame s t) : motorFrame s (setMotor t m x) :=
  motorFrame_trans h (motorFrame_motors t _)

protected theorem motorFrame.modMotor {f : Motor → Motor} (h : motorFrame s t) : motorFrame s (modMotor t m f) :=
  h.setMotor

protected theorem motorFrame.count {e : Nat} {o : Occ} (h : motorFrame s t) : motorFrame s (count t e o) := by
  refine motorFrame_trans h ?_
  unfold motorFrame
  rw [count_frame]

/-- GATE_MAN comes into force in the channel, with its event. -/
protected theorem motorFrame.gatesLoad (h : motorFrame s t) : motorFrame s (gatesLoad t m) :=
  motorFrame_ite h.setMotor.count h.setMotor

/-- A Hall code's step is applied in the channel; where the code names none, a free value is drawn. -/
protected theorem motorFrame.applyHall {code : Nat} (h : motorFrame s t) : motorFrame s (applyHall t m code) := by
  refine motorFrame_trans h ?_
  unfold applyHall
  split <;> rfl

/-- A start writes no more than the channel, the event of GATE_MAN and a free value. -/
protected theorem motorFrame.motorStart {now : Nat} (h : motorFrame s t) : motorFrame s (motorStart t m now) :=
  motorFrame_ite h.modMotor.modMotor.gatesLoad
    (motorFrame_ite h.modMotor.modMotor.modMotor h.modMotor.modMotor.applyHall)

/-- A channel that follows its target keeps the target as applied, and then starts, stops or goes on. -/
theorem motorFrame_motorFollow (s : State) (m : Nat) : motorFrame s (motorFollow s m) := by
  have hs := motorFrame_refl s
  have kept := motorFrame_ite (p := motorEn s m = true ∧ (getMotor s m).st ≠ .lockout) (hs.setMotor (m := m)
    (x := { getMotor s m with applied := some (effTarget s m) })) hs
  unfold motorFollow
  refine motorFrame_ite hs ?_
  dsimp only
  split
  · exact motorFrame_ite kept kept.motorStart
  · exact kept
  · exact motorFrame_ite kept.modMotor kept

/-- So do all eight. -/
theorem motorFrame_motorsFollow (s : State) : motorFrame s (motorsFollow s) :=
  foldl_frame (fun s t => { s with freeCtr := t.freeCtr, motors := t.motors, pm := t.pm }) (fun _ => rfl) (fun _ _ _ => rfl)
    motorFollow motorFrame_motorFollow _ s

/-- A lapse sets what HOLD takes and lets the channels follow: it writes nothing else of the state that it meets. -/
theorem motorFrame_lapse (s s' : State) : motorFrame s' (lapse s s') := by
  unfold lapse
  exact motorFrame_trans (motorFrame_ite (motorFrame_motors s' _) (motorFrame_refl s')) (motorFrame_motorsFollow _)

end

/-- A lapse leaves the accelerators' power, the strata and queue control as they are. -/
@[simp] theorem lapse_keeps (s s' : State) :
    (lapse s s').pow = s'.pow ∧ (lapse s s').strata = s'.strata ∧ (lapse s s').qc = s'.qc := by
  rw [motorFrame_lapse s s']
  exact ⟨rfl, rfl, rfl⟩

/-- So does settling. -/
@[simp] theorem settle_keeps (s : State) :
    (settle s).pow = s.pow ∧ (settle s).strata = s.strata ∧ (settle s).qc = s.qc := by
  rw [settle_frame]
  exact ⟨rfl, rfl, rfl⟩

/-! ### The lapses of the heartbeats (R18) -/

/-- The host heartbeat lapses 2 s after its last refresh. -/
theorem exec_hostHeartbeatLapse_due {s : State} {t0 : Nat} (hb : s.qc.hostBeat = some t0) (ht : t0 + 2000000 ≤ s.tick) :
    exec .hostHeartbeatLapse s = .next (settle (lapse s { s with qc := { s.qc with hostBeat := none } })) := by
  simp [exec, execHostHeartbeatLapse, done, hb, ht]

/-- Before that it does not. -/
theorem exec_hostHeartbeatLapse_early {s : State} (h : ∀ t0, s.qc.hostBeat = some t0 → s.tick < t0 + 2000000) :
    exec .hostHeartbeatLapse s = .next (settle s) := by
  cases hb : s.qc.hostBeat with
  | none => simp [exec, execHostHeartbeatLapse, done, hb]
  | some t0 => simp [exec, execHostHeartbeatLapse, done, hb, Nat.not_le.mpr (h t0 hb)]

/-- The BMC heartbeat lapses 10 s after its last refresh. -/
theorem exec_bmcHeartbeatLapse_due {s : State} {t0 : Nat} (hb : s.qc.bmcBeat = some t0) (ht : t0 + 10000000 ≤ s.tick) :
    exec .bmcHeartbeatLapse s = .next (settle (lapse s { s with qc := { s.qc with bmcBeat := none } })) := by
  simp [exec, execBmcHeartbeatLapse, done, hb, ht]

/-- Before that it does not. -/
theorem exec_bmcHeartbeatLapse_early {s : State} (h : ∀ t0, s.qc.bmcBeat = some t0 → s.tick < t0 + 10000000) :
    exec .bmcHeartbeatLapse s = .next (settle s) := by
  cases hb : s.qc.bmcBeat with
  | none => simp [exec, execBmcHeartbeatLapse, done, hb]
  | some t0 => simp [exec, execBmcHeartbeatLapse, done, hb, Nat.not_le.mpr (h t0 hb)]

/-- No lapse of the host heartbeat changes an accelerator's power, a stratum or a queued command. -/
theorem hostHeartbeatLapse_keeps {s t : State} (h : exec .hostHeartbeatLapse s = .next t) :
    t.pow = s.pow ∧ t.strata = s.strata ∧ t.qc.cmds = s.qc.cmds := by
  by_cases hd : ∃ t0, s.qc.hostBeat = some t0 ∧ t0 + 2000000 ≤ s.tick
  · obtain ⟨t0, hb, ht⟩ := hd
    obtain rfl := Host.Outcome.next.inj ((exec_hostHeartbeatLapse_due hb ht).symm.trans h)
    simp
  · push Not at hd
    obtain rfl := Host.Outcome.next.inj ((exec_hostHeartbeatLapse_early hd).symm.trans h)
    simp

/-- Nor does a lapse of the BMC's. -/
theorem bmcHeartbeatLapse_keeps {s t : State} (h : exec .bmcHeartbeatLapse s = .next t) :
    t.pow = s.pow ∧ t.strata = s.strata ∧ t.qc.cmds = s.qc.cmds := by
  by_cases hd : ∃ t0, s.qc.bmcBeat = some t0 ∧ t0 + 10000000 ≤ s.tick
  · obtain ⟨t0, hb, ht⟩ := hd
    obtain rfl := Host.Outcome.next.inj ((exec_bmcHeartbeatLapse_due hb ht).symm.trans h)
    simp
  · push Not at hd
    obtain rfl := Host.Outcome.next.inj ((exec_bmcHeartbeatLapse_early hd).symm.trans h)
    simp

/-! ### Deadlines (R81) -/

/-- The DEADLINE of a command that has one passes once its time is more than over. -/
theorem deadlinePassed_iff (s : State) (c : Cmd) :
    deadlinePassed s c = true ↔ c.deadline ≠ 0 ∧ c.acc + c.deadline * 1000 < s.tick := by
  simp [deadlinePassed]

/-- A command that has not started and whose DEADLINE has passed times out. -/
theorem exec_deadlineExpiry_passed {s : State} {c : Nat} {cmd : Cmd} (hf : findCmd s c = some cmd) (hs : cmd.started = false)
    (hn : cmd.noop = false) (hp : deadlinePassed s cmd = true) :
    exec (.deadlineExpiry c) s = .next (settle (timeOut s cmd)) := by
  simp [exec, execDeadlineExpiry, done, hf, hs, hn, hp]

/-- Before the end of its DEADLINE nothing happens to a command. -/
theorem exec_deadlineExpiry_early {s : State} {c : Nat} {cmd : Cmd} (hf : findCmd s c = some cmd)
    (ht : s.tick < cmd.acc + cmd.deadline * 1000) : exec (.deadlineExpiry c) s = .next (settle s) := by
  have hp : deadlinePassed s cmd = false := by
    simp [deadlinePassed, Nat.le_of_lt ht]
  simp [exec, execDeadlineExpiry, done, hf, hp, Nat.ne_of_gt ht]

/-! ### Errors of the rings (R104) -/

/-- A failed fetch of the entry that a pair would give next. -/
theorem exec_submissionFetchError {s : State} {fn q : Nat} (addr : Nat) (hm : mayAccept s = true) (hf : fn < 64) (hq : q < 8)
    (hw : pairWaits s fn q = true) (hs : slotFree s fn q = true) :
    exec (.submissionFetchError fn q addr) s =
      .next (settle (faultLog (count (modQp s fn q (fun p => { p with dmaErr := true, stopped := true })) 151 { tenant := fn })
        fn 5 addr 0 q)) := by
  simp [exec, execSubmissionFetchError, done, hm, hf, hq, hw, hs]

/-- A failed completion write on a running pair. -/
theorem exec_completionWriteError {s : State} {fn q : Nat} (addr : Nat) (id : Half) (hf : fn < 64) (hq : q < 8)
    (hr : (getQp s fn q).running = true) :
    exec (.completionWriteError fn q addr id) s =
      .next (settle (faultLog (count (modQp s fn q (fun p => { p with dmaErr := true, stopped := true, cqFail := true })) 151
        { tenant := fn }) fn 5 addr 0 q id.toNat)) := by
  simp [exec, execCompletionWriteError, done, hf, hq, hr]

/-- Settles O11: each clause is what one of the five rows does. -/
theorem lapsesAndQueueErrors : Obligations.LapsesAndQueueErrors := by
  refine ⟨⟨?hostDue, ?hostEarly, ?bmcDue, ?hostKeeps, ?bmcKeeps⟩, ?passed, ?early, ?fetch, ?write⟩
  case hostDue => exact fun s t0 hb ht => exec_hostHeartbeatLapse_due hb ht
  case hostEarly =>
    intro s t0 hb ht
    refine exec_hostHeartbeatLapse_early fun t1 hb' => ?_
    obtain rfl := Option.some.inj (hb.symm.trans hb')
    exact ht
  case bmcDue => exact fun s t0 hb ht => exec_bmcHeartbeatLapse_due hb ht
  case hostKeeps => exact fun s t h => hostHeartbeatLapse_keeps h
  case bmcKeeps => exact fun s t h => bmcHeartbeatLapse_keeps h
  case passed =>
    exact fun s c cmd hf hs hn hd ht => exec_deadlineExpiry_passed hf hs hn ((deadlinePassed_iff s cmd).mpr ⟨hd, ht⟩)
  case early => exact fun s c cmd hf ht => exec_deadlineExpiry_early hf ht
  case fetch => exact fun s fn q addr hm hf hq hw hs => exec_submissionFetchError addr hm hf hq hw hs
  case write => exact fun s fn q addr id hf hq hr => exec_completionWriteError addr id hf hq hr

end Sys2Proof.Machine
end

section
/-! PROOFS. STRATUM_PARK, RESTORE, DROP, SPILL and FETCH from step 10 of Table 4.6 (R12, R218 to R222): what each does in each case, and
when its row comes so far. -/

namespace Sys2Proof.Machine

/-! ### From a row to step 10 -/

section
variable {s : State} {c : Nat} {cmd : Cmd}

/-- A PARK that starts, with its spoke's mover free, its domains ON and no latch set. -/
theorem exec_stratumPark_now (h : startsNow s c 0x10 none cmd = true) (hm : spokeMove s cmd.accN = none)
    (hd : moveDoms (fun _ c => c.f 0x11 1 ≠ 0) s cmd = none) (hl : s.therm.latch.getLsbD cmd.accN = false) :
    exec (.stratumPark c) s = .next (settle (parkBody (markStarted s c) cmd)) := by
  rw [← startCmd_now _ accHold parkBody h hd hl]
  simp [exec, execStratumPark, done, startsNow_find h, hm]

/-- A RESTORE that starts, with its spoke's mover free, its domains ON and no latch set. -/
theorem exec_stratumRestore_now (h : startsNow s c 0x11 none cmd = true) (hm : spokeMove s cmd.accN = none)
    (hd : moveDoms restoreGrains s cmd = none) (hl : s.therm.latch.getLsbD cmd.accN = false) :
    exec (.stratumRestore c) s = .next (settle (restoreBody (markStarted s c) cmd)) := by
  rw [← startCmd_now _ accHold restoreBody h hd hl]
  simp [exec, execStratumRestore, done, startsNow_find h, hm]

/-- A DROP that starts. -/
theorem exec_stratumDrop_now (h : startsNow s c 0x13 none cmd = true) :
    exec (.stratumDrop c) s = .next (settle (dropBody (markStarted s c) cmd)) :=
  congrArg done (startCmd_now noDoms noHold dropBody h rfl rfl)

/-- A SPILL that starts, with its domains ON. -/
theorem exec_stratumSpill_now (h : startsNow s c 0x14 none cmd = true) (hd : sealDoms s cmd = none) :
    exec (.stratumSpill c) s = .next (settle (spillBody (markStarted s c) cmd)) :=
  congrArg done (startCmd_now sealDoms noHold spillBody h hd rfl)

/-- A FETCH that starts, with its domains ON. -/
theorem exec_stratumFetch_now (h : startsNow s c 0x15 none cmd = true) (hd : sealDoms s cmd = none) :
    exec (.stratumFetch c) s = .next (settle (fetchBody (markStarted s c) cmd)) :=
  congrArg done (startCmd_now sealDoms noHold fetchBody h hd rfl)

/-- A PARK waits while a move is on its spoke (R220). -/
theorem exec_stratumPark_waits (hf : findCmd s c = some cmd) (hm : spokeMove s cmd.accN ≠ none) (hn : cmd.noop = false) :
    exec (.stratumPark c) s = .next (settle s) := by
  simp [exec, execStratumPark, done, hf, hn, Option.isSome_iff_ne_none.mpr hm]

/-- So does a RESTORE. -/
theorem exec_stratumRestore_waits (hf : findCmd s c = some cmd) (hm : spokeMove s cmd.accN ≠ none) :
    exec (.stratumRestore c) s = .next (settle s) := by
  simp [exec, execStratumRestore, done, hf, Option.isSome_iff_ne_none.mpr hm]

end

/-! ### Step 10 of each -/

section
variable {u : State} {c : Cmd} {r : Stratum}

theorem parkBody_refused {x : Result} (h : parkRefusal u c = some x) : parkBody u c = completeMove u c x := by
  simp [parkBody, h]

/-! The two cases of the reservation name its outcome first: with the reservation itself in place the kernel would start to compute it. -/

theorem parkBody_noSpace (h : parkRefusal u c = none)
    (ha : allocateAll u 3 c.seq (parkUnits c.shape (c.f 0x11 1) (c.f 0x14 4)) = none) :
    parkBody u c = completeMove u c { status := .noSpace } := by
  unfold parkBody
  generalize allocateAll u 3 c.seq (parkUnits c.shape (c.f 0x11 1) (c.f 0x14 4)) = a at *
  rw [h, ha]

theorem parkBody_begins {as : List Nat} {w : State} (h : parkRefusal u c = none)
    (ha : allocateAll u 3 c.seq (parkUnits c.shape (c.f 0x11 1) (c.f 0x14 4)) = some (as, w)) :
    parkBody u c = postOrHold (beginMove w c c.accN .begin) c.seq c.accN := by
  unfold parkBody
  generalize allocateAll u 3 c.seq (parkUnits c.shape (c.f 0x11 1) (c.f 0x14 4)) = a at *
  rw [h, ha]

theorem restoreBody_noHandle (h : findRec u c.handle = none) : restoreBody u c = completeMove u c (badField 8) := by
  simp [restoreBody, h, noHandle]

theorem restoreBody_refused {x : Result} (h : findRec u c.handle = some r) (hx : restoreRefusal u c r = some x) :
    restoreBody u c = completeMove u c x := by
  simp [restoreBody, h, hx]

theorem restoreBody_rootBad (h : findRec u c.handle = some r) (hx : restoreRefusal u c r = none)
    (hc : currentCopy u r.root = none) :
    restoreBody u c = completeMove (loseRec u r.handle) c (refuse .dataError 5 0x06) := by
  simp [restoreBody, h, hx, hc, rootBad]

theorem restoreBody_begins (h : findRec u c.handle = some r) (hx : restoreRefusal u c r = none)
    (hc : currentCopy u r.root ≠ none) :
    restoreBody u c = postOrHold (beginMove u c c.accN .begin) c.seq c.accN := by
  simp [restoreBody, h, hx, hc]

theorem dropBody_noHandle (h : findRec u c.handle = none) : dropBody u c = completeMove u c (badField 8) := by
  simp [dropBody, h, noHandle]

theorem dropBody_removes (h : findRec u c.handle ≠ none) :
    dropBody u c = completeMove (removeHandle u c.handle) c (okR) := by
  obtain ⟨r, h⟩ := Option.ne_none_iff_exists'.mp h
  simp [dropBody, h]

/-- A handle whose record has been dropped has none. -/
@[simp] theorem findRec_dropRec_self (s : State) (h : Nat) : findRec (dropRec s h) h = none := by
  simp [findRec, dropRec]

/-- A handle that has been removed has no record. -/
@[simp] theorem findRec_removeHandle_self (s : State) (h : Nat) : findRec (removeHandle s h) h = none :=
  findRec_dropRec_self _ h

/-- A stratum that is at the home a command needs is not refused for its home. -/
theorem homeRefusal_at {x : Home} (hr : r.home = x) (hx : x ≠ .lost) : homeRefusal r (r.home = x) = none := by
  unfold homeRefusal
  split
  · next hl => exact absurd (hr.symm.trans hl) hx
  · simp [hr]

theorem spillBody_locked (h : findRec u c.handle = some r) (hr : r.home = .steward) (hk : u.boot.keyLock = true) :
    spillBody u c = completeMove u c { status := .keysLocked } := by
  simp [spillBody, h, homeRefusal_at hr (by decide), hk]

theorem spillBody_rootBad (h : findRec u c.handle = some r) (hr : r.home = .steward) (hk : u.boot.keyLock = false)
    (hc : currentCopy u r.root = none) :
    spillBody u c = completeMove (loseRec u r.handle) c (refuse .dataError 5 0x06) := by
  simp [spillBody, h, homeRefusal_at hr (by decide), hk, hc, rootBad]

theorem spillBody_noSpace (h : findRec u c.handle = some r) (hr : r.home = .steward) (hk : u.boot.keyLock = false)
    (hc : currentCopy u r.root ≠ none) (hl : c.f 0x18 8 < imageLen (spillLen u r)) :
    spillBody u c = completeMove u c
      { (refuse .noSpace 5 (ceilDiv (imageLen (spillLen u r)) 0x10000)) with r0 := imageLen (spillLen u r) } := by
  simp [spillBody, h, homeRefusal_at hr (by decide), hk, hc, hl, unitsOf]

theorem spillBody_begins (h : findRec u c.handle = some r) (hr : r.home = .steward) (hk : u.boot.keyLock = false)
    (hc : currentCopy u r.root ≠ none) (hl : imageLen (spillLen u r) ≤ c.f 0x18 8) :
    spillBody u c = sealAcquire (beginMove u c 8 .data) (sealWho c.seq) (spillChunks (spillLen u r)) := by
  simp [spillBody, h, homeRefusal_at hr (by decide), hk, hc, Nat.not_lt.mpr hl]

theorem fetchBody_locked (h : findRec u c.handle = some r) (hr : r.home = .host) (hk : u.boot.keyLock = true) :
    fetchBody u c = completeMove u c { status := .keysLocked } := by
  simp [fetchBody, h, homeRefusal_at hr (by decide), hk]

theorem fetchBody_begins (h : findRec u c.handle = some r) (hr : r.home = .host) (hk : u.boot.keyLock = false) :
    fetchBody u c = sealAcquire (beginMove u c 8 .data) (sealWho c.seq) (spillChunks (r.imageSize - 256)) := by
  simp [fetchBody, h, homeRefusal_at hr (by decide), hk]

end

/-- Settles O38: each row comes to step 10, where each case does what its lemma says. -/
theorem stratumCommandsStart : Obligations.StratumCommandsStart := by
  refine ⟨?park, ?waits, ?restore, ?drop, ?spill, ?fetch⟩
  case park =>
    intro s c cmd h hm hd hl u
    obtain rfl := startsNow_seq h
    rw [exec_stratumPark_now h hm hd hl]
    refine ⟨fun r hr => ?_, fun hr ha => ?_, fun as w hr ha => ?_⟩
    · rw [parkBody_refused hr]
    · rw [parkBody_noSpace hr ha]
    · rw [parkBody_begins hr ha]
  case waits =>
    exact fun s c cmd hf hm hn => ⟨exec_stratumPark_waits hf hm hn, exec_stratumRestore_waits hf hm⟩
  case restore =>
    intro s c cmd h hm hd hl u
    obtain rfl := startsNow_seq h
    rw [exec_stratumRestore_now h hm hd hl]
    refine ⟨fun hr => ?_, fun r x hr hx => ?_, fun r hr hx hc => ?_, fun r hr hx hc => ?_⟩
    · rw [restoreBody_noHandle hr]
    · rw [restoreBody_refused hr hx]
    · rw [restoreBody_rootBad hr hx hc]
    · rw [restoreBody_begins hr hx hc]
  case drop =>
    intro s c cmd h u
    rw [exec_stratumDrop_now h]
    refine ⟨fun hr => ⟨?_, findRec_removeHandle_self _ _⟩, fun hr => ?_⟩
    · rw [dropBody_removes hr]
    · rw [dropBody_noHandle hr]
  case spill =>
    intro s c cmd r h hd u size hr hh
    obtain rfl := startsNow_seq h
    have hk : u.boot.keyLock = s.boot.keyLock := by simp [u]
    rw [exec_stratumSpill_now h hd, ← hk]
    refine ⟨fun hl => ?_, fun hl hc => ?_, fun hl hc hs => ?_, fun hl hc hs => ?_⟩
    · rw [spillBody_locked hr hh hl]
    · rw [spillBody_rootBad hr hh hl hc]
    · rw [spillBody_noSpace hr hh hl hc hs]
    · rw [spillBody_begins hr hh hl hc hs]
  case fetch =>
    intro s c cmd r h hd u hr hh
    obtain rfl := startsNow_seq h
    have hk : u.boot.keyLock = s.boot.keyLock := by simp [u]
    rw [exec_stratumFetch_now h hd, ← hk]
    refine ⟨fun hl => ?_, fun hl => ?_⟩
    · rw [fetchBody_locked hr hh hl]
    · rw [fetchBody_begins hr hh hl]

end Sys2Proof.Machine
end

section
/-! PROOFS. The idle step (R22, R301, log entry 2): what a microsecond does to the clocks, to POWERED_S and to the counters of time. -/

namespace Sys2Proof.Machine

/-! ### The counters of time -/

/-- The counters of time write the performance monitor alone. -/
theorem timeCounts_pm (s : State) (g : Nat) : ∃ m, timeCounts s g = { s with pm := m } := by
  have groups : ∃ m, blockTime (gatedTime (bedTime (threadTime (grainTime s g) g)) g) = { s with pm := m } := by
    obtain ⟨_, hgrain⟩ := grainTime_pm s g
    obtain ⟨_, hthread⟩ := threadTime_pm (grainTime s g) g
    obtain ⟨_, hbed⟩ := bedTime_pm (threadTime (grainTime s g) g)
    obtain ⟨_, hgated⟩ := gatedTime_pm (bedTime (threadTime (grainTime s g) g)) g
    obtain ⟨m, hblock⟩ := blockTime_pm (gatedTime (bedTime (threadTime (grainTime s g) g)) g)
    exact ⟨m, by rw [hblock, hgated, hbed, hthread, hgrain]⟩
  have clocked : ∃ m, (if s.crd.fallback then s else blockTime (gatedTime (bedTime (threadTime (grainTime s g) g)) g)) =
      { s with pm := m } := by
    split
    · exact ⟨s.pm, rfl⟩
    · exact groups
  unfold timeCounts
  split
  · exact ⟨s.pm, rfl⟩
  · obtain ⟨m, hm⟩ := clocked
    dsimp only
    rw [hm]
    split
    · obtain ⟨k, hk⟩ := msTime_pm { s with pm := m }
      exact ⟨k, hk⟩
    · exact ⟨m, rfl⟩

/-- So every other field stands. -/
theorem timeCounts_frame (s : State) (g : Nat) : timeCounts s g = { s with pm := (timeCounts s g).pm } := by
  obtain ⟨m, hm⟩ := timeCounts_pm s g
  rw [hm]

/-- Before the steward runs nothing is counted. -/
theorem timeCounts_still {s : State} (g : Nat) (h : s.crd.phase ≠ .running) : timeCounts s g = s := by
  simp [timeCounts, h]

/-! ### A microsecond -/

/-- The state a microsecond later, before anything is counted: the tick rises, and outside clock fallback the beds' clock by K sixteenths
of GCLK's cycles (R22, R301). -/
def microsecond (s : State) : State := { s with
  tick := s.tick + 1
  garr := { s.garr with
    cycles16 := s.garr.cycles16 + (if s.crd.fallback then 0 else 100 * s.crd.gclkApplied * (getThr s 8).k) } }

/-- A microsecond with the counters of time over it. -/
def microsecondCounted (s : State) : State :=
  timeCounts (microsecond s) ((microsecond s).garr.cycles16 / 16 - s.garr.cycles16 / 16)

theorem grainTick_tick (s : State) : grainTick { s with tick := s.tick + 1 } = microsecond s := by
  unfold grainTick microsecond
  split <;> rfl

theorem tickRuns_iff (s : State) : tickRuns s = true ↔ s.crd.rootOk = true ∨ s.crd.fallback = true := by
  simp [tickRuns]

theorem idleTick_runs {s : State} (h : s.crd.rootOk = true ∨ s.crd.fallback = true) :
    idleTick s = poweredTick (microsecondCounted s) := by
  rw [idleTick, if_pos ((tickRuns_iff s).mpr h), grainTick_tick]
  rfl

theorem idleTick_stands {s : State} (hr : s.crd.rootOk = false) (hf : s.crd.fallback = false) : idleTick s = s := by
  simp [idleTick, tickRuns, hr, hf]

@[simp] theorem microsecondCounted_slog (s : State) : (microsecondCounted s).slog = s.slog := by
  rw [microsecondCounted, timeCounts_frame]
  rfl

/-- POWERED_S's remainder rises below a whole second. -/
theorem poweredTick_within {s : State} (h : s.slog.poweredRem + 1 < 1000000) :
    poweredTick s = { s with slog := { s.slog with poweredRem := s.slog.poweredRem + 1 } } := by
  rw [poweredTick, if_pos h]

/-- At a whole second POWERED_S, lifetime count 0, rises. -/
theorem poweredTick_second {s : State} (h : 1000000 ≤ s.slog.poweredRem + 1) :
    poweredTick s = { s with slog := { s.slog with
      poweredRem := 0, counts := KMap.set (fun _ => 0) s.slog.counts 0 (min (ltGet s 0 + 1) (2 ^ 64 - 1)) } } := by
  rw [poweredTick, if_neg (Nat.not_lt.mpr h)]
  rfl

theorem step_empty {s : State} (h : s.pending = []) : step s = .next (settle (idleTick s)) := by
  rw [step, h]
  rfl

/-- Settles O2: a step on an empty queue is one microsecond where TICK runs, and nothing where it does not. -/
theorem idleStepTicks : Obligations.IdleStepTicks := by
  refine ⟨?within, ?second, ?stands, timeCounts_frame, fun s g h => timeCounts_still g h⟩
  case within =>
    intro s hp hr hw
    rw [step_empty hp, idleTick_runs hr, poweredTick_within (by rwa [microsecondCounted_slog]), microsecondCounted_slog]
    rfl
  case second =>
    intro s hp hr hw
    rw [step_empty hp, idleTick_runs hr, poweredTick_second (by rwa [microsecondCounted_slog])]
    simp only [ltGet, microsecondCounted_slog]
    rfl
  case stands => exact fun s hp hr hf => by rw [step_empty hp, idleTick_stands hr hf]

end Sys2Proof.Machine
end

section
/-! PROOFS. GCLK and clock loss (R23, R40, R41). -/

namespace Sys2Proof.Machine

section
variable {s : State}

/-- GCLK switches to the capped request. -/
theorem exec_gclkSwitch_due (hs : s.crd.switching = true) (hf : s.crd.fallback = false) :
    exec .gclkSwitch s = .next (settle { s with crd :=
      { s.crd with switching := false, gclkApplied := min s.crd.gclkReq s.crd.gclkCap } }) := by
  simp [exec, execGclkSwitch, done, hs, hf]

/-- Before ROOT is qualified a loss of it changes nothing. -/
theorem clockLost_unqualified (gone : Bool) (h : s.crd.phase = .por ∨ s.crd.phase = .qualifying) : clockLost s gone = s := by
  rw [clockLost]
  exact if_pos h

/-- The first loss after that starts clock fallback. -/
theorem clockLost_first (gone : Bool) (hp : s.crd.phase ≠ .por) (hq : s.crd.phase ≠ .qualifying) (hf : s.crd.fallback = false) :
    clockLost s gone = enterFallback { s with crd := { s.crd with rootOk := s.crd.rootOk && !gone, pllLock := false } } := by
  simp [clockLost, hp, hq, hf]

/-- In fallback a further loss ends ROOT's presence or the lock, and nothing else. -/
theorem clockLost_again (gone : Bool) (hp : s.crd.phase ≠ .por) (hq : s.crd.phase ≠ .qualifying) (hf : s.crd.fallback = true) :
    clockLost s gone = { s with crd := { s.crd with rootOk := s.crd.rootOk && !gone, pllLock := false } } := by
  simp [clockLost, hp, hq, hf]

theorem exec_clockLoss (s : State) (gone : Bool) : exec (.clockLoss gone) s = .next (settle (clockLost s gone)) := rfl

end

/-- Settles O17: each clause is a case of a GCLK_CTRL write, of the switch, or of a lost clock. -/
theorem clocksSwitchAndFail : Obligations.ClocksSwitchAndFail := by
  refine ⟨?request, ?switch, ?first, ?again, ?unqualified⟩
  case request => exact fun s v h => exec_gclkReq v h
  case switch => exact fun s hs hf => exec_gclkSwitch_due hs hf
  case first => exact fun s gone hf hp hq => by rw [exec_clockLoss, clockLost_first gone hp hq hf]
  case again => exact fun s gone hf hp hq => by rw [exec_clockLoss, clockLost_again gone hp hq hf]
  case unqualified => exact fun s gone h => by rw [exec_clockLoss, clockLost_unqualified gone h]

end Sys2Proof.Machine
end

section
/-! PROOFS. RESET_CTRL.DOM_GO (R36, Table 2.15): the refusals of a domain reset, in their order, and what an accepted one does. -/

namespace Sys2Proof.Machine

/-- A refused DOM_GO request sets RST_REFUSED and REG_BUSY. -/
def resetRefused (s : State) : State := setBusy { s with crd := { s.crd with rstRefused := true } } 3

/-- The domains that no request resets: D00, D01, D03 to D05 and D14 to D19. -/
def neverReset (d : Nat) : Prop := d < 2 ∨ (3 ≤ d ∧ d < 6) ∨ (14 ≤ d ∧ d < 20)

section
variable {s : State} {d : Nat}

theorem isHbm_iff (d : Nat) : isHbm d = true ↔ 14 ≤ d ∧ d < 20 := by
  simp [isHbm]

/-- No number above the part's own names a domain. -/
theorem domGo_absent (s : State) (h : 91 < d) : domGo s d = resetRefused s := if_pos h

theorem domGo_never (h : neverReset d) : domGo s d = resetRefused (setErr s d 9) := by
  have hd : ¬ 91 < d := by rcases h with h | h | h <;> omega
  unfold domGo
  rw [if_neg hd, if_pos (by rwa [isHbm_iff])]
  rfl

/-- A domain that can be reset meets the refusals that depend on the state, one after the other. -/
theorem domGo_resettable (hd : d ≤ 91) (hn : ¬ neverReset d) :
    domGo s d =
      if domBusy s d then resetRefused (setErr s d 5)
      else if domHeld s d .gated true then resetRefused (setErr s d 4)
      else if domUsed s d then resetRefused (setErr s d 5)
      else if (getDom s d).cur ≠ .on then resetRefused (setErr s d 8)
      else modDom (domResetEffect s d) d (fun x => { x with err := 0, phase := .resetting, since := s.tick }) := by
  have hbm : isHbm d = false := by
    rw [Bool.eq_false_iff, ne_eq, isHbm_iff]
    exact fun h => hn (.inr (.inr h))
  unfold domGo
  rw [if_neg (Nat.not_lt.mpr hd), if_neg (by rwa [isHbm_iff])]
  simp only [hbm, Bool.not_false, Bool.and_true]
  rfl

/-- A DOM_GO request with its key, and neither WARM nor MARL, is one for the domain it names. -/
theorem exec_resetCtrlDomGo_key {v : Word} (h : hostMay s 0 = true) (hk : bf v 7 0 = 0xC5) (hw : v.getLsbD 8 = false)
    (hm : v.getLsbD 9 = false) (hg : v.getLsbD 24 = true) :
    exec (.resetCtrlDomGo v) s = .next (settle (domGo s (bf v 22 16))) := by
  rw [exec_resetCtrlDomGo v h]
  simp only [resetCtrlWrite, hk, hw, hm, hg]
  rfl

end

/-- Settles O16: the request is judged in the order of R36. -/
theorem domainResetStarts : Obligations.DomainResetStarts := by
  intro s v h hk hw hm hg d no
  have begun : exec (.resetCtrlDomGo v) s = .next (settle (domGo s d)) := exec_resetCtrlDomGo_key h hk hw hm hg
  rw [begun]
  refine ⟨?absent, ?never, ?busy, ?held, ?used, ?notOn, ?starts⟩
  case absent => exact fun hd => by rw [domGo_absent s hd]; rfl
  case never => exact fun hn => by rw [domGo_never hn]; rfl
  case busy =>
    intro hd hn hb
    rw [domGo_resettable hd hn, if_pos hb]; rfl
  case held =>
    intro hd hn hb hh
    simp only [domGo_resettable hd hn, hb, hh]; rfl
  case used =>
    intro hd hn hb hh hu
    simp only [domGo_resettable hd hn, hb, hh, hu]; rfl
  case notOn =>
    intro hd hn hb hh hu ho
    simp only [domGo_resettable hd hn, hb, hh, hu, if_pos ho]; rfl
  case starts =>
    intro hd hn hb hh hu ho
    simp only [domGo_resettable hd hn, hb, hh, hu, if_neg (not_not.mpr ho)]; rfl

end Sys2Proof.Machine
end

section
/-! PROOFS. DOMAIN_STATE, DOM_CTRL and the steps of a domain's transition (R25, R30, R31, R42, R49, Table 2.15). -/

namespace Sys2Proof.Machine

/-! ### The domains that change together (R25) -/

/-- A domain changes with itself. -/
theorem mem_unitOf (d : Nat) : d ∈ unitOf d := by
  unfold unitOf
  split
  · next h =>
    obtain ⟨hlo, hhi⟩ := (isHbm_iff d).mp h
    simp only [hbmDoms, List.mem_cons, List.not_mem_nil, or_false]
    omega
  · simp

/-- What every change of one domain gives it, a change of several gives each of them. -/
theorem getDom_modDoms (p : Dom → Prop) {f : Dom → Dom} (hf : ∀ x, p (f x)) {l : List Nat} {d : Nat} (s : State)
    (hd : d ∈ l ∨ p (getDom s d)) : p (getDom (l.foldl (fun s k => modDom s k f) s) d) := by
  induction l generalizing s with
  | nil => simpa using hd
  | cons k l ih =>
    refine ih (modDom s k f) ?_
    rw [getDom_modDom]
    by_cases hk : d = k
    · exact .inr (by rw [if_pos hk]; exact hf _)
    · rw [if_neg hk]
      exact hd.imp (fun h => (List.mem_cons.mp h).resolve_left hk) id

/-- Changing several domains changes nothing but domains. -/
theorem modDoms_frame (f : Dom → Dom) (l : List Nat) (s : State) :
    l.foldl (fun s k => modDom s k f) s = { s with doms := (l.foldl (fun s k => modDom s k f) s).doms } :=
  foldl_frame (fun s t => { s with doms := t.doms }) (fun _ => rfl) (fun _ _ _ => rfl) _ (fun s d => modDom_frame s d f) l s

/-! ### DOMAIN_STATE (R30) -/

section
variable {s : State} {c : Nat} {cmd : Cmd}

/-- A DOMAIN_STATE that starts. -/
theorem exec_domainState_now (h : startsNow s c 0x40 none cmd = true) :
    exec (.domainState c) s = .next (settle (domainStateBody (markStarted s c) cmd)) :=
  congrArg done (startCmd_now noDoms noHold domainStateBody h rfl rfl)

end

section
variable {s : State} {q : DomSeq} {d : Nat} {rest : List Nat}

/-- A sequence ends at the first domain that the checks refuse. -/
theorem seqRun_refused (hw : q.wait = none) (hb : (unitOf d).any (domBusy s) = false) (he : domErr s d q.target ≠ 0) :
    seqRun s q (d :: rest) = seqFails s q d q.processed (domErr s d q.target) := by
  simp only [seqRun, hw, hb]
  exact if_pos he

/-- It counts a domain that already holds the target, and takes the next. -/
theorem seqRun_holds (hw : q.wait = none) (hb : (unitOf d).any (domBusy s) = false) (he : domErr s d q.target = 0)
    (hc : (getDom s d).cur = q.target) :
    seqRun s q (d :: rest) =
      seqRun ((unitOf d).foldl (fun s k => modDom s k (fun x => { x with err := 0, req := q.target })) s)
        { q with processed := q.processed + (unitOf d).length } rest := by
  simp only [seqRun, hw, hb, he, hc]
  rfl

/-- With none left and none moving it completes. -/
theorem seqRun_ends (hm : q.moving = []) : seqRun s q [] = complete (dropSeq s q.cmd) q.cmd (okR (q.processed % 256)) := by
  rw [seqRun, if_pos hm]

/-- Where no DOMAIN_STATE is under way none goes on. -/
theorem seqPump_idle (h : s.domSeqs = []) : seqPump s = s := by
  rw [seqPump, h]
  rfl

end

/-! ### DOM_CTRL (R49) -/

section
variable {s : State} {d : Nat} {v : Word}

/-- The ERR code of a DOM_CTRL write for a state: a single domain of D14 to D19 never changes alone (R25). -/
def domCtrlErr (s : State) (d : Nat) (t : DomSt) : Nat := if isHbm d then 1 else domErr s d t

theorem domCtrlWrite_busy (hb : domBusy s d = true) : domCtrlWrite s d v = setBusy s 3 := by
  simp only [domCtrlWrite, hb]
  rfl

theorem domCtrlWrite_refused (hb : domBusy s d = false) (he : domCtrlErr s d (DomSt.ofCode (bf v 1 0)) ≠ 0) :
    domCtrlWrite s d v = setErr s d (domCtrlErr s d (DomSt.ofCode (bf v 1 0))) := by
  simp only [domCtrlWrite, hb]
  exact if_pos he

theorem domCtrlWrite_holds (hb : domBusy s d = false) (he : domCtrlErr s d (DomSt.ofCode (bf v 1 0)) = 0)
    (hc : (getDom s d).cur = DomSt.ofCode (bf v 1 0)) :
    domCtrlWrite s d v = modDom s d (fun x => { x with req := DomSt.ofCode (bf v 1 0), err := 0 }) := by
  simp only [domCtrlWrite, hb]
  exact (if_neg (not_not.mpr he)).trans (if_pos hc)

theorem domCtrlWrite_begins (hb : domBusy s d = false) (he : domCtrlErr s d (DomSt.ofCode (bf v 1 0)) = 0)
    (hc : (getDom s d).cur ≠ DomSt.ofCode (bf v 1 0)) :
    domCtrlWrite s d v = beginDom s d (DomSt.ofCode (bf v 1 0)) := by
  simp only [domCtrlWrite, hb]
  exact (if_neg (not_not.mpr he)).trans (if_neg hc)

end

/-! ### Steps of a transition (R31, R42) -/

section
variable {s : State}

theorem exec_domainTransitionStep_running (d : Fin 92) (bad : List (Fin 17)) (h : s.crd.phase = .running) :
    exec (.domainTransitionStep d bad) s =
      .next (settle (seqPump ((unitOf d.val).foldl (fun s k => stepDom s k (bad.map (·.val))) s))) := by
  simp only [exec, execDomainTransitionStep, done, if_pos h]

/-- The leg from ON to GATED ends. -/
theorem stepDom_gates {d : Nat} (bad : List Nat) (hp : (getDom s d).phase = .leg) (ht : (getDom s d).target = .gated)
    (hc : (getDom s d).cur = .on) :
    stepDom s d bad =
      modDom (modDom s d (fun x => { x with cur := .gated, since := s.tick })) d (fun x => { x with phase := .idle }) := by
  simp only [stepDom, hp, ht, hc]
  rfl

theorem exec_powerSwitchTimeout_due {d : Fin 92} (hp : (getDom s d.val).phase = .switching)
    (ht : (getDom s d.val).since + switchUs d.val ≤ s.tick) :
    exec (.powerSwitchTimeout d) s = .next (settle (switchFails s d.val)) := by
  simp only [exec, execPowerSwitchTimeout, done, if_pos (And.intro hp ht)]

theorem exec_powerSwitchTimeout_early {d : Fin 92} (ht : s.tick < (getDom s d.val).since + switchUs d.val) :
    exec (.powerSwitchTimeout d) s = .next (settle s) := by
  have hn : ¬ ((getDom s d.val).phase = .switching ∧ (getDom s d.val).since + switchUs d.val ≤ s.tick) :=
    fun h => Nat.not_le.mpr ht h.2
  simp only [exec, execPowerSwitchTimeout, done, if_neg hn]

theorem exec_domainResetEnd_resetting {d : Fin 92} (hp : (getDom s d.val).phase = .resetting) :
    exec (.domainResetEnd d) s = .next (settle (seqPump (modDom s d.val (fun x => { x with phase := .idle })))) := by
  simp only [exec, execDomainResetEnd, done, if_pos hp]

/-- Marking a bed's grains absent changes the remap alone. -/
theorem bedAbsent_frame (s : State) (b : Nat) :
    bedAbsent s b = { s with garr := { s.garr with remap := (bedAbsent s b).garr.remap } } :=
  foldl_frame (fun s t => { s with garr := { s.garr with remap := t.garr.remap } }) (fun _ => rfl) (fun _ _ _ => rfl) _
    (fun _ _ => rfl) _ s

/-- The domains of a failed power switch: OFF in no transition, and the domain named with ERR 7 (R42). -/
def switchedOff (s : State) (d : Nat) : State :=
  setErr ((unitOf d).foldl (fun s k => modDom s k (fun x => { x with cur := .off, phase := .idle, target := .off })) s) d 7

/-- The domain of a failed switch is OFF with ERR 7. -/
theorem getDom_switchedOff (s : State) (d : Nat) :
    (getDom (switchedOff s d) d).cur = .off ∧ (getDom (switchedOff s d) d).err = 7 := by
  rw [switchedOff, setErr, getDom_modDom, if_pos rfl]
  exact ⟨getDom_modDoms (fun x => x.cur = .off) (fun _ => rfl) s (.inl (mem_unitOf d)), rfl⟩

@[simp] theorem switchedOff_domSeqs (s : State) (d : Nat) : (switchedOff s d).domSeqs = s.domSeqs := by
  rw [switchedOff, modDoms_frame]
  rfl

/-- Where no DOMAIN_STATE is under way, a failed switch ends in DOM_FAULT, the absence of a bed's grains, and its record (R42). -/
theorem switchFails_alone (h : s.domSeqs = []) (d : Nat) :
    let t : State := { switchedOff s d with crd := { (switchedOff s d).crd with domFault := true } }
    switchFails s d = logRec (if isBed d then bedAbsent t (d - 28) else t) 0x42 1 1 (leBytes 1 d) := by
  intro t
  have ht : (if isBed d then bedAbsent t (d - 28) else t).domSeqs = [] := by
    split
    · rw [bedAbsent_frame]
      exact (switchedOff_domSeqs s d).trans h
    · exact (switchedOff_domSeqs s d).trans h
  simp only [switchFails, h]
  refine seqPump_idle ?_
  rw [logRec_frame]
  exact ht

/-- So the domain ends OFF with ERR 7, and DOM_FAULT is set. -/
theorem switchFails_off (h : s.domSeqs = []) (d : Nat) :
    (getDom (switchFails s d) d).cur = .off ∧ (getDom (switchFails s d) d).err = 7 ∧ (switchFails s d).crd.domFault = true := by
  obtain ⟨hcur, herr⟩ := getDom_switchedOff s d
  rw [switchFails_alone h, logRec_frame]
  split
  · rw [bedAbsent_frame]
    exact ⟨hcur, herr, rfl⟩
  · exact ⟨hcur, herr, rfl⟩

end

/-- Settles O18: DOMAIN_STATE, the writes of DOM_CTRL, and the events of a transition, each by its cases. -/
theorem domainCommands : Obligations.DomainCommands := by
  refine ⟨⟨?state, ?refused, ?holds, ?ends⟩, ?write, ?busy, ?step, ?gates, ?due, ?off, ?early, ?resetEnd⟩
  case state =>
    intro s c cmd h first n target hbm u
    obtain rfl := startsNow_seq h
    rw [exec_domainState_now h]
    refine ⟨fun hne hlt => ?part, fun hor => ?whole⟩
    case part => exact congrArg done (if_pos ⟨hne, hlt⟩)
    case whole =>
      have hall : ¬ (hbm ≠ [] ∧ hbm.length < 6) := fun ⟨hne, hlt⟩ => hor.elim hne (Nat.not_le.mpr hlt)
      refine congrArg done ((if_neg hall).trans ?_)
      simp only [decide_eq_true_eq]
      rfl
  case refused => exact fun s q d rest hw hb he => seqRun_refused hw hb he
  case holds => exact fun s q d rest hw hb he hc => seqRun_holds hw hb he hc
  case ends => exact fun s q hm => seqRun_ends hm
  case write =>
    intro s d v h hb t e
    rw [exec_domCtrl d v h]
    refine ⟨fun he => ?_, fun he hc => ?_, fun he hc => ?_⟩
    · rw [domCtrlWrite_refused hb he]; rfl
    · rw [domCtrlWrite_holds hb he hc]
    · rw [domCtrlWrite_begins hb he hc]; rfl
  case busy => exact fun s d v h hb => by rw [exec_domCtrl d v h, domCtrlWrite_busy hb]
  case step => exact fun s d bad h => exec_domainTransitionStep_running d bad h
  case gates =>
    intro s d bad hp ht hc
    rw [stepDom_gates bad hp ht hc]
    simp
  case due => exact fun s d hp ht => exec_powerSwitchTimeout_due hp ht
  case off => exact fun s d h => switchFails_off h d.val
  case early => exact fun s d ht => exec_powerSwitchTimeout_early ht
  case resetEnd => exact fun s d hp => exec_domainResetEnd_resetting hp

end Sys2Proof.Machine
end

section
/-! PROOFS. A warm reset and the remap table (R32, R154, R155, R159): the resets of chapter 02 do not leave the table as it is where the
failure of a grain still waits for a takeover in its bed. -/

namespace Sys2Proof.Machine

/-- The gates' hold of a warm reset writes the motor channels alone. -/
theorem motorsWarm_frame (s : State) : motorsWarm s = { s with motors := (motorsWarm s).motors } :=
  foldl_frame (fun s t => { s with motors := t.motors }) (fun _ => rfl) (fun _ _ _ => rfl) _
    (fun s m => modMotor_frame s m _) _ s

/-- The records of cuts whose STATUS_WORD was not read change the log, the performance monitor and the list of those cuts. -/
theorem cutsUnread_frame (s : State) :
    cutsUnread s = { s with slog := (cutsUnread s).slog, pm := (cutsUnread s).pm, tw := { s.tw with cuts := [] } } := by
  refine foldl_frame (fun s t => { s with slog := t.slog, pm := t.pm }) (fun _ => rfl) (fun _ _ _ => rfl) _ (fun u x => ?_) _ _
  split
  · rfl
  · exact logRec_frame u _ _ _ _

/-- After a warm reset the remap table is the one that the fences of the waiting failures leave. -/
theorem warmClear_remap (s : State) :
    (warmClear s).garr.remap = (s.garr.beds.foldl (fun s e => fenceWaiting s e.1) s).garr.remap := by
  change (cutsUnread (motorsWarm _)).garr.remap = _
  rw [cutsUnread_frame, motorsWarm_frame]

/-- Refutes O15: a warm reset does not always leave the remap table as it is. In bed 0 the spare takes over index 1 while the failure of
grain 0 waits for that takeover to end, as two failures of an idle bed that is ON leave it; the reset fences grain 0 with no spare left
(`fenceWaiting`), so that logical grain 0 becomes absent. -/
theorem not_warmAndMarlResets : ¬ Obligations.WarmAndMarlResets := by
  rintro ⟨⟨_, _, clears, _⟩, _⟩
  obtain ⟨_, _, _, _, _, _, _, _, _, _, kept, _⟩ := clears { State.reset with
    crd := { phase := .running, porN := true, supplyOk := true, rootOk := true, pllLock := true, trimDone := true },
    doms := [(28, { cur := .on, req := .on, target := .on })],
    garr := { beds := [(0, { fencedMask := 0b10, takeovers := [⟨1, 16⟩], failing := [(0, 1)] })],
              grains := [(1, { fenced := true })], remap := [(1, ⟨16, false⟩)] } }
  rw [warmClear_remap] at kept
  exact absurd kept (by decide)

end Sys2Proof.Machine
end

section
/-! PROOFS. The host's register writes (R50, R53, R57 to R59, R65): what each form of a write does. -/

namespace Sys2Proof.Machine

section
variable {s : State} {fn off n be v : Nat}

/-! ### The form of a write (R53) -/

/-- A write to the Horizon page changes nothing, whatever its form (R65). -/
theorem regWrite_page (p : Bool) (hp : onPage fn off = true) : regWrite s fn off n be v p = s := by
  rw [regWrite, if_pos hp]

/-- Elsewhere a write that BAR0 does not take is logged alone. -/
theorem regWrite_untaken (p : Bool) (hp : onPage fn off = false) (ht : taken fn off n = false) :
    regWrite s fn off n be v p = logAer s := by
  simp [regWrite, hp, ht]

/-- A poisoned write is dropped, logged and counted. -/
theorem regWrite_poisoned (hp : onPage fn off = false) (ht : taken fn off n = true) :
    regWrite s fn off n be v true = count (logAer (dropWrite s fn off)) 187 {} := by
  simp [regWrite, hp, ht]

/-- A write of no more than 4 bytes that is not a whole word is dropped. -/
theorem regWrite_partial (hp : onPage fn off = false) (ht : taken fn off n = true) (hn : n ≠ 8) (hw : ¬ (n = 4 ∧ be = 15)) :
    regWrite s fn off n be v false = dropWrite s fn off := by
  simp [regWrite, hp, ht, hn, hw]

/-- A whole word is written. -/
theorem regWrite_word (hp : onPage fn off = false) (ht : taken fn off 4 = true) :
    regWrite s fn off 4 15 v false = writeWord s fn off v := by
  simp [regWrite, hp, ht]

/-- Both words of a 64-bit register in one write are one setting, and what was staged for it goes (R57). -/
theorem regWrite_wide (hp : onPage fn off = false) (ht : taken fn off 8 = true) (hw : wide fn off = true) :
    regWrite s fn off 8 255 v false = wideWrite (setStaged s fn off none) fn off v := by
  simp [regWrite, writeWide, hp, ht, hw]

/-! ### A whole word (R57) -/

/-- The low word of a writable 64-bit register is staged. -/
theorem writeWord_low (hp : onPage fn off = false) (hw : wide fn off = true) (hb : blockOff s (blockOf off) = false) :
    writeWord s fn off v = setStaged s fn off (some (BitVec.ofNat 32 v)) := by
  simp [writeWord, hp, hw, hb]

/-- The low word that a write of the high word takes: the staged one, else the register's. -/
def lowWord (s : State) (fn off : Nat) : Nat :=
  match getStaged s fn off with | some lo => lo.toNat | none => regWord s fn off

/-- The high word applies both words. -/
theorem writeWord_high (hp : onPage fn off = false) (hw : wide fn off = false) (ho : off % 8 = 4)
    (hl : wide fn (off - 4) = true) :
    writeWord s fn off v =
      wideWrite (setStaged s fn (off - 4) none) fn (off - 4) (lowWord s fn (off - 4) + 2 ^ 32 * v) := by
  simp only [writeWord, hp, hw, ho, hl]
  rfl

/-- A 32-bit register takes its write by itself. -/
theorem writeWord_single (hp : onPage fn off = false) (hw : wide fn off = false)
    (hh : ¬ (off % 8 = 4 ∧ wide fn (off - 4) = true)) :
    writeWord s fn off v = if fn = 0 ∨ fn = 64 then pfWrite s off v else vfWrite s fn off v := by
  simp [writeWord, hp, hw, hh]

end

/-- A register write of a function that may access its BAR goes by the rules. -/
theorem exec_registerWrite {s : State} {w : RegAccess} (hm : hostMay s w.fn = true) (hb : w.fn = 0 ∨ w.off < 0x10000) :
    exec (.registerWrite w) s = .next (settle (regWrite s w.fn w.off w.size w.be w.val.toNat w.poisoned)) := by
  simp [exec, execRegisterWrite, done, hm, hb]

/-- Settles O19: the form of a write, then what a whole word names, tells the cases apart. -/
theorem registerWriteForms : Obligations.RegisterWriteForms := by
  rintro s ⟨fn, off, n, be, val, poisoned⟩ hm hb
  rw [exec_registerWrite hm hb]
  dsimp only
  refine ⟨?page, ?untaken, ?poisoned, ?short, ?bytesOff, ?low, ?high, ?pf, ?vf, ?both⟩
  case page => exact fun hp => by rw [regWrite_page _ hp]
  case untaken => exact fun hp ht => by rw [regWrite_untaken _ hp ht]
  case poisoned =>
    rintro hp ht rfl
    rw [regWrite_poisoned hp ht]
  case short =>
    rintro ht rfl hp hn
    rw [regWrite_partial hp ht (by omega) (by omega)]
  case bytesOff =>
    rintro ht rfl hp rfl hbe
    rw [regWrite_partial hp ht (by decide) (fun h => hbe h.2)]
  case low =>
    rintro ht rfl hp rfl rfl hw hoff
    rw [regWrite_word hp ht, writeWord_low hp hw hoff]
  case high =>
    rintro ht rfl hp rfl rfl hw ho hl
    rw [regWrite_word hp ht, writeWord_high hp hw ho hl]
    rfl
  case pf =>
    rintro ht rfl hp rfl rfl hw hh rfl
    rw [regWrite_word hp ht, writeWord_single hp hw hh, if_pos (.inl rfl)]
  case vf =>
    rintro ht rfl hp rfl rfl hw hh h0 h64
    rw [regWrite_word hp ht, writeWord_single hp hw hh, if_neg (not_or.mpr ⟨h0, h64⟩)]
  case both =>
    rintro ht rfl hp rfl rfl hw
    rw [regWrite_wide hp ht hw]

end Sys2Proof.Machine
end

section
/-! PROOFS. The host's register reads (R53, R55, R57): reads that clear, the latch of a 64-bit register, and the other forms of a read. -/

namespace Sys2Proof.Machine

/-! ### From a row to the read -/

section
variable {s t : State} {fn off n : Nat}

/-- A read off the page by a function that may access its BAR answers what BAR0 gives. -/
theorem hostReads_value {v : Nat} (hm : hostMay s fn = true) (hb : fn = 0 ∨ off < 0x10000) (hp : onPage fn off = false)
    (hr : regRead s fn off n = (some v, t)) : hostReads s fn off n = { t with resp := .value n (v % 256 ^ n) } := by
  simp [hostReads, hm, hb, hp, hr]

/-- Where BAR0 does not take the read it is unsupported. -/
theorem hostReads_unsupported (hm : hostMay s fn = true) (hb : fn = 0 ∨ off < 0x10000) (hp : onPage fn off = false)
    (hr : regRead s fn off n = (none, t)) : hostReads s fn off n = { t with resp := .unsupported } := by
  simp [hostReads, hm, hb, hp, hr]

/-! ### The form of a read (R53) -/

theorem regRead_untaken (ht : taken fn off n = false) : regRead s fn off n = (none, count (logAer s) 186 {}) := by
  simp [regRead, ht]

/-- Bytes within a word, with what a read of the whole word clears. -/
theorem regRead_bytes (ht : taken fn off n = true) (hn : n < 4) :
    regRead s fn off n =
      (some (regWord s fn (off / 4 * 4) / 256 ^ (off % 4) % 256 ^ n), rcClear s fn (off / 4 * 4)) := by
  have h8 : n ≠ 8 := by omega
  have h4 : n ≠ 4 := by omega
  simp [regRead, ht, h8, h4]

theorem regRead_word (ht : taken fn off 4 = true) :
    regRead s fn off 4 = (some (readWord s fn off).1, (readWord s fn off).2) := by
  simp [regRead, ht]

/-- Both words of a 64-bit register, without the latch. -/
theorem regRead_wide (ht : taken fn off 8 = true) (hw : wideRead fn off = true) :
    regRead s fn off 8 = (some (regWord s fn off + 2 ^ 32 * regWord s fn (off + 4)), s) := by
  simp [regRead, readWide, ht, hw]

/-! ### An aligned word (R57) -/

/-- The low word of a 64-bit register latches the high word. -/
theorem readWord_low (hw : wideRead fn off = true) :
    readWord s fn off = (regWord s fn off, setLatch s fn off (some (BitVec.ofNat 32 (regWord s fn (off + 4))))) := by
  rw [readWord, if_pos hw]

/-- The high word answers what was latched, which is then forgotten. -/
theorem readWord_latched {w : Word} (h8 : off % 8 = 0) (hh : wideRead fn (off + 4) = false) (hl : wideRead fn off = true)
    (hg : getLatch s fn off = some w) : readWord s fn (off + 4) = (w.toNat, setLatch s fn off none) := by
  have h4 : (off + 4) % 8 = 4 := by omega
  simp [readWord, hh, h4, hl, hg]

/-- A register that is not part of a 64-bit register is read by itself. -/
theorem readWord_single (hw : wideRead fn off = false) (hh : (off % 8 = 4 && wideRead fn (off - 4)) = false) :
    readWord s fn off = (regWord s fn off, rcClear s fn off) := by
  simp only [readWord, hw, hh]
  rfl

/-- What was latched is there to read. -/
theorem getLatch_setLatch (s : State) (fn off : Nat) (w : Option Word) : getLatch (setLatch s fn off w) fn off = w :=
  KMap.get_set_self _ _ _ _

end

/-! ### Registers that read and clear (R55) -/

/-- Is an offset of PF BAR0 a 32-bit register off the page. -/
def singlePf (off : Nat) : Bool :=
  taken 0 off 4 && !onPage 0 off && !wideRead 0 off && !(off % 8 = 4 && wideRead 0 (off - 4))

section
variable {s : State} {k : Nat}

/-- A 4-byte read of a 32-bit register answers its value and does what reading it does. -/
theorem exec_rcRead_single {t : State} {off : Nat} (hm : hostMay s 0 = true) (ho : singlePf off = true)
    (hc : rcClear s 0 off = t) :
    exec (.rcRead 0 ⟨off, 4⟩) s = .next (settle { t with resp := .value 4 (regWord s 0 off % 2 ^ 32) }) := by
  simp only [singlePf, Bool.and_eq_true, Bool.not_eq_true'] at ho
  obtain ⟨⟨⟨ht, hp⟩, hw⟩, hh⟩ := ho
  subst hc
  refine congrArg done (hostReads_value hm (.inl rfl) hp ?_)
  rw [regRead_word ht, readWord_single hw hh]

/-- SPOKE_STATUS: a spoke port's recoveries and unsupported requests. -/
theorem rcClear_spoke (hk : k < 8) :
    rcClear s 0 (0x508100 + 0x40 * k) = setSpoke s k { getSpoke s k with recoveries := 0, inboundUr := 0 } := by
  have hi : (0x508100 + 0x40 * k - 0x508100) / 0x40 = k := by omega
  rw [rcClear, if_neg (by simp), if_pos (by omega), hi, modSpoke]

/-- COUNTS: a motor's event counts. -/
theorem rcClear_motor (hk : k < 8) :
    rcClear s 0 (0x700140 + 0x100 * k) = setMotor s k { getMotor s k with noise := 0, synths := 0, stalls := 0, desats := 0 } := by
  have hi : (0x700140 + 0x100 * k - 0x700100) / 0x100 = k := by omega
  rw [rcClear, if_neg (by simp), if_neg (by omega), if_pos (by omega), hi, modMotor]

/-- PORT_STATUS: a controller port's error counts. -/
theorem rcClear_port (h1 : 1 ≤ k) (h11 : k ≤ 11) :
    rcClear s 0 (0x800104 + 0x40 * k) = setPort s k { getPort s k with errs := 0, arbLost := 0 } := by
  have hi : (0x800104 + 0x40 * k - 0x800100) / 0x40 = k := by omega
  rw [rcClear, if_neg (by simp), if_neg (by omega), if_neg (by omega), if_neg (by omega), if_neg (by omega),
    if_pos (by omega), hi, modPort]

end

/-- Each of these registers of a spoke port, of a motor or of a controller port is a 32-bit register. -/
theorem singlePf_ports :
    (∀ n < 8, singlePf (0x508100 + 0x40 * n) = true) ∧ (∀ m < 8, singlePf (0x700140 + 0x100 * m) = true)
    ∧ (∀ p < 12, 1 ≤ p → singlePf (0x800104 + 0x40 * p) = true) := by decide

/-- Settles O20: a read is of a 32-bit register, of half of a 64-bit register, or of another form. -/
theorem readsThatClearOrLatch : Obligations.ReadsThatClearOrLatch := by
  refine ⟨?clear, ⟨?low, ?kept, ?high⟩, ?forms⟩
  case clear =>
    intro s hm ans
    obtain ⟨spoke, motor, port⟩ := singlePf_ports
    refine ⟨?_, ?_, ?_, ?_, ?_, fun n hn => ?_, fun m hm' => ?_, fun p h1 h11 => ?_⟩
    · exact exec_rcRead_single hm (by decide) rfl
    · exact exec_rcRead_single hm (by decide) rfl
    · exact exec_rcRead_single hm (by decide) rfl
    · exact exec_rcRead_single hm (by decide) rfl
    · exact exec_rcRead_single hm (by decide) rfl
    · exact exec_rcRead_single hm (spoke n hn) (rcClear_spoke hn)
    · exact exec_rcRead_single hm (motor m hm') (rcClear_motor hm')
    · exact exec_rcRead_single hm (port p (by omega) h1) (rcClear_port h1 h11)
  case low =>
    intro s fn off hm hb hp ht hw
    refine congrArg done (hostReads_value hm hb hp ?_)
    rw [regRead_word ht, readWord_low hw]
  case kept => exact fun s fn off w => getLatch_setLatch s fn off (some w)
  case high =>
    intro s fn off w hm hb hp ht h8 hh hl hg
    have hr : regRead s fn (off + 4) 4 = (some w.toNat, setLatch s fn off none) := by
      rw [regRead_word ht, readWord_latched h8 hh hl hg]
    have hw : w.toNat % 256 ^ 4 = w.toNat := Nat.mod_eq_of_lt w.isLt
    rw [← hw]
    exact congrArg done (hostReads_value hm hb hp hr)
  case forms =>
    intro s fn off n hm hb hp
    refine ⟨fun ht => ?_, fun ht hn => ?_, ?_⟩
    · exact congrArg done (hostReads_unsupported hm hb hp (regRead_untaken ht))
    · exact congrArg done (hostReads_value hm hb hp (regRead_bytes ht hn))
    · rintro ht rfl hw
      exact congrArg done (hostReads_value hm hb hp (regRead_wide ht hw))

end Sys2Proof.Machine
end

section
/-! PROOFS. The Horizon page (R53, R57, R61 to R70): its reads, what a read may change, its publishing and its mirror. -/

namespace Sys2Proof.Machine

/-! ### What a read of the page may change -/

/-- State s with the fields of t that a read of the page, and the settling after it, may write. -/
def pageFrame (s t : State) : State :=
  { s with pm := t.pm, regs := { s.regs with aer := t.regs.aer, latched := t.regs.latched }, resp := t.resp,
           hz := t.hz, tw := { s.tw with hn := t.tw.hn } }

section
variable {s : State} {fn off n : Nat}

/-- No register of the page is one that a read clears. -/
theorem rcClear_page (h : off < 0x2000) : rcClear s fn off = s := by
  unfold rcClear
  split
  · rfl
  · simp (disch := omega) only [if_neg]

/-- A 4-byte read of the page writes the latch alone. -/
theorem readWord_page_frame (h : off < 0x2000) :
    (readWord s fn off).2 = { s with regs := { s.regs with latched := (readWord s fn off).2.regs.latched } } := by
  unfold readWord
  split
  · rfl
  · split
    · split <;> rfl
    · rw [rcClear_page h]

/-- A read of the page writes no more than the frame. -/
theorem pageRead_frame (h : off < 0x1000) : pageRead s fn off n = pageFrame s (pageRead s fn off n) := by
  have ho : off + (if fn = 0 then 0 else 0x1000) < 0x2000 := by split <;> omega
  unfold pageRead pageFrame
  dsimp only
  split
  · rw [count_frame (logAer _), count_frame s]
    rfl
  · split
    · rw [readWord_page_frame ho, count_frame]
    · rw [count_frame]

/-- Nor does the settling after what keeps to the frame. -/
theorem settle_pageFrame {u : State} (h : u = pageFrame s u) : settle u = pageFrame s (settle u) := by
  rw [settle_frame, h]
  rfl

/-! ### The reads -/

/-- A read of the page by a function that may access its BAR. -/
theorem exec_horizonPageRead (hm : hostMay s fn = true) (h : off < 0x1000) :
    exec (.horizonPageRead fn off n) s = .next (settle (pageRead s fn off n)) := by
  simp [exec, execHorizonPageRead, done, hm, h]

/-- Any other read of the row does nothing. -/
theorem exec_horizonPageRead_none (h : ¬ (hostMay s fn = true ∧ off < 0x1000)) :
    exec (.horizonPageRead fn off n) s = .next (settle s) := by
  refine congrArg done (if_neg ?_)
  simpa using h

/-- A read of another size than 4 that the page takes answers its bytes. -/
theorem pageRead_bytes (ht : pageTakes off n = true) (hn : n ≠ 4) :
    pageRead s fn off n = { count s 180 {} with resp := .data (hzBytes (count s 180 {}) fn off n) } := by
  simp [pageRead, ht, hn]

/-- A read that the page does not take is unsupported. -/
theorem pageRead_unsupported (ht : pageTakes off n = false) :
    pageRead s fn off n = { count (logAer (count s 180 {})) 186 {} with resp := .unsupported } := by
  simp [pageRead, ht]

/-- Counting changes no fault. -/
theorem count_faultWord (s : State) (e : Nat) (o : Occ) (k v : Nat) : faultWord (count s e o k) v = faultWord s v := by
  rw [count_frame]
  apply faultWord_congr <;> rfl

/-- The PF reads HZ_FAULT as its own view has it. -/
theorem readWord_hzFault (s : State) : readWord s 0 0x10 = ((faultWord s 0).toNat, s) := by
  rw [readWord_single (by decide) (by decide), rcClear_page (by decide)]
  rfl

theorem pageRead_hzFault (s : State) :
    pageRead s 0 0x10 4 = { count s 180 {} with resp := .data (leBytes 4 (faultWord s 0).toNat) } := by
  have ht : pageTakes 0x10 4 = true := by decide
  simp only [pageRead, ht, if_true, Nat.add_zero, readWord_hzFault, count_faultWord]
  rfl

/-- Whatever the row reads, the step writes no more than the frame. -/
theorem exec_horizonPageRead_frame {t : State} (he : exec (.horizonPageRead fn off n) s = .next t) : t = pageFrame s t := by
  by_cases h : hostMay s fn = true ∧ off < 0x1000
  · obtain ⟨hm, ho⟩ := h
    obtain rfl := Host.Outcome.next.inj ((exec_horizonPageRead hm ho).symm.trans he)
    exact settle_pageFrame (pageRead_frame ho)
  · obtain rfl := Host.Outcome.next.inj ((exec_horizonPageRead_none h).symm.trans he)
    exact settle_pageFrame rfl

/-! ### Publishing and the mirror -/

/-- A publish that is due. -/
theorem exec_horizonPublish_due (hu : s.crd.fwUp = true) (hf : s.crd.fallback = false) (ht : s.hz.lastPub + 10000 ≤ s.tick) :
    exec .horizonPublish s = .next (settle (count { s with hz := { s.hz with
      frame := s.hz.frame + 1, pub := frameNow s, lastPub := s.tick, stale := false,
      mirrorBad := s.hz.mirrorBad.filter (fun e => !fwWord (4 * e.1)) } } 306 {})) :=
  congrArg done (if_pos ⟨hu, by rw [hf]; rfl, ht⟩)

/-- With Daxrin down, in clock fallback, or before 10 ms have passed, nothing is published. -/
theorem exec_horizonPublish_none (h : s.crd.fwUp = false ∨ s.crd.fallback = true ∨ s.tick < s.hz.lastPub + 10000) :
    exec .horizonPublish s = .next (settle s) := by
  refine congrArg done (if_neg ?_)
  rintro ⟨hu, hf, ht⟩
  rcases h with h | h | h
  · simp [h] at hu
  · simp [h] at hf
  · omega

theorem exec_fwDown_due (ht : s.hz.lastPub + 100000 ≤ s.tick) :
    exec .fwDown s = .next (settle { s with hz := { s.hz with stale := true } }) := congrArg done (if_pos ht)

theorem exec_fwDown_early (ht : s.tick < s.hz.lastPub + 100000) : exec .fwDown s = .next (settle s) :=
  congrArg done (if_neg (Nat.not_le.mpr ht))

theorem exec_mirrorRefresh_running (hr : s.crd.phase = .running) :
    exec .mirrorRefresh s = .next (settle { s with hz := { s.hz with mirrorBad := [] } }) := congrArg done (if_pos hr)

end

/-- Settles O21: each form of a read, the frame of all of them, and each case of the page's own rows. -/
theorem horizonPage : Obligations.HorizonPage := by
  refine ⟨⟨?bytes, ?unsupported, ?fault, ?frame⟩, ?due, ?none, ?stale, ?fresh, ?mirror⟩
  case bytes =>
    intro s fn off n hm ho ht hn
    rw [exec_horizonPageRead hm ho, pageRead_bytes ht hn]
  case unsupported =>
    intro s fn off n hm ho ht
    rw [exec_horizonPageRead hm ho, pageRead_unsupported ht]
  case fault =>
    intro s hm
    rw [exec_horizonPageRead hm (by decide), pageRead_hzFault]
  case frame => exact fun s t fn off n he => exec_horizonPageRead_frame he
  case due => exact fun s hu hf ht => exec_horizonPublish_due hu hf ht
  case none => exact fun s h => exec_horizonPublish_none h
  case stale => exact fun s ht => exec_fwDown_due ht
  case fresh => exact fun s ht => exec_fwDown_early ht
  case mirror => exact fun s hr => exec_mirrorRefresh_running hr

end Sys2Proof.Machine
end

section
/-! PROOFS. BAR2 reads and the copies that they meet (R52, R189 item 5, R193): a read that meets an unperformed piece of a copy first
draws the free value that says whether the piece falls before it, so that it leaves another state than its answer and its event. -/

namespace Sys2Proof.Machine

/-! ### What a write of the steward's memories may change -/

/-- State t differs from s in the memories and the grain array alone. -/
def arrayFrame (s t : State) : Prop := t = { s with mem := t.mem, garr := t.garr }

theorem arrayFrame_trans {s t u : State} (h : arrayFrame s t) (h' : arrayFrame t u) : arrayFrame s u := by
  unfold arrayFrame at *
  rw [h', h]

theorem arrayFrame_mem (s : State) (m : Mems) : arrayFrame s { s with mem := m } := rfl

theorem arrayFrame_garr (s : State) (g : Garr) : arrayFrame s { s with garr := g } := rfl

/-- A fold whose steps keep to the frame keeps to it. -/
theorem arrayFrame_foldl {α : Type} {f : State → α → State} (hf : ∀ s a, arrayFrame s (f s a)) (l : List α) (s : State) :
    arrayFrame s (l.foldl f s) :=
  foldl_frame (fun s t => { s with mem := t.mem, garr := t.garr }) (fun _ => rfl) (fun _ _ _ => rfl) f hf l s

/-- Clearing reservations keeps to the frame. -/
theorem arrayFrame_dropRsvs (s : State) (lo hi : Nat) : arrayFrame s (dropRsvs s lo hi) := by
  unfold dropRsvs
  exact arrayFrame_trans (arrayFrame_foldl (fun u r => arrayFrame_garr u _) _ s) (arrayFrame_garr _ _)

/-- So does clearing those on the granules of a target. -/
theorem arrayFrame_touchRsvs (s : State) (tg : Target) (n : Nat) : arrayFrame s (touchRsvs s tg n) := by
  unfold touchRsvs
  split
  · exact arrayFrame_dropRsvs s _ _
  · exact arrayFrame_dropRsvs s _ _
  · rfl

/-- So does waking a grain's threads. -/
theorem arrayFrame_wakeWaits (s : State) (p : Nat) : arrayFrame s (wakeWaits s p) := by
  refine arrayFrame_foldl (fun u t => ?_) _ s
  dsimp only
  split
  · split <;> rfl
  · rfl

/-- So does a write at a resolved target. -/
theorem arrayFrame_writeTarget (s : State) (tg : Target) (bs : List Byte) : arrayFrame s (writeTarget s tg bs) := by
  unfold writeTarget
  split
  · rfl
  · split
    · exact arrayFrame_trans (arrayFrame_trans (arrayFrame_mem s _) (arrayFrame_touchRsvs _ _ _)) (arrayFrame_wakeWaits _ _)
    · exact arrayFrame_trans (arrayFrame_mem s _) (arrayFrame_touchRsvs _ _ _)
    · rfl
    · rfl
    · rfl

/-! ### Copies that a read meets -/

/-- The piece of a copy that has not been performed draws one free value, whichever way it falls. -/
theorem copyPiece_freeCtr {s : State} {p t k i : Nat} {c : PendCopy} (hc : (getThread s p t).copies[k]? = some c)
    (hd : c.done.contains i = false) : (copyPiece s p t k i).freeCtr = s.freeCtr + 1 := by
  simp only [copyPiece, hc, hd]
  split
  · contradiction
  · split
    · rfl
    · rw [arrayFrame_writeTarget]
      rfl

/-- The pieces of copies that a read of [tg, tg+n) meets: of each, its thread, the number of the copy and its own number. -/
def copiesRead (s : State) (tg : Target) (n : Nat) : List (Nat × Nat × Nat) :=
  (s.garr.threads.filter (fun e => e.2.copies ≠ [])).flatMap (fun e =>
    (List.range e.2.copies.length).flatMap (fun k =>
      match e.2.copies[k]? with
      | none => []
      | some c => (piecesIn (resolve s (e.1 / 8) c.dst) c.len tg n).map (fun i => (e.1, k, i))))

/-- A read of Loam or HBM meets the writes of copies alone. -/
theorem meet_gmRead (s : State) (a n : Nat) :
    meet s (.gm a) n false =
      (copiesRead s (.gm a) n).foldl (fun s e => copyPiece s (e.1 / 8) (e.1 % 8) e.2.1 e.2.2) s := by
  simp only [meet, meetTiles, meetCopies, copiesRead, Bool.false_eq_true, if_false, List.append_nil] <;> rfl

/-- Counting leaves the copies that a read meets as they are. -/
theorem copiesRead_count (s : State) (e : Nat) (o : Occ) (k : Nat) (tg : Target) (n : Nat) :
    copiesRead (count s e o k) tg n = copiesRead s tg n := by
  rw [count_frame]
  rfl

@[simp] theorem settle_freeCtr (s : State) : (settle s).freeCtr = s.freeCtr := by
  rw [settle_frame]

/-- Counting leaves where BAR2 leads, and what an access meets there, as they are. -/
@[simp] theorem count_bar2 (s : State) (e : Nat) (o : Occ) (k : Nat) :
    bar2Addr (count s e o k) = bar2Addr s ∧ bar2Takes (count s e o k) = bar2Takes s ∧ bar2On (count s e o k) = bar2On s
    ∧ badLineIn (count s e o k) = badLineIn s := by
  rw [count_frame]
  exact ⟨rfl, rfl, rfl, rfl⟩

/-- State t with the answer of a read of n bytes of grain memory. -/
def answerGm (t : State) (a n : Nat) : State := { t with resp := .data (gmRead t a n) }

/-- A BAR2 read of memory whose domains are ON, with no bad line, answers once the accesses in progress have fallen before it or not. -/
theorem bar2ReadAt_memory {s : State} {off n : Nat} (ht : bar2Takes s off n = true) (hon : bar2On s (bar2Addr s off) n = true)
    (hbad : badLineIn s (bar2Addr s off) n = false) :
    bar2ReadAt s off n false = answerGm (meet (count s 181 {}) (.gm (bar2Addr s off)) n false) (bar2Addr s off) n := by
  simp [bar2ReadAt, answerGm, ht, hon, hbad]

/-- A BAR2 read that meets one unperformed piece of a copy draws one free value. -/
theorem bar2Read_freeCtr {s t : State} {off n th k i : Nat} {c : PendCopy} (hm : hostMay s 0 = true)
    (hin : off + n ≤ s.regs.bar2Size) (ht : bar2Takes s off n = true) (hon : bar2On s (bar2Addr s off) n = true)
    (hbad : badLineIn s (bar2Addr s off) n = false) (hmet : copiesRead s (.gm (bar2Addr s off)) n = [(th, k, i)])
    (hc : (getThread s (th / 8) (th % 8)).copies[k]? = some c) (hd : c.done.contains i = false)
    (he : exec (.bar2Read off n false) s = .next t) : t.freeCtr = s.freeCtr + 1 := by
  have hx : exec (.bar2Read off n false) s = .next (settle (bar2ReadAt s off n false)) := by
    simp [exec, execBar2Read, done, hm, hin]
  obtain rfl := Host.Outcome.next.inj (hx.symm.trans he)
  have hcc : (getThread (count s 181 {}) (th / 8) (th % 8)).copies[k]? = some c := by simpa using hc
  rw [settle_freeCtr, bar2ReadAt_memory ht hon hbad, answerGm, meet_gmRead, copiesRead_count, hmet]
  simpa using copyPiece_freeCtr hcc hd

/-- Refutes O22: a read of 8 bytes of HBM meets a copy of a grain thread, not yet performed, that writes the same bytes. The read
draws the free value that orders the two (log entry 12), so that it changes more than its answer and its event. -/
theorem not_barTwoAccesses : ¬ Obligations.BarTwoAccesses := by
  intro h
  obtain ⟨read, _⟩ := h { State.reset with
    links := { State.reset.links with u := { State.reset.links.u with l0 := true } },
    regs := { cfg := [(0x10104, 0x40), (0x10108, 1)] },
    garr := { threads := [(0, { copies := [{ src := 0, dst := 0x4000000000, len := 8 }] })] } } 0 8 [] (by decide)
  have drawn := bar2Read_freeCtr (by decide) (by decide) (by decide) (by decide) (by decide) (th := 0) (k := 0) (i := 0)
    (by decide) rfl (by decide) (read (by decide) (by decide) (by decide) (by decide))
  simp at drawn

end Sys2Proof.Machine
end

section
/-! PROOFS. ORDER between the commands of a ring (R90): what each row that starts a command does while something accepted earlier keeps
its command back. -/

namespace Sys2Proof.Machine

section
variable {s : State} {c : Nat} {cmd : Cmd} (hf : findCmd s c = some cmd) (he : eligible s cmd = false)
include hf he

/-- A row that starts a command leaves everything as it is while the command is kept back. -/
theorem done_startCmd_waits (op : Nat) (log : Option Nat) (doms : State → Cmd → Option Nat) (hold : State → Cmd → Bool)
    (body : State → Cmd → State) : done (startCmd s c op log doms hold body) = .next (settle s) :=
  congrArg done (startCmd_waits doms hold body hf he)

/-- So does one that has a further reason to wait. -/
theorem done_ite_startCmd_waits (p : Prop) [Decidable p] (op : Nat) (log : Option Nat) (doms : State → Cmd → Option Nat)
    (hold : State → Cmd → Bool) (body : State → Cmd → State) :
    done (if p then s else startCmd s c op log doms hold body) = .next (settle s) := by
  split
  · rfl
  · exact done_startCmd_waits hf he op log doms hold body

/-- STRATUM_PARK, whether or not its spoke's mover is free. -/
theorem exec_stratumPark_keptBack : exec (.stratumPark c) s = .next (settle s) := by
  simp only [exec, execStratumPark, hf]
  exact done_ite_startCmd_waits hf he _ _ _ _ _ _

/-- STRATUM_RESTORE, whether or not its spoke's mover is free. -/
theorem exec_stratumRestore_keptBack : exec (.stratumRestore c) s = .next (settle s) := by
  simp only [exec, execStratumRestore, hf]
  exact done_ite_startCmd_waits hf he _ _ _ _ _ _

/-- ACC_POWER_STATE, whether or not its accelerator is in a transition. -/
theorem exec_accPowerState_keptBack : exec (.accPowerState c) s = .next (settle s) := by
  simp only [exec, execAccPowerState, hf]
  exact done_ite_startCmd_waits hf he _ _ _ _ _ _

/-- FW_CONFIRM, whether or not its trial is over. -/
theorem exec_fwConfirm_keptBack : exec (.fwConfirm c) s = .next (settle s) :=
  done_ite_startCmd_waits hf he _ _ _ _ _ _

/-- FW_STAGE that has not started. -/
theorem exec_fwStage_keptBack (hs : cmd.started = false) (dma : Option Nat) (ended : StageEnd) :
    exec (.fwStage c dma ended) s = .next (settle s) := by
  simp only [exec, execFwStage, hf, hs, Bool.false_eq_true, false_and, if_false]
  exact done_startCmd_waits hf he _ _ _ _ _

/-- ACC_FW_PUSH that has not started. -/
theorem exec_accFwPush_keptBack (hs : cmd.started = false) (dma : Option Nat) :
    exec (.accFwPush c dma) s = .next (settle s) := by
  simp only [exec, execAccFwPush, hf, hs, Bool.false_eq_true, false_and, if_false]
  exact done_startCmd_waits hf he _ _ _ _ _

end

/-- Settles O56: such a command is kept back (R90), and a row that meets a command kept back changes nothing. -/
theorem orderedCommandsWait : Obligations.OrderedCommandsWait := by
  intro s c cmd e dma ft ended i hf hs he ht hq hc ho hi
  have kept : eligible s cmd = false := eligible_order he ht hq (by rwa [findCmd_seq hf]) ho
  have waits {op log doms hold body} : done (startCmd s c op log doms hold body) = .next (settle s) :=
    done_startCmd_waits hf kept op log doms hold body
  revert i
  simp only [List.forall_mem_cons, List.not_mem_nil, false_imp_iff, implies_true, and_true]
  exact ⟨waits, waits, waits, exec_stratumPark_keptBack hf kept, exec_stratumRestore_keptBack hf kept, waits, waits, waits,
    waits, waits, waits, exec_accPowerState_keptBack hf kept, waits, waits, exec_accFwPush_keptBack hf kept hs dma,
    waits, waits, waits, waits, waits, exec_fwStage_keptBack hf kept hs dma ended, waits, exec_fwConfirm_keptBack hf kept,
    waits, waits, waits, waits, waits, waits, waits⟩

end Sys2Proof.Machine
end

section
/-! PROOFS. Acceptance (R78, R86, R88, R94, R96): what accepting an entry does to queue control, and so the bound of the command table
and the refresh of the two heartbeats. -/

namespace Sys2Proof.Machine

/-! ### Heartbeats -/

/-- Channels that follow their targets leave queue control as it is. -/
@[simp] theorem motorsFollow_qc (s : State) : (motorsFollow s).qc = s.qc := by
  rw [motorFrame_motorsFollow s]

/-- A write of 0x4842 to HOST_HB. -/
theorem exec_hostHb_refreshes {s : State} (h : hostMay s 0 = true) :
    exec (.hostHb 0x4842#32) s = .next (settle (refreshHost s)) := by
  rw [exec_hostHb _ h]
  rfl

/-- A write of any other value. -/
theorem exec_hostHb_dropped {s : State} {v : Word} (h : hostMay s 0 = true) (hv : v ≠ 0x4842#32) :
    exec (.hostHb v) s = .next (settle (setBusy s 2)) := by
  rw [exec_hostHb _ h, hostHbWrite, if_neg hv]

/-- W0 acts on BMC_HB as it stands without PEC, where none is required. -/
theorem w0Acts_bmcHb {s : State} (hp : s.crd.phase = .running) (hr : pecReq s = false) :
    w0Acts s 0x26 0 false ⟨0, [], none, false, false⟩ = true := by
  simp [w0Acts, w0Pec, hp, hr]

/-- A BMC_HB on which W0 acts. -/
theorem exec_bmcHb_acts {s : State} {w : W0Write} (h : w0Acts s 0x26 0 false w = true) :
    exec (.bmcHb w) s = .next (settle (w0Done (refreshBmc s) 0x26 0)) :=
  congrArg done (w0Write_acts h _)

/-! ### Accepting an entry -/

/-- A completion entry leaves the command table and the heartbeats as they are. -/
@[simp] theorem writeCompletion_table (s : State) (c : Cmd) (r : Result) :
    (writeCompletion s c r).qc.cmds = s.qc.cmds ∧ (writeCompletion s c r).qc.hostBeat = s.qc.hostBeat
    ∧ (writeCompletion s c r).qc.bmcBeat = s.qc.bmcBeat := by
  unfold writeCompletion
  dsimp only
  split
  · split
    · simp
    · split <;> simp
  · split <;> simp

/-- A command that completes leaves the command table, and no other does; the heartbeats stay. -/
theorem complete_table (s : State) (c : Nat) (r : Result) :
    (complete s c r).qc.cmds = s.qc.cmds.filter (fun x => x.seq ≠ c)
    ∧ (complete s c r).qc.hostBeat = s.qc.hostBeat ∧ (complete s c r).qc.bmcBeat = s.qc.bmcBeat := by
  unfold complete
  split
  case h_1 hn =>
    refine ⟨(List.filter_eq_self.mpr fun x hx => ?_).symm, rfl, rfl⟩
    simpa using List.find?_eq_none.mp hn x hx
  case h_2 cmd _ =>
    have dropped : (dropCmd s c).qc.cmds = s.qc.cmds.filter (fun x => x.seq ≠ c) := rfl
    dsimp only
    split <;> split <;> simp [dropped]

/-- An entry as the command that it becomes. -/
def asCommand (s : State) (t q cls : Nat) (raw : List Byte) : Cmd :=
  { seq := s.qc.nextSeq, tenant := t, qp := q, cls := cls, raw := raw, acc := s.tick, rpmAt := coolTarget s raw }

/-- The state in which an accepted entry stands in the command table, before it is refused or waits. -/
def entered (s : State) (c : Cmd) : State :=
  let v := acceptCheck s c
  let u : State := { s with qc := { s.qc with
    nextSeq := s.qc.nextSeq + 1, cmds := s.qc.cmds ++ [{ c with noop := decide (v = .noop) }] } }
  let u := count u 144 { tenant := c.tenant, cls := some c.cls }
  let u := if orderWaits u c v then count u 152 { tenant := c.tenant, cls := some c.cls } else u
  if c.tenant < 64 then refreshHost u else refreshBmc u

/-- The command is in the table, and the heartbeat of its sender runs from now. -/
theorem entered_qc (s : State) (c : Cmd) :
    (entered s c).qc = { s.qc with
      nextSeq := s.qc.nextSeq + 1, cmds := s.qc.cmds ++ [{ c with noop := decide (acceptCheck s c = .noop) }],
      hostBeat := if c.tenant < 64 then some s.tick else s.qc.hostBeat,
      bmcBeat := if c.tenant < 64 then s.qc.bmcBeat else some s.tick } := by
  unfold entered
  dsimp only
  split <;> split <;> simp [refreshHost, refreshBmc]

/-- A FW_CONFIRM accepted within the trial window ends the window (R122). -/
def windowEnded (u : State) (c : Cmd) : State :=
  if c.op = 0x52 && (match u.boot.trialEnd with | some e => decide (u.tick < e) | none => false) then
    { u with boot := { u.boot with trialEnd := none, trialRun := false } }
  else u

theorem windowEnded_qc (u : State) (c : Cmd) : (windowEnded u c).qc = u.qc :=
  (apply_ite State.qc _ _ _).trans (ite_self _)

/-- An accepted entry is refused at once, or waits. -/
theorem acceptEntry_eq (s : State) (t q cls : Nat) (raw : List Byte) :
    acceptEntry s t q cls raw = match acceptCheck s (asCommand s t q cls raw) with
      | .refuse r => complete (entered s (asCommand s t q cls raw)) s.qc.nextSeq r
      | .noop => entered s (asCommand s t q cls raw)
      | .wait => windowEnded (entered s (asCommand s t q cls raw)) (asCommand s t q cls raw) := rfl

/-- An accepted entry leaves the command table, the heartbeat of its sender refreshed, with at most one more command. -/
theorem acceptEntry_table (s : State) (t q cls : Nat) (raw : List Byte) :
    (acceptEntry s t q cls raw).qc.cmds.length ≤ s.qc.cmds.length + 1
    ∧ (acceptEntry s t q cls raw).qc.hostBeat = (if t < 64 then some s.tick else s.qc.hostBeat)
    ∧ (acceptEntry s t q cls raw).qc.bmcBeat = (if t < 64 then s.qc.bmcBeat else some s.tick) := by
  have he := entered_qc s (asCommand s t q cls raw)
  have one (c : Cmd) : (s.qc.cmds ++ [c]).length ≤ s.qc.cmds.length + 1 := by simp
  rw [acceptEntry_eq]
  split
  case h_1 r _ =>
    obtain ⟨hc, hh, hb⟩ := complete_table (entered s (asCommand s t q cls raw)) s.qc.nextSeq r
    rw [hc, hh, hb, he]
    exact ⟨(List.length_filter_le _ _).trans (one _), rfl, rfl⟩
  case h_2 =>
    rw [he]
    exact ⟨one _, rfl, rfl⟩
  case h_3 =>
    rw [windowEnded_qc, he]
    exact ⟨one _, rfl, rfl⟩

/-! ### The bound of the command table (R94) -/

/-- While entries may be accepted the table is not full. -/
theorem cmds_lt_of_mayAccept {s : State} (h : mayAccept s = true) : s.qc.cmds.length < 4096 := by
  simp only [mayAccept, fetchPaused, Bool.and_eq_true, Bool.not_eq_true', Bool.or_eq_false_iff, decide_eq_false_iff_not] at h
  omega

/-- Taking one entry does not take the table past 4096. -/
theorem acceptNext_bound {s : State} (h : s.qc.cmds.length ≤ 4096) (t q cls : Nat) :
    (acceptNext s t q cls).1.qc.cmds.length ≤ 4096 := by
  unfold acceptNext
  split
  · exact h
  · rename_i hm
    have room := cmds_lt_of_mayAccept (by simpa using hm)
    split
    · split
      · exact (acceptEntry_table _ t q cls _).1.trans room
      · exact h
    · split
      · exact (acceptEntry_table _ 64 q cls _).1.trans room
      · exact h

/-- Nor does taking several of a pair. -/
theorem acceptUpTo_bound (t q cls n : Nat) : ∀ {s : State}, s.qc.cmds.length ≤ 4096 →
    (acceptUpTo s t q cls n).1.qc.cmds.length ≤ 4096 := by
  induction n with
  | zero => exact fun h => h
  | succ n ih =>
    intro s h
    simp only [acceptUpTo]
    split
    · exact ih (acceptNext_bound h t q cls)
    · exact acceptNext_bound h t q cls

/-- Nor does a class's turn. -/
theorem classTurn_bound {s : State} (h : s.qc.cmds.length ≤ 4096) (k : Nat) : (classTurn s k).qc.cmds.length ≤ 4096 := by
  have turn (l : List (Nat × Nat)) : ∀ a : State × Option Nat, a.1.qc.cmds.length ≤ 4096 →
      (l.foldl (fun (a : State × Option Nat) p =>
        let x := acceptUpTo a.1 p.1 p.2 k (roundShare k)
        (x.1, if x.2 && a.2.isNone then some p.1 else a.2)) a).1.qc.cmds.length ≤ 4096 := by
    induction l with
    | nil => exact fun a h => h
    | cons p l ih => exact fun a h => ih _ (acceptUpTo_bound p.1 p.2 k _ h)
  have last := turn (turnOrder s k) (s, none) h
  unfold classTurn
  dsimp only
  split
  · exact last
  · exact last

/-- The turns of the three classes. -/
def turns (s : State) : State := classTurn (classTurn (classTurn s 0) 1) 2

/-- A round takes the three classes in order. -/
theorem foldl_classTurn (s : State) : [0, 1, 2].foldl classTurn s = turns s := by
  simp only [List.foldl_cons, List.foldl_nil, turns]

/-- The turns do not take the table past 4096. -/
theorem turns_bound {s : State} (h : s.qc.cmds.length ≤ 4096) : (turns s).qc.cmds.length ≤ 4096 := by
  have data := classTurn_bound (classTurn_bound h 0) 1
  unfold turns
  exact classTurn_bound data 2

/-- A round in which entries may be accepted: the turns, and event 148 where an entry still waits for a slot. -/
theorem exec_arbitrationRound_open {s : State} (h : mayAccept s = true) :
    exec .arbitrationRound s = .next (settle (if slotStarved (turns s) then count (turns s) 148 {} else turns s)) := by
  simp only [exec, execArbitrationRound, done, if_pos h]
  rw [foldl_classTurn]

/-- A round in which no entry may be accepted. -/
theorem exec_arbitrationRound_closed {s : State} (h : mayAccept s = false) :
    exec .arbitrationRound s = .next (settle s) := by
  simp only [exec, execArbitrationRound, done, h, Bool.false_eq_true, if_false]

/-- No round takes the table past 4096. -/
theorem arbitrationRound_bound {s t : State} (h : s.qc.cmds.length ≤ 4096) (he : exec .arbitrationRound s = .next t) :
    t.qc.cmds.length ≤ 4096 := by
  cases hm : mayAccept s with
  | false =>
    obtain rfl := Host.Outcome.next.inj ((exec_arbitrationRound_closed hm).symm.trans he)
    simpa using h
  | true =>
    obtain rfl := Host.Outcome.next.inj ((exec_arbitrationRound_open hm).symm.trans he)
    rw [(settle_keeps _).2.2]
    split
    · simp only [count_keeps]
      exact turns_bound h
    · exact turns_bound h

/-- Bit 0 of QC_STATUS is FETCH_PAUSED. -/
theorem qcStatus_fetchPaused (s : State) : (regWord s 0 0x20000).testBit 0 = fetchPaused s := by
  have word : regWord s 0 0x20000 = busyBit s 2 + b2n (fetchPaused s) := rfl
  rw [word, busyBit]
  cases fetchPaused s <;> cases getBusy s 2 <;> rfl

/-- Settles O57: a round is turns, a turn takes entries one by one, and each is taken only where the table has room. -/
theorem commandTableFull : Obligations.CommandTableFull := by
  refine ⟨fun s t h he => arbitrationRound_bound h he, fun s h => ?_⟩
  have paused : fetchPaused s = true := by simp [fetchPaused, h]
  refine ⟨exec_arbitrationRound_closed (by simp [mayAccept, paused]), (settle_keeps s).2.2, ?_, (qcStatus_fetchPaused s).trans paused⟩
  rw [settle_frame]

/-- Settles O58: each write and each accepted entry by the beat that it refreshes. -/
theorem heartbeatsRefreshed : Obligations.HeartbeatsRefreshed := by
  refine ⟨fun s h => exec_hostHb_refreshes h, motorsFollow_qc, fun s v h hv => exec_hostHb_dropped h hv, ?host, ?bmc, ?w0⟩
  case host =>
    intro s t q cls raw ht
    rw [(acceptEntry_table s t q cls raw).2.1, if_pos ht]
  case bmc => exact fun s q cls raw => (acceptEntry_table s 64 q cls raw).2.2
  case w0 =>
    refine fun s hp hr => ⟨_, exec_bmcHb_acts (w0Acts_bmcHb hp hr), ?_⟩
    simp [w0Done, refreshBmc]

end Sys2Proof.Machine
end

section
/-! PROOFS. Tenant resets (R98 to R100): what a reset stops leaves queue control as it is but for the tenant's own rings and commands,
so that no command of the tenant is left; and what the end of a reset leaves. -/

namespace Sys2Proof.Machine

/-! ### The array leaves queue control as it is -/

/-- A fold whose steps leave a part of the state as it is leaves it. -/
theorem foldl_keeps {α β : Type} (part : State → β) {f : State → α → State} (hf : ∀ s a, part (f s a) = part s) (l : List α) :
    ∀ s : State, part (l.foldl f s) = part s := by
  induction l with
  | nil => exact fun s => rfl
  | cons a l ih => exact fun s => (ih (f s a)).trans (hf s a)

/-- No target of a grain's write is a register of queue control. -/
@[simp] theorem writeTarget_qc (s : State) (tg : Target) (bs : List Byte) : (writeTarget s tg bs).qc = s.qc := by
  rw [arrayFrame_writeTarget s tg bs]

@[simp] theorem modOp_qc (s : State) (p k : Nat) (f : TileOp → TileOp) : (modOp s p k f).qc = s.qc := by
  simp [modOp]

/-- Performing a piece of a copy, of a TSTORE or of a read of a tile instruction. -/
@[simp] theorem copyPiece_qc (s : State) (p t k i : Nat) : (copyPiece s p t k i).qc = s.qc := by
  unfold copyPiece
  split
  · rfl
  · split
    · rfl
    · dsimp only
      split <;> simp

@[simp] theorem tilePiece_qc (s : State) (p k i : Nat) : (tilePiece s p k i).qc = s.qc := by
  unfold tilePiece
  split
  · rfl
  · split
    · rfl
    · dsimp only
      split <;> simp

@[simp] theorem tileCapture_qc (s : State) (p k off : Nat) : (tileCapture s p k off).qc = s.qc := by
  unfold tileCapture
  dsimp only
  split <;> simp

@[simp] theorem meetCopies_qc (s : State) (tg : Target) (n : Nat) (write : Bool) : (meetCopies s tg n write).qc = s.qc :=
  foldl_keeps State.qc (fun s _ => copyPiece_qc s _ _ _ _) _ s

/-- What is read before a write that meets it. -/
theorem captures_qc (p k n : Nat) (tg : Target) (l : List (Nat × Nat)) (u : State) : (l.foldl (fun s r =>
    (piecesIn (.ls p r.1) r.2 tg n).foldl (fun s i => tileCapture s p k (r.1 + 8 * i)) s) u).qc = u.qc := by
  refine foldl_keeps State.qc (fun v r => ?_) l u
  exact foldl_keeps State.qc (fun w i => tileCapture_qc w p k (r.1 + 8 * i)) _ v

/-- What an access meets of the started tile instructions: the pieces of a TSTORE, and what the others read. -/
@[simp] theorem meetTiles_qc (s : State) (tg : Target) (n : Nat) (write : Bool) : (meetTiles s tg n write).qc = s.qc := by
  cases tg
  case ls p off =>
    refine foldl_keeps State.qc (fun u k => ?_) _ s
    split
    · rfl
    · split
      · rfl
      · split
        · exact foldl_keeps State.qc (fun v i => tilePiece_qc v p k i) _ u
        · split
          · exact captures_qc p k n _ _ u
          · rfl
  all_goals rfl

@[simp] theorem meetVectors_qc (s : State) (tg : Target) (n : Nat) : (meetVectors s tg n).qc = s.qc := by
  refine foldl_keeps State.qc (fun u e => ?_) _ s
  dsimp only
  split
  · split
    · simp
    · rfl
  · rfl

@[simp] theorem meet_qc (s : State) (tg : Target) (n : Nat) (write : Bool) : (meet s tg n write).qc = s.qc := by
  unfold meet
  dsimp only
  split <;> simp

/-- Performing stores. -/
@[simp] theorem performStore_qc (s : State) (p : Nat) (st : PendStore) : (performStore s p st).qc = s.qc := by
  unfold performStore
  dsimp only
  split
  · simp
  · refine (foldl_keeps State.qc (fun u i => ?_) _ _).trans (meet_qc _ _ _ _)
    split <;> simp

@[simp] theorem performOne_qc (s : State) (p t : Nat) (st : PendStore) : (performOne s p t st).qc = s.qc := by
  simp [performOne]

@[simp] theorem forceScoped_qc (s : State) (p t : Nat) (tg : Target) (n : Nat) : (forceScoped s p t tg n).qc = s.qc := by
  refine foldl_keeps State.qc (fun u i => ?_) _ s
  dsimp only
  split
  · rfl
  · split
    · rfl
    · exact foldl_keeps State.qc (fun u st => performOne_qc u _ _ st) _ u

@[simp] theorem drainGrain_qc (s : State) (p : Nat) : (drainGrain s p).qc = s.qc := by
  refine foldl_keeps State.qc (fun u t => ?_) _ s
  exact foldl_keeps State.qc (fun v st => by simp [performIn]) _ u

@[simp] theorem copyRest_qc (s : State) (p : Nat) (c : PendCopy) (n : Nat) : (copyRest s p c n).qc = s.qc := by
  unfold copyRest
  split
  · simp
  · refine foldl_keeps State.qc (fun u i => ?_) _ s
    split <;> simp

@[simp] theorem cutCopy_qc (s : State) (p t : Nat) : (cutCopy s p t).qc = s.qc := by
  unfold cutCopy
  split <;> simp

/-- Stopping a grain. -/
@[simp] theorem stopGrain_qc (s : State) (p : Nat) : (stopGrain s p).qc = s.qc := by
  have cut : ((List.range 8).foldl (fun s t => cutCopy s p t) (drainGrain s p)).qc = s.qc :=
    (foldl_keeps State.qc (fun u t => cutCopy_qc u p t) _ _).trans (drainGrain_qc s p)
  simpa [stopGrain, clearThreads] using cut

/-- Stopping a launch, and taking it off the list. -/
@[simp] theorem stopLaunch_qc (s : State) (l : Launch) : (stopLaunch s l).qc = s.qc :=
  foldl_keeps State.qc (fun u p => by simp [modLaunch]) _ s

@[simp] theorem poolUpdate_qc (s : State) : (poolUpdate s).qc = s.qc := by
  refine foldl_keeps State.qc (fun u b => ?_) _ s
  dsimp only
  split <;> simp

@[simp] theorem releaseLaunch_qc (s : State) (l : Launch) : (releaseLaunch s l).qc = s.qc := by
  refine (poolUpdate_qc _).trans (foldl_keeps State.qc (fun u b => ?_) l.beds s)
  refine (foldl_keeps State.qc (fun v p => ?_) _ _).trans ?_
  · split <;> simp
  · split <;> simp

@[simp] theorem dropLaunches_qc (s : State) (which : Launch → Bool) : (dropLaunches s which).qc = s.qc :=
  foldl_keeps State.qc (fun u l => (releaseLaunch_qc _ l).trans (stopLaunch_qc u l)) _ s

/-! ### Moves, sessions and what else a reset stops leave queue control as it is -/

@[simp] theorem freeKey_qc (s : State) (kind key : Nat) : (freeKey s kind key).qc = s.qc := rfl

@[simp] theorem setPending_qc (s : State) (h op : Nat) : (setPending s h op).qc = s.qc := rfl

@[simp] theorem sealRelease_qc (s : State) (who : Nat) : (sealRelease s who).qc = s.qc := rfl

@[simp] theorem dropMove_qc (s : State) (c : Nat) : (dropMove s c).qc = s.qc := rfl

@[simp] theorem modMove_qc (s : State) (c : Nat) (f : Move → Move) : (modMove s c f).qc = s.qc := rfl

@[simp] theorem abandonMove_qc (s : State) (m : Move) : (abandonMove s m).qc = s.qc := by
  unfold abandonMove
  dsimp only
  split <;> split <;> simp

@[simp] theorem stopMove_qc (s : State) (m : Move) : (stopMove s m).qc = s.qc := by
  unfold stopMove
  split
  · simp
  · split
    · dsimp only
      split <;> simp
    · simp

@[simp] theorem sealDrop_qc (s : State) (c : Nat) : (sealDrop s c).qc = s.qc :=
  (apply_ite State.qc _ _ _).trans (ite_self _)

@[simp] theorem freeSession_qc (s : State) (x : Session) : (freeSession s x).qc = s.qc := rfl

@[simp] theorem freeRows_qc (s : State) (w : Window) : (freeRows s w).qc = s.qc := rfl

/-- The sessions of a tenant leave. -/
@[simp] theorem dropSessions_qc (s : State) (t : Nat) : (dropSessions s t).qc = s.qc := by
  have leave (u : State) (w : Window) :
      (if windowWithout w t = none then freeRows ((w.sessions.filter (fun x => x.tenant = t)).foldl freeSession u) w
        else (w.sessions.filter (fun x => x.tenant = t)).foldl freeSession u).qc = u.qc := by
    have freed := foldl_keeps State.qc freeSession_qc (w.sessions.filter (fun x => x.tenant = t)) u
    split
    · exact freed
    · exact freed
  unfold dropSessions
  dsimp only
  refine (foldl_keeps State.qc leave _ _).trans (foldl_keeps State.qc (fun u m => ?_) _ s)
  split
  · exact leave u _
  · rfl

@[simp] theorem orphan_qc (s : State) (gone : Nat → Bool) : (orphan s gone).qc = s.qc := by
  have seqs (u : State) (l : List DomSeq) : ({ u with domSeqs := l } : State).qc = u.qc := rfl
  unfold orphan
  exact (seqs _ _).trans (foldl_keeps State.qc (fun u n => by simp) _ s)

/-! ### A reset starts (R99, R100) -/

/-- A tenant reset drops every command of its tenant, and no other. -/
theorem stopTenant_cmds (s : State) (t : Nat) : (stopTenant s t).qc.cmds = s.qc.cmds.filter (fun c => c.tenant ≠ t) := by
  unfold stopTenant
  dsimp only
  rw [orphan_qc, dropSessions_qc, foldl_keeps State.qc sealDrop_qc, dropLaunches_qc, foldl_keeps State.qc stopMove_qc]
  split <;> rfl

/-- The first cause starts a reset. -/
theorem startTReset_starts {s : State} {t : Nat} (bit issuer : Nat) (cmd : Option Nat) (h : (getTen s t).reset = none) :
    startTReset s t bit issuer cmd = modTen (stopTenant s t) t (fun x => { x with
      reset := some { causes := 2 ^ bit, issuer := issuer, start := s.tick, cmds := cmd.toList } }) := by
  simp only [startTReset, h]
  cases cmd <;> rfl

/-- A further cause merges with the reset in progress. -/
theorem startTReset_merges {s : State} {t : Nat} {r : TReset} (bit issuer : Nat) (cmd : Option Nat)
    (h : (getTen s t).reset = some r) :
    startTReset s t bit issuer cmd = modTen s t (fun x => { x with reset := some { r with
      causes := r.causes ||| 2 ^ bit, issuer := if issuer = 0xFF then r.issuer else issuer, cmds := r.cmds ++ cmd.toList } }) := by
  simp only [startTReset, h]
  cases cmd <;> rfl

/-! ### A reset ends (R99) -/

/-- Removing a handle removes its record alone. -/
theorem removeHandle_recs (s : State) (h : Nat) : (removeHandle s h).strata.recs = s.strata.recs.filter (fun r => r.handle ≠ h) :=
  rfl

/-- Removing several handles leaves the records of the others. -/
theorem mem_foldl_removeHandle {r : Stratum} (hs : List Nat) : ∀ {s : State},
    r ∈ (hs.foldl removeHandle s).strata.recs → r ∈ s.strata.recs ∧ r.handle ∉ hs := by
  induction hs with
  | nil => exact fun h => ⟨h, List.not_mem_nil⟩
  | cons a hs ih =>
    intro s h
    obtain ⟨hr, hn⟩ := ih h
    rw [removeHandle_recs, List.mem_filter] at hr
    exact ⟨hr.1, by simpa [hn] using hr.2⟩

/-- Once every handle of a tenant is removed, it owns none. -/
theorem removeOwned_recs (s : State) (t : Nat) :
    ∀ r ∈ (((s.strata.recs.filter (fun x => ownerOf x.handle = t)).map (·.handle)).foldl removeHandle s).strata.recs,
      ownerOf r.handle ≠ t := by
  intro r hr ho
  obtain ⟨hm, hn⟩ := mem_foldl_removeHandle _ hr
  exact hn (List.mem_map.mpr ⟨r, List.mem_filter.mpr ⟨hm, by simpa using ho⟩, rfl⟩)

/-- The first entry of an empty fault log. -/
theorem faultLog_empty {s : State} {t : Nat} (h : (getTen s t).log = []) (code d : Nat) :
    (getTen (faultLog s t code d) t).reset = (getTen s t).reset
    ∧ (getTen (faultLog s t code d) t).log.map (fun e => (e.code, e.detail)) = [(code, d)] := by
  unfold faultLog
  simp only [h, logPush, List.length_nil, Nat.zero_lt_succ, if_true, List.nil_append, Bool.false_eq_true, if_false]
  split
  · simp
  · split <;> simp

/-- A reset on which no command waits ends without a handle of the tenant, and with one entry in its log. -/
theorem endTReset_alone {r : TReset} (s : State) (t : Nat) (h : r.cmds = []) :
    (getTen (endTReset s t r) t).reset = none
    ∧ (∀ x ∈ (endTReset s t r).strata.recs, ownerOf x.handle ≠ t)
    ∧ (getTen (endTReset s t r) t).log.map (fun e => (e.code, e.detail)) = [(6, r.causes + 256 * r.issuer)] := by
  have owned := removeOwned_recs ((s.strata.moves.filter (fun m => m.tenant = t && m.stopping)).foldl abandonMove s) t
  unfold endTReset
  rw [h, List.foldl_nil]
  generalize List.foldl removeHandle _ _ = u at owned
  generalize hv : (if t < 64 then drawEpoch u t else u) = v
  have same : v.strata = u.strata := by
    rw [← hv]
    split
    · simp [drawEpoch]
    · rfl
  obtain ⟨hr, hl⟩ := faultLog_empty (s := modTen v t (fun x => { x with reset := none, log := [], logSeq := 1, spillSeq := 1 }))
    (t := t) (by simp) 6 (r.causes + 256 * r.issuer)
  simp only [count_keeps]
  refine ⟨hr.trans (by simp), ?_, hl⟩
  simpa [same] using owned

/-! ### The causes (R98) -/

/-- TENANT_RESET that starts. -/
theorem exec_tenantReset_now {s : State} {c : Nat} {cmd : Cmd} (h : startsNow s c 0x7F none cmd = true) :
    exec (.tenantReset c) s = .next (settle (tenantResetBody (markStarted s c) cmd)) :=
  congrArg done (startCmd_now noDoms noHold tenantResetBody h rfl rfl)

/-- An FLR of a VF. -/
theorem exec_flr_vf {s : State} {fn : Nat} (hl : s.links.u.l0 = true) (he : fnEnabled s fn = true) (hf : fn ≠ 0) :
    exec (.flr fn) s = .next (settle (startTReset s fn 1 0xFF none)) := by
  simp [exec, execFlr, done, hl, he, hf]

/-- An FLR of the PF. -/
theorem exec_flr_pf {s : State} (hl : s.links.u.l0 = true) :
    exec (.flr 0) s = .next (settle (resetSampling (resetVfs (startTReset s 0 2 0xFF none) 2))) := by
  simp [exec, execFlr, done, hl, fnEnabled]

/-- Clearing VF_ENABLE. -/
theorem exec_vfEnableCleared_l0 {s : State} {vfs : Nat} (hl : s.links.u.l0 = true) (hv : vfs ≤ 63) :
    exec (.vfEnableCleared vfs) s = .next (settle { resetVfs s 3 with qc := { (resetVfs s 3).qc with vfs := vfs } }) := by
  simp [exec, execVfEnableCleared, done, hl, hv]

/-- TENANT_RESET_END. -/
theorem exec_tenantResetEnd_running {s : State} {t : Nat} {r : TReset} (hr : (getTen s t).reset = some r)
    (hu : s.crd.fwUp = true) (ht : t ≤ 64) : exec (.tenantResetEnd t) s = .next (settle (endTReset s t r)) := by
  simp [exec, execTenantResetEnd, done, hr, hu, ht]

/-- Settles O12: the five rows, then how a reset starts, merges and ends. -/
theorem tenantResets : Obligations.TenantResets := by
  refine ⟨?row, fun s fn hl he hf => exec_flr_vf hl he hf, fun s hl => exec_flr_pf hl,
    fun s vfs hl hv => exec_vfEnableCleared_l0 hl hv, ?starts, fun s t bit issuer cmd r hr => startTReset_merges bit issuer cmd hr,
    fun s t r hr hu ht => exec_tenantResetEnd_running hr hu ht, ?ended⟩
  case row => exact fun s c cmd h => exec_tenantReset_now h
  case starts =>
    intro s t bit issuer cmd h
    rw [startTReset_starts bit issuer cmd h]
    refine ⟨by simp, ?_⟩
    have gone : (stopTenant s t).qc.cmds.all (fun x => x.tenant ≠ t) = true := by
      rw [stopTenant_cmds, List.all_filter]
      simp
    simpa using gone
  case ended =>
    intro s t r _ h
    obtain ⟨hr, ho, hl⟩ := endTReset_alone s t h
    exact ⟨hr, List.all_eq_true.mpr fun x hx => decide_eq_true (ho x hx), hl⟩

end Sys2Proof.Machine
end

section
/-! PROOFS. LOG_READ and COUNTER_SNAPSHOT (R97, R102, R373, R376): what each finds, what it writes, and how it completes. -/

namespace Sys2Proof.Machine

/-! ### From a row to step 10 -/

section
variable {s : State} {c : Nat} {cmd : Cmd}

theorem exec_logReadFaultLog_now (h : startsNow s c 0x70 (some 0) cmd = true) (dma : Option Nat) :
    exec (.logReadFaultLog c dma) s = .next (settle (faultLogBody dma (markStarted s c) cmd)) :=
  congrArg done (startCmd_now noDoms noHold (faultLogBody dma) h rfl rfl)

theorem exec_logReadSedimentLog_now (h : startsNow s c 0x70 (some 1) cmd = true) (dma ft : Option Nat) :
    exec (.logReadSedimentLog c dma ft) s = .next (settle (sedimentBody dma ft (markStarted s c) cmd)) :=
  congrArg done (startCmd_now noDoms noHold (sedimentBody dma ft) h rfl rfl)

theorem exec_counterSnapshot_now (h : startsNow s c 0x71 none cmd = true) (dma : Option Nat) :
    exec (.counterSnapshot c dma) s = .next (settle (snapshotBody dma (markStarted s c) cmd)) :=
  congrArg done (startCmd_now noDoms noHold (snapshotBody dma) h rfl rfl)

theorem exec_clockSet_now (h : startsNow s c 0x72 none cmd = true) :
    exec (.clockSet c) s = .next (settle (clockSetBody (markStarted s c) cmd)) :=
  congrArg done (startCmd_now noDoms noHold clockSetBody h rfl rfl)

end

/-! ### Where a reply goes -/

section
variable {c : Cmd}

/-- A host buffer that takes the reply, or T64's own: no write fails. -/
theorem bufError_none {dma : Option Nat} (h : dma = none ∨ c.tenant = 64) : bufError c dma = none := by
  rcases h with rfl | h
  · exact ite_self _
  · exact if_pos h

/-- A host buffer whose write fails. -/
theorem bufError_some (h : c.tenant ≠ 64) (a : Nat) : bufError c (some a) = some a := if_neg h

theorem replyWrite_host (h : c.tenant ≠ 64) (s : State) (bs : List Byte) : replyWrite s c bs = hostWrite s (c.f 0x10 8) bs :=
  if_neg h

theorem replyWrite_t64 (h : c.tenant = 64) (s : State) (bs : List Byte) :
    replyWrite s c bs = setT64 s { s.qc.t64 with buf := KMap.writeN mem0 s.qc.t64.buf 0 (bs.take 4096) } :=
  if_pos h

end

/-! ### LOG_READ of the fault log (R97, R102) -/

/-- The unread entries of a tenant's fault log, oldest first. -/
def unreadOf (s : State) (t : Nat) : List FlEntry := (getTen s t).log.filter (fun e => !e.read)

/-- How many entries a LOG_READ takes. -/
def readMax (s : State) (c : Cmd) : Nat := min (c.f 0xC 4) (if c.tenant = 64 then 128 else (unreadOf s c.tenant).length)

/-- The entries that it takes. -/
def readOut (s : State) (c : Cmd) : List FlEntry := (unreadOf s c.tenant).take (readMax s c)

/-- SEQ of the first unread entry that it leaves, or of the next one. -/
def readNext (s : State) (c : Cmd) : Nat :=
  match (unreadOf s c.tenant).drop (readMax s c) with
  | e :: _ => e.seq
  | [] => (getTen s c.tenant).logSeq

/-- A tenant with some entries of its log marked read. -/
def markRead (out : List FlEntry) (x : Tenant) : Tenant :=
  { x with log := x.log.map (fun e => if out.any (fun y => y.seq = e.seq) then { e with read := true } else e) }

/-- The entries are written, and then marked read. -/
def readLog (s : State) (c : Cmd) : State :=
  count (modTen (replyWrite s c ((readOut s c).flatMap flBytes)) c.tenant (markRead (readOut s c))) 316 {} (readOut s c).length

/-- LOG_READ of a fault log from step 10, in these words. -/
theorem faultLogBody_eq (dma : Option Nat) (s : State) (c : Cmd) :
    faultLogBody dma s c =
      if unreadOf s c.tenant = [] then complete s c.seq { status := .okNoop, r1 := readNext s c }
      else match bufError c dma with
        | some a => complete s c.seq (dmaWriteErr a)
        | none => complete (readLog s c) c.seq (okR (readOut s c).length (readNext s c)) := rfl

section
variable {s : State} {c : Nat} {cmd : Cmd}

/-- Starting a command changes no fault log. -/
theorem readOut_markStarted : unreadOf (markStarted s c) = unreadOf s ∧ readOut (markStarted s c) = readOut s
    ∧ readNext (markStarted s c) = readNext s := by
  have ten : getTen (markStarted s c) = getTen s := by simp
  unfold readOut readNext readMax unreadOf
  rw [ten]
  exact ⟨rfl, rfl, rfl⟩

theorem exec_logReadFaultLog_noop (h : startsNow s c 0x70 (some 0) cmd = true) (hn : unreadOf s cmd.tenant = [])
    (dma : Option Nat) : exec (.logReadFaultLog c dma) s =
      .next (settle (complete (markStarted s c) c { status := .okNoop, r1 := readNext s cmd })) := by
  obtain ⟨hu, ho, hx⟩ := readOut_markStarted (s := s) (c := c)
  rw [exec_logReadFaultLog_now h, faultLogBody_eq, startsNow_seq h, hu, hx, if_pos hn]

theorem exec_logReadFaultLog_fails (h : startsNow s c 0x70 (some 0) cmd = true) (hn : unreadOf s cmd.tenant ≠ [])
    (ht : cmd.tenant ≠ 64) (a : Nat) : exec (.logReadFaultLog c (some a)) s =
      .next (settle (complete (markStarted s c) c (dmaWriteErr a))) := by
  obtain ⟨hu, ho, hx⟩ := readOut_markStarted (s := s) (c := c)
  rw [exec_logReadFaultLog_now h, faultLogBody_eq, startsNow_seq h, hu, if_neg hn, bufError_some ht]

theorem exec_logReadFaultLog_reads (h : startsNow s c 0x70 (some 0) cmd = true) (hn : unreadOf s cmd.tenant ≠ [])
    {dma : Option Nat} (hd : dma = none ∨ cmd.tenant = 64) : exec (.logReadFaultLog c dma) s =
      .next (settle (complete (count (modTen (replyWrite (markStarted s c) cmd ((readOut s cmd).flatMap flBytes)) cmd.tenant
        (markRead (readOut s cmd))) 316 {} (readOut s cmd).length) c (okR (readOut s cmd).length (readNext s cmd)))) := by
  obtain ⟨hu, ho, hx⟩ := readOut_markStarted (s := s) (c := c)
  rw [exec_logReadFaultLog_now h, faultLogBody_eq, startsNow_seq h, hu, hx, ho, if_neg hn, bufError_none hd, readLog, ho]

end

/-! ### LOG_READ of the sediment log (R373) -/

/-- The records in flash from START on. -/
def sedFlash (s : State) (c : Cmd) : List (Nat × List Byte) := (committedBySeq s).filter (fun x => c.f 0x18 8 ≤ x.1)

/-- The records from START on, flash before queue. -/
def sedAll (s : State) (c : Cmd) : List (Nat × List Byte) :=
  sedFlash s c ++ (s.slog.queue.filter (fun r => c.f 0x18 8 ≤ r.seq)).map (fun r => (r.seq, queuedBytes r))

/-- How many records a LOG_READ takes. -/
def sedMax (s : State) (c : Cmd) : Nat := min (c.f 0xC 4) (if c.tenant = 64 then 64 else (sedAll s c).length)

/-- The records that it takes. -/
def sedOut (s : State) (c : Cmd) : List (Nat × List Byte) := (sedAll s c).take (sedMax s c)

/-- SEQ after the last of some records, or START. -/
def sedAfter (c : Cmd) (xs : List (Nat × List Byte)) : Nat :=
  match xs.getLast? with
  | some x => x.1 + 1
  | none => c.f 0x18 8

/-- The records are written. -/
def sedReply (s : State) (c : Cmd) (xs : List (Nat × List Byte)) : State :=
  count (replyWrite s c (xs.flatMap (·.2))) 316 {} xs.length

/-- Does a flash read time out before the last record that is to be read in flash. -/
def sedLate (s : State) (c : Cmd) : Option Nat → Bool
  | some k => decide (k < min (sedMax s c) (sedFlash s c).length)
  | none => false

/-- A timeout at or after the last record in flash does not come about. -/
theorem sedLate_false {s : State} {c : Cmd} {ft : Option Nat}
    (h : ∀ k, ft = some k → min (sedMax s c) (sedFlash s c).length ≤ k) : sedLate s c ft = false := by
  cases ft with
  | none => rfl
  | some k => exact decide_eq_false (Nat.not_lt.mpr (h k rfl))

/-- LOG_READ of the sediment log from step 10, in these words. -/
theorem sedimentBody_eq (dma ft : Option Nat) (s : State) (c : Cmd) :
    sedimentBody dma ft s c =
      if sedLate s c ft then
        complete (sedReply s c ((sedOut s c).take (ft.getD 0))) c.seq { refuse .dataError 5 0x01 with
          r0 := ((sedOut s c).take (ft.getD 0)).length, r1 := sedAfter c ((sedOut s c).take (ft.getD 0)) }
      else if sedOut s c = [] then complete s c.seq { status := .okNoop, r1 := c.f 0x18 8 }
      else match bufError c dma with
        | some a => complete s c.seq (dmaWriteErr a)
        | none => complete (sedReply s c (sedOut s c)) c.seq (okR (sedOut s c).length (sedAfter c (sedOut s c))) := by
  cases ft <;> rfl

section
variable {s : State} {c k : Nat} {cmd : Cmd} {ft : Option Nat}

/-- Starting a command changes no record. -/
theorem sed_markStarted : sedLate (markStarted s c) = sedLate s ∧ sedOut (markStarted s c) = sedOut s := by
  rw [markStarted_frame]
  exact ⟨rfl, rfl⟩

theorem exec_logReadSedimentLog_late (h : startsNow s c 0x70 (some 1) cmd = true)
    (hk : k < min (sedMax s cmd) (sedFlash s cmd).length) (dma : Option Nat) :
    exec (.logReadSedimentLog c dma (some k)) s = .next (settle (complete (sedReply (markStarted s c) cmd ((sedOut s cmd).take k)) c
      { refuse .dataError 5 0x01 with
        r0 := ((sedOut s cmd).take k).length, r1 := sedAfter cmd ((sedOut s cmd).take k) })) := by
  obtain ⟨hl, ho⟩ := sed_markStarted (s := s) (c := c)
  have late : sedLate s cmd (some k) = true := decide_eq_true hk
  rw [exec_logReadSedimentLog_now h, sedimentBody_eq, startsNow_seq h, ho, hl, if_pos late, Option.getD_some]

/-- A LOG_READ in which no flash read times out, from what it finds. -/
theorem exec_logReadSedimentLog_inTime (h : startsNow s c 0x70 (some 1) cmd = true)
    (hk : ∀ k, ft = some k → min (sedMax s cmd) (sedFlash s cmd).length ≤ k) (dma : Option Nat) :
    exec (.logReadSedimentLog c dma ft) s = .next (settle (
      if sedOut s cmd = [] then complete (markStarted s c) c { status := .okNoop, r1 := cmd.f 0x18 8 }
      else match bufError cmd dma with
        | some a => complete (markStarted s c) c (dmaWriteErr a)
        | none => complete (sedReply (markStarted s c) cmd (sedOut s cmd)) c
          (okR (sedOut s cmd).length (sedAfter cmd (sedOut s cmd))))) := by
  obtain ⟨hl, ho⟩ := sed_markStarted (s := s) (c := c)
  rw [exec_logReadSedimentLog_now h, sedimentBody_eq, startsNow_seq h, ho, hl, sedLate_false hk, if_neg Bool.false_ne_true]

theorem exec_logReadSedimentLog_noop (h : startsNow s c 0x70 (some 1) cmd = true)
    (hk : ∀ k, ft = some k → min (sedMax s cmd) (sedFlash s cmd).length ≤ k) (dma : Option Nat) (ho : sedOut s cmd = []) :
    exec (.logReadSedimentLog c dma ft) s =
      .next (settle (complete (markStarted s c) c { status := .okNoop, r1 := cmd.f 0x18 8 })) := by
  rw [exec_logReadSedimentLog_inTime h hk, if_pos ho]

theorem exec_logReadSedimentLog_fails (h : startsNow s c 0x70 (some 1) cmd = true)
    (hk : ∀ k, ft = some k → min (sedMax s cmd) (sedFlash s cmd).length ≤ k) (ho : sedOut s cmd ≠ []) (ht : cmd.tenant ≠ 64)
    (a : Nat) : exec (.logReadSedimentLog c (some a) ft) s = .next (settle (complete (markStarted s c) c (dmaWriteErr a))) := by
  rw [exec_logReadSedimentLog_inTime h hk, if_neg ho, bufError_some ht]

theorem exec_logReadSedimentLog_reads (h : startsNow s c 0x70 (some 1) cmd = true)
    (hk : ∀ k, ft = some k → min (sedMax s cmd) (sedFlash s cmd).length ≤ k) (ho : sedOut s cmd ≠ []) {dma : Option Nat}
    (hd : dma = none ∨ cmd.tenant = 64) : exec (.logReadSedimentLog c dma ft) s =
      .next (settle (complete (sedReply (markStarted s c) cmd (sedOut s cmd)) c
        (okR (sedOut s cmd).length (sedAfter cmd (sedOut s cmd))))) := by
  rw [exec_logReadSedimentLog_inTime h hk, if_neg ho, bufError_none hd]

end

/-! ### COUNTER_SNAPSHOT (R376) -/

/-- How many values a COUNTER_SNAPSHOT returns. -/
def snapCount (c : Cmd) : Nat := min (c.f 0xA 2) (if c.tenant = 64 then 512 else 448)

/-- The value that it returns for an index: all ones for one that the tenant may not see. -/
def snapValue (s u : State) (c : Cmd) (i : Nat) : Nat := if counterShown s c.tenant i then counterAt u i else 2 ^ 64 - 1

/-- The values that it returns. -/
def snapValues (s u : State) (c : Cmd) : List Nat := (List.range (snapCount c)).map (fun k => snapValue s u c (c.f 8 2 + k))

/-- COUNTER_SNAPSHOT from step 10, in these words. -/
theorem snapshotBody_eq (dma : Option Nat) (s : State) (c : Cmd) :
    snapshotBody dma s c = match bufError c dma with
      | some a => complete s c.seq (dmaWriteErr a)
      | none => complete (replyWrite s c ((snapValues s s c).flatMap (leBytes 8))) c.seq (okR (snapCount c)) := by
  have values : ((List.range (snapCount c)).map (fun k => c.f 8 2 + k)).flatMap (fun i => leBytes 8 (snapValue s s c i))
      = (snapValues s s c).flatMap (leBytes 8) := by
    rw [snapValues, List.flatMap_map, List.flatMap_map]
  rw [← values]
  rfl

section
variable {s : State} {c : Nat} {cmd : Cmd}

/-- What a tenant may see does not change as its command starts. -/
theorem snapValues_markStarted : snapValues (markStarted s c) (markStarted s c) cmd = snapValues s (markStarted s c) cmd := by
  have shown : counterShown (markStarted s c) = counterShown s := by
    funext t i
    simp [counterShown]
  unfold snapValues snapValue
  rw [shown]

theorem exec_counterSnapshot_fails (h : startsNow s c 0x71 none cmd = true) (ht : cmd.tenant ≠ 64) (a : Nat) :
    exec (.counterSnapshot c (some a)) s = .next (settle (complete (markStarted s c) c (dmaWriteErr a))) := by
  rw [exec_counterSnapshot_now h, snapshotBody_eq, bufError_some ht, startsNow_seq h]

theorem exec_counterSnapshot_writes (h : startsNow s c 0x71 none cmd = true) {dma : Option Nat}
    (hd : dma = none ∨ cmd.tenant = 64) :
    exec (.counterSnapshot c dma) s = .next (settle (complete
      (replyWrite (markStarted s c) cmd ((snapValues s (markStarted s c) cmd).flatMap (leBytes 8))) c (okR (snapCount cmd)))) := by
  rw [exec_counterSnapshot_now h, snapshotBody_eq, bufError_none hd, startsNow_seq h, snapValues_markStarted]

end

end Sys2Proof.Machine
end

section
/-! PROOFS. The calendar, checkpoints and the log in flash (R361, R364, R367, R368, R370, R382): each row by its cases, and what a record
written, a segment entered and an erase that ends leave. -/

namespace Sys2Proof.Machine

/-! ### The calendar (R361) -/

/-- The record of a CLOCK_SET, of the old calendar and the new one. -/
def clockRecord (u : State) (old : Nat) (c : Cmd) : State :=
  logRec (count u 317 {}) 0x12 9 0 (leBytes 8 old ++ leBytes 8 (c.f 8 8) ++ leBytes 1 c.tenant)

/-- The calendar is set at a time. -/
def calendarSet (u : State) (cal now : Nat) : State := { u with slog := { u.slog with calendar := cal, calSince := now } }

/-- CLOCK_SET from step 10, in these words. -/
theorem clockSetBody_eq (u : State) (c : Cmd) :
    clockSetBody u c = complete (calendarSet (clockRecord u u.slog.calendar c) (c.f 8 8) (clockRecord u u.slog.calendar c).tick)
      c.seq (okR u.slog.calendar) := rfl

/-- CLOCK_SET records old and new, sets the calendar from now, and answers the old. -/
theorem exec_clockSet_sets {s : State} {c : Nat} {cmd : Cmd} (h : startsNow s c 0x72 none cmd = true) :
    exec (.clockSet c) s = .next (settle (complete
      (calendarSet (clockRecord (markStarted s c) s.slog.calendar cmd) (cmd.f 8 8) s.tick) c (okR s.slog.calendar))) := by
  have slog : (markStarted s c).slog = s.slog := by simp
  have tick : (clockRecord (markStarted s c) s.slog.calendar cmd).tick = s.tick := by simp [clockRecord]
  rw [exec_clockSet_now h, clockSetBody_eq, startsNow_seq h, slog, tick]

theorem exec_calendarTick_due {s : State} (hc : s.slog.calendar ≠ 0) (ht : s.slog.calSince + 1000000 ≤ s.tick) :
    exec .calendarTick s = .next (settle { s with slog := { s.slog with
      calendar := (s.slog.calendar + 1) % 2 ^ 64, calSince := s.slog.calSince + 1000000 } }) :=
  congrArg done (if_pos ⟨hc, ht⟩)

theorem exec_calendarTick_early {s : State} (h : s.slog.calendar = 0 ∨ s.tick < s.slog.calSince + 1000000) :
    exec .calendarTick s = .next (settle s) :=
  congrArg done (if_neg (by omega))

/-! ### Records and checkpoints (R364, R365) -/

/-- State t differs from s in the log's queue, the next SEQ, the counts of drops, the lifetime counts and the performance monitor
alone. -/
def logFrame (s t : State) : Prop := t = { s with pm := t.pm, slog := { s.slog with
  queue := t.slog.queue, nextSeq := t.slog.nextSeq, dropped := t.slog.dropped, dropReport := t.slog.dropReport,
  counts := t.slog.counts } }

theorem logFrame_trans {s t u : State} (h : logFrame s t) (h' : logFrame t u) : logFrame s u := by
  unfold logFrame at *
  rw [h', h]

theorem logFrame_count (s : State) (e : Nat) (o : Occ) : logFrame s (count s e o) := by
  unfold logFrame
  rw [count_frame]

theorem logFrame_queue (s : State) (q : List Rec) (n d e : Nat) : logFrame s
    { s with slog := { s.slog with queue := q, nextSeq := n, dropped := d, dropReport := e } } := rfl

/-- Lifetime counts that a record raises. -/
theorem logFrame_ltAdds (l : List Nat) : ∀ s : State, logFrame s (l.foldl (fun s i => ltAdd s i) s) := by
  induction l with
  | nil => exact fun s => rfl
  | cons i l ih => exact fun s => logFrame_trans (t := ltAdd s i) rfl (ih _)

/-- A record that is created keeps to the frame, whether it enters the queue or is lost. -/
theorem logFrame_logRec (s : State) (t src v : Nat) (p : List Byte) : logFrame s (logRec s t src v p) := by
  have made := logFrame_count s 308 {}
  unfold logRec
  dsimp only
  generalize count s 308 {} = u at made
  have enters (q : List Rec) (n d e : Nat) : logFrame s ((recCounts t p).foldl (fun s i => ltAdd s i)
      { u with slog := { u.slog with queue := q, nextSeq := n, dropped := d, dropReport := e } }) :=
    logFrame_trans (logFrame_trans made (logFrame_queue u q n d e)) (logFrame_ltAdds _ _)
  have loses (d e : Nat) : logFrame s (count { u with slog := { u.slog with dropped := d, dropReport := e } } 310 {}) :=
    logFrame_trans (logFrame_trans made (logFrame_queue u _ _ d e)) (logFrame_count _ _ _)
  split
  · exact enters _ _ _ _
  · split
    · exact loses _ _
    · split
      · exact logFrame_trans (enters _ _ _ _) (logFrame_count _ _ _)
      · exact loses _ _

/-- A checkpoint is due. -/
theorem exec_checkpoint_due {s : State} (hu : s.crd.fwUp = true) (hr : s.slog.restored = true)
    (ht : s.slog.lastCheckpoint + cfgF s 0x900018 16 0 * 1000000 ≤ s.tick) :
    exec .checkpoint s = .next (settle (checkpointNow s)) :=
  congrArg done (if_pos ⟨hu, hr, ht⟩)

theorem exec_checkpoint_none {s : State} (h : s.crd.fwUp = false ∨ s.slog.restored = false
    ∨ s.tick < s.slog.lastCheckpoint + cfgF s 0x900018 16 0 * 1000000) : exec .checkpoint s = .next (settle s) := by
  refine congrArg done (if_neg ?_)
  rintro ⟨hu, hr, ht⟩
  simp [hu, hr, Nat.not_lt.mpr ht] at h

/-- The state in which the records of a checkpoint are written. -/
def checkpointBegun (s : State) : State :=
  { s with slog := { s.slog with setNo := s.slog.setNo + 1, atCheckpoint := s.slog.counts, lastCheckpoint := s.tick } }

/-- A checkpoint keeps its time and its SET as its records are written. -/
theorem logFrame_checkpointNow (s : State) : logFrame (checkpointBegun s) (checkpointNow s) := by
  have records (p : State → Nat → List Byte) (l : List Nat) : ∀ u : State,
      logFrame u (l.foldl (fun s j => logRec s 0x02 9 0 (p s j)) u) := by
    induction l with
    | nil => exact fun u => rfl
    | cons j l ih => exact fun u => logFrame_trans (logFrame_logRec u _ _ _ _) (ih _)
  exact records _ _ _

theorem checkpointNow_slog (s : State) :
    (checkpointNow s).slog.lastCheckpoint = s.tick ∧ (checkpointNow s).slog.setNo = s.slog.setNo + 1 := by
  rw [logFrame_checkpointNow s]
  exact ⟨rfl, rfl⟩

/-! ### Writing a record (R368, R382) -/

section
variable {s : State}

theorem exec_recordWrite_may (hw : logWritable s = true) (h1 : 1 ≤ s.slog.headSlot) (h2 : s.slog.headSlot < 1024)
    (e : RecordEnd) : exec (.recordWrite e) s = .next (settle (writeRecord s e)) :=
  congrArg done (if_pos ⟨hw, h1, h2⟩)

theorem writeRecord_empty (h : s.slog.queue = []) (e : RecordEnd) : writeRecord s e = s := by
  simp [writeRecord, h]

/-- While the log may not be written, the head has no slot, or nothing waits. -/
theorem exec_recordWrite_none
    (h : logWritable s = false ∨ s.slog.headSlot = 0 ∨ 1024 ≤ s.slog.headSlot ∨ s.slog.queue = []) (e : RecordEnd) :
    exec (.recordWrite e) s = .next (settle s) := by
  by_cases hw : logWritable s = true ∧ 1 ≤ s.slog.headSlot ∧ s.slog.headSlot < 1024
  · obtain ⟨hl, h1, h2⟩ := hw
    have hq : s.slog.queue = [] := by
      rcases h with h | h | h | h
      · simp [hl] at h
      · omega
      · omega
      · exact h
    rw [exec_recordWrite_may hl h1 h2, writeRecord_empty hq]
  · exact congrArg done (if_neg hw)

/-- The address of the head slot. -/
def headAddr (s : State) : Nat := slotAddr (1024 * s.slog.headSeg + s.slog.headSlot)

/-- The head record is in flash, and has left the queue. -/
def recordWritten (s : State) (r : Rec) (rest : List Rec) : State :=
  let u := count (flashProg s (headAddr s) (recBytes r)) 309 {}
  { u with slog := { u.slog with queue := rest, headSlot := u.slog.headSlot + 1, headSeq := r.seq, mismatches := 0 } }

/-- A LOG_DROPPED record is one more record. -/
theorem logFrame_drained (s : State) : logFrame s (drained s) := by
  unfold drained
  split
  · exact logFrame_trans (logFrame_queue s _ _ _ 0) (logFrame_logRec _ _ _ _ _)
  · rfl

theorem drained_noDrops (h : s.slog.dropReport = 0) : drained s = s := by
  simp [drained, h]

variable {r : Rec} {rest : List Rec} (hq : s.slog.queue = r :: rest)
include hq

/-- A write that ends well, and then the report of what was dropped (R369). -/
theorem writeRecord_good : writeRecord s .good = drained (recordWritten s r rest) := by
  unfold writeRecord
  rw [hq]
  rfl

/-- A record that is written goes to the head slot, and the head moves on. -/
theorem writeRecord_good_written :
    (writeRecord s .good).mem = { s.mem with flash := KMap.writeN flash1 s.mem.flash (headAddr s) (recBytes r) }
    ∧ (writeRecord s .good).slog.headSlot = s.slog.headSlot + 1 ∧ (writeRecord s .good).slog.headSeq = r.seq := by
  rw [writeRecord_good hq, logFrame_drained (recordWritten s r rest)]
  simp [recordWritten, flashProg]

/-- It leaves the queue. -/
theorem writeRecord_good_queue (hd : s.slog.dropReport = 0) : (writeRecord s .good).slog.queue = rest := by
  rw [writeRecord_good hq, drained_noDrops]
  · rfl
  · simpa [recordWritten] using hd

/-- A write that does not end well leaves a torn slot, and the record in the queue. -/
theorem writeRecord_torn {e : RecordEnd} (he : e ≠ .good) : (writeRecord s e).slog.queue = s.slog.queue
    ∧ (writeRecord s e).mem = { s.mem with flash := KMap.writeN flash1 s.mem.flash (headAddr s) (recBody r) }
    ∧ (writeRecord s e).slog.torn = min (s.slog.torn + 1) 65535 := by
  cases e with
  | good => exact absurd rfl he
  | mismatch => simp [writeRecord, hq, flashProg, headAddr, satN]
  | cut => simp [writeRecord, hq, flashProg, headAddr, satN]

/-- After a reset between the two programs the head passes the slot. -/
theorem writeRecord_cut_head : (writeRecord s .cut).slog.headSlot = s.slog.headSlot + 1 := by
  simp [writeRecord, hq]

/-- So it does after the first two mismatches in a segment. -/
theorem writeRecord_mismatch_head (h : s.slog.mismatches < 2) : (writeRecord s .mismatch).slog.headSlot = s.slog.headSlot + 1 := by
  simp [writeRecord, hq, Nat.not_le.mpr h]

/-- The third abandons the segment. -/
theorem writeRecord_mismatch_third (h : 2 ≤ s.slog.mismatches) :
    (writeRecord s .mismatch).slog.headSlot = 1024 ∧ (writeRecord s .mismatch).slog.flashErr = true := by
  simp [writeRecord, hq, h]

end

/-! ### Segments (R367, R382) -/

section
variable {s : State}

theorem exec_segmentEntry_full (hw : logWritable s = true) (hh : 1024 ≤ s.slog.headSlot) (he : s.slog.erasing = none) :
    exec .segmentEntry s = .next (settle (enterSegment s)) :=
  congrArg done (if_pos ⟨hw, hh, Option.isNone_iff_eq_none.mpr he⟩)

theorem exec_segmentEntry_none (h : logWritable s = false ∨ s.slog.headSlot < 1024 ∨ s.slog.erasing ≠ none) :
    exec .segmentEntry s = .next (settle s) := by
  refine congrArg done (if_neg ?_)
  rintro ⟨hw, hh, he⟩
  simp [hw, Nat.not_lt.mpr hh, Option.isNone_iff_eq_none.mp he] at h

/-- The head is in the next segment, at its first slot, and the segment after it is being erased. -/
theorem enterSegment_slog (s : State) :
    (enterSegment s).slog.headSeg = nextSegment s ∧ (enterSegment s).slog.headSlot = 1
    ∧ (enterSegment s).slog.segSeq = s.slog.segSeq + 1 ∧ (enterSegment s).slog.erasing ≠ none := by
  simp [enterSegment, startErase]

theorem segmentEraseEnd_idle (h : s.slog.erasing = none) (b : Bool) : segmentEraseEnd b s = s := by
  simp [segmentEraseEnd, h]

variable {k : Nat}

/-- An erase that is held or suspended does not end. -/
theorem segmentEraseEnd_stopped (he : s.slog.erasing = some k) (h : s.slog.eraseHeld = true ∨ eraseSuspended s = true)
    (b : Bool) : segmentEraseEnd b s = s := by
  have stopped : (s.slog.eraseHeld || eraseSuspended s) = true := Bool.or_eq_true_iff.mpr h
  simp [segmentEraseEnd, he, stopped]

variable (he : s.slog.erasing = some k) (hh : s.slog.eraseHeld = false) (hs : eraseSuspended s = false)
include he hh hs

/-- An erase that ends well leaves its segment erased. -/
theorem segmentEraseEnd_erased : (segmentEraseEnd true s).slog.erasing = none
    ∧ (segmentEraseEnd true s).mem = { s.mem with
      flash := KMap.clearRange s.mem.flash (slotAddr (1024 * k)) (slotAddr (1024 * (k + 1))) } := by
  simp [segmentEraseEnd, he, hh, hs, flashErase]

/-- One that fails makes the log skip its segment and erase the one after. -/
theorem segmentEraseEnd_failed :
    (segmentEraseEnd false s).slog.skipped = s.slog.skipped ++ [k]
    ∧ (segmentEraseEnd false s).slog.erasing = some (nextSeg (segmentEraseEnd false s).slog.skipped s.slog.headSeg 256)
    ∧ (segmentEraseEnd false s).mem = s.mem := by
  simp [segmentEraseEnd, he, hh, hs, startErase, nextSegment]

end

/-! ### The head search (R370) -/

section
variable {s : State} {d : Nat} (hd : s.slog.retryAt = some d) (hu : s.crd.fwUp = true) (ht : d ≤ s.tick)
include hd hu ht

theorem exec_logHeadSearchRetry_fails : exec (.logHeadSearchRetry true) s =
    .next (settle { s with slog := { s.slog with retryAt := some (s.tick + 60000000) } }) := by
  simp [exec, execLogHeadSearchRetry, done, hd, hu, Nat.not_lt.mpr ht]

theorem exec_logHeadSearchRetry_finds : exec (.logHeadSearchRetry false) s =
    .next (settle (checkpointNow (restoreCounts (headSearch s)))) := by
  simp [exec, execLogHeadSearchRetry, done, hd, hu, Nat.not_lt.mpr ht]

end

theorem exec_logHeadSearchRetry_none {s : State}
    (h : s.slog.retryAt = none ∨ s.crd.fwUp = false ∨ ∃ d, s.slog.retryAt = some d ∧ s.tick < d) (b : Bool) :
    exec (.logHeadSearchRetry b) s = .next (settle s) := by
  obtain h | h | ⟨d, hd, ht⟩ := h
  · simp [exec, execLogHeadSearchRetry, done, h]
  · cases hr : s.slog.retryAt <;> simp [exec, execLogHeadSearchRetry, done, hr, h]
  · simp [exec, execLogHeadSearchRetry, done, hd, ht]

/-! ### The statement -/

/-- Settles O54: each clause is a case of a row. -/
theorem logsAndCounters : Obligations.LogsAndCounters := by
  refine ⟨?faultLog, ?sediment, ?snapshot, ?reply, ?clockSet, ?tick, ?noTick, ?checkpoint, ?record, ?noRecord, ?segment, ?noErase,
    ?erase, ?search⟩
  case faultLog =>
    intro s c cmd h
    exact ⟨fun dma hn => exec_logReadFaultLog_noop h hn dma, fun a hn ht => exec_logReadFaultLog_fails h hn ht a,
      fun dma hn hd => exec_logReadFaultLog_reads h hn hd⟩
  case sediment =>
    intro s c cmd h
    exact ⟨fun dma k hk => exec_logReadSedimentLog_late h hk dma, fun dma ft hk =>
      ⟨fun ho => exec_logReadSedimentLog_noop h hk dma ho,
        fun a ho ht hd => hd ▸ exec_logReadSedimentLog_fails h hk ho ht a,
        fun ho hd => exec_logReadSedimentLog_reads h hk ho hd⟩⟩
  case snapshot =>
    intro s c cmd h
    exact ⟨fun dma hd => exec_counterSnapshot_writes h hd, fun a ht => exec_counterSnapshot_fails h ht a⟩
  case reply =>
    refine fun s cmd bs => ⟨fun ht => replyWrite_host ht s bs, fun ht => ?_⟩
    rw [replyWrite_t64 ht]
    exact ⟨rfl, rfl⟩
  case clockSet => exact fun s c cmd h => exec_clockSet_sets h
  case tick => exact fun s hc ht => exec_calendarTick_due hc ht
  case noTick => exact fun s h => exec_calendarTick_early h
  case checkpoint =>
    exact fun s => ⟨fun hu hr ht => exec_checkpoint_due hu hr ht, fun h => exec_checkpoint_none h, checkpointNow_slog s⟩
  case record =>
    intro s r rest hw hq h1 h2
    obtain ⟨hm, hh, hs⟩ := writeRecord_good_written hq
    exact ⟨exec_recordWrite_may hw h1 h2, hm, hh, hs, writeRecord_good_queue hq, fun e he => writeRecord_torn hq he,
      writeRecord_cut_head hq, writeRecord_mismatch_head hq, writeRecord_mismatch_third hq⟩
  case noRecord => exact fun s h e => exec_recordWrite_none h e
  case segment =>
    exact fun s => ⟨fun hw hh he => exec_segmentEntry_full hw hh he, fun h => exec_segmentEntry_none h, enterSegment_slog s⟩
  case noErase => exact fun s h b => congrArg done (segmentEraseEnd_idle h b)
  case erase =>
    intro s k he
    exact ⟨fun b h => congrArg done (segmentEraseEnd_stopped he h b),
      fun hh hs => ⟨_, rfl, segmentEraseEnd_erased he hh hs⟩, fun hh hs => ⟨_, rfl, segmentEraseEnd_failed he hh hs⟩⟩
  case search =>
    exact fun s => ⟨fun d hd hu ht => ⟨exec_logHeadSearchRetry_fails hd hu ht, exec_logHeadSearchRetry_finds hd hu ht⟩,
      fun b h => exec_logHeadSearchRetry_none h b⟩

end Sys2Proof.Machine
end

section
/-! PROOFS. A requester of the seal engine whose messages run within one step (R128): when it is served and when it waits. -/

namespace Sys2Proof.Machine

section
variable {s : State} {who : Nat}

/-- Where a context is free nobody waits. -/
theorem sealFree_waiting (h : sealFree s = true) : s.sealEng.waiting = [] := by
  simp only [sealFree, Bool.and_eq_true, List.isEmpty_iff] at h
  exact h.1

/-- A requester that holds no context runs at once where one is free. -/
theorem sealServe_free (n : Nat) (keeps : Bool) (run : State → State) (hh : sealHolds s who = false) (hf : sealFree s = true) :
    sealServe s who n keeps run = run s := by
  simp [sealServe, hh, hf, sealFree_waiting hf]

/-- Where none is free it asks for one, unless it waits already. -/
theorem sealServe_waits (n : Nat) (keeps : Bool) (run : State → State) (hh : sealHolds s who = false)
    (hw : s.sealEng.waiting.any (fun r => r.who = who) = false) (hf : sealFree s = false) :
    sealServe s who n keeps run = sealAcquire s who n keeps := by
  simp only [sealServe, hh, hw, hf]
  rfl

/-- Waiting requesters that take their contexts leave the boot reservation as it is. -/
@[simp] theorem sealFill_bootReserved (e : Seal) : (sealFill e).bootReserved = e.bootReserved := by
  have place (e : Seal) (r : SealReq) : (sealPlace e r).bootReserved = e.bootReserved := by
    unfold sealPlace
    split
    · rfl
    · split <;> rfl
  have placed (l : List SealReq) : ∀ e : Seal, (l.foldl sealPlace e).bootReserved = e.bootReserved := by
    induction l with
    | nil => exact fun e => rfl
    | cons r l ih => exact fun e => (ih (sealPlace e r)).trans (place e r)
  exact placed _ _

/-- The first that waits takes context 0 where it alone is free. -/
theorem sealFill_first {e : Seal} {w : SealReq} {ws : List SealReq} (h0 : e.ctx0 = none) (h1 : e.ctx1.isSome = true)
    (hb : e.bootReserved = false) (hw : e.waiting = w :: ws) : sealFill e = { e with ctx0 := some w, waiting := ws } := by
  simp [sealFill, sealPlace, b2n, h0, Option.isSome_iff_ne_none.mp h1, hb, hw]

end

end Sys2Proof.Machine
end

section
/-! PROOFS. A loader run (R117, R118, Tables 5.10 and 5.11): the flash's answer, the choice of image, and Marl's start. -/

namespace Sys2Proof.Machine

/-! ### The flash's answer (Table 5.11) -/

/-- LOADER_RUN while the loader neither has started Marl nor waits for the host. -/
theorem exec_loaderRun_running {s : State} (hp : s.crd.phase = .running) (hr : s.boot.loaderRunning = true)
    (hs : s.boot.started = false) (hw : s.boot.waitHost = false) (x : FlashRead) :
    exec (.loaderRun x) s = .next (settle (loaderRun s x.sfdp x.stall)) := by
  simp [exec, execLoaderRun, done, hp, hr, hs, hw]

/-- The loader's state once the flash has answered with good tables. -/
def sfdpRead (s : State) (x : SfdpTables) : State :=
  { s with boot := { s.boot with flashDead := false, sfdp := x, flashMode := fastestMode x } }

/-- A flash that falls silent at the descriptors stops the loader. -/
theorem loaderRun_descriptors (s : State) (x : SfdpTables) :
    loaderRun s (.good x) .descriptors = flashSilent (sfdpRead s x) := rfl

theorem loaderRun_good (s : State) (x : SfdpTables) {stall : FlashStall} (h : stall ≠ .descriptors) :
    loaderRun s (.good x) stall = loaderChoose stall (sfdpRead s x) := if_neg h

/-! ### The slots -/

section
variable {s : State} {stall : FlashStall} {k : Nat}

/-- The first slot of two is tried where BOOT_SRC is FLASH. -/
theorem runFirstGood_flash (stall : FlashStall) (a b : Nat) (h : s.crd.bootHost = false) :
    runFirstGood stall s a b =
      trySlot stall s a (fun s => trySlot stall (bootErrAt s (4 + a)) b (fun s => waitHost (bootErrAt s 6))) :=
  if_neg (by simp [h])

theorem runFirstGood_host (stall : FlashStall) (a b : Nat) (h : s.crd.bootHost = true) :
    runFirstGood stall s a b = waitHost s := if_pos h

theorem stallIn_slot (k : Fin 2) (n : Nat) : stallIn (.slot k n) k.val = some n := if_pos rfl

/-- A slot within which the flash falls silent. -/
theorem trySlot_silent {n : Nat} (bad : State → State) (h : stallIn stall k = some n) :
    trySlot stall s k bad = flashSilent (streamCode s (slotImage s k) (min n (payloadLen (slotImage s k)))) := by
  simp only [trySlot, h]

theorem trySlot_good (bad : State → State) (h : stallIn stall k = none) (hi : bootImageOk (slotImage s k) = true) :
    trySlot stall s k bad = runImage s (slotImage s k) k := by
  simp only [trySlot, h]
  exact if_pos hi

/-- The payload of a slot that is not well-formed is in code SRAM as the loader goes on. -/
theorem trySlot_bad (bad : State → State) (h : stallIn stall k = none) (hi : bootImageOk (slotImage s k) = false) :
    trySlot stall s k bad = bad (streamCode s (slotImage s k) (payloadLen (slotImage s k))) := by
  simp only [trySlot, h]
  exact if_neg (by simp [hi])

end

/-! ### The choice of image (R117, R118) -/

section
variable {s : State} {stall : FlashStall}

/-- With a stable descriptor to write the loader looks at the retained image first. -/
theorem loaderChoose_stable (hp : s.boot.pending.isSome = true) (ht : (descNow s).trial = false) :
    loaderChoose stall s = runRetained stall s (descNow s) := by
  simp [loaderChoose, Option.isSome_iff_ne_none.mp hp, ht]

theorem runRetained_none (d : BootDesc) (h : s.boot.retained = none) :
    runRetained stall s d = runFirstGood stall s (d.active % 2) (1 - d.active % 2) := by
  simp only [runRetained, h]

theorem runRetained_matches {r : RunRecord} (d : BootDesc) (h : s.boot.retained = some r) (hc : s.boot.codeBad = false)
    (hd : (sha384 (s.boot.code.take r.len)).toNat = r.digest) :
    runRetained stall s d = startMarl (count s 160 {} (ceilDiv r.len 4096)) r true := by
  simp only [runRetained, h]
  exact if_pos ⟨by rw [hc]; rfl, hd⟩

/-- A retained image that does not match gives BOOT_ERR 9 and the cold path. -/
theorem runRetained_mismatch {r : RunRecord} (d : BootDesc) (h : s.boot.retained = some r)
    (hd : s.boot.codeBad = true ∨ (sha384 (s.boot.code.take r.len)).toNat ≠ r.digest) :
    runRetained stall s d = runFirstGood stall (bootErrAt s 9) (d.active % 2) (1 - d.active % 2) := by
  simp only [runRetained, h]
  refine if_neg ?_
  rintro ⟨hc, hm⟩
  exact hd.elim (fun hb => by simp [hb] at hc) (fun hn => hn hm)

/-- The trial is disarmed, and its window is the descriptor's, or 120 s. -/
def trialBegun (s : State) (d : BootDesc) : State :=
  { s with boot := { s.boot with trialArmed := false, trialWindow := if d.windowS = 0 then 120 else d.windowS } }

/-- With an armed trial its slot runs where it is well-formed. -/
theorem loaderChoose_trial (hp : s.boot.pending.isSome = true) (ht : (descNow s).trial = true) (ha : s.boot.trialArmed = true)
    (hh : s.crd.bootHost = false) (hi : bootImageOk (slotImage s ((descNow s).trialSlot % 2)) = true) :
    loaderChoose .none s = runImage (trialBegun s (descNow s)) (slotImage s ((descNow s).trialSlot % 2))
      ((descNow s).trialSlot % 2) := by
  have disarmed (k : Nat) : slotImage { s with boot := { s.boot with trialArmed := false } } k = slotImage s k := rfl
  simp [loaderChoose, Option.isSome_iff_ne_none.mp hp, ht, ha, hh, disarmed, hi, stallIn, trialBegun]

end

/-- What Marl's start leaves in the status and in the seal engine. -/
theorem startMarl_boot (s : State) (r : RunRecord) (fast : Bool) : (startMarl s r fast).boot.started = true
    ∧ (startMarl s r fast).boot.loaderRunning = false ∧ (startMarl s r fast).boot.fastWake = fast
    ∧ (startMarl s r fast).boot.unverified = decide (r.verify ≠ 0)
    ∧ (startMarl s r fast).boot.keyLock = (decide (r.verify ≠ 0) || s.boot.unverifiedRan || s.boot.hostLocked)
    ∧ (startMarl s r fast).sealEng.bootReserved = false :=
  ⟨rfl, rfl, rfl, rfl, rfl, sealFill_bootReserved _⟩

/-- Settles O23: the flash's answer first, then the choice of image as the descriptor, the retained image and the slots decide it. -/
theorem loaderRuns : Obligations.LoaderRuns := by
  refine ⟨?answer, ?active, ?host, ?retained, ?mismatch, ?other, ?silent, ?trial, startMarl_boot⟩
  case answer =>
    intro s hp hr hs hw stall
    have run := exec_loaderRun_running hp hr hs hw
    refine ⟨run _, run _, run _, ?_⟩
    exact fun x => ⟨run _, fun hd => (run _).trans (congrArg done (loaderRun_good s x hd))⟩
  case active =>
    intro s hp ht hr hh hi
    rw [loaderChoose_stable hp ht, runRetained_none _ hr, runFirstGood_flash _ _ _ hh, trySlot_good _ rfl hi]
  case host =>
    intro s stall hp ht hr hh
    rw [loaderChoose_stable hp ht, runRetained_none _ hr, runFirstGood_host _ _ _ hh]
  case retained =>
    intro s stall r hp ht hr hc hd
    rw [loaderChoose_stable hp ht, runRetained_matches _ hr hc hd]
  case mismatch =>
    intro s stall r hp ht hr hd
    rw [loaderChoose_stable hp ht, runRetained_mismatch _ hr hd]
  case other =>
    intro s a b hh hi u
    rw [runFirstGood_flash _ _ _ hh, trySlot_bad _ rfl hi]
    exact ⟨fun hb => trySlot_good _ rfl hb, fun hb => trySlot_bad _ rfl hb⟩
  case silent =>
    intro s k b n hh
    rw [runFirstGood_flash _ _ _ hh, trySlot_silent _ (stallIn_slot k n)]
  case trial => exact fun s hp ht ha hh hi => loaderChoose_trial hp ht ha hh hi

end Sys2Proof.Machine
end

section
/-! PROOFS. BOOT_RELEASE, KEY_LOCK, FW_UP and DESCRIPTOR_WRITE (R47, R119, R122, R124, R133, R214): what each does, and what Daxrin's
readiness leaves of the Horizon page. -/

namespace Sys2Proof.Machine

/-! ### BOOT_RELEASE (R119) -/

section
variable {s : State} {v : Word}

theorem bootReleaseWrite_dropped (h : bf v 7 0 ≠ 0x5A ∨ s.boot.waitHost = false) : bootReleaseWrite s v = setBusy s 4 :=
  if_pos (by simpa using h)

/-- The bytes of HBM that a BOOT_RELEASE names. -/
def hostImage (s : State) : List Byte := gmRead s (cfgD s 0x200008) (cfgF s 0x200010 22 0)

/-- With its key, a waiting loader and an image in HBM that is ON, the image is checked. -/
theorem bootReleaseWrite_copies (hk : bf v 7 0 = 0x5A) (hw : s.boot.waitHost = true) (hlo : Config.hbmBase ≤ cfgD s 0x200008)
    (hhi : cfgD s 0x200008 + cfgF s 0x200010 22 0 ≤ Config.hbmBase + Config.hbmBytes) (hd : domOn s 14 = true) :
    bootReleaseWrite s v =
      if bootImageOk (hostImage s) then runImage s (hostImage s) 2
      else bootErrAt (streamCode s (hostImage s) (payloadLen (hostImage s))) 7 := by
  have goes : ¬ (bf v 7 0 ≠ 0x5A ∨ (!s.boot.waitHost) = true) := by simp [hk, hw]
  have inHbm : Config.hbmBase ≤ cfgD s 0x200008 ∧ cfgD s 0x200008 + cfgF s 0x200010 22 0 ≤ Config.hbmBase + Config.hbmBytes
      ∧ domOn s 14 = true := ⟨hlo, hhi, hd⟩
  simp only [bootReleaseWrite, if_neg goes, if_pos inHbm, hostImage]
  rfl

/-! ### KEY_LOCK (R133) -/

theorem keyLockWrite_set (h : v.getLsbD 0 = true) :
    keyLockWrite s v = { s with boot := { s.boot with keyLock := true, hostLocked := true } } := if_pos h

theorem keyLockWrite_clear (h : v.getLsbD 0 = false) : keyLockWrite s v = s := if_neg (Bool.eq_false_iff.mp h)

theorem exec_keyLock_vf {fn : Nat} (h : fn ≠ 0) (s : State) (v : Word) : exec (.keyLock fn v) s = .next (settle s) :=
  congrArg done (if_neg h)

end

/-! ### What Daxrin does before FW_UP leaves TICK and the Horizon page as they are -/

/-- The Horizon page's own fields, and TICK. -/
def pageTime (s : State) : Horizon × Nat := (s.hz, s.tick)

theorem pageTime_ite {p : Prop} [Decidable p] {t u : State} {x : Horizon × Nat} (ht : pageTime t = x) (hu : pageTime u = x) :
    pageTime (if p then t else u) = x := by
  split
  · exact ht
  · exact hu

section
variable (s : State)

theorem slog_pageTime (l : SLog) : pageTime { s with slog := l } = pageTime s := rfl

theorem ltAdd_pageTime (i n : Nat) : pageTime (ltAdd s i n) = pageTime s := rfl

theorem count_pageTime (e : Nat) (o : Occ) (n : Nat) : pageTime (count s e o n) = pageTime s := by
  simp [pageTime]

theorem logRec_pageTime (t src v : Nat) (p : List Byte) : pageTime (logRec s t src v p) = pageTime s := by
  simp [pageTime]

theorem loseRec_pageTime (h : Nat) : pageTime (loseRec s h) = pageTime s := by
  unfold loseRec
  split
  · rfl
  · simp [pageTime]

theorem resolvePending_pageTime (r : Stratum) : pageTime (resolvePending s r) = pageTime s :=
  pageTime_ite rfl (pageTime_ite rfl (pageTime_ite (loseRec_pageTime _ _) (pageTime_ite rfl rfl)))

theorem erasesFound_pageTime (segs : List (Nat × Nat × Nat)) (top : Nat) : pageTime (erasesFound s segs top) = pageTime s := by
  refine foldl_keeps pageTime (fun u k => ?_) _ s
  dsimp only
  split
  · rfl
  · exact pageTime_ite rfl rfl

/-- The head search writes the log, and counts a torn slot. -/
theorem headSearch_pageTime : pageTime (headSearch s) = pageTime s := by
  have jumped (u : State) (by_ : Nat) : pageTime (jumpSeq u by_) = pageTime u := rfl
  have erases (u : State) (k : Nat) : pageTime (startErase u k) = pageTime u := rfl
  unfold headSearch
  dsimp only
  split
  · rfl
  · next k top _ _ =>
    have found (l : SLog) : pageTime { erasesFound s (segments (committed s)) top with slog := l } = pageTime s :=
      (slog_pageTime _ l).trans (erasesFound_pageTime s _ top)
    refine pageTime_ite ((erases _ _).trans ?_) ?_
    all_goals exact (jumped _ _).trans (pageTime_ite ((count_pageTime _ _ _ _).trans (found _)) (found _))

theorem restoreCounts_pageTime : pageTime (restoreCounts s) = pageTime s := by
  unfold restoreCounts
  exact (slog_pageTime _ _).trans (foldl_keeps pageTime (fun _ _ => ltAdd_pageTime _ _ _) _ s)

theorem logStart_pageTime : pageTime (logStart s) = pageTime s :=
  pageTime_ite rfl ((restoreCounts_pageTime _).trans (headSearch_pageTime s))

theorem checkpointNow_pageTime : pageTime (checkpointNow s) = pageTime s := by
  have written {t u : State} (h : logFrame t u) : pageTime u = pageTime t := by
    rw [h]
    rfl
  exact (written (logFrame_checkpointNow s)).trans rfl

theorem writeRetain_pageTime (n v : Nat) : pageTime (writeRetain s n v) = pageTime s := pageTime_ite rfl rfl

theorem endAbandoned_pageTime (n : Nat) : pageTime (endAbandoned s n) = pageTime s :=
  pageTime_ite (pageTime_ite (writeRetain_pageTime _ _ _) rfl) rfl

/-- FW_UP sets: the cold start is over, the page's stale mark follows its last frame, a trial's watchdog starts and DOE is ready. -/
def fwUpSet : State :=
  { s with
    crd := { s.crd with fwUp := true, coldStart := false },
    hz := { s.hz with stale := s.hz.stale || decide (s.hz.lastPub + 100000 ≤ s.tick) },
    boot := { s.boot with
      trialRun := decide (s.boot.trialWindow ≠ 0),
      trialEnd := if s.boot.trialWindow = 0 then none else some (s.tick + s.boot.trialWindow * 1000000) },
    sealEng := { s.sealEng with doeBusy := false } }

/-- The state that Daxrin leaves before FW_UP: records resolved, the log's counts restored at a cold start, the BOOT record and its
checkpoint written, and abandoned handshakes ended. -/
def readied : State :=
  let r := s.strata.recs.foldl resolvePending s
  let l := bootRecord (if r.crd.coldStart then logStart r else r)
  (List.range 8).foldl endAbandoned (if r.crd.coldStart ∧ l.slog.restored then checkpointNow l else l)

theorem fwUpNow_eq : fwUpNow s = fwUpSet (readied s) := by
  unfold fwUpNow
  extract_lets resolved cold started recorded checked ended window
  have last : ended = readied s := by
    unfold readied
    rfl
  exact congrArg fwUpSet last

theorem readied_pageTime : pageTime (readied s) = pageTime s := by
  have resolved : pageTime (s.strata.recs.foldl resolvePending s) = pageTime s :=
    foldl_keeps pageTime resolvePending_pageTime _ s
  have recorded (p : Prop) [Decidable p] : pageTime (bootRecord (if p then logStart (s.strata.recs.foldl resolvePending s)
      else s.strata.recs.foldl resolvePending s)) = pageTime s :=
    (logRec_pageTime _ _ _ _ _).trans (pageTime_ite ((logStart_pageTime _).trans resolved) resolved)
  unfold readied
  rw [foldl_keeps pageTime endAbandoned_pageTime]
  exact pageTime_ite ((checkpointNow_pageTime _).trans (recorded _)) (recorded _)

theorem fwUpNow_stale : (fwUpNow s).hz.stale = (s.hz.stale || decide (s.hz.lastPub + 100000 ≤ s.tick)) := by
  obtain ⟨hz, tick⟩ := Prod.mk.inj (readied_pageTime s)
  rw [fwUpNow_eq, fwUpSet, hz, tick]

/-- A trial runs from FW_UP exactly where its watchdog does. -/
theorem fwUpNow_trial : (fwUpNow s).boot.trialRun = true ↔ (fwUpNow s).boot.trialEnd ≠ none := by
  rw [fwUpNow_eq]
  simp [fwUpSet]

end

/-! ### FW_UP and DESCRIPTOR_WRITE -/

section
variable {s : State}

theorem exec_fwUp_sets (hp : s.crd.phase = .running) (hs : s.boot.started = true) (hu : s.crd.fwUp = false) :
    exec .fwUp s = .next (settle (fwUpNow s)) := congrArg done (if_pos ⟨hp, hs, by rw [hu]; rfl⟩)

theorem exec_fwUp_none (h : s.crd.phase ≠ .running ∨ s.boot.started = false ∨ s.crd.fwUp = true) :
    exec .fwUp s = .next (settle s) := by
  refine congrArg done (if_neg ?_)
  rintro ⟨hp, hs, hu⟩
  rw [Bool.not_eq_true'] at hu
  simp [hp, hs, hu] at h

theorem exec_descriptorWrite_writes {d : BootDesc} (hp : s.boot.pending = some d) (hu : s.crd.fwUp = true)
    (ho : flashOpen s = true) :
    exec .descriptorWrite s = .next (settle (descWrite { s with boot := { s.boot with pending := none } } d)) := by
  simp only [exec, execDescriptorWrite, done, hp, if_pos (And.intro hu ho)]

theorem exec_descriptorWrite_none (h : s.boot.pending = none ∨ s.crd.fwUp = false ∨ flashOpen s = false) :
    exec .descriptorWrite s = .next (settle s) := by
  cases hp : s.boot.pending with
  | none => simp only [exec, execDescriptorWrite, done, hp]
  | some d =>
    have may : ¬ (s.crd.fwUp = true ∧ flashOpen s = true) := by
      rintro ⟨hu, ho⟩
      simp [hp, hu, ho] at h
    simp only [exec, execDescriptorWrite, done, hp, if_neg may]

end

/-- Settles O24: the two register writes, then FW_UP with what it leaves, then the pending descriptor. -/
theorem bootReleaseToFirmwareUp : Obligations.BootReleaseToFirmwareUp := by
  refine ⟨⟨?dropped, ?release, ?lock, ?unlocked, ?vf⟩, ?up, ?notUp, ?after, ?write, ?noWrite⟩
  case dropped => exact fun s v h hd => by rw [exec_bootRelease v h, bootReleaseWrite_dropped hd]
  case release =>
    intro s v h hk hw a n hlo hhi hd
    rw [exec_bootRelease v h, bootReleaseWrite_copies hk hw hlo hhi hd]
    exact ⟨fun hi => congrArg done (if_pos hi), fun hi => congrArg done (if_neg (Bool.eq_false_iff.mp hi))⟩
  case lock => exact fun s v h hb => by rw [exec_keyLock v h, keyLockWrite_set hb]
  case unlocked => exact fun s v h hb => by rw [exec_keyLock v h, keyLockWrite_clear hb]
  case vf => exact fun s fn v h => exec_keyLock_vf h s v
  case up => exact fun s hp hs hu => exec_fwUp_sets hp hs hu
  case notUp => exact fun s h => exec_fwUp_none h
  case after => exact fun s => ⟨rfl, rfl, rfl, fwUpNow_stale s, fwUpNow_trial s⟩
  case write => exact fun s d hp hu ho => exec_descriptorWrite_writes hp hu ho
  case noWrite => exact fun s h => exec_descriptorWrite_none h

end Sys2Proof.Machine
end

section
/-! PROOFS. FW_STAGE, FW_COMMIT_TRIAL and FW_CONFIRM from step 10 of Table 4.6, the drain and the trial's watchdog (R120 to R123, Table
5.10): what each does in each case. -/

namespace Sys2Proof.Machine

/-! ### From a row to step 10 -/

section
variable {s : State} {c : Nat} {cmd : Cmd}

/-- An FW_STAGE that starts. -/
theorem exec_fwStage_now (h : startsNow s c 0x50 none cmd = true) (dma : Option Nat) (ended : StageEnd) :
    exec (.fwStage c dma ended) s = .next (settle (fwStageBody dma ended (markStarted s c) cmd)) := by
  rw [← startCmd_now noDoms noHold (fwStageBody dma ended) h rfl rfl]
  simp [exec, execFwStage, done, startsNow_find h, startsNow_started h]

/-- An FW_COMMIT_TRIAL that starts. -/
theorem exec_fwCommitTrial_now (h : startsNow s c 0x51 none cmd = true) :
    exec (.fwCommitTrial c) s = .next (settle (fwCommitBody (markStarted s c) cmd)) :=
  congrArg done (startCmd_now noDoms noHold fwCommitBody h rfl rfl)

/-- An FW_CONFIRM that starts before its trial's window ends. -/
theorem exec_fwConfirm_now (h : startsNow s c 0x52 none cmd = true) (ht : trialOver s = false) :
    exec (.fwConfirm c) s = .next (settle (fwConfirmBody (markStarted s c) cmd)) := by
  rw [← startCmd_now noDoms noHold fwConfirmBody h rfl rfl]
  exact congrArg done (if_neg (Bool.eq_false_iff.mp ht))

end

/-! ### FW_STAGE from step 10 (R120) -/

section
variable {u : State} {c : Cmd}

/-- During a trial nothing is staged. -/
theorem fwStageBody_trial (ht : (descNow u).trial = true) (dma : Option Nat) (ended : StageEnd) :
    fwStageBody dma ended u c = complete u c.seq (refuse .busyGuarded 0 0) := if_pos ht

/-- With no trial, no pending descriptor and the flash open it goes to the seal engine for its digests (R128). -/
theorem fwStageBody_serves (ht : (descNow u).trial = false) (hp : u.boot.pending = none) (ho : flashOpen u = true)
    (dma : Option Nat) (ended : StageEnd) : fwStageBody dma ended u c = fwStageServe dma ended u c := by
  simp [fwStageBody, ht, hp, ho]

theorem fwStageRun_dmaError (a : Nat) (ended : StageEnd) (c : Cmd) (u : State) :
    fwStageRun (some a) ended c u = complete u c.seq (dmaReadErr a) := rfl

/-- The image that the buffer of an FW_STAGE holds. -/
def stageImage (u : State) (c : Cmd) : List Byte := hostRead u (c.f 0x10 8) (c.f 0x18 8)

@[simp] theorem stageImage_length (u : State) (c : Cmd) : (stageImage u c).length = c.f 0x18 8 := KMap.readN_length _ _ _ _

theorem fwStageRun_notImage (hi : bootImageOk (stageImage u c) = false) (ended : StageEnd) :
    fwStageRun none ended c u = complete u c.seq (refuse .dataError 5 0x01) := by
  have bad : (!bootImageOk (stageImage u c)) = true := by rw [hi]; rfl
  exact if_pos bad

theorem fwStageRun_image (hi : bootImageOk (stageImage u c) = true) (ended : StageEnd) :
    fwStageRun none ended c u = stageEnds u c.seq (stageImage u c) ended := by
  have good : (!bootImageOk (stageImage u c)) = false := by rw [hi]; rfl
  exact if_neg (Bool.eq_false_iff.mp good)

end

/-! ### FW_COMMIT_TRIAL and FW_CONFIRM from step 10 (R121, R122) -/

section
variable {u : State} {c : Cmd}

/-- The TRIAL descriptor of a commit for the slot that is not ACTIVE. -/
def trialDesc (u : State) (c : Cmd) : BootDesc :=
  { descNow u with trial := true, trialSlot := otherSlot u, windowS := c.f 8 2 }

/-- The trial is armed, and the drain of 1 s begins. -/
def trialDrains (s : State) : State :=
  { s with boot := { s.boot with trialArmed := true, drainUntil := some (s.tick + 1000000) } }

/-- A commit of a well-formed slot writes its descriptor, completes, and then drains. -/
theorem fwCommitBody_commits (ht : (descNow u).trial = false) (ho : flashOpen u = true)
    (hi : bootImageOk (slotImage u (otherSlot u)) = true) (hp : u.boot.pending = none) :
    fwCommitBody u c = trialDrains (complete (descWrite u (trialDesc u c)) c.seq (okR)) := by
  simp [fwCommitBody, trialDesc, trialDrains, ht, ho, hi, hp]

/-- Outside a trial's window there is nothing to confirm. -/
theorem fwConfirmBody_noTrial (h : u.crd.fwUp = false ∨ u.boot.trialWindow = 0) :
    fwConfirmBody u c = complete u c.seq (refuse .notPermitted 5 0x03) := if_pos (by simpa using h)

/-- Within it the trial ends, and its slot is ACTIVE in the flash. -/
theorem fwConfirmBody_confirms (hu : u.crd.fwUp = true) (hw : u.boot.trialWindow ≠ 0) (ho : flashOpen u = true) :
    fwConfirmBody u c = complete (descWrite
      { u with boot := { u.boot with trialEnd := none, trialRun := false, trialWindow := 0 } }
      { descNow u with active := (descNow u).trialSlot % 2, trial := false }) c.seq (okR) := by
  have trial : ¬ ((!u.crd.fwUp) = true ∨ u.boot.trialWindow = 0) := by simp [hu, hw]
  have flash : flashOpen { u with boot := { u.boot with trialEnd := none, trialRun := false, trialWindow := 0 } } = true := ho
  simp only [fwConfirmBody, if_neg trial, if_pos flash]

end

/-! ### The drain and the watchdog (R121, R123) -/

section
variable {s : State} {e : Nat}

theorem exec_trialDrainEnd_due (hd : s.boot.drainUntil = some e) (h : s.qc.cmds = [] ∨ e ≤ s.tick) :
    exec .trialDrainEnd s = .next (settle (marlReset s 6)) := by
  simp only [exec, execTrialDrainEnd, done, hd, if_pos h]

theorem trialOver_iff (he : s.boot.trialEnd = some e) : trialOver s = true ↔ e ≤ s.tick := by
  simp [trialOver, he]

theorem exec_trialWatchdogExpiry_over (h : trialOver s = true) :
    exec .trialWatchdogExpiry s = .next (settle (marlReset s 5)) := congrArg done (if_pos h)

theorem exec_trialWatchdogExpiry_early (h : ¬ trialOver s = true) :
    exec .trialWatchdogExpiry s = .next (settle s) := congrArg done (if_neg h)

end

/-- Settles O25: each command comes to step 10, where the descriptor, the flash, the seal engine and the image decide; the drain and
the watchdog go by their times. -/
theorem stageTrialConfirm : Obligations.StageTrialConfirm := by
  refine ⟨?stage, ?commit, ?confirm, ?drain, ?expired, ?running⟩
  case stage =>
    intro s c cmd e h u img k
    obtain rfl := startsNow_seq h
    have begun (dma : Option Nat) (e : StageEnd) : exec (.fwStage cmd.seq dma e) s = .next (settle (fwStageBody dma e u cmd)) :=
      exec_fwStage_now h dma e
    have serves (dma : Option Nat) (e : StageEnd) (ht : (descNow u).trial = false) (hp : u.boot.pending = none)
        (ho : flashOpen u = true) (hh : sealHolds u (sealWho cmd.seq) = false) (hf : sealFree u = true) :
        exec (.fwStage cmd.seq dma e) s = .next (settle (fwStageRun dma e cmd u)) := by
      rw [begun, fwStageBody_serves ht hp ho, fwStageServe, sealServe_free _ _ _ hh hf]
    refine ⟨fun ht => ?trial, fun dma ht hp ho hh hw hf => ?waits, fun ht hp ho hh hf hi => ?image,
      fun ht hp ho hh hf hi => ?notImage, fun a ht hp ho hh hf => ?dmaError⟩
    case trial => rw [begun, fwStageBody_trial ht]
    case waits =>
      rw [begun, fwStageBody_serves ht hp ho, fwStageServe, sealServe_waits _ _ _ hh hw hf]
      rfl
    case image =>
      have ends (e : StageEnd) : exec (.fwStage cmd.seq none e) s = .next (settle (stageEnds u cmd.seq img e)) := by
        rw [serves none e ht hp ho hh hf, fwStageRun_image hi]
        rfl
      have length : img.length = leAt cmd.raw 0x18 8 := stageImage_length u cmd
      rw [← length]
      exact ⟨ends _, ends _, fun n => ⟨ends _, ends _⟩⟩
    case notImage => rw [serves none e ht hp ho hh hf, fwStageRun_notImage hi]
    case dmaError => rw [serves (some a) e ht hp ho hh hf, fwStageRun_dmaError]
  case commit =>
    intro s c cmd h u ht ho hi hp w
    obtain rfl := startsNow_seq h
    have drains : exec (.fwCommitTrial cmd.seq) s = .next (settle (trialDrains w)) := by
      rw [exec_fwCommitTrial_now h, fwCommitBody_commits ht ho hi hp]
      rfl
    exact drains
  case confirm =>
    intro s c cmd h ho u
    obtain rfl := startsNow_seq h
    rw [exec_fwConfirm_now h ho]
    exact ⟨fun hn => congrArg done (fwConfirmBody_noTrial hn),
      fun hu hw hf => congrArg done (fwConfirmBody_confirms hu hw hf)⟩
  case drain => exact fun s e hd h => exec_trialDrainEnd_due hd h
  case expired => exact fun s e he ht => exec_trialWatchdogExpiry_over ((trialOver_iff he).mpr ht)
  case running =>
    exact fun s e he ht => exec_trialWatchdogExpiry_early (mt (trialOver_iff he).mp (Nat.not_le.mpr ht))

end Sys2Proof.Machine
end

section
/-! PROOFS. The ends of seal segments (R128) and the SPDM requests (R129, Tables 5.8 and 5.9): what each does in each case. -/

namespace Sys2Proof.Machine

/-! ### SEAL_SEGMENT_END (R128) -/

section
variable {s : State} {r : SealReq}

/-- A message with one segment fewer to go. -/
def segmentDone (r : SealReq) : SealReq := { r with segmentsLeft := r.segmentsLeft - 1 }

/-- With nobody waiting a message that goes on keeps context 0. -/
theorem exec_sealSegmentEnd_keeps0 (hc : s.sealEng.ctx0 = some r) (hl : 1 < r.segmentsLeft) (hw : s.sealEng.waiting = []) :
    exec (.sealSegmentEnd 0) s =
      .next (settle { s with sealEng := { s.sealEng with ctx0 := some (segmentDone r) } }) := by
  simp [exec, execSealSegmentEnd, done, segmentDone, hc, hw, Nat.not_le.mpr hl]

/-- So it keeps context 1. -/
theorem exec_sealSegmentEnd_keeps1 (hc : s.sealEng.ctx1 = some r) (hl : 1 < r.segmentsLeft) (hw : s.sealEng.waiting = []) :
    exec (.sealSegmentEnd 1) s =
      .next (settle { s with sealEng := { s.sealEng with ctx1 := some (segmentDone r) } }) := by
  simp [exec, execSealSegmentEnd, done, segmentDone, hc, hw, Nat.not_le.mpr hl]

/-- A message that goes on while another waits gives up context 0. -/
theorem exec_sealSegmentEnd_yields (hc : s.sealEng.ctx0 = some r) (hl : 1 < r.segmentsLeft) (hw : s.sealEng.waiting ≠ []) :
    exec (.sealSegmentEnd 0) s =
      .next (settle { s with sealEng := segmentEnd s.sealEng r (fun e => { e with ctx0 := none }) }) := by
  simp [exec, execSealSegmentEnd, done, hc, hw, Nat.not_le.mpr hl]

/-- The first that waits takes context 0, and the message goes to the back of the queue. -/
theorem segmentEnd_first {e : Seal} {w : SealReq} {ws : List SealReq} (h1 : e.ctx1.isSome = true)
    (hb : e.bootReserved = false) (hw : e.waiting = w :: ws) :
    (segmentEnd e r (fun e => { e with ctx0 := none })).ctx0 = some w
    ∧ (segmentEnd e r (fun e => { e with ctx0 := none })).ctx1 = e.ctx1
    ∧ (segmentEnd e r (fun e => { e with ctx0 := none })).waiting = ws ++ [segmentDone r] := by
  have back : e.waiting ++ [segmentDone r] = w :: (ws ++ [segmentDone r]) := by rw [hw]; rfl
  have filled := sealFill_first (e := { e with
    ctx0 := none, waiting := e.waiting ++ [segmentDone r],
    suspended := e.suspended ++ (if r.keeps then [r.who] else []) }) rfl h1 hb back
  unfold segmentEnd
  dsimp only [segmentDone] at filled ⊢
  rw [filled]
  exact ⟨rfl, rfl, rfl⟩

@[simp] theorem settle_sealEng (s : State) : (settle s).sealEng = s.sealEng := by
  rw [settle_frame]

theorem exec_sealSegmentEnd_empty {ctx : Fin 2} (hc : (if ctx.val = 0 then s.sealEng.ctx0 else s.sealEng.ctx1) = none) :
    exec (.sealSegmentEnd ctx) s = .next (settle s) := by
  simp only [exec, execSealSegmentEnd, done, hc]

/-- The end of a message's last segment is its command's to tell. -/
theorem exec_sealSegmentEnd_last {ctx : Fin 2} (hc : (if ctx.val = 0 then s.sealEng.ctx0 else s.sealEng.ctx1) = some r)
    (hl : r.segmentsLeft ≤ 1) : exec (.sealSegmentEnd ctx) s = .next (settle s) := by
  simp only [exec, execSealSegmentEnd, done, hc, if_pos hl]

end

/-! ### From a request to its answer (R129) -/

/-- A response of the DOE mailbox. -/
def told (s : State) (bs : List Byte) : State := { s with resp := .data bs }

/-- An ERROR response of a code, with its event. -/
def erred (s : State) (code : Nat) : State := count (told s ([0x12, 0x7F] ++ leBytes 1 code ++ [0])) 166 {}

/-- What an SPDM answer leaves: its response, or an ERROR's event. -/
def spdmReply (a : State × Option (List Byte)) : State :=
  match a.2 with
  | some bs => told a.1 bs
  | none => count a.1 166 {}

@[simp] theorem spdmReply_some (s : State) (bs : List Byte) : spdmReply (s, some bs) = told s bs := rfl

@[simp] theorem spdmReply_error (s : State) (code : Nat) : spdmReply (spdmError s code) = erred s code := rfl

/-- The DOE responder may take a digest: nobody waits, it holds no context, and one is free. -/
def spdmFree (s : State) : Prop :=
  sealHolds s spdmWho = false ∧ s.sealEng.waiting.any (fun r => r.who = spdmWho) = false ∧ sealFree s = true

section
variable {s : State} {f : State → State × Option (List Byte)}

/-- While DOE is Busy, or with U out of L0, a request changes nothing. -/
theorem spdm_shut (h : s.sealEng.doeBusy = true ∨ s.links.u.l0 = false) : spdm s f = .next (settle s) :=
  congrArg done (if_pos (by simpa using h))

theorem spdmNegotiated_shut (h : s.sealEng.doeBusy = true ∨ s.links.u.l0 = false) : spdmNegotiated s f = .next (settle s) :=
  spdm_shut h

theorem spdmHashed_shut (h : s.sealEng.doeBusy = true ∨ s.links.u.l0 = false) : spdmHashed s f = .next (settle s) :=
  if_pos (by simpa using h)

variable (hb : s.sealEng.doeBusy = false) (hl : s.links.u.l0 = true)
include hb hl

/-- Otherwise a request is counted and answered. -/
theorem spdm_answers : spdm s f = .next (settle (spdmReply (f (count s 165 {})))) := by
  have ready : ¬ (s.sealEng.doeBusy = true ∨ (!s.links.u.l0) = true) := by simp [hb, hl]
  exact congrArg done (if_neg ready)

theorem spdmNegotiated_answers (hn : s.sealEng.negotiated ≠ 0) :
    spdmNegotiated s f = .next (settle (spdmReply (f (count s 165 {})))) := by
  rw [spdmNegotiated, spdm_answers hb hl, if_neg (by simpa using hn)]

theorem spdmNegotiated_early (hn : s.sealEng.negotiated = 0) :
    spdmNegotiated s f = .next (settle (erred (count s 165 {}) 4)) := by
  rw [spdmNegotiated, spdm_answers hb hl, if_pos (by simpa using hn), spdmReply_error]

/-- One that takes a digest is answered once a seal context is free for it. -/
theorem spdmHashed_answers (hn : s.sealEng.negotiated ≠ 0) (hf : spdmFree s) :
    spdmHashed s f = .next (settle (spdmReply (f (count s 165 {})))) := by
  obtain ⟨holds, waits, free⟩ := hf
  rw [← spdmNegotiated_answers hb hl hn]
  simp only [spdmHashed, hb, hl, holds, waits, free]
  rfl

/-- Until then it waits for one. -/
theorem spdmHashed_waits (hh : sealHolds s spdmWho = false)
    (hw : s.sealEng.waiting.any (fun r => r.who = spdmWho) = false) (hf : sealFree s = false) :
    spdmHashed s f = .next (settle (sealAcquire s spdmWho 1)) := by
  simp only [spdmHashed, hb, hl, hh, hw, hf]
  rfl

end

/-! ### The requests that take no digest -/

section
variable {s : State} (hb : s.sealEng.doeBusy = false) (hl : s.links.u.l0 = true)
include hb hl

/-- GET_VERSION restarts the negotiation. -/
theorem exec_getVersion_answers : exec .getVersion s = .next (settle (told
    { count s 165 {} with sealEng := { (count s 165 {}).sealEng with negotiated := 0 } }
    [0x10, 0x04, 0, 0, 0, 1, 0x00, 0x12])) := by
  rw [exec, execGetVersion, spdm_answers hb hl]
  rfl

theorem exec_getCapabilities_answers :
    exec .getCapabilities s = .next (settle (told (count s 165 {}) ([0x12, 0x61] ++ Config.spdmBytes 0xE1))) := by
  rw [exec, execGetCapabilities, spdm_answers hb hl]
  rfl

/-- NEGOTIATE_ALGORITHMS with P-384 and SHA-384 completes it. -/
theorem exec_negotiateAlgorithms_answers : exec (.negotiateAlgorithms true true) s = .next (settle (told
    { count s 165 {} with sealEng := { (count s 165 {}).sealEng with negotiated := 1 } }
    ([0x12, 0x63] ++ Config.spdmBytes 0xE3))) := by
  rw [exec, execNegotiateAlgorithms, spdm_answers hb hl]
  rfl

theorem exec_spdmUnsupportedRequest_answers (code : Byte) :
    exec (.spdmUnsupportedRequest code) s = .next (settle (erred (count s 165 {}) 7)) := by
  rw [exec, execSpdmUnsupportedRequest, spdm_answers hb hl]
  rfl

/-- Before the algorithms are negotiated a certificate is not to be had. -/
theorem exec_getCertificate_early (hn : s.sealEng.negotiated = 0) (k off len : Nat) :
    exec (.getCertificate k off len) s = .next (settle (erred (count s 165 {}) 4)) := by
  rw [exec, execGetCertificate, spdmNegotiated_early hb hl hn]

variable (hn : s.sealEng.negotiated ≠ 0)
include hn

/-- GET_CERTIFICATE answers the bytes asked for of slot 0's chain. -/
theorem exec_getCertificate_answers (hp : s.boot.provisioned = true) (off len : Nat) :
    let part := (s.boot.chain.drop off).take len
    exec (.getCertificate 0 off len) s = .next (settle (told (count s 165 {}) ([0x12, 0x02, 0, 0] ++ leBytes 2 part.length
      ++ leBytes 2 (s.boot.chain.length - (off + part.length)) ++ part))) := by
  rw [exec, execGetCertificate, spdmNegotiated_answers hb hl hn]
  simp [hp]

/-- SET_CERTIFICATE stores the chain once. -/
theorem exec_setCertificate_stores (hp : s.boot.provisioned = false) (chain : List Byte) :
    exec (.setCertificate 0 chain) s = .next (settle (told
      { count s 165 {} with boot := { (count s 165 {}).boot with provisioned := true, chain := chain } } [0x12, 0x6E, 0, 0])) := by
  rw [exec, execSetCertificate, spdmNegotiated_answers hb hl hn]
  simp [hp]

theorem exec_setCertificate_stored (hp : s.boot.provisioned = true) (slot : Nat) (chain : List Byte) :
    exec (.setCertificate slot chain) s = .next (settle (erred (count s 165 {}) 7)) := by
  rw [exec, execSetCertificate, spdmNegotiated_answers hb hl hn]
  simp [hp, spdmUnsupported]

end

/-! ### The requests that take a digest -/

/-- The identity key of a provisioned part signs while KEY_LOCK is 0. -/
theorem canSign_provisioned {s : State} (hk : s.boot.keyLock = false) (hp : s.boot.provisioned = true) : canSign s = true := by
  simp [canSign, hk, hp]

/-- An index of one block asks for that block alone. -/
theorem measurementBlocks_single {s : State} {i : Nat} {b : List Byte} (h0 : i ≠ 0) (hall : i ≠ 0xFF)
    (h : measurementBlock s i = some b) : measurementBlocks s i = some [b] := by
  simp [measurementBlocks, h0, hall, h]

/-- The response of GET_MEASUREMENTS with one block, before a signature. -/
def oneBlock (b own : List Byte) : List Byte := [0x12, 0x60, 0, 0, 1] ++ leBytes 3 b.length ++ b ++ own ++ [0, 0]

section
variable {s : State} (hb : s.sealEng.doeBusy = false) (hl : s.links.u.l0 = true) (hn : s.sealEng.negotiated ≠ 0) (hf : spdmFree s)
include hb hl hn hf

/-- GET_DIGESTS answers the digest of slot 0's chain. -/
theorem exec_getDigests_chain (hp : s.boot.provisioned = true) :
    exec .getDigests s = .next (settle (told (count s 165 {}) ([0x12, 0x01, 0, 1] ++ digestBytes (sha384 s.boot.chain)))) := by
  rw [exec, execGetDigests, spdmHashed_answers hb hl hn hf]
  simp [chainDigest, hp, b2n, leBytes]

/-- Without a chain it answers no digest. -/
theorem exec_getDigests_none (hp : s.boot.provisioned = false) :
    exec .getDigests s = .next (settle (told (count s 165 {}) [0x12, 0x01, 0, 0])) := by
  rw [exec, execGetDigests, spdmHashed_answers hb hl hn hf]
  simp [hp, b2n, leBytes]

/-- CHALLENGE on slot 0 is signed over the chain's digest and a nonce of the steward's own. -/
theorem exec_challenge_signs (hk : s.boot.keyLock = false) (hp : s.boot.provisioned = true) (nonce : List Byte) :
    let own := spdmNonce (count s 165 {})
    exec (.challenge 0 nonce) s = .next (settle (told own.2 (spdmSigned nonce
      ([0x12, 0x03, 0, 1] ++ digestBytes (sha384 s.boot.chain) ++ own.1 ++ [0, 0])))) := by
  have signs : canSign (count s 165 {}) = true := canSign_provisioned (by simpa using hk) (by simpa using hp)
  rw [exec, execChallenge, spdmHashed_answers hb hl hn hf]
  simp [hk, signs, chainDigest]

/-- No signature is made while KEY_LOCK is 1. -/
theorem exec_challenge_locked (hk : s.boot.keyLock = true) (slot : Nat) (nonce : List Byte) :
    exec (.challenge slot nonce) s = .next (settle (erred (count s 165 {}) 5)) := by
  rw [exec, execChallenge, spdmHashed_answers hb hl hn hf]
  simp [hk, spdmUnspecified]

theorem exec_getCsr_creates (hp : s.boot.provisioned = false) (hk : s.boot.keyLock = false) :
    exec .getCsr s = .next (settle (told
      { count s 165 {} with boot := { (count s 165 {}).boot with identityKey := true } }
      ([0x12, 0x6D] ++ Config.spdmBytes 0x6D))) := by
  rw [exec, execGetCsr, spdmHashed_answers hb hl hn hf]
  simp [hp, hk]

theorem exec_getCsr_late (hp : s.boot.provisioned = true) :
    exec .getCsr s = .next (settle (erred (count s 165 {}) 7)) := by
  rw [exec, execGetCsr, spdmHashed_answers hb hl hn hf]
  simp [hp, spdmUnsupported]

variable {i : Nat} {b : List Byte} (h0 : i ≠ 0) (hall : i ≠ 0xFF) (hm : measurementBlock (count s 165 {}) i = some b)
include h0 hall hm

/-- An unsigned GET_MEASUREMENTS answers its block. -/
theorem exec_getMeasurements_unsigned (nonce : List Byte) :
    let own := spdmNonce (count s 165 {})
    exec (.getMeasurements i false nonce) s = .next (settle (told own.2 (oneBlock b own.1))) := by
  rw [exec, execGetMeasurements, spdmHashed_answers hb hl hn hf]
  simp [measurementBlocks_single h0 hall hm, h0, leBytes, oneBlock]

theorem exec_getMeasurements_locked (hk : s.boot.keyLock = true) (nonce : List Byte) :
    exec (.getMeasurements i true nonce) s = .next (settle (erred (count s 165 {}) 5)) := by
  rw [exec, execGetMeasurements, spdmHashed_answers hb hl hn hf]
  simp [measurementBlocks_single h0 hall hm, hk, spdmUnspecified]

/-- A signed one is signed over its block. -/
theorem exec_getMeasurements_signed (hk : s.boot.keyLock = false) (hp : s.boot.provisioned = true) (nonce : List Byte) :
    let own := spdmNonce (count s 165 {})
    exec (.getMeasurements i true nonce) s = .next (settle (told own.2 (spdmSigned nonce (oneBlock b own.1)))) := by
  have signs : canSign (count s 165 {}) = true := canSign_provisioned (by simpa using hk) (by simpa using hp)
  rw [exec, execGetMeasurements, spdmHashed_answers hb hl hn hf]
  simp [measurementBlocks_single h0 hall hm, hk, signs, h0, leBytes, oneBlock]

end

/-- Settles O26: the ends of segments by their contexts; then each request by what it meets. -/
theorem sealAndAttestation : Obligations.SealAndAttestation := by
  refine ⟨⟨?keeps0, ?keeps1, ?yields, ?empty, ?last⟩, ?answers, ?shut⟩
  case keeps0 => exact fun s r hc hl hw => exec_sealSegmentEnd_keeps0 hc hl hw
  case keeps1 => exact fun s r hc hl hw => exec_sealSegmentEnd_keeps1 hc hl hw
  case yields =>
    intro s r w ws hc h1 hl hw hb
    refine ⟨_, exec_sealSegmentEnd_yields hc hl (by simp [hw]), ?_⟩
    rw [settle_sealEng]
    exact segmentEnd_first h1 hb hw
  case empty => exact fun s ctx hc => exec_sealSegmentEnd_empty hc
  case last => exact fun s ctx r hc hl => exec_sealSegmentEnd_last hc hl
  case shut =>
    intro s i x y k off len bs h
    revert i
    simp only [List.forall_mem_cons, List.not_mem_nil, false_imp_iff, implies_true, and_true]
    and_intros <;> rw [exec]
    exacts [spdm_shut h, spdm_shut h, spdm_shut h, spdmHashed_shut h, spdmNegotiated_shut h, spdmHashed_shut h,
      spdmHashed_shut h, spdmHashed_shut h, spdmNegotiated_shut h, spdm_shut h]
  case answers =>
    intro s hb hl u tell err own w ready free
    -- The statement's word for a response is `told`; named so, the states need not be compared field by field.
    have telling : tell = told := rfl
    clear_value tell
    subst telling
    exact ⟨exec_getVersion_answers hb hl, exec_getCapabilities_answers hb hl, exec_negotiateAlgorithms_answers hb hl,
      fun hn hf hp => exec_getDigests_chain hb hl hn hf hp, fun hn hf hp => exec_getDigests_none hb hl hn hf hp,
      fun hh hw hf => spdmHashed_waits hb hl hh hw hf, fun hn k off len => exec_getCertificate_early hb hl hn k off len,
      fun off len hn hp => exec_getCertificate_answers hb hl hn hp off len,
      fun nonce hn hf hk hp => exec_challenge_signs hb hl hn hf hk hp nonce,
      fun slot nonce hn hf hk => exec_challenge_locked hb hl hn hf hk slot nonce,
      fun i nonce b hn hf h0 hall hm => ⟨exec_getMeasurements_unsigned hb hl hn hf h0 hall hm nonce,
        fun hk => exec_getMeasurements_locked hb hl hn hf h0 hall hm hk nonce,
        fun hk hp => exec_getMeasurements_signed hb hl hn hf h0 hall hm hk hp nonce⟩,
      fun hn hf hp hk => exec_getCsr_creates hb hl hn hf hp hk, fun hn hf hp => exec_getCsr_late hb hl hn hf hp,
      fun chain hn hp => exec_setCertificate_stores hb hl hn hp chain,
      fun slot chain hn hp => exec_setCertificate_stored hb hl hn hp slot chain,
      fun code => exec_spdmUnsupportedRequest_answers hb hl code⟩

end Sys2Proof.Machine
end

section
/-! PROOFS. ACC_FW_PUSH, ACC_RELEASE and RELEASE_POLL (R126, R127, R242, R253): what each does in each case. -/

namespace Sys2Proof.Machine

/-! ### From a row to step 10 -/

section
variable {s : State} {c : Nat} {cmd : Cmd}

/-- With the accelerator's spoke domain ON no domain keeps its commands back. -/
theorem bootDoms_on (hd : domOn s (6 + cmd.accN) = true) : bootDoms s cmd = none := by
  simp [bootDoms, firstNotOn, hd]

/-- An ACC_FW_PUSH that starts, with its spoke's domain ON. -/
theorem exec_accFwPush_now (h : startsNow s c 0x23 none cmd = true) (hd : domOn s (6 + cmd.accN) = true) (dma : Option Nat) :
    exec (.accFwPush c dma) s = .next (settle (fwPushBody dma (markStarted s c) cmd)) := by
  rw [← startCmd_now _ noHold (fwPushBody dma) h (bootDoms_on hd) rfl]
  simp [exec, execAccFwPush, done, startsNow_find h, startsNow_started h]

/-- An ACC_RELEASE that starts, with its spoke's domain ON. -/
theorem exec_accRelease_now (h : startsNow s c 0x24 none cmd = true) (hd : domOn s (6 + cmd.accN) = true) :
    exec (.accRelease c) s = .next (settle (releaseBody (markStarted s c) cmd)) :=
  congrArg done (startCmd_now bootDoms noHold releaseBody h (bootDoms_on hd) rfl)

end

/-! ### Step 10 of ACC_FW_PUSH -/

section
variable {u : State} {c : Cmd}

theorem fwPushBody_refused {r : Result} (h : bootRefusal u c = some r) (dma : Option Nat) :
    fwPushBody dma u c = complete u c.seq r := by
  simp only [fwPushBody, h]

/-- A push on a spoke that is not ready is held (R242). -/
theorem fwPushBody_held (h : bootRefusal u c = none) (hr : spokeReady u c.accN = false) (dma : Option Nat) :
    fwPushBody dma u c = holdCmd u c.seq := by
  simp only [fwPushBody, h, hr]
  rfl

/-- A push on a ready spoke goes to the seal engine for its digest (R127, R128). -/
theorem fwPushBody_serves (h : bootRefusal u c = none) (hr : spokeReady u c.accN = true) (dma : Option Nat) :
    fwPushBody dma u c = fwPushCopy dma u c := by
  simp only [fwPushBody, h, hr]
  rfl

/-- The boot window and the running digest once the bytes of a push are there. -/
def bootPushed (u : State) (c : Cmd) : State :=
  setAccBoot (accWrite u c.accN ((getSpoke u c.accN).bootBase + c.f 0x20 8) (hostRead u (c.f 0x10 8) (c.f 0x18 8))) c.accN
    { getAccBoot u c.accN with pushed := (getAccBoot u c.accN).pushed ++ hostRead u (c.f 0x10 8) (c.f 0x18 8) }

theorem fwPushRun_copies (u : State) (c : Cmd) :
    fwPushRun none c u = complete (count (count (bootPushed u c) 167 { tenant := c.tenant } (ceilDiv (c.f 0x18 8) 64))
      160 { tenant := c.tenant } (ceilDiv (c.f 0x18 8) 4096)) c.seq (okR (c.f 0x18 8)) := rfl

end

/-! ### Step 10 of ACC_RELEASE -/

section
variable {u : State} {c : Cmd}

theorem releaseBody_refused {r : Result} (h : bootRefusal u c = some r) : releaseBody u c = complete u c.seq r := by
  simp only [releaseBody, h]

theorem releaseBody_held (h : bootRefusal u c = none) (hr : spokeReady u c.accN = false) :
    releaseBody u c = holdCmd u c.seq := by
  simp only [releaseBody, h, hr]
  rfl

theorem releaseBody_posts (h : bootRefusal u c = none) (hr : spokeReady u c.accN = true) :
    releaseBody u c = postRelease u c.accN c.seq := by
  simp only [releaseBody, h, hr]
  rfl

end

/-! ### RELEASE_POLL -/

section
variable {s : State} {n c : Nat} (hc : (getAccBoot s n).relCmd = some c) (hr : spokeReady s n = true) (hf : findCmd s c ≠ none)
include hc hr hf

/-- RELEASED within 100 ms closes the window and fixes the measurement (R127). -/
theorem releasePoll_released (ht : s.tick ≤ (getAccBoot s n).relSince + 100000) :
    releasePoll n true s = complete (setAccBoot s n { getAccBoot s n with
      windowOpen := false, released := true, relCmd := none, measurement := (sha384 (getAccBoot s n).pushed).toNat }) c (okR) := by
  simp [releasePoll, hc, hr, hf, ht]

/-- 100 ms without it end the polling. -/
theorem releasePoll_late {released : Bool} (ht : (getAccBoot s n).relSince + 100000 ≤ s.tick)
    (hl : ¬ (released = true ∧ s.tick ≤ (getAccBoot s n).relSince + 100000)) :
    releasePoll n released s = complete (setAccBoot s n { getAccBoot s n with relCmd := none }) c (refuse .accNotReady 5 0x15) := by
  simp only [releasePoll, hc, hr, Option.isNone_eq_false_iff.mpr (Option.isSome_iff_ne_none.mpr hf), if_neg hl, if_pos ht]
  rfl

omit hr hf in
/-- Before that a poll without it changes nothing. -/
theorem releasePoll_early (ht : s.tick < (getAccBoot s n).relSince + 100000) : releasePoll n false s = s := by
  simp [releasePoll, hc, Nat.not_le.mpr ht]

end

/-- Settles O44: each row comes to step 10, where the refusal, the spoke and the seal engine decide; a poll goes by its time. -/
theorem acceleratorFirmware : Obligations.AcceleratorFirmware := by
  refine ⟨?push, ?release, ?poll⟩
  case push =>
    intro s c cmd h hd u len bs w
    obtain rfl := startsNow_seq h
    have begun (dma : Option Nat) : exec (.accFwPush cmd.seq dma) s = .next (settle (fwPushBody dma u cmd)) :=
      exec_accFwPush_now h hd dma
    refine ⟨fun dma r hb => ?refused, fun hb hr hh hf => ⟨?copies, fun a => ?fails⟩, fun dma hb hr hh hw hf => ?waits,
      fun dma hb hr => ?held⟩
    case refused => rw [begun, fwPushBody_refused hb]
    case copies =>
      rw [begun, fwPushBody_serves hb hr, fwPushCopy, sealServe_free _ _ _ hh hf, fwPushRun_copies]
      rfl
    case fails =>
      rw [begun, fwPushBody_serves hb hr, fwPushCopy, sealServe_free _ _ _ hh hf]
      rfl
    case waits => rw [begun, fwPushBody_serves hb hr, fwPushCopy, sealServe_waits _ _ _ hh hw hf]
    case held => rw [begun, fwPushBody_held hb hr]
  case release =>
    intro s c cmd h hd u
    obtain rfl := startsNow_seq h
    have begun : exec (.accRelease cmd.seq) s = .next (settle (releaseBody u cmd)) := exec_accRelease_now h hd
    refine ⟨fun r hb => ?refused, fun hb hr => ?posts, fun hb hr => ?held⟩
    case refused => rw [begun, releaseBody_refused hb]
    case posts =>
      have now : u.tick = s.tick := by simp [u]
      rw [begun, releaseBody_posts hb hr, ← now]
      rfl
    case held => rw [begun, releaseBody_held hb hr]
  case poll =>
    intro s n c hc hr hf
    refine ⟨fun ht => ?_, fun ht => ?_, fun ht => ?_, fun ht => ?_⟩
    · exact congrArg done (releasePoll_released hc hr hf ht)
    · exact congrArg done (releasePoll_late hc hr hf ht (by simp))
    · exact congrArg done (releasePoll_late hc hr hf (Nat.le_of_lt ht) (fun h => Nat.not_le.mpr ht h.2))
    · exact congrArg done (releasePoll_early hc ht)

end Sys2Proof.Machine
end

section
/-! PROOFS. Kernel slots, launches and items (R140, R141, R143 to R149, Table 6.6): what KERNEL_LOAD, KERNEL_LAUNCH and KERNEL_ABORT do in
each case, and the dispatch, the end and the completion of what a launch runs. -/

namespace Sys2Proof.Machine

/-! ### From a row to step 10 -/

section
variable {s : State} {c : Nat} {cmd : Cmd}

/-- With D04 ON no domain keeps a command of the grain array back. -/
theorem needD04_on (hd : domOn s 4 = true) : needD04 s cmd = none := by
  simp [needD04, firstNotOn, hd]

/-- A KERNEL_LOAD that starts, with D04 ON. -/
theorem exec_kernelLoad_now (h : startsNow s c 0x60 none cmd = true) (hd : domOn s 4 = true) (dma : Option Nat) :
    exec (.kernelLoad c dma) s = .next (settle (kernelLoadBody dma (markStarted s c) cmd)) :=
  congrArg done (startCmd_now needD04 noHold (kernelLoadBody dma) h (needD04_on hd) rfl)

/-- A KERNEL_LAUNCH that starts, with D04 ON and no die latch. -/
theorem exec_kernelLaunch_now (h : startsNow s c 0x61 none cmd = true) (hd : domOn s 4 = true)
    (hl : s.therm.latch.getLsbD 8 = false) :
    exec (.kernelLaunch c) s = .next (settle (kernelLaunchBody (markStarted s c) cmd)) :=
  congrArg done (startCmd_now needD04 dieHold kernelLaunchBody h (needD04_on hd) hl)

/-- A KERNEL_ABORT that starts. -/
theorem exec_kernelAbort_now (h : startsNow s c 0x62 none cmd = true) :
    exec (.kernelAbort c) s = .next (settle (kernelAbortBody (markStarted s c) cmd)) :=
  congrArg done (startCmd_now noDoms noHold kernelAbortBody h rfl rfl)

end

/-! ### Step 10 of KERNEL_LOAD (R140, R141) -/

section
variable {u : State} {c : Cmd}

/-- The image that a KERNEL_LOAD names, as its buffer holds it. -/
def loadedImage (u : State) (c : Cmd) : List Byte := hostRead u (c.f 0x10 8) (c.f 0x18 8)

/-- What the read of the buffer and the image's header and body give. -/
def loadRead (dma : Option Nat) (u : State) (c : Cmd) : State :=
  match dma with
  | some a => complete u c.seq (dmaReadErr a)
  | none =>
    if !imgHeaderOk (loadedImage u c) (c.f 0x18 8) then complete u c.seq (refuse .dataError 5 1)
    else if !imgBodyOk (loadedImage u c) then complete u c.seq (refuse .dataError 5 2)
    else complete (count (setKslot u (c.f 8 1) ⟨c.tenant, loadedImage u c⟩) 103 { tenant := c.tenant }) c.seq
      (okR (c.f 0x18 8))

variable (hr : slotRunning u (c.f 8 1) = 0)
  (ho : (getKslot u (c.f 8 1)).owner = 255 ∨ (getKslot u (c.f 8 1)).owner = c.tenant ∨ c.tenant = 0)
  (hl : c.f 0x18 8 ≤ imageFree u)
include hr ho hl

/-- With the slot free to be written and room for the image, the read of the buffer and the image decide. -/
theorem kernelLoadBody_reads (dma : Option Nat) : kernelLoadBody dma u c = loadRead dma u c := by
  have mine : ¬ ((getKslot u (c.f 8 1)).owner ≠ 255 ∧ (getKslot u (c.f 8 1)).owner ≠ c.tenant ∧ c.tenant ≠ 0) := by tauto
  unfold kernelLoadBody
  dsimp only
  rw [if_neg (by omega), if_neg mine, if_neg (by omega)]
  rfl

theorem kernelLoadBody_readFails (a : Nat) : kernelLoadBody (some a) u c = complete u c.seq (dmaReadErr a) :=
  kernelLoadBody_reads hr ho hl (some a)

theorem kernelLoadBody_badHeader (hh : imgHeaderOk (loadedImage u c) (c.f 0x18 8) = false) :
    kernelLoadBody none u c = complete u c.seq (refuse .dataError 5 1) := by
  simp [kernelLoadBody_reads hr ho hl, loadRead, hh]

theorem kernelLoadBody_badBody (hh : imgHeaderOk (loadedImage u c) (c.f 0x18 8) = true)
    (hb : imgBodyOk (loadedImage u c) = false) :
    kernelLoadBody none u c = complete u c.seq (refuse .dataError 5 2) := by
  simp [kernelLoadBody_reads hr ho hl, loadRead, hh, hb]

theorem kernelLoadBody_loads (hh : imgHeaderOk (loadedImage u c) (c.f 0x18 8) = true)
    (hb : imgBodyOk (loadedImage u c) = true) :
    kernelLoadBody none u c = complete (count (setKslot u (c.f 8 1) ⟨c.tenant, loadedImage u c⟩) 103
      { tenant := c.tenant }) c.seq (okR (c.f 0x18 8)) := by
  simp [kernelLoadBody_reads hr ho hl, loadRead, hh, hb]

end

/-! ### Step 10 of KERNEL_LAUNCH and of KERNEL_ABORT (R143, R149) -/

section
variable {u : State} {c : Cmd} {l : Launch}

/-- The launch that a KERNEL_LAUNCH starts. -/
def commandedLaunch (u : State) (c : Cmd) : Launch where
  id := u.garr.nextLaunch
  cmd := some c.seq
  tenant := c.tenant
  qp := c.qp
  cmdId := c.id
  kslot := c.f 8 1
  image := (getKslot u (c.f 8 1)).image
  beds := (List.range (c.f 0xA 1)).map (fun i => c.f 9 1 + i)
  items := c.f 0xC 4
  args := BitVec.ofNat 64 (c.f 0x10 8)
  failmap := c.f 0x18 8
  seq := u.garr.launchSeq + 1
  start := u.tick

theorem kernelLaunchBody_refused {r : Result} (h : launchRefusal u c = some r) :
    kernelLaunchBody u c = complete (count u 104 { tenant := c.tenant }) c.seq r := by
  simp only [kernelLaunchBody, h]

theorem kernelLaunchBody_starts (h : launchRefusal u c = none) :
    kernelLaunchBody u c = startLaunch (releaseRes u c.seq) (commandedLaunch u c) := by
  simp only [kernelLaunchBody, h]
  rfl

/-- Does a KERNEL_ABORT name a launch: one of its tenant's, by queue pair and CMD_ID. -/
def abortNames (c : Cmd) (l : Launch) : Bool :=
  l.tenant = c.tenant && l.cmd.isSome && l.qp = c.f 8 1 && l.cmdId = c.f 0xA 2

theorem kernelAbortBody_absent (h : u.garr.launches.find? (abortNames c) = none) :
    kernelAbortBody u c = complete u c.seq { status := .okNoop } := by
  unfold abortNames at h
  simp only [kernelAbortBody, h]

theorem kernelAbortBody_over (h : u.garr.launches.find? (abortNames c) = some l) (ho : launchOver u l = true) :
    kernelAbortBody u c = complete u c.seq { status := .okNoop } := by
  unfold abortNames at h
  simp only [kernelAbortBody, h, ho, if_true]

theorem kernelAbortBody_stops (h : u.garr.launches.find? (abortNames c) = some l) (ho : launchOver u l = false) :
    kernelAbortBody u c =
      complete (modLaunch (stopLaunch u l) l.id (fun x => { x with aborted := true })) c.seq (okR) := by
  unfold abortNames at h
  simp only [kernelAbortBody, h, ho, Bool.false_eq_true, if_false]

end

/-! ### The dispatch of items (R145) -/

section
variable {s : State} {l lg : Nat} {x : Launch} (hx : findLaunch s l = some x)
include hx

theorem itemDispatch_next (ha : x.aborted = false) (ht : x.todo = none) (hn : x.next < x.items)
    (hg : (usableIn s x.beds).find? (grainFree s x) = some lg) :
    itemDispatch l s = startItem (modLaunch s l (fun y => { y with next := y.next + 1 })) x x.next lg := by
  simp [itemDispatch, hx, ha, hg, ht, hn]

/-- A launch that runs lost items again takes them in order. -/
theorem itemDispatch_again {i : Nat} {is : List Nat} (ha : x.aborted = false) (ht : x.todo = some (i :: is))
    (hg : (usableIn s x.beds).find? (grainFree s x) = some lg) :
    itemDispatch l s = startItem (modLaunch s l (fun y => { y with todo := some is })) x i lg := by
  simp [itemDispatch, hx, ha, hg, ht]

theorem itemDispatch_noGrain (hg : (usableIn s x.beds).find? (grainFree s x) = none) : itemDispatch l s = s := by
  simp [itemDispatch, hx, hg]

theorem itemDispatch_noItem (h : x.todo = some [] ∨ (x.todo = none ∧ x.items ≤ x.next)) : itemDispatch l s = s := by
  cases hg : (usableIn s x.beds).find? (grainFree s x) with
  | none => exact itemDispatch_noGrain hx hg
  | some lg =>
    rcases h with ht | ⟨ht, hn⟩
    · simp [itemDispatch, hx, hg, ht]
    · simp [itemDispatch, hx, hg, ht, Nat.not_lt.mpr hn]

end

/-! ### The end of an item (R146) -/

/-- A grain whose item has ended: its buffered stores are performed, its threads cleared, and it is free again. -/
def itemEnded (s : State) (p : Nat) : State :=
  modGrain (clearThreads (drainGrain s p) p) p (fun g => { g with item := none, itemFailed := false })

section
variable {s : State} {p : Nat}

theorem itemEnd_running (ho : itemOver s p = false) : itemEnd p s = s := by
  simp only [itemEnd, ho]
  split <;> rfl

variable {i : Nat} {l : Launch} (hi : (getGrain s p).item = some i) (hl : grainLaunch s p = some l) (ho : itemOver s p = true)
include hi hl ho

theorem itemEnd_passed (hf : (getGrain s p).itemFailed = false) :
    itemEnd p s = count (itemEnded s p) 15 { tenant := l.tenant, grain := logicalOf (itemEnded s p) p } := by
  simp only [itemEnd, hi, hl, ho, hf, Bool.not_true, Bool.false_eq_true, if_false, itemEnded]

theorem itemEnd_failed (hf : (getGrain s p).itemFailed = true) :
    itemEnd p s =
      modLaunch (count (itemEnded s p) 98 (launchOcc l)) l.id (fun x => { x with failed := x.failed ++ [i] }) := by
  simp only [itemEnd, hi, hl, ho, hf, Bool.not_true, Bool.false_eq_true, if_false, if_true, itemEnded]

end

/-! ### The completion of a launch (R147) -/

section
variable {s : State} {l c : Nat} {x : Launch} (hx : findLaunch s l = some x)
include hx

theorem launchComplete_running (ho : launchOver s x = false) (dma : Option Nat) : launchComplete l dma s = s := by
  simp [launchComplete, hx, ho]

variable (ho : launchOver s x = true) (hc : x.cmd = some c)
include ho hc

/-- A tenant's launch that is over ends; without a FAILMAP none is written, so that none fails. -/
theorem launchComplete_over (dma : Option Nat) :
    launchComplete l dma s = endLaunch s x x.status true (if x.failmap = 0 then none else dma) := by
  simp [launchComplete, hx, ho, hc]

theorem launchComplete_writes (hm : x.failmap ≠ 0) : launchComplete l none s =
    complete (hostWrite (releaseLaunch s x) x.failmap x.failBytes) c
      { status := x.status, r0 := x.failedCount, r1 := x.firstFailed } := by
  simp [launchComplete_over hx ho hc, endLaunch, hc, hm]

theorem launchComplete_noMap (hm : x.failmap = 0) (dma : Option Nat) : launchComplete l dma s =
    complete (releaseLaunch s x) c { status := x.status, r0 := x.failedCount, r1 := x.firstFailed } := by
  simp [launchComplete_over hx ho hc, endLaunch, hc, hm]

theorem launchComplete_writeFails (hm : x.failmap ≠ 0) (a : Nat) : launchComplete l (some a) s =
    complete (releaseLaunch s x) c { dmaWriteErr a with r0 := x.failedCount, r1 := x.firstFailed } := by
  simp [launchComplete_over hx ho hc, endLaunch, hc, hm]

end

/-- Settles O27: each command comes to step 10, where each case does what its lemma says; so does each event of a launch. -/
theorem kernelsAndItems : Obligations.KernelsAndItems := by
  refine ⟨⟨?load, ?launch, ?abort⟩, ?next, ?again, ?noGrain, ?noItem, ?ended, ?runs, ?completes, ?goesOn⟩
  case load =>
    intro s c cmd h hd u k len img hr ho hl
    obtain rfl := startsNow_seq h
    have begun (dma : Option Nat) : exec (.kernelLoad cmd.seq dma) s = .next (settle (kernelLoadBody dma u cmd)) :=
      exec_kernelLoad_now h hd dma
    refine ⟨fun hh hb => ?_, fun hh => ?_, fun hh hb => ?_, fun a => ?_⟩
    · rw [begun, kernelLoadBody_loads hr ho hl hh hb]
      rfl
    · rw [begun, kernelLoadBody_badHeader hr ho hl hh]
    · rw [begun, kernelLoadBody_badBody hr ho hl hh hb]
    · rw [begun, kernelLoadBody_readFails hr ho hl]
  case launch =>
    intro s c cmd h hd hl u beds
    obtain rfl := startsNow_seq h
    have hg : u.garr = s.garr := by simp [u]
    have ht : u.tick = s.tick := by simp [u]
    rw [exec_kernelLaunch_now h hd hl]
    refine ⟨fun r hr => ?_, fun hr => ?_⟩
    · rw [kernelLaunchBody_refused hr]
    · rw [kernelLaunchBody_starts hr, ← hg, ← ht]
      rfl
  case abort =>
    intro s c cmd h u named
    obtain rfl := startsNow_seq h
    rw [exec_kernelAbort_now h]
    refine ⟨fun hf => ?_, fun l hf ho => ?_, fun l hf ho => ?_⟩
    · rw [kernelAbortBody_absent hf]
    · rw [kernelAbortBody_over hf ho]
    · rw [kernelAbortBody_stops hf ho]
  case next => exact fun s l lg x hx ha ht hn hg => congrArg done (itemDispatch_next hx ha ht hn hg)
  case again => exact fun s l lg i is x hx ha ht hg => congrArg done (itemDispatch_again hx ha ht hg)
  case noGrain => exact fun s l x hx hg => congrArg done (itemDispatch_noGrain hx hg)
  case noItem => exact fun s l x hx h => congrArg done (itemDispatch_noItem hx h)
  case ended =>
    exact fun s p i l hi hl ho =>
      ⟨fun hf => congrArg done (itemEnd_passed hi hl ho hf), fun hf => congrArg done (itemEnd_failed hi hl ho hf)⟩
  case runs => exact fun s p ho => congrArg done (itemEnd_running ho)
  case completes =>
    intro s l c dma x hx ho hc
    refine ⟨?_, fun hm => congrArg done (launchComplete_noMap hx ho hc hm dma), ?_⟩
    · rintro hm rfl
      exact congrArg done (launchComplete_writes hx ho hc hm)
    · rintro a hm rfl
      exact congrArg done (launchComplete_writeFails hx ho hc hm a)
  case goesOn => exact fun s l dma x hx ho => congrArg done (launchComplete_running hx ho dma)

end Sys2Proof.Machine
end

section
/-! PROOFS. What stopping a grain may write (R149, R154, log entry 12): its stores and copies reach the memories, and the threads, grains
and reservations of the array; beds, remap table and launches stay as they are. -/

namespace Sys2Proof.Machine

/-- State t differs from s in the memories, the count of free values, and the grains, threads and reservations alone. -/
structure GrainFrame (s t : State) : Prop where
  eq : t = { s with freeCtr := t.freeCtr, mem := t.mem,
                    garr := { s.garr with grains := t.garr.grains, threads := t.garr.threads, rsvs := t.garr.rsvs } }

section
variable {s t u : State}

theorem grainFrame_refl (s : State) : GrainFrame s s := ⟨rfl⟩

theorem grainFrame_trans (h : GrainFrame s t) (h' : GrainFrame t u) : GrainFrame s u := by
  obtain ⟨h⟩ := h
  obtain ⟨h'⟩ := h'
  exact ⟨by rw [h', h]⟩

theorem grainFrame_ite {p : Prop} [Decidable p] (ht : GrainFrame s t) (hu : GrainFrame s u) :
    GrainFrame s (if p then t else u) := by
  split
  · exact ht
  · exact hu

/-- A fold whose steps keep to the frame keeps to it. -/
theorem grainFrame_foldl {α : Type} {f : State → α → State} (hf : ∀ s a, GrainFrame s (f s a)) (l : List α) (s : State) :
    GrainFrame s (l.foldl f s) := by
  induction l generalizing s with
  | nil => exact grainFrame_refl s
  | cons a l ih => exact grainFrame_trans (hf s a) (ih (f s a))

/-- So do steps that follow a state within the frame. -/
protected theorem GrainFrame.foldl {α : Type} {f : State → α → State} (h : GrainFrame s t)
    (hf : ∀ s a, GrainFrame s (f s a)) (l : List α) : GrainFrame s (l.foldl f t) :=
  grainFrame_trans h (grainFrame_foldl hf l t)

theorem grainFrame_modThread (s : State) (p t : Nat) (f : Thread → Thread) : GrainFrame s (modThread s p t f) := ⟨rfl⟩

theorem grainFrame_modGrain (s : State) (p : Nat) (f : Grain → Grain) : GrainFrame s (modGrain s p f) := ⟨rfl⟩

theorem grainFrame_clearThreads (s : State) (p : Nat) : GrainFrame s (clearThreads s p) := ⟨rfl⟩

theorem grainFrame_drawFree (s : State) : GrainFrame s (drawFree s).2 := ⟨rfl⟩

/-- The beds and the remap table are outside the frame. -/
theorem GrainFrame.beds_remap (h : GrainFrame s t) : t.garr.beds = s.garr.beds ∧ t.garr.remap = s.garr.remap := by
  rw [h.eq]
  exact ⟨rfl, rfl⟩

end

/-! ### Writes at a target -/

section
variable (s : State)

theorem grainFrame_dropRsvs (lo hi : Nat) : GrainFrame s (dropRsvs s lo hi) := by
  have cleared : GrainFrame s ((s.garr.rsvs.filter (fun r => lo ≤ r.granule && r.granule ≤ hi)).foldl
      (fun s r => modThread s r.grain r.thread (fun t => { t with rsv := none })) s) :=
    grainFrame_foldl (fun u r => grainFrame_modThread u _ _ _) _ s
  exact grainFrame_trans cleared ⟨rfl⟩

theorem grainFrame_touchRsvs (tg : Target) (n : Nat) : GrainFrame s (touchRsvs s tg n) := by
  cases tg
  case ls => exact grainFrame_dropRsvs s _ _
  case gm => exact grainFrame_dropRsvs s _ _
  all_goals exact ⟨rfl⟩

theorem grainFrame_wakeWaits (p : Nat) : GrainFrame s (wakeWaits s p) := by
  refine grainFrame_foldl (fun u t => ?_) _ s
  dsimp only
  split
  · exact grainFrame_ite ⟨rfl⟩ ⟨rfl⟩
  · exact ⟨rfl⟩

theorem grainFrame_writeTarget (tg : Target) (bs : List Byte) : GrainFrame s (writeTarget s tg bs) := by
  refine grainFrame_ite ⟨rfl⟩ ?_
  cases tg
  case ls p off =>
    have written : GrainFrame s (lsWrite s p off bs) := ⟨rfl⟩
    exact grainFrame_trans (grainFrame_trans written (grainFrame_touchRsvs _ _ _)) (grainFrame_wakeWaits _ _)
  case gm a =>
    have written : GrainFrame s (gmWrite s a bs) := ⟨rfl⟩
    exact grainFrame_trans written (grainFrame_touchRsvs _ _ _)
  all_goals exact ⟨rfl⟩

/-! ### Pieces of accesses in progress -/

theorem grainFrame_copyPiece (p t k i : Nat) : GrainFrame s (copyPiece s p t k i) := by
  unfold copyPiece
  split
  · exact ⟨rfl⟩
  · have drawn := grainFrame_drawFree s
    refine grainFrame_ite ⟨rfl⟩ (grainFrame_ite drawn (grainFrame_trans ?_ (grainFrame_writeTarget _ _ _)))
    exact grainFrame_trans drawn (grainFrame_modThread _ p t _)

theorem grainFrame_tilePiece (p k i : Nat) : GrainFrame s (tilePiece s p k i) := by
  unfold tilePiece
  split
  · exact ⟨rfl⟩
  · have drawn := grainFrame_drawFree s
    refine grainFrame_ite ⟨rfl⟩ (grainFrame_ite drawn (grainFrame_trans ?_ (grainFrame_writeTarget _ _ _)))
    exact grainFrame_trans drawn (grainFrame_modGrain _ p _)

theorem grainFrame_tileCapture (p k off : Nat) : GrainFrame s (tileCapture s p k off) := grainFrame_ite ⟨rfl⟩ ⟨rfl⟩

theorem grainFrame_meetTiles (tg : Target) (n : Nat) (write : Bool) : GrainFrame s (meetTiles s tg n write) := by
  cases tg
  case ls p off =>
    refine grainFrame_foldl (fun u k => ?_) _ s
    split
    · exact ⟨rfl⟩
    · have pieces (l : List Nat) : GrainFrame u (l.foldl (fun s i => tilePiece s p k i) u) :=
        grainFrame_foldl (fun v i => grainFrame_tilePiece v p k i) l u
      have captures (l : List (Nat × Nat)) : GrainFrame u (l.foldl (fun s r =>
          (piecesIn (.ls p r.1) r.2 (.ls p off) n).foldl (fun s i => tileCapture s p k (r.1 + 8 * i)) s) u) :=
        grainFrame_foldl (fun v r => grainFrame_foldl (fun w i => grainFrame_tileCapture w p k _) _ v) l u
      exact grainFrame_ite ⟨rfl⟩ (grainFrame_ite (pieces _) (grainFrame_ite (captures _) ⟨rfl⟩))
  all_goals exact ⟨rfl⟩

theorem grainFrame_meetVectors (tg : Target) (n : Nat) : GrainFrame s (meetVectors s tg n) := by
  refine grainFrame_foldl (fun u e => ?_) _ s
  dsimp only
  split
  · exact grainFrame_ite ⟨rfl⟩ ⟨rfl⟩
  · exact ⟨rfl⟩

theorem grainFrame_meet (tg : Target) (n : Nat) (write : Bool) : GrainFrame s (meet s tg n write) := by
  have copies : GrainFrame s (meetCopies s tg n write) := by
    refine grainFrame_foldl (fun u e => ?_) _ s
    exact grainFrame_copyPiece u _ _ _ _
  have tiles := grainFrame_trans copies (grainFrame_meetTiles _ tg n write)
  unfold meet
  exact grainFrame_ite (grainFrame_trans tiles (grainFrame_meetVectors _ tg n)) tiles

/-! ### Stores, copies and the stop of a grain -/

theorem grainFrame_performStore (p : Nat) (st : PendStore) : GrainFrame s (performStore s p st) := by
  have met := grainFrame_meet s (resolve s p st.addr) st.bytes.length true
  refine grainFrame_ite (grainFrame_trans met (grainFrame_writeTarget _ _ _)) (met.foldl (fun u i => ?_) _)
  split
  · exact grainFrame_writeTarget u _ _
  · exact ⟨rfl⟩

theorem grainFrame_performOne (p t : Nat) (st : PendStore) : GrainFrame s (performOne s p t st) :=
  grainFrame_trans (grainFrame_modThread s p t _) (grainFrame_performStore _ p st)

theorem grainFrame_performIn (p t : Nat) (st : PendStore) : GrainFrame s (performIn s p t st) := by
  have forced : GrainFrame s (forceScoped s p t (resolve s p st.addr) st.bytes.length) := by
    refine grainFrame_foldl (fun u i => ?_) _ s
    refine grainFrame_ite (grainFrame_refl u) (grainFrame_ite (grainFrame_refl u) ?_)
    exact grainFrame_foldl (fun v x => grainFrame_performOne v _ _ x) _ u
  exact grainFrame_trans forced (grainFrame_performOne _ p t st)

theorem grainFrame_drainGrain (p : Nat) : GrainFrame s (drainGrain s p) :=
  grainFrame_foldl (fun u t => grainFrame_foldl (fun v st => grainFrame_performIn v p t st) _ u) _ s

theorem grainFrame_copyRest (p : Nat) (c : PendCopy) (n : Nat) : GrainFrame s (copyRest s p c n) :=
  grainFrame_ite (grainFrame_writeTarget s _ _)
    (grainFrame_foldl (fun u _ => grainFrame_ite (grainFrame_refl u) (grainFrame_writeTarget u _ _)) _ s)

theorem grainFrame_cutCopy (p t : Nat) : GrainFrame s (cutCopy s p t) := by
  unfold cutCopy
  split
  · exact ⟨rfl⟩
  · exact grainFrame_trans (grainFrame_drawFree s) (grainFrame_copyRest _ p _ _)

theorem grainFrame_stopGrain (p : Nat) : GrainFrame s (stopGrain s p) := by
  have cut := (grainFrame_drainGrain s p).foldl (fun u t => grainFrame_cutCopy u p t) (List.range 8)
  unfold stopGrain
  exact grainFrame_trans (grainFrame_trans cut (grainFrame_clearThreads _ p)) (grainFrame_modGrain _ p _)

/-- A grain that loses its item leaves beds and remap table as they are. -/
theorem loseItem_keeps (p : Nat) :
    (loseItem s p).garr.beds = s.garr.beds ∧ (loseItem s p).garr.remap = s.garr.remap := by
  have stopped := (grainFrame_stopGrain s p).beds_remap
  unfold loseItem
  dsimp only
  split
  · split <;> simpa [modLaunch] using stopped
  · simpa using stopped

end

end Sys2Proof.Machine
end

section
/-! PROOFS. Failures of grains (R153 to R158, Tables 6.11, 6.12 and 6.14): what fails a grain and when, what a failed grain is left as, and
UNFENCE with the end of its test. -/

namespace Sys2Proof.Machine

/-! ### What the report of a failure, and the zeroing of a local store, may write -/

/-- The memories of t are those of s, and of the array t differs in the threads and the reservations alone. -/
structure ThreadFrame (s t : State) : Prop where
  mem : t.mem = s.mem
  garr : t.garr = { s.garr with threads := t.garr.threads, rsvs := t.garr.rsvs }

section
variable {s t u : State}

theorem threadFrame_refl (s : State) : ThreadFrame s s := ⟨rfl, rfl⟩

theorem threadFrame_trans (h : ThreadFrame s t) (h' : ThreadFrame t u) : ThreadFrame s u :=
  ⟨h'.mem.trans h.mem, by rw [h'.garr, h.garr]⟩

theorem threadFrame_ite {p : Prop} [Decidable p] (ht : ThreadFrame s t) (hu : ThreadFrame s u) :
    ThreadFrame s (if p then t else u) := by
  split
  · exact ht
  · exact hu

/-- A fold whose steps keep to the frame keeps to it. -/
theorem threadFrame_foldl {α : Type} {f : State → α → State} (hf : ∀ s a, ThreadFrame s (f s a)) (l : List α) (s : State) :
    ThreadFrame s (l.foldl f s) := by
  induction l generalizing s with
  | nil => exact ⟨rfl, rfl⟩
  | cons a l ih => exact threadFrame_trans (hf s a) (ih (f s a))

/-- What the frame leaves to be read as before. -/
theorem ThreadFrame.reads (h : ThreadFrame s t) : getGrain t = getGrain s ∧ getRemap t = getRemap s ∧ getBed t = getBed s := by
  refine ⟨funext fun k => ?_, funext fun k => ?_, funext fun k => ?_⟩
  · rw [getGrain, getGrain, h.garr]
  · rw [getRemap, getRemap, h.garr]
  · rw [getBed, getBed, h.garr]

/-- An operation outside the array and the memories keeps to the frame. -/
theorem threadFrame_outside (h : ThreadFrame s t) (hm : u.mem = t.mem) (hg : u.garr = t.garr) : ThreadFrame s u :=
  threadFrame_trans h ⟨hm, by rw [hg]⟩

protected theorem ThreadFrame.count {e : Nat} {o : Occ} (h : ThreadFrame s t) : ThreadFrame s (count t e o) :=
  threadFrame_outside h (by simp) (by simp)

protected theorem ThreadFrame.drawFree (h : ThreadFrame s t) : ThreadFrame s (drawFree t).2 := threadFrame_outside h rfl rfl

protected theorem ThreadFrame.logRec {typ src sev : Nat} {bs : List Byte} (h : ThreadFrame s t) :
    ThreadFrame s (logRec t typ src sev bs) :=
  threadFrame_outside h (by simp) (by simp)

/-- The failure is reported to each tenant (R156). -/
protected theorem ThreadFrame.faultLogs {ts : List Nat} {code detail : Nat} (h : ThreadFrame s t) :
    ThreadFrame s (ts.foldl (fun s t => faultLog s t code detail) t) :=
  threadFrame_trans h (threadFrame_foldl (fun _ _ => threadFrame_outside ⟨rfl, rfl⟩ (by simp) (by simp)) _ _)

protected theorem ThreadFrame.releaseBsync {b : Nat} {d : Dword} {which : Option Nat} (h : ThreadFrame s t) :
    ThreadFrame s (releaseBsync t b d which) := by
  refine threadFrame_trans h (threadFrame_foldl (fun u i => ?_) _ t)
  dsimp only
  split
  · exact threadFrame_ite ⟨rfl, rfl⟩ ⟨rfl, rfl⟩
  · exact ⟨rfl, rfl⟩

protected theorem ThreadFrame.linkResume {link : Nat} (h : ThreadFrame s t) : ThreadFrame s (linkResume t link) := by
  refine threadFrame_trans h (threadFrame_foldl (fun u e => ?_) _ t)
  split
  · exact threadFrame_ite ⟨rfl, rfl⟩ ⟨rfl, rfl⟩
  · exact ⟨rfl, rfl⟩

/-- Zeroing a local store clears the reservations on it, and wakes the grain's threads (R154, R180). -/
theorem threadFrame_zeroTarget (s : State) (p : Nat) : ThreadFrame (lsZero s p 0 0x40000) (zeroTarget s p 0 0x40000) := by
  have touched : ThreadFrame (lsZero s p 0 0x40000) (touchRsvs (lsZero s p 0 0x40000) (.ls p 0) 0x40000) := by
    refine threadFrame_trans (threadFrame_foldl (fun u r => ?_) _ _) ⟨rfl, rfl⟩
    exact ⟨rfl, rfl⟩
  refine threadFrame_trans touched (threadFrame_foldl (fun u t => ?_) _ _)
  dsimp only
  split
  · exact threadFrame_ite ⟨rfl, rfl⟩ ⟨rfl, rfl⟩
  · exact ⟨rfl, rfl⟩

end

/-! ### A failed grain -/

section
variable (s : State) (p : Nat)

/-- The spare that takes a failed grain's index: none where the grain is the spare of a takeover of its bed. -/
def failSpare : Option Nat :=
  if (getBed s (p / 17)).takeovers.any (fun t => t.spare = p % 17) then none else spareOf (loseItem s p) (p / 17)

/-- A failed grain, stopped and fenced, with its index passed on. -/
def passedOn : State := passIndex (markFenced (loseItem s p) p) p (failSpare s p)

/-- Its local store zeroed, and its bed's barriers idle (R154). -/
def failedGrain : State := modBed (zeroTarget (passedOn s p) p 0 0x40000) (p / 17) (fun x => { x with barriers := [] })

/-- The report of a failure, with the threads that it lets go on, comes after (R155, R156). -/
theorem threadFrame_failGrainNow (cause : Nat) : ThreadFrame (failedGrain s p) (failGrainNow s p cause) := by
  have released : ThreadFrame (failedGrain s p) (releaseBsync (failedGrain s p) (p / 17) 1 none) :=
    (threadFrame_refl _).releaseBsync
  have counted (absent : Bool) (o : Occ) : ThreadFrame (failedGrain s p)
      (if absent then count (count (releaseBsync (failedGrain s p) (p / 17) 1 none) 99 o) 101 o
        else count (releaseBsync (failedGrain s p) (p / 17) 1 none) 99 o) :=
    threadFrame_ite released.count.count released.count
  unfold failGrainNow
  cases logicalOf s p with
  | none => exact (counted _ _).drawFree.faultLogs.logRec
  | some i => exact (threadFrame_ite (counted _ _).linkResume (counted _ _)).faultLogs.logRec

/-- After the report the array reads as the grain was left, its bed's barriers idle, and the local store reads zeroed. -/
theorem failGrainNow_array (cause : Nat) :
    (failGrainNow s p cause).mem = (lsZero (passedOn s p) p 0 0x40000).mem
    ∧ getGrain (failGrainNow s p cause) = getGrain (passedOn s p)
    ∧ getRemap (failGrainNow s p cause) = getRemap (passedOn s p)
    ∧ getBed (failGrainNow s p cause) (p / 17) = { getBed (passedOn s p) (p / 17) with barriers := [] } := by
  have reported := threadFrame_failGrainNow s p cause
  have zeroed := threadFrame_zeroTarget (passedOn s p) p
  obtain ⟨grain, remap, bed⟩ := reported.reads
  obtain ⟨grain', remap', bed'⟩ := zeroed.reads
  refine ⟨?_, ?_, ?_, ?_⟩
  · rw [reported.mem, ← zeroed.mem]
    simp [failedGrain]
  · simp [grain, failedGrain, grain']
  · simp [remap, failedGrain, remap']
  · simp [bed, failedGrain, bed']

end

/-! ### Fencing, and the index that passes on -/

section
variable {s : State} {p : Nat}

theorem logicalOf_congr {t : State} (h : getRemap t = getRemap s) (p : Nat) : logicalOf t p = logicalOf s p := by
  simp only [logicalOf, h]

/-- A grain that is fenced, as its bed's mask says too. -/
theorem markFenced_fences (s : State) (p : Nat) : getGrain (markFenced s p) p = { fenced := true }
    ∧ (getBed (markFenced s p) (p / 17)).fencedMask.getLsbD (p % 17) = true
    ∧ (getBed (markFenced s p) (p / 17)).failing = (getBed s (p / 17)).failing
    ∧ getRemap (markFenced s p) = getRemap s := by
  have hk : p % 17 < 17 := Nat.mod_lt _ (by decide)
  simp [markFenced, hk]

/-- Passing an index on changes the remap table and the bed's takeovers alone. -/
theorem passIndex_keeps (s : State) (p : Nat) (spare : Option Nat) : getGrain (passIndex s p spare) = getGrain s
    ∧ (getBed (passIndex s p spare) (p / 17)).fencedMask = (getBed s (p / 17)).fencedMask
    ∧ (getBed (passIndex s p spare) (p / 17)).failing = (getBed s (p / 17)).failing := by
  unfold passIndex
  split <;> simp

/-- With no spare left the index becomes absent (R155). -/
theorem passIndex_absent {i : Nat} (h : logicalOf s p = some i) : (getRemap (passIndex s p none) i).absent = true := by
  simp [passIndex, h]

end

/-! ### What a failed grain is left as -/

section
variable (s : State) (p cause : Nat)

/-- A grain that loses its item leaves every bed and every index as it is. -/
theorem loseItem_reads : getBed (loseItem s p) = getBed s ∧ getRemap (loseItem s p) = getRemap s := by
  obtain ⟨beds, remap⟩ := loseItem_keeps s p
  constructor
  · funext b
    rw [getBed, getBed, beds]
  · funext i
    rw [getRemap, getRemap, remap]

/-- The grain that a failure leaves, before its report. -/
theorem passedOn_fenced : (getGrain (passedOn s p) p).fenced = true
    ∧ (getBed (passedOn s p) (p / 17)).fencedMask.getLsbD (p % 17) = true
    ∧ (getBed (passedOn s p) (p / 17)).failing = (getBed s (p / 17)).failing := by
  obtain ⟨grain, mask, failing⟩ := passIndex_keeps (markFenced (loseItem s p) p) p (failSpare s p)
  obtain ⟨fenced, marked, failing', _⟩ := markFenced_fences (loseItem s p) p
  refine ⟨?_, ?_, ?_⟩
  · rw [passedOn, grain, fenced]
  · rw [passedOn, mask, marked]
  · rw [passedOn, failing, failing', (loseItem_reads s p).1]

theorem failGrainNow_fenced : (getGrain (failGrainNow s p cause) p).fenced = true := by
  obtain ⟨_, grain, _, _⟩ := failGrainNow_array s p cause
  rw [grain, (passedOn_fenced s p).1]

theorem failGrainNow_mask : (getBed (failGrainNow s p cause) (p / 17)).fencedMask.getLsbD (p % 17) = true := by
  obtain ⟨_, _, _, bed⟩ := failGrainNow_array s p cause
  rw [bed]
  exact (passedOn_fenced s p).2.1

/-- A failure makes no other failure wait. -/
theorem failGrainNow_failing : (getBed (failGrainNow s p cause) (p / 17)).failing = (getBed s (p / 17)).failing := by
  obtain ⟨_, _, _, bed⟩ := failGrainNow_array s p cause
  rw [bed]
  exact (passedOn_fenced s p).2.2

theorem failGrainNow_lsRead {off : Nat} (h : off < 0x40000) : lsRead (failGrainNow s p cause) p off 1 = [0] := by
  obtain ⟨mem, _, _, _⟩ := failGrainNow_array s p cause
  simp [lsRead, mem, lsZero, KMap.readN, KMap.get_clearRange, mem0, h]

/-- The spare of a takeover that fails leaves its index absent: no other spare takes it (R155). -/
theorem failGrainNow_absent {i : Nat} (ho : (getBed s (p / 17)).takeovers.any (fun t => t.spare = p % 17) = true)
    (hi : logicalOf s p = some i) : (getRemap (failGrainNow s p cause) i).absent = true := by
  obtain ⟨_, _, remap, _⟩ := failGrainNow_array s p cause
  have served : getRemap (markFenced (loseItem s p) p) = getRemap s :=
    (markFenced_fences (loseItem s p) p).2.2.2.trans (loseItem_reads s p).2
  have noSpare : failSpare s p = none := if_pos ho
  rw [remap, passedOn, noSpare]
  exact passIndex_absent ((logicalOf_congr served p).trans hi)

end

/-! ### When a failure is handled (R153, Table 6.11) -/

section
variable {s : State} {p cause : Nat} (hd : domOn s (bedDom (p / 17)) = true)
  (hm : (getBed s (p / 17)).fencedMask.getLsbD (p % 17) = false) (hf : (getBed s (p / 17)).failing = [])
include hd hm hf

/-- At once where no takeover of the bed is in progress, or where the grain is the spare of one. -/
theorem failGrain_now (ht : (getBed s (p / 17)).takeovers = []
      ∨ (getBed s (p / 17)).takeovers.any (fun t => t.spare = p % 17) = true) :
    failGrain s p cause = failGrainNow s p cause := by
  have goes : ¬ ((getBed s (p / 17)).takeovers ≠ []
      ∧ (!(getBed s (p / 17)).takeovers.any (fun t => t.spare = p % 17)) = true) := by
    rcases ht with ht | ht <;> simp [ht]
  simp only [failGrain, hd, hm, hf, List.any_nil, Bool.not_true, Bool.or_false, Bool.false_eq_true, if_false, if_neg goes,
    failGrainNow_failing]
  rfl

/-- Otherwise the grain stops and loses its item, and its failure waits. -/
theorem failGrain_waits (hn : (getBed s (p / 17)).takeovers ≠ [])
    (ht : (getBed s (p / 17)).takeovers.any (fun t => t.spare = p % 17) = false) :
    failGrain s p cause = modBed (loseItem s p) (p / 17) (fun x => { x with failing := x.failing ++ [(p, cause)] }) := by
  simp [failGrain, hd, hm, hf, hn, ht]

end

/-! ### What fails a grain -/

section
variable {s : State} {p : Fin 1088}

theorem exec_localStoreUe_fails (hd : domOn s (bedDom (p.val / 17)) = true) (hf : (getGrain s p.val).fenced = false) (off : Nat) :
    exec (.localStoreUe p off) s = .next (settle (failGrain
      (logRec (count s 108 { tenant := (getGrain s p.val).tenant }) 0x41 3 2
        (leBytes 8 0 ++ leBytes 8 (lsGrainAddr (count s 108 { tenant := (getGrain s p.val).tenant }) p.val off) ++ leBytes 8 0))
      p.val 1)) := by
  simp only [exec, execLocalStoreUe, done, hd, hf, Bool.not_false, Bool.and_true, if_true]

theorem exec_itemWatchdogExpiry_fails (h : watchdogDue s p.val = true) : exec (.itemWatchdogExpiry p) s =
    .next (settle (failGrain (count s 111 { tenant := (getGrain s p.val).tenant }) p.val 3)) := by
  simp only [exec, execItemWatchdogExpiry, done, h, if_true]

theorem exec_itemWatchdogExpiry_early (h : watchdogDue s p.val = false) :
    exec (.itemWatchdogExpiry p) s = .next (settle s) := by
  simp only [exec, execItemWatchdogExpiry, done, h, Bool.false_eq_true, if_false]

theorem exec_localStoreCe_counts (hd : domOn s (bedDom (p.val / 17)) = true) : exec (.localStoreCe p) s = .next (settle
    (ltAdd (count (count s 107 { tenant := (getGrain s p.val).tenant }) (320 + 2 * (p.val / 17)) {}) 28)) := by
  simp only [exec, execLocalStoreCe, done, hd, if_true]

end

/-! ### UNFENCE (R158) -/

section
variable {s : State} {v : Word} {p : Nat}

/-- With D04 ON the registers of Tilth are there. -/
theorem blockOff_tilth (h : domOn s 4 = true) : blockOff s 5 = false := by
  have on : (getDom s 4).cur = .on := by
    simp only [domOn, Bool.and_eq_true, decide_eq_true_eq] at h
    exact h.1
  simp [blockOff, on]

theorem unfenceWrite_starts (h4 : domOn s 4 = true) (hd : domOn s (bedDom (bf v 13 8)) = true) (hk : bf v 4 0 ≤ 16)
    (hm : (getBed s (bf v 13 8)).fencedMask.getLsbD (bf v 4 0) = true) (hh : (getBed s (bf v 13 8)).holder = none)
    (hu : s.garr.unfencing = none) :
    unfenceWrite v s = { s with garr := { s.garr with
      unfencing := some (17 * bf v 13 8 + bf v 4 0), unfenceStatus := 1 } } := by
  simp [unfenceWrite, h4, hd, hk, hm, hh, hu]

theorem unfenceWrite_dropped (h : domOn s (bedDom (bf v 13 8)) = false ∨ 16 < bf v 4 0
      ∨ (getBed s (bf v 13 8)).fencedMask.getLsbD (bf v 4 0) = false ∨ (getBed s (bf v 13 8)).holder ≠ none
      ∨ s.garr.unfencing ≠ none) : unfenceWrite v s = setBusy s 5 := by
  refine if_neg fun starts => ?_
  simp only [Bool.and_eq_true, decide_eq_true_eq, Option.isNone_iff_eq_none] at starts
  obtain ⟨⟨⟨⟨⟨_, hd⟩, hk⟩, hm⟩, hh⟩, hu⟩ := starts
  rcases h with h | h | h | h | h
  · exact absurd hd (Bool.eq_false_iff.mp h)
  · omega
  · exact absurd hm (Bool.eq_false_iff.mp h)
  · exact h hh
  · exact h hu

/-- A grain whose test has passed is fenced no more. -/
def testPassed (s : State) (p : Nat) : State :=
  modBed (modGrain (count { s with garr := { s.garr with unfencing := none, unfenceStatus := 2 } } 109 {}) p
    (fun g => { g with fenced := false })) (p / 17)
    (fun x => { x with fencedMask := x.fencedMask &&& ~~~(1#17 <<< (p % 17)) })

/-- The lowest absent index of a grain's bed. -/
def lowestAbsent (s : State) (p : Nat) : Option Nat :=
  (List.range 16).find? (fun i => (getRemap s (16 * (p / 17) + i)).absent)

variable (hp : s.garr.unfencing = some p)
include hp

theorem unfenceEnd_serves {i : Nat} (hi : lowestAbsent (testPassed s p) p = some i) :
    unfenceEnd true s = setRemap (testPassed s p) (16 * (p / 17) + i) ⟨p % 17, false⟩ := by
  unfold lowestAbsent testPassed at hi
  simp only [unfenceEnd, hp, Bool.not_true, Bool.false_eq_true, if_false, if_true, hi, testPassed]

/-- With no index absent the grain becomes the spare. -/
theorem unfenceEnd_spare (hi : lowestAbsent (testPassed s p) p = none) : unfenceEnd true s = testPassed s p := by
  unfold lowestAbsent testPassed at hi
  simp only [unfenceEnd, hp, Bool.not_true, Bool.false_eq_true, if_false, if_true, hi, testPassed]

theorem unfenceEnd_fails :
    unfenceEnd false s = count { s with garr := { s.garr with unfencing := none, unfenceStatus := 3 } } 110 {} := by
  simp only [unfenceEnd, hp, Bool.not_false, Bool.false_eq_true, if_false, if_true]

end

/-- Settles O28: what fails a grain, when the failure is handled and what it leaves, each by its lemma; then UNFENCE. -/
theorem grainFailures : Obligations.GrainFailures := by
  refine ⟨?ue, fun _ _ => rfl, ?watchdog, ?early, ?ce, ?alone, ?takeover, ?failed, fun _ _ => rfl, ?unfence, ?dropped, ?testEnd⟩
  case ue => exact fun s p off hd hf => exec_localStoreUe_fails hd hf off
  case watchdog => exact fun s p h => exec_itemWatchdogExpiry_fails h
  case early => exact fun s p h => exec_itemWatchdogExpiry_early h
  case ce => exact fun s p hd => exec_localStoreCe_counts hd
  case alone => exact fun s p cause hd hm hf ht => failGrain_now hd hm hf (.inl ht)
  case takeover =>
    intro s p cause t hd hm hf ht
    refine ⟨fun hs => ?_, fun hs => ?_, fun i hs hi => ?_⟩
    · exact failGrain_waits hd hm hf (by simp [ht]) (by simp [ht, hs])
    · exact failGrain_now hd hm hf (.inr (by simp [ht, hs]))
    · exact failGrainNow_absent s p cause (by simp [ht, hs]) hi
  case failed =>
    exact fun s p cause => ⟨failGrainNow_fenced s p cause, failGrainNow_mask s p cause, fun off h => failGrainNow_lsRead s p cause h⟩
  case unfence =>
    intro s v hh h4 hd hk hm hb hu
    rw [exec_unfence v hh (blockOff_tilth h4), unfenceWrite_starts h4 hd hk hm hb hu]
  case dropped =>
    intro s v hh h4 h
    rw [exec_unfence v hh (blockOff_tilth h4), unfenceWrite_dropped h]
  case testEnd =>
    intro s p hp u w
    exact ⟨fun i hi => congrArg done (unfenceEnd_serves hp hi), fun hi => congrArg done (unfenceEnd_spare hp hi),
      congrArg done (unfenceEnd_fails hp)⟩

end Sys2Proof.Machine
end

section
/-! PROOFS. Issue (R162, R163): the instruction that a thread runs has its effect in the state that `issued` names, which differs from the
one before in the performance monitor and in what the grain notes of its last issue. -/

namespace Sys2Proof.Machine

/-! ### The state of an issued instruction -/

section
variable (s : State) (p t : Nat)

/-- Tag mode writes the performance monitor alone. -/
theorem tagStep_frame : tagStep s p t = { s with pm := (tagStep s p t).pm } := by
  unfold tagStep
  dsimp only
  split
  · split <;> rfl
  · rfl

theorem issued_frame : issued s p t = { noteIssue s p t (kindOf (wordAt s p t)) with pm := (issued s p t).pm } := by
  have counted : tagStep (count (count s 1 (grainOcc s p)) (321 + 2 * (p / 17)) {}) p t =
      { s with pm := (tagStep (count (count s 1 (grainOcc s p)) (321 + 2 * (p / 17)) {}) p t).pm } := by
    rw [tagStep_frame, count_frame, count_frame]
  unfold issued
  rw [counted]
  rfl

/-- What an issue leaves as it is. -/
@[simp] theorem issued_keeps : (issued s p t).tick = s.tick ∧ (issued s p t).mem = s.mem ∧ (issued s p t).links = s.links
    ∧ (issued s p t).garr.remap = s.garr.remap ∧ (issued s p t).garr.beds = s.garr.beds
    ∧ (issued s p t).garr.threads = s.garr.threads ∧ (issued s p t).garr.launches = s.garr.launches
    ∧ (issued s p t).garr.cycles16 = s.garr.cycles16 ∧ getThread (issued s p t) = getThread s
    ∧ getBed (issued s p t) = getBed s ∧ getRemap (issued s p t) = getRemap s := by
  rw [issued_frame]
  and_intros <;> rfl

/-- What the grain of an issued instruction keeps. -/
@[simp] theorem issued_grain : (getGrain (issued s p t) p).queue = (getGrain s p).queue
    ∧ (getGrain (issued s p t) p).tiles = (getGrain s p).tiles ∧ (getGrain (issued s p t) p).launch = (getGrain s p).launch := by
  have noted : getGrain (issued s p t) p = getGrain (noteIssue s p t (kindOf (wordAt s p t))) p := by
    rw [issued_frame]
    rfl
  simp [noted, noteIssue]

end

/-- Where an address leads is a matter of the remap table alone. -/
theorem resolve_congr {s u : State} (h : getRemap u = getRemap s) : resolve u = resolve s := by
  funext p a
  simp only [resolve, physOf, h]

@[simp] theorem resolve_issued (s : State) (p t : Nat) : resolve (issued s p t) = resolve s := resolve_congr (by simp)
@[simp] theorem resolve_count (s : State) (e n : Nat) (o : Occ) : resolve (count s e o n) = resolve s := resolve_congr (by simp)

/-! ### From a word to its effect -/

/-- An instruction that reads no register waits for no load. -/
theorem regsBusy_nil (th : Thread) : regsBusy th [] = false := by simp [regsBusy]

section
variable {s : State} {p t : Nat} {w : Word} {want : Kind → Bool} {regs : Word → List Nat} {body : State → Word → State}

theorem issue_runs (hw : runsWord s p t w = true) (hk : want (kindOf w) = true) (hi : kindOf w ≠ .illegal)
    (hr : regsBusy (getThread s p t) (regs w) = false) : issue s p t want regs body = body (issued s p t) w := by
  simp only [runsWord, Bool.and_eq_true, decide_eq_true_eq, List.isEmpty_iff] at hw
  obtain ⟨⟨⟨⟨may, hte⟩, hpc⟩, hal⟩, rfl⟩ := hw
  simp [issue, issued, may, hte, hk, hr, hi, hal, Nat.not_le.mpr hpc]

/-- An instruction that issues words of one kind alone. -/
theorem issue_of_kind {k : Kind} (hw : runsWord s p t w = true) (hk : kindOf w = k) (hi : k ≠ .illegal)
    (hr : regsBusy (getThread s p t) (regs w) = false) : issue s p t (fun x => x = k) regs body = body (issued s p t) w :=
  issue_runs hw (decide_eq_true hk) (hk ▸ hi) hr

/-- A thread that may not run leaves the block as it is. -/
theorem issue_stays (h : (getThread s p t).live = false ∨ (getThread s p t).wait ≠ .ready ∨ domOn s (bedDom (p / 17)) = false
    ∨ (getGrain s p).fenced = true ∨ (getGrain s p).item = none ∨ turn s p t = false) : issue s p t want regs body = s := by
  rw [issue, if_pos]
  rcases h with h | h | h | h | h | h <;> simp [h]

/-- What a thread that may run meets before the word at its PC. -/
theorem issue_boundary (hl : (getThread s p t).live = true) (hr : (getThread s p t).wait = .ready)
    (hd : domOn s (bedDom (p / 17)) = true) (hf : (getGrain s p).fenced = false) (hi : (getGrain s p).item ≠ none)
    (hn : (getBed s (p / 17)).failing = []) (ht : turn s p t = true) :
    (∀ a as, (getThread s p t).tileErrs = a :: as → issue s p t want regs body =
      takeExc (setThread s p t { getThread s p t with tileErrs := as }) p t 5 0 a)
    ∧ ((getThread s p t).tileErrs = [] → (getGrain s p).codeEnd ≤ (getThread s p t).pc.toNat →
      issue s p t want regs body = takeExc s p t 2 0 (getThread s p t).pc.toNat) := by
  have may : (getGrain s p).item.isSome = true := Option.isSome_iff_ne_none.mpr hi
  constructor
  · intro a as he
    simp [issue, hl, hr, hd, hf, may, hn, ht, he, modThread]
  · intro he hc
    simp [issue, hl, hr, hd, hf, may, hn, ht, he, hc]

/-- A word that is no instruction (R163). -/
theorem issue_illegal (hw : runsWord s p t w = true) (hk : kindOf w = .illegal) :
    issue s p t want regs body = takeExc s p t 1 w.toNat 0 := by
  simp only [runsWord, Bool.and_eq_true, decide_eq_true_eq, List.isEmpty_iff] at hw
  obtain ⟨⟨⟨⟨may, hte⟩, hpc⟩, hal⟩, rfl⟩ := hw
  simp [issue, may, hte, hk, hal, Nat.not_le.mpr hpc]

end

end Sys2Proof.Machine
end

section
/-! PROOFS. Scalar operations and divisions (R164, Tables 7.2 and 7.3): how each row writes its result, and what the results are. -/

namespace Sys2Proof.Machine

/-! ### Signed values of a width -/

section
variable (n v : Nat)

theorem sext_mod : sext n (v % 2 ^ n) = sext n v := by
  simp [sext]

/-- A sign-extended value lies in the range of its width. -/
theorem sext_range (hn : 0 < n) : -2 ^ (n - 1) ≤ sext n v ∧ sext n v < 2 ^ (n - 1) := by
  have low : v % 2 ^ n < 2 ^ n := Nat.mod_lt _ (Nat.two_pow_pos n)
  obtain ⟨m, rfl⟩ : ∃ m, n = m + 1 := ⟨n - 1, by omega⟩
  simp only [sext, Nat.add_sub_cancel]
  generalize v % 2 ^ (m + 1) = x at *
  have cast : ((2 ^ m : Nat) : Int) = 2 ^ m := by simp
  rw [pow_succ] at low
  rw [pow_succ]
  split <;> omega

end

/-- The signed value of a double-word is its 64 bits, sign-extended. -/
theorem sext_toNat (a : Dword) : sext 64 a.toNat = a.toInt := by
  have low := a.isLt
  rw [sext, BitVec.toInt_eq_toNat_cond, Nat.mod_eq_of_lt low]
  simp only [show (64 : Nat) - 1 = 63 from rfl]
  split <;> split <;> omega

/-- A 32-bit result fills its double-word with its sign. -/
theorem signW_toInt (v : Nat) : (signW v).toInt = sext 32 v := by
  obtain ⟨lo, hi⟩ := sext_range 32 v (by decide)
  exact BitVec.toInt_ofInt_eq_self (by decide) (by omega) (by omega)

/-- An integer wrapped to a width is its two's complement. -/
theorem ofNat_wrapInt (n : Nat) (i : Int) : BitVec.ofNat n (wrapInt n i) = BitVec.ofInt n i := by
  apply BitVec.eq_of_toNat_eq
  have pos : (0 : Int) < 2 ^ n := by positivity
  have := Int.emod_nonneg i pos.ne'
  have := Int.emod_lt_of_pos i pos
  rw [BitVec.toNat_ofNat, BitVec.toNat_ofInt, wrapInt, Nat.mod_eq_of_lt]
  · simp
  · zify
    simp [*]

/-! ### Results (Table 7.3) -/

section
variable (a b c : Dword) (i : Int)

/-- The signed value of a double-word lies in the range of 64 bits. -/
theorem dword_range : -2 ^ 63 ≤ a.toInt ∧ a.toInt < 2 ^ 63 := ⟨BitVec.le_toInt a, BitVec.toInt_lt⟩

theorem scalarEval_addW : (scalarEval .addW a b c i).toInt = sext 32 (a.toNat + b.toNat) := by
  rw [scalarEval, signW_toInt, BitVec.toNat_add]
  simp only [sext]
  rw [Nat.mod_mod_of_dvd _ (by decide)]

theorem scalarEval_mulhu : (scalarEval .mulhu a b c i).toNat = a.toNat * b.toNat / 2 ^ 64 := by
  have fits : a.toNat * b.toNat < 2 ^ 64 * 2 ^ 64 := Nat.mul_lt_mul'' a.isLt b.isLt
  exact (BitVec.toNat_ofNat _ _).trans (Nat.mod_eq_of_lt (Nat.div_lt_of_lt_mul fits))

/-- The upper half of a signed product fits: no product of two 64-bit values passes 2^126. -/
theorem scalarEval_mulh : (scalarEval .mulh a b c i).toInt = (a.toInt * b.toInt) / 2 ^ 64 := by
  obtain ⟨al, ah⟩ := dword_range a
  obtain ⟨bl, bh⟩ := dword_range b
  have prod : |a.toInt * b.toInt| ≤ 2 ^ 63 * 2 ^ 63 := by
    rw [abs_mul]
    exact mul_le_mul (abs_le.mpr ⟨al, ah.le⟩) (abs_le.mpr ⟨bl, bh.le⟩) (abs_nonneg _) (by decide)
  obtain ⟨pl, ph⟩ := abs_le.mp prod
  exact BitVec.toInt_ofInt_eq_self (by decide) (by omega) (by omega)

end

section
variable (a b c : Dword) (i : Int) (hb : b.toNat < 64)
include hb

theorem scalarEval_shl : (scalarEval .shl a b c i).toNat = a.toNat * 2 ^ b.toNat % 2 ^ 64 := by
  simp [scalarEval, shiftN, Nat.not_le.mpr hb, Nat.shiftLeft_eq]

theorem scalarEval_shr : (scalarEval .shr a b c i).toNat = a.toNat / 2 ^ b.toNat := by
  have low : a.toNat / 2 ^ b.toNat < 2 ^ 64 := (Nat.div_le_self _ _).trans_lt a.isLt
  simpa [scalarEval, shiftN, Nat.not_le.mpr hb, Nat.shiftRight_eq_div_pow, Nat.mod_eq_of_lt a.isLt] using low

theorem scalarEval_sar : (scalarEval .sar a b c i).toInt = a.toInt / 2 ^ b.toNat := by
  have wrapped : scalarEval .sar a b c i = BitVec.ofInt 64 (a.toInt / 2 ^ b.toNat) := by
    simp [scalarEval, shiftN, Nat.not_le.mpr hb, sext_toNat, ofNat_wrapInt]
  obtain ⟨lo, hi⟩ := dword_range a
  have pos : (1 : Int) ≤ 2 ^ b.toNat := by exact_mod_cast Nat.one_le_two_pow
  rw [wrapped]
  refine BitVec.toInt_ofInt_eq_self (by decide) (Int.le_ediv_of_mul_le (by omega) ?_) (Int.ediv_lt_of_lt_mul (by omega) ?_)
  · change -2 ^ 63 * 2 ^ b.toNat ≤ a.toInt
    generalize (2 : Int) ^ b.toNat = k at *
    omega
  · change a.toInt < 2 ^ 63 * 2 ^ b.toNat
    generalize (2 : Int) ^ b.toNat = k at *
    omega

end

/-! ### Quotients and remainders -/

section
variable (a b : Dword)

theorem divEval_zero : divEval .div a 0 = BitVec.allOnes 64 ∧ divEval .divu a 0 = BitVec.allOnes 64
    ∧ divEval .rem a 0 = a ∧ divEval .remu a 0 = a := by
  simp [divEval]

theorem divEval_unsigned (hb : b ≠ 0) :
    (divEval .divu a b).toNat = a.toNat / b.toNat ∧ (divEval .remu a b).toNat = a.toNat % b.toNat := by
  have quot : a.toNat / b.toNat < 2 ^ 64 := (Nat.div_le_self _ _).trans_lt a.isLt
  have rem : a.toNat % b.toNat < 2 ^ 64 := (Nat.mod_le _ _).trans_lt a.isLt
  simp only [divEval, hb, if_false, BitVec.toNat_ofNat]
  exact ⟨Nat.mod_eq_of_lt quot, Nat.mod_eq_of_lt rem⟩

/-- Signed division truncates: only the most negative value over -1 does not fit. -/
theorem divEval_signed (hb : b ≠ 0) (ho : ¬ (a = BitVec.intMin 64 ∧ b = BitVec.allOnes 64)) :
    (divEval .div a b).toInt = Int.tdiv a.toInt b.toInt ∧ (divEval .rem a b).toInt = Int.tmod a.toInt b.toInt := by
  obtain ⟨lo, hi⟩ := dword_range a
  have nonzero : b.toInt ≠ 0 := fun h => hb (BitVec.eq_of_toInt_eq (by rw [h]; rfl))
  have fitting : ¬ (a.toInt = -2 ^ 63 ∧ b.toInt = -1) := fun ⟨ha, hb'⟩ =>
    ho ⟨BitVec.eq_of_toInt_eq (by rw [ha]; decide), BitVec.eq_of_toInt_eq (by rw [hb']; decide)⟩
  have quot : (Int.tdiv a.toInt b.toInt).natAbs = a.toInt.natAbs / b.toInt.natAbs := Int.natAbs_tdiv _ _
  have rem : (Int.tmod a.toInt b.toInt).natAbs = a.toInt.natAbs % b.toInt.natAbs := Int.natAbs_tmod _ _
  have small : a.toInt.natAbs % b.toInt.natAbs < b.toInt.natAbs := Nat.mod_lt _ (Int.natAbs_pos.mpr nonzero)
  obtain ⟨bl, bh⟩ := dword_range b
  simp only [divEval, hb, if_false]
  constructor
  · have fits : -2 ^ 63 ≤ Int.tdiv a.toInt b.toInt ∧ Int.tdiv a.toInt b.toInt < 2 ^ 63 := by
      rcases Nat.lt_or_ge b.toInt.natAbs 2 with one | more
      · rcases (by omega : b.toInt = 1 ∨ b.toInt = -1) with h | h
        · simp [h]; omega
        · simp [h]; omega
      · have : a.toInt.natAbs / b.toInt.natAbs ≤ a.toInt.natAbs / 2 := Nat.div_le_div_left more (by decide)
        omega
    exact BitVec.toInt_ofInt_eq_self (by decide) fits.1 fits.2
  · exact BitVec.toInt_ofInt_eq_self (by decide) (by omega) (by omega)

end

/-! ### The rows -/

section
variable {s : State} {p : Fin 1088} {t : Fin 8} {w : Word} (hw : runsWord s p t w = true)
include hw

theorem exec_scalarAlu_writes {op : ScalarOp} (hop : op ≠ .illegal) (hk : kindOf w = (if scalarImm op then .scalarI else .scalarR))
    (hr : regsBusy (getThread s p t) (scalarRegs op w) = false) :
    exec (.scalarAlu p t op) s = .next (settle (setThread (issued s p t) p t (advance (setGpr (getThread s p t) (fD w)
      (scalarEval op (gpr (getThread s p t) (fA w)) (gpr (getThread s p t) (fB w)) (gpr (getThread s p t) (fC w))
        (sext 14 (bf w 13 0))))))) := by
  change done (scalarAlu p t op s) = _
  rw [scalarAlu, issue_runs hw (by split at hk <;> simp [*]) (by split at hk <;> simp [hk]) hr]
  simp only [hop, if_false, done, retireTo, issued_keeps]

theorem exec_scalarAlu_illegal (hk : kindOf w = .scalarR) :
    exec (.scalarAlu p t .illegal) s = .next (settle (takeExc (issued s p t) p t 1 w.toNat 0)) := by
  change done (scalarAlu p t .illegal s) = _
  rw [scalarAlu, issue_runs hw (by simp [hk]) (by simp [hk]) (regsBusy_nil _)]
  simp only [if_true, done]

theorem exec_divide_writes (hk : kindOf w = .scalarR) (op : DivOp) (hr : regsBusy (getThread s p t) [fA w, fB w] = false) :
    exec (.divide p t op) s = .next (settle (setThread (count (issued s p t) 3 (grainOcc (issued s p t) p) 34) p t
      (advance (setGpr (getThread s p t) (fD w)
        (divEval op (gpr (getThread s p t) (fA w)) (gpr (getThread s p t) (fB w))))))) := by
  change done (divide p t op s) = _
  rw [divide, issue_of_kind hw hk nofun hr]
  simp only [done, retireTo, issued_keeps]

end

/-- Settles O29: the rows, then each result of Table 7.3 and of R164. -/
theorem scalarInstructions : Obligations.ScalarInstructions := by
  refine ⟨?writes, ?divides, fun s p t => issued_frame s p t, ?results, ?quotients, ?illegal⟩
  case writes => exact fun s p t w op hw hop hk hr => exec_scalarAlu_writes hw hop hk hr
  case divides => exact fun s p t w op hw hk hr => exec_divide_writes hw hk op hr
  case results =>
    intro a b c i
    refine ⟨BitVec.toNat_add a b, scalarEval_addW a b c i, BitVec.toNat_mul a b, scalarEval_mulhu a b c i,
      scalarEval_mulh a b c i, scalarEval_shl a b c i, scalarEval_shr a b c i, scalarEval_sar a b c i, rfl, rfl, ?_, ?_⟩
    · simp [scalarEval]
    · rintro rfl
      exact ⟨rfl, rfl⟩
  case quotients =>
    refine fun a b => ⟨?_, divEval_unsigned a b, divEval_signed a b⟩
    rintro rfl
    exact divEval_zero a
  case illegal => exact fun s p t w hw hk => exec_scalarAlu_illegal hw hk

end Sys2Proof.Machine
end

section
/-! PROOFS. Branches, and what a thread meets instead of an instruction (R162, R163, R168, Table 7.4). -/

namespace Sys2Proof.Machine

section
variable {s : State} {p : Fin 1088} {t : Fin 8} {w : Word} (hw : runsWord s p t w = true) (hk : kindOf w = .branch)
  (hr : regsBusy (getThread s p t) (branchRegs w) = false)
include hw hk hr

/-- A branch that is taken counts event 2 and goes where its form says. -/
theorem exec_branch_taken
    (ht : branchTaken (bf w 27 25) (gpr (getThread s p t) (bf w 24 20)) (gpr (getThread s p t) (bf w 19 15)) = true) :
    exec (.branch p t) s = .next (settle (setThread (count (issued s p t) 2 (grainOcc (issued s p t) p)) p t
      (if bf w 27 25 = 7 then { setGpr (getThread s p t) (bf w 24 20) ((getThread s p t).pc + 4) with
          pc := (getThread s p t).pc + BitVec.ofInt 64 (4 * sext 20 (bf w 19 0)) }
        else if bf w 27 25 = 6 then { getThread s p t with
          pc := gpr (getThread s p t) (bf w 24 20) + BitVec.ofInt 64 (4 * sext 15 (bf w 14 0)) }
        else { getThread s p t with pc := (getThread s p t).pc + BitVec.ofInt 64 (4 * sext 15 (bf w 14 0)) }))) := by
  change done (branch p t s) = _
  rw [branch, issue_of_kind hw hk nofun hr]
  simp only [issued_keeps, ht, if_true, done]
  split
  · rfl
  · split <;> rfl

theorem exec_branch_passed
    (ht : branchTaken (bf w 27 25) (gpr (getThread s p t) (bf w 24 20)) (gpr (getThread s p t) (bf w 19 15)) = false) :
    exec (.branch p t) s = .next (settle (setThread (issued s p t) p t (advance (getThread s p t)))) := by
  change done (branch p t s) = _
  rw [branch, issue_of_kind hw hk nofun hr]
  simp only [issued_keeps, ht, Bool.false_eq_true, if_false, done, retireTo]

end

/-- The conditions of Table 7.4. -/
theorem branchTaken_conditions (a b : Dword) :
    (branchTaken 0 a b = decide (a = b)) ∧ (branchTaken 1 a b = decide (a ≠ b))
    ∧ (branchTaken 2 a b = decide (a.toInt < b.toInt)) ∧ (branchTaken 3 a b = !decide (a.toInt < b.toInt))
    ∧ (branchTaken 4 a b = decide (a.toNat < b.toNat)) ∧ (branchTaken 5 a b = !decide (a.toNat < b.toNat)) := by
  refine ⟨rfl, rfl, rfl, ?_, rfl, ?_⟩
  · exact (decide_eq_decide.mpr not_lt.symm).trans decide_not
  · exact (decide_eq_decide.mpr not_lt.symm).trans decide_not

/-- Settles O30: a branch is taken or not; then what stands before or in place of an instruction. -/
theorem branchesAndFailedIssue : Obligations.BranchesAndFailedIssue := by
  refine ⟨?branches, branchTaken_conditions, ?stays, ?boundary, ?illegal⟩
  case branches =>
    intro s p t w hw hk th cond u hr
    refine ⟨fun h => ?_, fun h => ?_, fun h ht => ?_, fun _ ht => exec_branch_passed hw hk hr ht⟩
    · rw [exec_branch_taken hw hk hr (by rw [show bf w 27 25 = 7 from h]; rfl), if_pos h]
    · rw [exec_branch_taken hw hk hr (by rw [show bf w 27 25 = 6 from h]; rfl), if_neg (by omega), if_pos h]
    · rw [exec_branch_taken hw hk hr ht, if_neg (by omega), if_neg (by omega)]
  case stays => exact fun s p t h => ⟨congrArg done (issue_stays h), congrArg done (issue_stays h)⟩
  case boundary =>
    intro s p t hl hr hd hf hi hn ht
    obtain ⟨tile, past⟩ := issue_boundary hl hr hd hf hi hn ht
    exact ⟨fun a as he => congrArg done (tile a as he), fun he hc => congrArg done (past he hc)⟩
  case illegal => exact fun s p t w hw hk => congrArg done (issue_illegal hw hk)

end Sys2Proof.Machine
end

section
/-! PROOFS. Vector operations (R163, R164, Table 7.5): which lanes they write and with what, VEXT, and the row. -/

namespace Sys2Proof.Machine

/-! ### Lanes -/

/-- A write of a lane is read in that lane alone. -/
theorem vlane_setVlane (th : Thread) {v i v' i' : Nat} (x : Word) (hi : i < 64) (hi' : i' < 64) :
    vlane (setVlane th v i x) v' i' = if v' = v ∧ i' = i then x else vlane th v' i' := by
  simp only [vlane, setVlane, KMap.get_set]
  exact if_congr (by omega) rfl rfl

/-- Writing some lanes of a register in turn, those that a predicate selects. -/
theorem vlane_foldl_setVlane (pred : Dword) (f : Nat → Word) {v v' i' : Nat} (hi' : i' < 64) :
    ∀ (l : List Nat) (th : Thread), (∀ i ∈ l, i < 64) →
      vlane (l.foldl (fun x i => if pred.getLsbD i then setVlane x v i (f i) else x) th) v' i' =
        if v' = v ∧ i' ∈ l ∧ pred.getLsbD i' = true then f i' else vlane th v' i'
  | [], th, _ => by simp
  | i :: l, th, h => by
    have hi : i < 64 := h i List.mem_cons_self
    rw [List.foldl_cons, vlane_foldl_setVlane pred f hi' l _ (fun j hj => h j (List.mem_cons_of_mem i hj))]
    by_cases hp : pred.getLsbD i = true
    · rw [if_pos hp, vlane_setVlane th (f i) hi hi']
      by_cases he : i' = i
      · subst he
        simp +contextual [hp]
      · simp [he]
    · rw [if_neg hp]
      by_cases he : i' = i
      · subst he
        simp [hp]
      · simp [he]

/-- An operation writes the lanes that its predicate selects. -/
theorem vlane_putLanes (th : Thread) (pred : Dword) (ls : List Word) {v v' i : Nat} (hi : i < 64) :
    vlane (putLanes th v pred ls) v' i = if v' = v ∧ pred.getLsbD i = true then ls.getD i 0 else vlane th v' i := by
  rw [putLanes, vlane_foldl_setVlane pred (fun i => ls.getD i 0) hi _ th (fun _ => List.mem_range.mp)]
  simp [hi]

/-! ### Effects -/

section
variable (w : Word) (th : Thread) (f : Dword)

theorem vecEffect_lanes {op : VecOp} (h : vecGroup op = .int ∨ vecGroup op = .fp ∨ vecGroup op = .mov ∨ vecGroup op = .bcast
    ∨ vecGroup op = .perm ∨ vecGroup op = .cvt) : vecEffect op w th f = putLanes th (fD w) (vpr th (fVp w)) (vecLanes op w th) := by
  rcases h with h | h | h | h | h | h <;> simp only [vecEffect, h]

/-- VSEL writes every lane, from VA or from VB. -/
theorem vecEffect_sel {i : Nat} (hi : i < 64) : vlane (vecEffect .sel w th f) (fD w) i =
    if (vpr th (fVp w)).getLsbD i then vlane th (fA w) i else vlane th (fB w) i := by
  have every : (BitVec.allOnes 64).getLsbD i = true := by rw [BitVec.getLsbD_allOnes, decide_eq_true hi]
  change vlane (putLanes th (fD w) (BitVec.allOnes 64) (vecLanes .sel w th)) (fD w) i = _
  rw [vlane_putLanes th _ _ hi, if_pos ⟨rfl, every⟩]
  simp [vecLanes, hi]

theorem vecLanes_mov {i : Nat} (hi : i < 64) : (vecLanes .mov w th).getD i 0 = vlane th (fA w) i := by
  simp [vecLanes, hi]

/-- The sum of two words is the sum of their one element of 32 bits. -/
theorem vecLanes_add {i : Nat} (hi : i < 64) (hw : bf w 9 8 = 0) :
    (vecLanes .add w th).getD i 0 = vlane th (fA w) i + vlane th (fB w) i := by
  apply BitVec.eq_of_toNat_eq
  simp [vecLanes, hi, vecGroup, laneOf, hw, widthBits, vecInt, elemOf]

/-- The element that VEXT gives fills the low bits of its register, whatever fills the rest. -/
theorem vextValue_low {n : Nat} (hn : n = widthBits (bf w 9 8)) (hd : n ∣ 32) :
    (vextValue w th f).toNat % 2 ^ n =
      elemOf n (f.toNat % (2048 / n) % (32 / n)) (vlane th (fA w) (f.toNat % (2048 / n) / (32 / n))) := by
  have le : n ≤ 64 := (Nat.le_of_dvd (by decide) hd).trans (by decide)
  simp only [vextValue, ← hn, BitVec.toNat_ofNat]
  rw [Nat.mod_mod_of_dvd _ (pow_dvd_pow 2 le), Nat.mul_add_mod_self_right]
  exact Nat.mod_eq_of_lt (Nat.mod_lt _ (Nat.two_pow_pos n))

theorem vextValue_element (hw : bf w 9 8 ≤ 2) : ∃ l j, l < 64 ∧ j < 32 / widthBits (bf w 9 8)
    ∧ (vextValue w th f).toNat % 2 ^ widthBits (bf w 9 8) = elemOf (widthBits (bf w 9 8)) j (vlane th (fA w) l) := by
  have width : widthBits (bf w 9 8) = 32 ∨ widthBits (bf w 9 8) = 16 ∨ widthBits (bf w 9 8) = 8 := by
    rcases (by omega : bf w 9 8 = 0 ∨ bf w 9 8 = 1 ∨ bf w 9 8 = 2) with h | h | h <;> simp [h, widthBits]
  rcases width with h | h | h
  all_goals
    rw [h]
    exact ⟨_, _, by omega, by omega, vextValue_low w th f h.symm (by decide)⟩

end

/-! ### The row -/

/-- VEXT is the operation that writes a scalar register. -/
theorem vecGroup_ext {op : VecOp} (h : op ≠ .ext) : vecGroup op ≠ .ext := by
  cases op <;> simp_all [vecGroup]

section
variable {s : State} {p : Fin 1088} {t : Fin 8} {w : Word} {op : VecOp} (hw : runsWord s p t w = true) (hk : kindOf w = .vector)
  (hr : regsBusy (getThread s p t) (vecRegs op w) = false)
include hw hk hr

theorem exec_vectorAlu_runs (hl : vecLegal op w = true) (hop : op ≠ .ext) (f : Dword) :
    exec (.vectorAlu p t op) s = .next (settle (setThread (count (issued s p t) 4 (grainOcc (issued s p t) p)) p t
      (advance (vecEffect op w (getThread s p t) f)))) := by
  have free : vecEffect op w (getThread s p t) f = vecEffect op w (getThread s p t) 0 := by
    cases hg : vecGroup op
    case ext => exact absurd hg (vecGroup_ext hop)
    all_goals simp only [vecEffect, hg]
  change done (vectorAlu p t op s) = _
  rw [vectorAlu, issue_of_kind hw hk nofun hr, free]
  simp only [issued_keeps, hl, hop, if_false, done, retireTo, Bool.not_true, Bool.false_eq_true]

theorem exec_vectorAlu_ext (hl : vecLegal op w = true) (hop : op = .ext) :
    exec (.vectorAlu p t op) s = .next (settle (setThread
      { count (issued s p t) 4 (grainOcc (issued s p t) p) with
        freeCtr := (count (issued s p t) 4 (grainOcc (issued s p t) p)).freeCtr + 1 } p t
      (advance (setGpr (getThread s p t) (fD w) (vextValue w (getThread s p t)
        (Config.freeDword (count (issued s p t) 4 (grainOcc (issued s p t) p)).freeCtr)))))) := by
  subst hop
  change done (vectorAlu p t .ext s) = _
  rw [vectorAlu, issue_of_kind hw hk nofun hr]
  simp only [issued_keeps, hl, if_true, done, retireTo, Bool.not_true, Bool.false_eq_true, if_false, drawFree, vecEffect, vecGroup]

theorem exec_vectorAlu_illegal (hl : vecLegal op w = false) :
    exec (.vectorAlu p t op) s = .next (settle (takeExc (issued s p t) p t 1 w.toNat 0)) := by
  change done (vectorAlu p t op s) = _
  rw [vectorAlu, issue_of_kind hw hk nofun hr]
  simp only [hl, Bool.not_false, if_true, done]

end

/-- Settles O31: the row, then what its operations write. -/
theorem vectorInstructions : Obligations.VectorInstructions := by
  refine ⟨?runs, fun w th f hw => vextValue_element w th f hw, ?lanes, fun w th f i hi => vecEffect_sel w th f hi,
    fun w th i hi => vecLanes_mov w th hi, fun w th i hi hw => vecLanes_add w th hi hw, ?illegal⟩
  case runs =>
    intro s p t w op hw hk hl hr u th
    exact ⟨fun hop f => exec_vectorAlu_runs hw hk hr hl hop f, fun hop => exec_vectorAlu_ext hw hk hr hl hop⟩
  case lanes =>
    intro op w th f v i hi _ hg
    rw [vecEffect_lanes w th f hg, vlane_putLanes th _ _ hi]
  case illegal => exact fun s p t w op hw hk hl hr => exec_vectorAlu_illegal hw hk hr hl

end Sys2Proof.Machine
end

section
/-! PROOFS. The checks before an access (R137 to R139, R152, R172, R173, R185, R204, R205), in their order. -/

namespace Sys2Proof.Machine

section
variable {s : State} {p t : Nat} {w : Word} {a n : Nat} {wr normalOnly : Bool} {go : State → State}

/-- An address that is no multiple of the access's size (64 for vectors). -/
theorem guarded_misaligned (h : a % (if n = 256 then 64 else n) ≠ 0) :
    guarded s p t w a n wr normalOnly go = takeExc s p t 3 w.toNat a := by
  rw [guarded, if_pos h]

section
variable (hal : a % (if n = 256 then 64 else n) = 0)
include hal

theorem guarded_refused (h : reach s p a n wr = 2 ∨ normalOnly = true ∧ allNormal s p a n = false) :
    guarded s p t w a n wr normalOnly go = takeExc s p t 2 w.toNat a := by
  have refused : reach s p a n wr = 2 ∨ (normalOnly && !allNormal s p a n) = true := by simpa using h
  rw [guarded, if_neg (not_not.mpr hal)]
  exact if_pos refused

section
variable (hn : ¬ (normalOnly = true ∧ allNormal s p a n = false))
include hn

/-- What is not refused goes by what it meets. -/
theorem guarded_reaches (h : reach s p a n wr ≠ 2) : guarded s p t w a n wr normalOnly go =
    if reach s p a n wr = 4 then takeExc (count s 29 (grainOcc s p (some a))) p t 4 w.toNat a
    else if reach s p a n wr = 1 then holdAccess s p t a else go (countAccess s p a wr) := by
  have goes : ¬ (reach s p a n wr = 2 ∨ (normalOnly && !allNormal s p a n) = true) := by
    simpa [h] using hn
  rw [guarded, if_neg (not_not.mpr hal)]
  exact if_neg goes

theorem guarded_linkDown (h : reach s p a n wr = 4) : guarded s p t w a n wr normalOnly go =
    takeExc (count s 29 (grainOcc s p (some a))) p t 4 w.toNat a := by
  rw [guarded_reaches hal hn (by omega), if_pos h]

theorem guarded_held (h : reach s p a n wr = 1) : guarded s p t w a n wr normalOnly go = holdAccess s p t a := by
  rw [guarded_reaches hal hn (by omega), if_neg (by omega), if_pos h]

theorem guarded_goes (h : reach s p a n wr = 0) : guarded s p t w a n wr normalOnly go = go (countAccess s p a wr) := by
  rw [guarded_reaches hal hn (by omega), if_neg (by omega), if_neg (by omega)]

end

end

/-- A hold on a link is counted. -/
theorem holdAccess_window (h : isWindow (resolve s p a) = true) : holdAccess s p t a =
    modThread (count s 31 (grainOcc s p (some a))) p t
      (fun x => { x with wait := .held (linkOf (resolve s p a)) a s.tick }) := by
  have key : holdKey s p a = linkOf (resolve s p a) := by
    unfold holdKey
    split
    · next hr => simp [hr, isWindow, linkOf] at h
    · rfl
  rw [holdAccess, if_pos h, key]

/-- A hold for a takeover is not. -/
theorem holdAccess_takeover {q o : Nat} (h : resolve s p a = .ls q o) : holdAccess s p t a =
    modThread s p t (fun x => { x with wait := .held (100 + (a - 0x100000000) / 0x40000) a s.tick }) := by
  simp [holdAccess, holdKey, h, isWindow, linkOf]

end

/-- Settles O33: the checks in their order. -/
theorem accessChecks : Obligations.AccessChecks := by
  intro s p t w a n wr normalOnly go al bad
  refine ⟨guarded_misaligned, guarded_refused, fun hal hr hn => guarded_linkDown hal hn hr, fun hal hr hn hl => ?_,
    fun q o hal hr hn hl => ?_, fun hal hr hn => guarded_goes hal hn hr⟩
  · rw [guarded_held hal hn hr, holdAccess_window hl]
  · rw [guarded_held hal hn hr, holdAccess_takeover hl]

end Sys2Proof.Machine
end

section
/-! PROOFS. Loads and stores of the grains (R172, R173, R185, R189 to R194, Table 7.9): reads with their errors, the store buffer, and
what leaves it. -/

namespace Sys2Proof.Machine

/-! ### Counting an access -/

/-- What the region type of an address rests on. -/
theorem regionType_congr {s u : State} (h : getRemap u = getRemap s) (hc : cfgD u = cfgD s) : regionType u = regionType s := by
  have hit : regionHit u = regionHit s := by
    funext a e
    simp only [regionHit, hc]
  funext p a
  simp only [regionType, resolve_congr h, hit, hc]

/-- What counting an access leaves as it is. -/
@[simp] theorem countAccess_keeps (s : State) (p a : Nat) (wr : Bool) : (countAccess s p a wr).tick = s.tick
    ∧ getThread (countAccess s p a wr) = getThread s ∧ resolve (countAccess s p a wr) = resolve s
    ∧ regionType (countAccess s p a wr) = regionType s := by
  unfold countAccess
  exact ⟨by simp, by simp, by simp, regionType_congr (by simp) (by simp)⟩

/-! ### Reads (R185, R232) -/

section
variable {s : State} {p t : Nat} {w : Word} {a n : Nat} {go : State → State}

theorem readGuard_badLine {l : Nat} (h : badLineAt s p a n = some l) (err : Bool) :
    readGuard s p t w a n err go = dataError (failAgain l s) p t w a := by
  simp only [readGuard, h]

theorem readGuard_error (h : badLineAt s p a n = none) (ho : ownLs s p a n = false) :
    readGuard s p t w a n true go = dataError s p t w a := by
  simp [readGuard, h, ho]

theorem readGuard_goes (h : badLineAt s p a n = none) (hd : ∀ o, resolve s p a ≠ .dev o) :
    readGuard s p t w a n false go = go s := by
  have taken : devRefused s p a n = false := by
    unfold devRefused
    split
    · next hr => exact absurd hr (hd _)
    · rfl
  simp [readGuard, h, taken]

/-- A read of Normal memory takes its bytes. -/
theorem readAny_normal (hd : ∀ o, resolve s p a ≠ .dev o) (hn : regionType s p a = 0) :
    readAny s p t a n = (ofLe (loadBytes s p t a n).1, (loadBytes s p t a n).2) := by
  unfold readAny
  split
  · next hr => exact absurd hr (hd _)
  · simp [hn]

end

/-! ### Loads -/

/-- A scalar access is aligned to its own size. -/
theorem scalarAlign {k : Nat} (h : k < 4) : (if 2 ^ k = 256 then 64 else 2 ^ k) = 2 ^ k := by
  interval_cases k <;> rfl

section
variable {s : State} {p : Fin 1088} {t : Fin 8} {w : Word} (hw : runsWord s p t w = true)
include hw

section
variable (hk : kindOf w = .load) (hr : regsBusy (getThread s p t) [fA w] = false)
include hk hr

theorem exec_load_full (hl : 8 ≤ (getThread s p t).loads.length) : exec (.load p t false) s = .next (settle s) := by
  change done (loadInsn p t false s) = _
  rw [loadInsn, issue_of_kind hw hk nofun hr]
  simp only [issued_keeps, hl, if_true, done]

section
variable (hl : (getThread s p t).loads.length < 8) (hal : addrM (getThread s p t) w % 2 ^ (fOp4 w % 4) = 0)
  (hgo : reach (issued s p t) p (addrM (getThread s p t) w) (2 ^ (fOp4 w % 4)) false = 0)
include hl hal hgo

/-- A load that may go is counted and reads. -/
theorem loadInsn_reads (err : Bool) : loadInsn p t err s =
    readGuard (countAccess (issued s p t) p (addrM (getThread s p t) w) false) p t w (addrM (getThread s p t) w)
      (2 ^ (fOp4 w % 4)) err (fun s' =>
        modThread (readAny s' p t (addrM (getThread s p t) w) (2 ^ (fOp4 w % 4))).2 p t (fun x => advance { x with
          loads := x.loads ++ [⟨fD w, if fOp4 w < 4
            then BitVec.ofInt 64 (sext (8 * 2 ^ (fOp4 w % 4)) (readAny s' p t (addrM (getThread s p t) w) (2 ^ (fOp4 w % 4))).1)
            else BitVec.ofNat 64 (readAny s' p t (addrM (getThread s p t) w) (2 ^ (fOp4 w % 4))).1⟩] })) := by
  rw [loadInsn, issue_of_kind hw hk nofun hr]
  simp only [issued_keeps, Nat.not_le.mpr hl, if_false]
  rw [guarded_goes (by rwa [scalarAlign (Nat.mod_lt _ (by decide))]) (by simp) hgo]

section
variable (hb : badLineAt (countAccess (issued s p t) p (addrM (getThread s p t) w) false) p (addrM (getThread s p t) w)
  (2 ^ (fOp4 w % 4)) = none)
include hb

theorem exec_load_queues (hd : ∀ o, resolve (issued s p t) p (addrM (getThread s p t) w) ≠ .dev o)
    (hn : regionType (issued s p t) p (addrM (getThread s p t) w) = 0) :
    let r := loadBytes (countAccess (issued s p t) p (addrM (getThread s p t) w) false) p t (addrM (getThread s p t) w)
      (2 ^ (fOp4 w % 4))
    exec (.load p t false) s = .next (settle (modThread r.2 p t (fun x => advance { x with loads := x.loads ++
      [⟨fD w, if fOp4 w < 4 then BitVec.ofInt 64 (sext (8 * 2 ^ (fOp4 w % 4)) (ofLe r.1)) else BitVec.ofNat 64 (ofLe r.1)⟩] }))) := by
  change done (loadInsn p t false s) = _
  rw [loadInsn_reads hw hk hr hl hal hgo, readGuard_goes hb (by simpa using hd),
    readAny_normal (by simpa using hd) ((congrFun₂ (countAccess_keeps _ _ _ _).2.2.2 _ _).trans hn)]
  rfl

theorem exec_load_error (ho : ownLs (countAccess (issued s p t) p (addrM (getThread s p t) w) false) p
      (addrM (getThread s p t) w) (2 ^ (fOp4 w % 4)) = false) :
    exec (.load p t true) s = .next (settle (dataError (countAccess (issued s p t) p (addrM (getThread s p t) w) false) p t w
      (addrM (getThread s p t) w))) := by
  change done (loadInsn p t true s) = _
  rw [loadInsn_reads hw hk hr hl hal hgo, readGuard_error hb ho, done]

end

theorem exec_load_badLine {l : Nat} (hb : badLineAt (countAccess (issued s p t) p (addrM (getThread s p t) w) false) p
      (addrM (getThread s p t) w) (2 ^ (fOp4 w % 4)) = some l) (err : Bool) :
    exec (.load p t err) s = .next (settle (dataError
      (failAgain l (countAccess (issued s p t) p (addrM (getThread s p t) w) false)) p t w (addrM (getThread s p t) w))) := by
  change done (loadInsn p t err s) = _
  rw [loadInsn_reads hw hk hr hl hal hgo, readGuard_badLine hb, done]

end

end

/-- LDP reads its two double-words in turn. -/
theorem exec_ldp_reads (hk : kindOf w = .ldp) (hr : regsBusy (getThread s p t) [fA w] = false) {a : Nat}
    (ha : a = addrM (getThread s p t) w) (hal : a % 16 = 0) (hgo : reach (issued s p t) p a 16 false = 0)
    (hd : ∀ o, resolve (issued s p t) p a ≠ .dev o) (hn : regionType (issued s p t) p a = 0)
    (hb : badLineAt (countAccess (issued s p t) p a false) p a 16 = none)
    (hd' : ∀ o, resolve (loadBytes (countAccess (issued s p t) p a false) p t a 8).2 p (a + 8) ≠ .dev o)
    (hn' : regionType (loadBytes (countAccess (issued s p t) p a false) p t a 8).2 p (a + 8) = 0) :
    let r := loadBytes (countAccess (issued s p t) p a false) p t a 8
    let q := loadBytes r.2 p t (a + 8) 8
    exec (.ldp p t false) s = .next (settle (modThread (count q.2 27 (grainOcc q.2 p)) p t (fun x =>
      advance (setGpr (setGpr x (fD w) (BitVec.ofNat 64 (ofLe r.1))) (fD w + 1) (BitVec.ofNat 64 (ofLe q.1)))))) := by
  have low := readAny_normal (t := t) (n := 8) (s := countAccess (issued s p t) p a false) (by simpa using hd) (by simpa using hn)
  subst ha
  change done (ldpInsn p t false s) = _
  rw [ldpInsn, issue_of_kind hw hk nofun hr]
  simp only [issued_keeps]
  rw [guarded_goes hal (by simp) hgo, readGuard_goes hb (by simpa using hd)]
  simp only [low, readAny_normal hd' hn', done]

/-- LDV holds its thread. -/
theorem exec_ldv_holds (hk : kindOf w = .ldv) (hr : regsBusy (getThread s p t) [fA w] = false) {a : Nat}
    (ha : a = addrVm (getThread s p t) w) (hal : a % 64 = 0) (hgo : reach (issued s p t) p a 256 false = 0)
    (hd : ∀ o, resolve (issued s p t) p a ≠ .dev o) (hn : allNormal (issued s p t) p a 256 = true)
    (hb : badLineAt (countAccess (issued s p t) p a false) p a 256 = none) :
    exec (.ldv p t false) s = .next (settle (modThread (countAccess (issued s p t) p a false) p t
      (fun x => { x with wait := .vector w a [] }))) := by
  subst ha
  change done (ldvInsn p t false s) = _
  rw [ldvInsn, issue_of_kind hw hk nofun hr]
  simp only [issued_keeps]
  rw [guarded_goes hal (by simp [hn]) hgo, readGuard_goes hb (by simpa using hd), done]

end

/-! ### The store buffer -/

/-- The store of some bytes to the steward's memories, issued at a time. -/
def memStore (since a : Nat) (bytes : List (Option Byte)) : PendStore := { addr := a, bytes := bytes, since := since }

/-- To the steward's memories every piece that writes a byte joins the buffer. -/
theorem putStore_memory {s : State} {p t : Nat} {w : Word} {a : Nat} {pieces : List (List (Option Byte))} {err : Bool}
    (hd : ∀ o, resolve s p a ≠ .dev o) (ho : isWindow (resolve s p a) = false) : putStore s p t w a pieces err =
    modThread s p t (fun x => advance { x with
      stores := x.stores ++ ((List.range pieces.length).map (fun i =>
        memStore s.tick (a + ((pieces.take i).map List.length).sum) (pieces.getD i []))).filter
          (fun st => st.bytes.any Option.isSome) }) := by
  unfold putStore
  dsimp only
  split
  · next hr => exact absurd hr (hd _)
  · rw [if_neg (by simp [ho])]
    rfl

/-- One piece that writes a byte. -/
theorem putStore_piece {s : State} {p t : Nat} {w : Word} {a : Nat} {bytes : List (Option Byte)} {err : Bool}
    (hd : ∀ o, resolve s p a ≠ .dev o) (ho : isWindow (resolve s p a) = false) (hb : bytes.any Option.isSome = true) :
    putStore s p t w a [bytes] err =
      modThread s p t (fun x => advance { x with stores := x.stores ++ [memStore s.tick a bytes] }) := by
  rw [putStore_memory hd ho]
  simp [List.range_succ, memStore, hb]

/-- Bytes of a number are written bytes. -/
theorem leBytes_written {n : Nat} (hn : 0 < n) (v : Nat) : ((leBytes n v).map some).any Option.isSome = true := by
  obtain ⟨n, rfl⟩ : ∃ m, n = m + 1 := ⟨n - 1, by omega⟩
  simp [leBytes]

/-- Pieces of one length lie one after another. -/
theorem sum_take_lengths {α : Type} {m : Nat} (l : List (List α)) (h : ∀ x ∈ l, x.length = m) {i : Nat} (hi : i ≤ l.length) :
    ((l.take i).map List.length).sum = m * i := by
  have lengths : (l.take i).map List.length = List.replicate i m := by
    rw [List.eq_replicate_iff]
    refine ⟨by simp [hi], fun y hy => ?_⟩
    obtain ⟨x, hx, rfl⟩ := List.mem_map.mp hy
    exact h x (List.mem_of_mem_take hx)
  rw [lengths, List.sum_replicate, smul_eq_mul, Nat.mul_comm]

/-- Pieces of one length that follow one another. -/
theorem putStore_pieces {s : State} {p t : Nat} {w : Word} {a m k : Nat} {f : Nat → List (Option Byte)} {err : Bool}
    (hd : ∀ o, resolve s p a ≠ .dev o) (ho : isWindow (resolve s p a) = false) (hf : ∀ i, (f i).length = m) :
    putStore s p t w a ((List.range k).map f) err = modThread s p t (fun x => advance { x with
      stores := x.stores ++ ((List.range k).map (fun i => memStore s.tick (a + m * i) (f i))).filter
        (fun st => st.bytes.any Option.isSome) }) := by
  have same : (List.range ((List.range k).map f).length).map (fun i => memStore s.tick
      (a + ((((List.range k).map f).take i).map List.length).sum) (((List.range k).map f).getD i [])) =
      (List.range k).map (fun i => memStore s.tick (a + m * i) (f i)) := by
    rw [List.length_map, List.length_range]
    refine List.map_congr_left (fun i hi => ?_)
    have hi' : i < k := List.mem_range.mp hi
    rw [sum_take_lengths (m := m) _ (by simp [hf]) (by simp [hi'.le])]
    simp [hi']
  rw [putStore_memory hd ho, same]

/-- What STV writes of a lane: nothing where its predicate bit is 0. -/
def stvLane (w : Word) (th : Thread) (i : Nat) : List (Option Byte) :=
  if (vpr th (fVpM w)).getLsbD i then (leBytes 4 (vlane th (fD w) i).toNat).map some else List.replicate 4 none

theorem stvLane_length (w : Word) (th : Thread) (i : Nat) : (stvLane w th i).length = 4 := by
  unfold stvLane
  split <;> simp [leBytes]

/-- An access that may go and is neither of a device nor of a window goes to a local store, Loam or HBM. -/
theorem reach_steward {s : State} {p a n : Nat} {wr : Bool} (hd : ∀ o, resolve s p a ≠ .dev o)
    (ho : isWindow (resolve s p a) = false) (hgo : reach s p a n wr = 0) :
    (∃ q o, resolve s p a = .ls q o) ∨ ∃ b, resolve s p a = .gm b := by
  cases hr : resolve s p a with
  | ls q o => exact .inl ⟨q, o, rfl⟩
  | gm b => exact .inr ⟨b, rfl⟩
  | spoke k o =>
    have spokes : k < 8 := by
      unfold resolve at hr
      split_ifs at hr
      cases hr
      omega
    simp [hr, isWindow, linkOf] at ho
    omega
  | host o => simp [hr, isWindow, linkOf] at ho
  | dev o => exact absurd hr (hd o)
  | none => simp [reach, hr] at hgo

/-- A store instruction has a size of up to 8 bytes. -/
theorem storeKind_size {w : Word} (h : kindOf w = .store) : fOp4 w < 4 := by
  unfold kindOf at h
  split at h
  case h_5 => grind [storeKind]
  all_goals grind [loadKind, atomicKind, sysKind, vmemKind, tileKind]

/-! ### Stores -/

section
variable {s : State} {p : Fin 1088} {t : Fin 8} {w : Word} {a : Nat} (hw : runsWord s p t w = true)
  (hd : ∀ o, resolve (issued s p t) p a ≠ .dev o) (ho : isWindow (resolve (issued s p t) p a) = false)
include hw hd ho

theorem exec_store_buffers (hk : kindOf w = .store) (hr : regsBusy (getThread s p t) [fD w, fA w] = false)
    (ha : a = addrM (getThread s p t) w) (hal : a % 2 ^ fOp4 w = 0) (hgo : reach (issued s p t) p a (2 ^ fOp4 w) true = 0) :
    exec (.store p t false) s = .next (settle (setThread (countAccess (issued s p t) p a true) p t (advance { getThread s p t with
      stores := (getThread s p t).stores ++
        [memStore s.tick a ((leBytes (2 ^ fOp4 w) (gpr (getThread s p t) (fD w)).toNat).map some)] }))) := by
  subst ha
  change done (storeInsn p t false s) = _
  rw [storeInsn, issue_of_kind hw hk nofun hr]
  simp only [issued_keeps]
  rw [guarded_goes (by rwa [scalarAlign (storeKind_size hk)]) (by simp) hgo,
    putStore_piece (by simpa using hd) (by simpa using ho) (leBytes_written (Nat.two_pow_pos _) _)]
  simp only [modThread, countAccess_keeps, issued_keeps, done]

theorem exec_stp_buffers (hk : kindOf w = .stp) (hr : regsBusy (getThread s p t) [fD w, fD w + 1, fA w] = false)
    (ha : a = addrM (getThread s p t) w) (hal : a % 16 = 0) (hgo : reach (issued s p t) p a 16 true = 0) :
    exec (.stp p t false) s = .next (settle (setThread (countAccess (issued s p t) p a true) p t (advance { getThread s p t with
      stores := (getThread s p t).stores ++ [memStore s.tick a ((leBytes 8 (gpr (getThread s p t) (fD w)).toNat
        ++ leBytes 8 (gpr (getThread s p t) (fD w + 1)).toNat).map some)] }))) := by
  subst ha
  change done (stpInsn p t false s) = _
  rw [stpInsn, issue_of_kind hw hk nofun hr]
  simp only [issued_keeps]
  rw [guarded_goes hal (by simp) hgo]
  have target := reach_steward hd ho hgo
  rw [← (countAccess_keeps (issued s p t) p (addrM (getThread s p t) w) true).2.2.1] at target
  have buffered := putStore_piece (s := countAccess (issued s p t) p (addrM (getThread s p t) w) true) (t := t) (w := w) (err := false)
    (bytes := (leBytes 8 (gpr (getThread s p t) (fD w)).toNat).map some
      ++ (leBytes 8 (gpr (getThread s p t) (fD w + 1)).toNat).map some) (by simpa using hd) (by simpa using ho) (by simp [leBytes])
  simp only [modThread, countAccess_keeps, issued_keeps] at buffered
  rw [List.map_append]
  rcases target with ⟨q, o, h⟩ | ⟨b, h⟩
  · simp only [h, if_true, buffered, done]
  · simp only [h, if_true, buffered, done]

/-- STV buffers those of its pieces that write a byte. -/
theorem exec_stv_buffers (hk : kindOf w = .stv) (hr : regsBusy (getThread s p t) [fA w] = false)
    (ha : a = addrVm (getThread s p t) w) (hal : a % 64 = 0) (hgo : reach (issued s p t) p a 256 true = 0)
    (hn : allNormal (issued s p t) p a 256 = true) :
    exec (.stv p t) s = .next (settle (setThread (countAccess (issued s p t) p a true) p t (advance { getThread s p t with
      stores := (getThread s p t).stores ++ ((List.range 32).map (fun i => memStore s.tick (a + 8 * i)
        (stvLane w (getThread s p t) (2 * i) ++ stvLane w (getThread s p t) (2 * i + 1)))).filter
          (fun st => st.bytes.any Option.isSome) }))) := by
  subst ha
  change done (stvInsn p t s) = _
  rw [stvInsn, issue_of_kind hw hk nofun hr]
  simp only [issued_keeps]
  rw [guarded_goes hal (by simp [hn]) hgo]
  have pieces := putStore_pieces (s := countAccess (issued s p t) p (addrVm (getThread s p t) w) true) (t := t) (w := w) (m := 8)
    (k := 32) (f := fun i => stvLane w (getThread s p t) (2 * i) ++ stvLane w (getThread s p t) (2 * i + 1)) (err := false)
    (by simpa using hd) (by simpa using ho) (fun i => by simp [stvLane_length])
  simp only [modThread, countAccess_keeps, issued_keeps] at pieces
  exact congrArg done pieces

end

/-! ### What retires, and what leaves the buffer -/

section
variable {s : State} {p : Fin 1088} {t : Fin 8}

theorem exec_loadRetire_load {l : PendLoad} {ls : List PendLoad} (h : (getThread s p t).loads = l :: ls) :
    exec (.loadRetire p t) s = .next (settle (setThread (count s 27 (grainOcc s p)) p t
      { setGpr (getThread s p t) l.reg l.value with loads := ls })) := by
  change done (loadRetire p t s) = _
  simp only [loadRetire, h, done]

theorem exec_loadRetire_vector {w : Word} {a : Nat} {got : List Byte} (hl : (getThread s p t).loads = [])
    (hv : (getThread s p t).wait = .vector w a got) :
    let r := loadBytes s p t a 256
    exec (.loadRetire p t) s = .next (settle (modThread (count r.2 27 (grainOcc r.2 p)) p t (fun x =>
      advance { (List.range 64).foldl (fun y i => if (vpr x (fVpM w)).getLsbD i then
        setVlane y (fD w) i (BitVec.ofNat 32 (leAt (got ++ r.1.drop got.length) (4 * i) 4)) else y) x with wait := .ready }))) := by
  change done (loadRetire p t s) = _
  simp only [loadRetire, hl, vectorRetire, hv, done]

theorem exec_storeAcknowledged_head {st : PendStore} (h : heads s p [] (getThread s p t).stores = [st]) :
    exec (.storeAcknowledged p t) s = .next (settle (recheck (storeGoesOn s p t st) p t)) := by
  change done (storeAcknowledged p t s) = _
  simp only [storeAcknowledged, h, done]

/-- Held stores have no head. -/
theorem heads_held {stores : List PendStore} (h : ∀ st ∈ stores, storeHeld s p st = true) (seen : List Nat) :
    heads s p seen stores = [] := by
  induction stores generalizing seen with
  | nil => rfl
  | cons st rest ih =>
    have rest_held := ih (fun x hx => h x (List.mem_cons_of_mem st hx))
    simp [heads, h st List.mem_cons_self, rest_held]

theorem exec_storeAcknowledged_held (h : ∀ st ∈ (getThread s p t).stores, storeHeld s p st = true) :
    exec (.storeAcknowledged p t) s = .next (settle s) := by
  change done (storeAcknowledged p t s) = _
  simp only [storeAcknowledged, heads_held h, done]

end

/-- Settles O34: the loads, then the stores, then what retires and what leaves the buffer. -/
theorem loadsAndStores : Obligations.LoadsAndStores := by
  refine ⟨?rows, fun s p t l ls h => exec_loadRetire_load h, fun s p t w a got hl hv => exec_loadRetire_vector hl hv, ?head,
    fun s p t h => exec_storeAcknowledged_held h⟩
  case rows =>
    intro s p t w hw u th mem good own mk
    refine ⟨fun hk hl hr => exec_load_full hw hk hr hl, ?load, ?ldp, ?ldv, ?store, ?stp, ?stv⟩
    case load =>
      rintro n a hk hl hr rfl rfl hal ⟨hgo, hd, hn, _⟩ r
      exact ⟨fun hb => exec_load_queues hw hk hr hl hal hgo hb hd hn, fun hb ho => exec_load_error hw hk hr hl hal hgo hb ho,
        fun l b hb => exec_load_badLine hw hk hr hl hal hgo hb b⟩
    case ldp =>
      rintro a hk hr ha hal ⟨hgo, hd, hn, _⟩ hb r q hd' hn'
      exact exec_ldp_reads hw hk hr ha hal hgo hd hn hb hd' hn'
    case ldv => exact fun a hk hr ha hal ⟨hgo, hd, _, hn⟩ hb => exec_ldv_holds hw hk hr ha hal hgo hd hn hb
    case store =>
      rintro n a hk hr rfl ha hal ⟨hgo, hd, _, _⟩ ho
      exact exec_store_buffers hw hd ho hk hr ha hal hgo
    case stp => exact fun a hk hr ha hal ⟨hgo, hd, _, _⟩ ho => exec_stp_buffers hw hd ho hk hr ha hal hgo
    case stv => exact fun a hk hr ha hal ⟨hgo, hd, _, hn⟩ ho => exec_stv_buffers hw hd ho hk hr ha hal hgo hn
  case head =>
    intro s p t st h
    refine ⟨fun hs => ?_, fun hl hs => ?_⟩
    · rw [exec_storeAcknowledged_head h, storeGoesOn, if_pos hs]
    · rw [exec_storeAcknowledged_head h, storeGoesOn, if_neg (by simp [hl, hs])]
      rfl

end Sys2Proof.Machine
end

section
/-! PROOFS. Atomics, reservations and conditional stores (R174, R175, R192, R195, Table 7.10). -/

namespace Sys2Proof.Machine

/-- A target in the steward's memories: a local store, Loam or HBM. -/
def stewardTarget (tg : Target) : Prop := (∃ q o, tg = .ls q o) ∨ ∃ b, tg = .gm b

/-- The steward's memories are Normal. -/
theorem regionType_steward {s : State} {p a : Nat} (h : stewardTarget (resolve s p a)) : regionType s p a = 0 := by
  rcases h with ⟨q, o, h⟩ | ⟨b, h⟩ <;> simp [regionType, h]

theorem stewardTarget_noDevice {tg : Target} (h : stewardTarget tg) (o : Nat) : tg ≠ .dev o := by
  rcases h with ⟨q, o, rfl⟩ | ⟨b, rfl⟩ <;> simp

/-- Operand size of an atomic in bytes. -/
def atomicSize (w : Word) : Nat := if fFunc w % 2 = 1 then 8 else 4

theorem atomicSize_cases (w : Word) : atomicSize w = 8 ∨ atomicSize w = 4 := by
  unfold atomicSize
  split <;> simp

/-- An aligned operand in the steward's memories lies within one 64 KiB of Normal memory. -/
theorem allNormal_steward {s : State} {p a n : Nat} (h : stewardTarget (resolve s p a)) (hn : n = 8 ∨ n = 4) (hal : a % n = 0) :
    allNormal s p a n = true := by
  have normal := regionType_steward h
  rcases hn with rfl | rfl
  · have fits : a + 8 ≤ (a / 0x10000 + 1) * 0x10000 := by omega
    simp [allNormal, List.range_succ, normal, fits]
  · have fits : a + 4 ≤ (a / 0x10000 + 1) * 0x10000 := by omega
    simp [allNormal, List.range_succ, normal, fits]

/-- The state in which an atomic has its effect: its access has been counted, and event 22 (Table 15.4). -/
def atomicCounted (u : State) (p k a : Nat) : State :=
  count (countAccess u p a (k ≠ 10)) 22 (grainOcc (countAccess u p a (k ≠ 10)) p (some a))

@[simp] theorem atomicCounted_keeps (u : State) (p k a : Nat) :
    getThread (atomicCounted u p k a) = getThread u ∧ resolve (atomicCounted u p k a) = resolve u := by
  simp [atomicCounted]

section
variable {s : State} {p : Fin 1088} {t : Fin 8} {w : Word} {k a n : Nat} (hw : runsWord s p t w = true) (hk : kindOf w = .atomic k)
  (hr : regsBusy (getThread s p t) (atomicRegs k w) = false) (ha : a = (gpr (getThread s p t) (fA w)).toNat) (hn : n = atomicSize w)
  (hst : stewardTarget (resolve (issued s p t) p a)) (hal : a % n = 0)
include hw hk hr ha hn hst hal

theorem atomicIssue_runs (hgo : reach (issued s p t) p a n (k ≠ 10) = 0) (body : State → Word → Nat → Nat → State) :
    atomicIssue p t k s body = body (atomicCounted (issued s p t) p k a) w a n := by
  have normal := allNormal_steward hst (hn ▸ atomicSize_cases w) hal
  have align : a % (if n = 256 then 64 else n) = 0 := by
    rcases atomicSize_cases w with h | h <;> simpa [hn, h] using hal
  have size : (if fFunc w % 2 = 1 then 8 else 4) = n := hn.symm
  rw [atomicIssue, issue_of_kind hw hk nofun hr]
  simp only [issued_keeps, ← ha, size]
  rcases hst with ⟨q, o, h⟩ | ⟨b, h⟩
  · simp only [h]
    exact guarded_goes align (by simp [normal]) hgo
  · simp only [h]
    exact guarded_goes align (by simp [normal]) hgo

/-- An atomic is performed at its endpoint after its thread's earlier stores. -/
theorem atomicInsn_performs (hgo : reach (issued s p t) p a n true = 0) (hk10 : k ≠ 10) {v f d : State}
    (hv : v = atomicCounted (issued s p t) p k a) (hb : badLineAt v p a n = none) (hh : heldOn v p t (fun _ => true) = false)
    (hf : f = issueOutbound (drainLinks v p t (fun l => l = 9)) p t)
    (hd : d = meet (forceScoped f p t (resolve f p a) n) (resolve f p a) n true) {old b c : Nat}
    (ho : old = ofLe (readTarget d (resolve f p a) n)) (hbv : b = (gpr (getThread d p t) (fB w)).toNat % 2 ^ (8 * n))
    (hc : c = (gpr (getThread d p t) (fC w)).toNat % 2 ^ (8 * n)) :
    atomicInsn p t k false s = modThread
      (if k = 9 ∧ old ≠ c then touchRsvs d (resolve f p a) n
        else writeTarget d (resolve f p a) (leBytes n (atomicNew k n old b c))) p t
      (fun x => advance (setGpr x (fD w) (BitVec.ofInt 64 (sext (8 * n) old)))) := by
  have device : ∀ o, resolve v p a ≠ .dev o := by
    rw [hv, (atomicCounted_keeps _ _ _ _).2]
    exact stewardTarget_noDevice hst
  rw [atomicInsn, atomicIssue_runs hw hk hr ha hn hst hal (by simpa [hk10] using hgo), ← hv]
  dsimp only
  rw [readGuard_goes hb device, if_neg (by simp [hh])]
  simp only [← hf, ← hd, ← ho, ← hbv, ← hc]

/-- LDR.RSV reads and sets its reservation. -/
theorem ldrRsvInsn_reads (hk10 : k = 10) (hgo : reach (issued s p t) p a n false = 0) {v : State}
    (hv : v = atomicCounted (issued s p t) p k a) (hb : badLineAt v p a n = none) :
    ldrRsvInsn p t false s = modThread (setRsv (loadBytes v p t a n).2 p t a) p t
      (fun x => advance (setGpr x (fD w) (BitVec.ofInt 64 (sext (8 * n) (ofLe (loadBytes v p t a n).1))))) := by
  have device : ∀ o, resolve v p a ≠ .dev o := by
    rw [hv, (atomicCounted_keeps _ _ _ _).2]
    exact stewardTarget_noDevice hst
  subst hk10
  rw [ldrRsvInsn, atomicIssue_runs hw hk hr ha hn hst hal hgo, ← hv]
  dsimp only
  rw [readGuard_goes hb device]

section
variable (hk11 : k = 11) (hgo : reach (issued s p t) p a n true = 0) {v f : State}
  (hv : v = atomicCounted (issued s p t) p k a) (hh : heldOn v p t (fun l => l = 9) = false)
  (hf : f = forceScoped v p t (resolve v p a) n)
include hk11 hgo hv hh hf

/-- STC whose thread holds no reservation on the granule fails. -/
theorem stcInsn_unreserved (hrs : rsvHeld f p t a = false) : stcInsn p t s =
    modThread (count (dropOwnRsv f p t) 23 (grainOcc (dropOwnRsv f p t) p (some a))) p t
      (fun x => advance (setGpr x (fD w) 1)) := by
  subst hk11
  rw [stcInsn, atomicIssue_runs hw hk hr ha hn hst hal hgo, ← hv]
  simp only [hh, ← hf, hrs, Bool.false_eq_true, if_false]

variable (hrs : rsvHeld f p t a = true) {d : State} (hd : d = drainLinks f p t (fun l => l = 9))
include hrs hd

/-- So does one whose thread's own earlier stores take the reservation away. -/
theorem stcInsn_cleared (hc : rsvHeld d p t a = false) : stcInsn p t s =
    modThread (count (dropOwnRsv d p t) 23 (grainOcc (dropOwnRsv d p t) p (some a))) p t
      (fun x => advance (setGpr x (fD w) 1)) := by
  subst hk11
  rw [stcInsn, atomicIssue_runs hw hk hr ha hn hst hal hgo, ← hv]
  simp only [hh, ← hf, hrs, ← hd, hc, Bool.false_eq_true, if_false, if_true]

/-- Where the reservation stands the store is performed. -/
theorem stcInsn_stores (hc : rsvHeld d p t a = true) : stcInsn p t s =
    modThread (writeTarget (meet (dropOwnRsv d p t) (resolve v p a) n true) (resolve v p a)
      (leBytes n (gpr (getThread (dropOwnRsv d p t) p t) (fB w)).toNat)) p t (fun x => advance (setGpr x (fD w) 0)) := by
  subst hk11
  rw [stcInsn, atomicIssue_runs hw hk hr ha hn hst hal hgo, ← hv]
  simp only [hh, ← hf, hrs, ← hd, hc, Bool.false_eq_true, if_false, if_true]

end

end

/-- Settles O35: the operations of Table 7.10, LDR.RSV, STC, and the new values. -/
theorem atomicsAndReservations : Obligations.AtomicsAndReservations := by
  refine ⟨fun s p t w k hw hk hr => ?_, fun n m b c => ⟨rfl, rfl, rfl, rfl, rfl⟩⟩
  refine ⟨?performed, ?reserved, ?conditional⟩
  case performed =>
    intro i hst hal hgo hi hb hh
    have row : exec i s = done (atomicInsn p t k false s) ∧ k ≠ 10 := by
      simp only [List.mem_cons, Prod.mk.injEq, List.not_mem_nil, or_false] at hi
      rcases hi with ⟨rfl, rfl⟩ | ⟨rfl, rfl⟩ | ⟨rfl, rfl⟩ | ⟨rfl, rfl⟩ | ⟨rfl, rfl⟩ | ⟨rfl, rfl⟩ | ⟨rfl, rfl⟩ | ⟨rfl, rfl⟩
        | ⟨rfl, rfl⟩ | ⟨rfl, rfl⟩ <;> exact ⟨rfl, by decide⟩
    exact row.1.trans (congrArg done (atomicInsn_performs hw hk hr rfl rfl hst hal hgo row.2 rfl hb hh rfl rfl rfl rfl rfl))
  case reserved => exact fun hst hal hgo hk10 hb => congrArg done (ldrRsvInsn_reads hw hk hr rfl rfl hst hal hk10 hgo rfl hb)
  case conditional =>
    intro hst hal hgo hk11 hh
    exact ⟨fun h => congrArg done (stcInsn_unreserved hw hk hr rfl rfl hst hal hk11 hgo rfl hh rfl h),
      fun h hc => congrArg done (stcInsn_cleared hw hk hr rfl rfl hst hal hk11 hgo rfl hh rfl h rfl hc),
      fun h hc => congrArg done (stcInsn_stores hw hk hr rfl rfl hst hal hk11 hgo rfl hh rfl h rfl hc)⟩

end Sys2Proof.Machine
end

section
/-! PROOFS. Tile instructions (R165 to R171, Tables 7.6 to 7.8): their issue into the queue, their start, their completion, and TSYNC. -/

namespace Sys2Proof.Machine

/-! ### Issue into the queue (R165, R166) -/

@[simp] theorem tileAddr_issued (s : State) (p t : Nat) : tileAddr (issued s p t) = tileAddr s := by
  funext q a n
  simp only [tileAddr, resolve_issued]

/-- An operand that a form does not name has address 0. -/
theorem tileSide {c : Prop} [Decidable c] {a : Nat} {x : Nat ⊕ Nat} (h : if c then a = 0 else x = .inl a) :
    (if c then .inl 0 else x) = .inl a := by
  split_ifs at h ⊢
  · rw [h]
  · exact h

section
variable {s : State} {p : Fin 1088} {t : Fin 8} {w : Word} {k : Nat} {top sizeA sizeB : Word → Nat} (hw : runsWord s p t w = true)
  (hk : kindOf w = .tile k) (hr : regsBusy (getThread s p t) (tileRegs k w) = false)
include hw hk hr

/-- With the queue full, or an earlier store held, the thread does not issue. -/
theorem tileIssue_waits (h : tileQueueFull (issued s p t) p = true ∨ heldOn (issued s p t) p t (fun l => l = 9) = true) :
    tileIssue top sizeA sizeB k p t s = s := by
  rw [tileIssue, issue_of_kind hw hk nofun hr]
  exact if_pos h

/-- Otherwise it joins the queue with its operand addresses. -/
theorem tileIssue_enqueues (hq : tileQueueFull (issued s p t) p = false) (hh : heldOn (issued s p t) p t (fun l => l = 9) = false)
    {a b : Nat} (ha : if sizeA w = 0 then a = 0 else tileAddr s p (gpr (getThread s p t) (tA w)).toNat (1024 * sizeA w) = .inl a)
    (hb : if sizeB w = 0 then b = 0 else tileAddr s p (gpr (getThread s p t) (tB w)).toNat (1024 * sizeB w) = .inl b) :
    tileIssue top sizeA sizeB k p t s =
      enqueue (if top w = 0 then issued s p t else count (issued s p t) (top w) (grainOcc (issued s p t) p)) p t w a b := by
  rw [tileIssue, issue_of_kind hw hk nofun hr, if_neg (by simp [hq, hh])]
  simp only [issued_keeps, tileAddr_issued, tileSide ha, tileSide hb]

end

/-- Each row that enters the queue is an issue with its own event and operand sizes. -/
theorem tile_rows {s : State} {p : Fin 1088} {t : Fin 8} {w : Word} {i : Instr} {k sizeA sizeB ev : Nat}
    (h : (k, sizeA, sizeB, ev, i) ∈ [(0, 0, 0, 0, Instr.tzero p t), (1, tloadSize (tFmt w), 0, 0, .tload p t),
      (2, tstoreSize (tFmt w), 0, 0, .tstore p t),
      (3, tmmaSize (tFmt w), tmmaSize (tFmt w), if tFmt w = 8 then 7 else 6, .tmma p t), (5, 0, 0, 0, .tfclr p t)]) :
    ∃ top a b : Word → Nat, exec i s = done (tileIssue top a b k p t s) ∧ top w = ev ∧ a w = sizeA ∧ b w = sizeB := by
  simp only [List.mem_cons, Prod.mk.injEq, List.not_mem_nil, or_false] at h
  rcases h with ⟨rfl, rfl, rfl, rfl, rfl⟩ | ⟨rfl, rfl, rfl, rfl, rfl⟩ | ⟨rfl, rfl, rfl, rfl, rfl⟩ | ⟨rfl, rfl, rfl, rfl, rfl⟩
    | ⟨rfl, rfl, rfl, rfl, rfl⟩
  · exact ⟨noOp, noOp, noOp, rfl, rfl, rfl, rfl⟩
  · exact ⟨noOp, fun w => tloadSize (tFmt w), noOp, rfl, rfl, rfl, rfl⟩
  · exact ⟨noOp, fun w => tstoreSize (tFmt w), noOp, rfl, rfl, rfl, rfl⟩
  · exact ⟨fun w => if tFmt w = 8 then 7 else 6, fun w => tmmaSize (tFmt w), fun w => tmmaSize (tFmt w), rfl, rfl, rfl, rfl⟩
  · exact ⟨noOp, noOp, noOp, rfl, rfl, rfl, rfl⟩

/-! ### Completion (R168) -/

/-- The started instruction of a pipe leaves the queue with its effect. -/
theorem exec_tileInstructionComplete_started {s : State} {p : Fin 1088} {m : Bool} {o : TileOp}
    (h : (getGrain s p).queue.find? (fun o => o.started && o.mul = m) = some o) :
    let u := setGrain s p { getGrain s p with queue := (getGrain s p).queue.filter (fun x => !(x.started && x.mul = m)) }
    let e := tileEffect (tileMeets u p o) p o
    exec (.tileInstructionComplete p m) s = .next (settle (recheck (modThread e.1 p o.thread (fun x =>
      { x with tileOps := x.tileOps - 1, tileErrs := if e.2 && x.live then x.tileErrs ++ [o.tile] else x.tileErrs })) p o.thread)) := by
  change done (tileComplete p m s) = _
  simp only [tileComplete, h, done]
  rfl

theorem tileEffect_tmma_mismatch {s : State} {p : Nat} {o : TileOp} (ht : o.top = 3)
    (hm : tmmaMatch o.fmt (getTile (getGrain s p) o.tile) = false) : tileEffect s p o = (s, true) := by
  simp only [tileEffect, ht, hm, Bool.false_eq_true, if_false]

theorem tileEffect_tzero {s : State} {p : Nat} {o : TileOp} (ht : o.top = 0) : tileEffect s p o =
    (setGrain s p (setTile (getGrain s p) o.tile { int40 := o.fmt = 1 }), false) := by
  simp only [tileEffect, ht]
  rfl

/-! ### TSYNC -/

section
variable {s : State} {p : Fin 1088} {t : Fin 8} {w : Word} (hw : runsWord s p t w = true) (hk : kindOf w = .tile 4)
include hw hk

/-- TSYNC is counted, and its thread waits until it is looked at. -/
theorem exec_tsync_waits : exec (.tsync p t) s = .next (settle (recheck
    (setThread (count (issued s p t) 5 (grainOcc (issued s p t) p)) p t { getThread s p t with wait := .tsync }) p t)) := by
  change done (tsyncInsn p t s) = _
  rw [tsyncInsn, issue_of_kind hw hk nofun (regsBusy_nil _)]
  simp only [modThread, count_keeps, issued_keeps, done]

end

/-- A thread at TSYNC goes on once no tile instruction of its is in progress. -/
theorem recheck_tsync {s : State} {p t : Nat} {th : Thread} :
    recheck (setThread s p t { th with wait := .tsync }) p t =
      if th.tileOps = 0 then setThread (setThread s p t { th with wait := .tsync }) p t (advance { th with wait := .ready })
      else setThread s p t { th with wait := .tsync } := by
  simp [recheck, retireTo]

/-- Settles O32: the rows that enter the queue, the start, the completion, and TSYNC. -/
theorem tileInstructions : Obligations.TileInstructions := by
  refine ⟨?rows, fun s p => rfl, fun s p m o h => exec_tileInstructionComplete_started h,
    fun s p o ht hm => tileEffect_tmma_mismatch ht hm, fun s p o ht => tileEffect_tzero ht, ?tsync⟩
  case rows =>
    intro s p t w i k sizeA sizeB ev hw hi hk hr
    obtain ⟨top, a, b, row, rfl, rfl, rfl⟩ := tile_rows (s := s) hi
    refine ⟨fun h => ?_, fun x y hq hh hx hy => ?_⟩
    · rw [row, tileIssue_waits hw hk hr h, done]
    · rw [row, tileIssue_enqueues hw hk hr hq hh hx hy, done]
  case tsync =>
    intro s p t w hw hk u th
    refine ⟨fun h => ?_, fun h => ?_⟩
    · rw [exec_tsync_waits hw hk, recheck_tsync, if_pos h]
    · rw [exec_tsync_waits hw hk, recheck_tsync, if_neg h]

end Sys2Proof.Machine
end

section
/-! PROOFS. What performing a thread's stores leaves of every thread (R181, R182): its XVEC, and whether an exception of it is active. -/

namespace Sys2Proof.Machine

/-- XVEC of each thread, by its key, and whether an exception of it is active. -/
def handlers (s : State) (k : Nat) : Dword × Bool :=
  ((KMap.get (fun _ => ({} : Thread)) s.garr.threads k).xvec, (KMap.get (fun _ => ({} : Thread)) s.garr.threads k).xactive)

theorem handlers_thread (s : State) (p t : Nat) :
    handlers s (p * 8 + t) = ((getThread s p t).xvec, (getThread s p t).xactive) := rfl

section
variable (s : State)

/-- A thread that takes a new state with the same XVEC and exception. -/
theorem handlers_setThread {p t : Nat} {x : Thread} (hv : x.xvec = (getThread s p t).xvec) (ha : x.xactive = (getThread s p t).xactive) :
    handlers (setThread s p t x) = handlers s := by
  funext k
  simp only [handlers, setThread, KMap.get_set]
  split
  · next h => rw [h, hv, ha, getThread]
  · rfl

theorem handlers_modThread (p t : Nat) (f : Thread → Thread) (hf : ∀ x, (f x).xvec = x.xvec ∧ (f x).xactive = x.xactive) :
    handlers (modThread s p t f) = handlers s :=
  handlers_setThread s (hf _).1 (hf _).2

theorem handlers_dropOwnRsv (p t : Nat) : handlers (dropOwnRsv s p t) = handlers s :=
  handlers_modThread s p t (fun th => { th with rsv := none }) (fun _ => ⟨rfl, rfl⟩)

theorem handlers_dropRsvs (lo hi : Nat) : handlers (dropRsvs s lo hi) = handlers s := by
  have cleared (l : List Rsv) :
      handlers (l.foldl (fun s r => modThread s r.grain r.thread (fun t => { t with rsv := none })) s) = handlers s := by
    refine foldl_keeps handlers (fun u r => ?_) l s
    exact handlers_modThread u r.grain r.thread (fun t => { t with rsv := none }) (fun _ => ⟨rfl, rfl⟩)
  unfold dropRsvs
  exact cleared _

theorem handlers_touchRsvs (tg : Target) (n : Nat) : handlers (touchRsvs s tg n) = handlers s := by
  cases tg
  case ls => exact handlers_dropRsvs s _ _
  case gm => exact handlers_dropRsvs s _ _
  all_goals rfl

theorem handlers_wakeWaits (p : Nat) : handlers (wakeWaits s p) = handlers s := by
  refine foldl_keeps handlers (fun u t => ?_) _ s
  dsimp only
  split
  · split
    · rfl
    · exact handlers_setThread u rfl rfl
  · rfl

theorem handlers_writeTarget (tg : Target) (bs : List Byte) : handlers (writeTarget s tg bs) = handlers s := by
  unfold writeTarget
  split
  · rfl
  · split
    · exact (handlers_wakeWaits _ _).trans (handlers_touchRsvs _ _ _)
    · exact handlers_touchRsvs _ _ _
    all_goals rfl

/-! ### Pieces of accesses in progress -/

theorem handlers_copyPiece (p t k i : Nat) : handlers (copyPiece s p t k i) = handlers s := by
  unfold copyPiece
  split
  · rfl
  · split
    · rfl
    · dsimp only
      split
      · rfl
      · exact (handlers_writeTarget _ _ _).trans (handlers_modThread (drawFree s).2 p t _ (fun _ => ⟨rfl, rfl⟩))

theorem handlers_tilePiece (p k i : Nat) : handlers (tilePiece s p k i) = handlers s := by
  unfold tilePiece
  split
  · rfl
  · split
    · rfl
    · dsimp only
      split
      · rfl
      · exact handlers_writeTarget _ _ _

theorem handlers_tileCapture (p k off : Nat) : handlers (tileCapture s p k off) = handlers s := by
  unfold tileCapture
  dsimp only
  split <;> rfl

theorem handlers_meetTiles (tg : Target) (n : Nat) (write : Bool) : handlers (meetTiles s tg n write) = handlers s := by
  cases tg
  case ls p off =>
    refine foldl_keeps handlers (fun u k => ?_) _ s
    split
    · rfl
    · split
      · rfl
      · split
        · exact foldl_keeps handlers (fun v i => handlers_tilePiece v p k i) _ u
        · split
          · exact foldl_keeps handlers (fun v r => foldl_keeps handlers (fun x i => handlers_tileCapture x p k _) _ v) _ u
          · rfl
  all_goals rfl

theorem handlers_meetVectors (tg : Target) (n : Nat) : handlers (meetVectors s tg n) = handlers s := by
  refine foldl_keeps handlers (fun u e => ?_) _ s
  dsimp only
  split
  · split
    · exact handlers_modThread (drawFree u).2 _ _ _ (fun _ => ⟨rfl, rfl⟩)
    · rfl
  · rfl

theorem handlers_meet (tg : Target) (n : Nat) (write : Bool) : handlers (meet s tg n write) = handlers s := by
  have copies : handlers (meetCopies s tg n write) = handlers s :=
    foldl_keeps handlers (fun u e => handlers_copyPiece u _ _ _ _) _ s
  have tiles := (handlers_meetTiles (meetCopies s tg n write) tg n write).trans copies
  unfold meet
  dsimp only
  split
  · exact (handlers_meetVectors _ tg n).trans tiles
  · exact tiles

/-! ### Stores -/

theorem handlers_performOne (p t : Nat) (st : PendStore) : handlers (performOne s p t st) = handlers s := by
  have taken := handlers_modThread s p t (fun th => { th with stores := th.stores.erase st }) (fun _ => ⟨rfl, rfl⟩)
  unfold performOne performStore
  dsimp only
  split
  · exact ((handlers_writeTarget _ _ _).trans (handlers_meet _ _ _ _)).trans taken
  · refine ((foldl_keeps handlers (fun u i => ?_) _ _).trans (handlers_meet _ _ _ _)).trans taken
    split
    · exact handlers_writeTarget u _ _
    · rfl

theorem handlers_performIn (p t : Nat) (st : PendStore) : handlers (performIn s p t st) = handlers s := by
  have forced : handlers (forceScoped s p t (resolve s p st.addr) st.bytes.length) = handlers s := by
    refine foldl_keeps handlers (fun u i => ?_) _ s
    dsimp only
    split
    · rfl
    · split
      · rfl
      · exact foldl_keeps handlers (fun v x => handlers_performOne v _ _ x) _ u
  exact (handlers_performOne _ p t st).trans forced

theorem handlers_drainThread (p t : Nat) : handlers (drainThread s p t) = handlers s :=
  foldl_keeps handlers (fun u st => handlers_performIn u p t st) _ s

end

end Sys2Proof.Machine
end

section
/-! PROOFS. System registers, XRET, BRK, END, and taking an exception (R171, R176, R181 to R187, Tables 7.11 to 7.14). -/

namespace Sys2Proof.Machine

/-! ### System registers (R187, Table 7.14) -/

/-- What SYSR gives of an index. -/
def sysrValue (s : State) (p t i : Nat) : Dword :=
  match i with
  | 0 => BitVec.ofNat 64 t
  | 1 => BitVec.ofNat 64 (launchCycles s p)
  | 2 => (getThread s p t).xvec
  | 3 => if (getThread s p t).xactive then 1 else 0
  | 4 => BitVec.ofNat 64 (tflags (getGrain s p))
  | 5 => BitVec.ofNat 64 (copyPending (getThread s p t))
  | 6 => match (getThread s p t).rsv with | some r => BitVec.ofNat 64 (r * 64 + 1) | none => 0
  | _ => 0

/-- An issue leaves what the system registers show. -/
@[simp] theorem sysr_issued (s : State) (p t : Nat) : launchCycles (issued s p t) p = launchCycles s p
    ∧ tflags (getGrain (issued s p t) p) = tflags (getGrain s p) := by
  simp [launchCycles, grainLaunch, findLaunch, grainCycles, tflags, getTile]

section
variable {s : State} {p : Fin 1088} {t : Fin 8} {w : Word} (hw : runsWord s p t w = true)
include hw

section
variable (hk : kindOf w = .sys 0x10)
include hk

theorem exec_sysr_gives {i : Nat} (hi : fC w = i) (hq : i = 4 → (getGrain s p).queue = []) : exec (.sysr p t) s =
    .next (settle (setThread (issued s p t) p t (advance (setGpr (getThread s p t) (fD w) (sysrValue s p t i))))) := by
  change done (sysrInsn p t s) = _
  rw [sysrInsn, issue_of_kind hw hk nofun (regsBusy_nil _)]
  simp only [hi, issued_keeps, issued_grain, sysr_issued, retireTo, done]
  split
  case h_5 => simp [hq rfl, sysrValue]
  case h_8 => rw [sysrValue] <;> assumption
  all_goals rfl

/-- TFLAGS waits for the tile instructions of the grain (R171). -/
theorem exec_sysr_waits (hi : fC w = 4) (hq : (getGrain s p).queue ≠ []) : exec (.sysr p t) s = .next (settle s) := by
  change done (sysrInsn p t s) = _
  rw [sysrInsn, issue_of_kind hw hk nofun (regsBusy_nil _)]
  simp [hi, hq, done]

end

section
variable (hk : kindOf w = .sys 0x11) (hr : regsBusy (getThread s p t) [fA w] = false)
include hk hr

theorem exec_sysw_xvec (hi : fC w = 2) : exec (.sysw p t) s = .next (settle (setThread (issued s p t) p t
    (advance { getThread s p t with xvec := gpr (getThread s p t) (fA w) }))) := by
  change done (syswInsn p t s) = _
  rw [syswInsn, issue_of_kind hw hk nofun hr]
  simp only [hi, if_true, retireTo, issued_keeps, done]

theorem exec_sysw_other (hi : fC w ≠ 2) :
    exec (.sysw p t) s = .next (settle (takeExc (issued s p t) p t 1 w.toNat 0)) := by
  change done (syswInsn p t s) = _
  rw [syswInsn, issue_of_kind hw hk nofun hr]
  simp only [hi, if_false, done]

end

/-! ### XRET, BRK and END -/

section
variable (hk : kindOf w = .sys 0x18)
include hk

theorem exec_xret_outside (hx : (getThread s p t).xactive = false) :
    exec (.xret p t) s = .next (settle (takeExc (issued s p t) p t 1 w.toNat 0)) := by
  change done (xretInsn p t s) = _
  rw [xretInsn, issue_of_kind hw hk nofun (regsBusy_nil _)]
  simp only [issued_keeps, hx, Bool.not_false, if_true, done]

theorem exec_xret_returns (hx : (getThread s p t).xactive = true) :
    let d := drainThread (issued s p t) p t
    exec (.xret p t) s = .next (settle (modThread d p t (fun x =>
      { setGpr x 31 (BitVec.ofNat 64 (ofLe (lsRead d p (frameBase t + 0x18) 8))) with
        xactive := false, pc := BitVec.ofNat 64 (ofLe (lsRead d p (frameBase t + 8) 8)) }))) := by
  change done (xretInsn p t s) = _
  rw [xretInsn, issue_of_kind hw hk nofun (regsBusy_nil _)]
  simp only [issued_keeps, hx, Bool.not_true, Bool.false_eq_true, if_false, done]

end

theorem exec_brk_breaks (hk : kindOf w = .sys 0x19) :
    exec (.brk p t) s = .next (settle (takeExc (issued s p t) p t 6 w.toNat 0)) := by
  change done (brkInsn p t s) = _
  rw [brkInsn, issue_of_kind hw hk nofun (regsBusy_nil _), done]

theorem exec_endThread_waits (hk : kindOf w = .sys 0x1A) : exec (.endThread p t) s =
    .next (settle (recheck (setThread (issued s p t) p t { getThread s p t with wait := .ending }) p t)) := by
  change done (endInsn p t s) = _
  rw [endInsn, issue_of_kind hw hk nofun (regsBusy_nil _)]
  simp only [modThread, issued_keeps, done]

/-- A thread that runs an instruction has no TILE_MODE to take. -/
theorem runsWord_tileErrs : (getThread s p t).tileErrs = [] := by
  simp only [runsWord, Bool.and_eq_true, List.isEmpty_iff] at hw
  exact hw.1.1.1.2

end

/-- GSYNC ends no thread. -/
theorem gsyncCheck_live (s : State) (p v : Nat) : (getThread (gsyncCheck s p) p v).live = (getThread s p v).live := by
  have released (u : State) (x : Nat) :
      (getThread (retireTo u p x { getThread u p x with wait := .ready }) p v).live = (getThread u p v).live := by
    by_cases h : v = x <;> simp [retireTo, advance, h]
  refine foldl_keeps (fun u => (getThread u p v).live) (fun u x => ?_) _ s
  split
  · split
    · rfl
    · refine foldl_keeps (fun u => (getThread u p v).live) (fun u' y => ?_) _ u
      split
      · split
        · exact released u' y
        · rfl
      · rfl
  · rfl

/-- A thread at END with nothing left ends (R184). -/
theorem recheck_ends {s : State} {p t : Nat} (hw : (getThread s p t).wait = .ending) (hs : (getThread s p t).stores = [])
    (ho : (getThread s p t).tileOps = 0) (hc : (getThread s p t).copies = []) (ht : (getThread s p t).tileErrs = [])
    (he : (getThread s p t).copyErr = none) (hp : (getThread s p t).postErr = none) :
    (getThread (recheck s p t) p t).live = false := by
  have drained : drainLinks s p t (fun l => l = 9) = s := by simp [drainLinks, hs, openStores]
  simp only [recheck, hw]
  rw [gsyncCheck_live]
  simp [endThreadNow, drained, hs, ho, hc, ht, he, hp]

/-! ### Taking an exception (R181 to R183, Table 7.13) -/

/-- The frame of an exception. -/
def excFrame (th : Thread) (cause insn addr : Nat) : List Byte :=
  leBytes 4 cause ++ leBytes 4 insn ++ leBytes 8 th.pc.toNat ++ leBytes 8 addr ++ leBytes 8 (gpr th 31).toNat

theorem excFrame_length (th : Thread) (cause insn addr : Nat) : (excFrame th cause insn addr).length = 32 := by
  simp [excFrame, leBytes]

/-- Clearing reservations writes no memory. -/
theorem dropRsvs_mem (s : State) (lo hi : Nat) : (dropRsvs s lo hi).mem = s.mem := by
  have cleared (l : List Rsv) :
      (l.foldl (fun s r => modThread s r.grain r.thread (fun t => { t with rsv := none })) s).mem = s.mem := by
    refine foldl_keeps State.mem (fun u r => ?_) l s
    rfl
  exact cleared _

/-- Bytes written to a local store are read back, whatever their write touches of reservations and sleeping threads. -/
theorem lsRead_writeTarget (s : State) (p off : Nat) (bs : List Byte) :
    lsRead (writeTarget s (.ls p off) bs) p off bs.length = bs := by
  by_cases hb : bs = []
  · rw [hb]
    rfl
  have touched : (touchRsvs (lsWrite s p off bs) (.ls p off) bs.length).mem = (lsWrite s p off bs).mem :=
    dropRsvs_mem _ _ _
  have woken : (writeTarget s (.ls p off) bs).mem = (lsWrite s p off bs).mem := by
    rw [writeTarget, if_neg hb]
    refine (foldl_keeps State.mem (fun u t => ?_) _ _).trans touched
    dsimp only
    split
    · split <;> rfl
    · rfl
  have read := lsRead_lsWrite s p off bs
  rwa [lsRead, ← woken] at read

@[simp] theorem getThread_dropOwnRsv (s : State) (p t v : Nat) : getThread (dropOwnRsv s p t) p v =
    if v = t then { getThread s p t with rsv := none } else getThread s p v :=
  getThread_modThread s p t v (fun th => { th with rsv := none })

/-- Retiring loads leaves XVEC and the exception as they are. -/
theorem retireAll_handler (th : Thread) : (retireAll th).xvec = th.xvec ∧ (retireAll th).xactive = th.xactive := by
  have folded (l : List PendLoad) : ∀ x : Thread, (l.foldl (fun th l => setGpr th l.reg l.value) x).xvec = x.xvec
      ∧ (l.foldl (fun th l => setGpr th l.reg l.value) x).xactive = x.xactive := by
    induction l with
    | nil => exact fun x => ⟨rfl, rfl⟩
    | cons e l ih =>
      intro x
      rw [List.foldl_cons, (ih _).1, (ih _).2]
      unfold setGpr
      split <;> exact ⟨rfl, rfl⟩
  exact folded th.loads th

/-- A thread's state as it takes an exception: its stores performed, its reservation gone, its loads retired. -/
def excThread (s : State) (p t : Nat) : Thread := retireAll (getThread (dropOwnRsv (drainThread s p t) p t) p t)

/-- The block in that state. -/
def excState (s : State) (p t : Nat) : State :=
  setThread (dropOwnRsv (drainThread s p t) p t) p t { excThread s p t with wait := .ready }

theorem excThread_handler (s : State) (p t : Nat) :
    (excThread s p t).xvec = (getThread s p t).xvec ∧ (excThread s p t).xactive = (getThread s p t).xactive := by
  obtain ⟨vec, act⟩ := retireAll_handler (getThread (dropOwnRsv (drainThread s p t) p t) p t)
  have kept := congrFun ((handlers_dropOwnRsv (drainThread s p t) p t).trans (handlers_drainThread s p t)) (p * 8 + t)
  rw [handlers_thread, handlers_thread, Prod.mk.injEq] at kept
  exact ⟨vec.trans kept.1, act.trans kept.2⟩

theorem handlers_excState (s : State) (p t : Nat) : handlers (excState s p t) = handlers s := by
  obtain ⟨vec, act⟩ := retireAll_handler (getThread (dropOwnRsv (drainThread s p t) p t) p t)
  have ready := handlers_setThread _ (x := { excThread s p t with wait := .ready }) vec act
  exact ready.trans ((handlers_dropOwnRsv _ p t).trans (handlers_drainThread s p t))

/-- With a handler and no exception active, the frame is written and the thread goes on at XVEC. -/
theorem takeExc_handled {s : State} {p t : Nat} (hv : (getThread s p t).xvec ≠ 0) (ha : (getThread s p t).xactive = false)
    (cause insn addr : Nat) : takeExc s p t cause insn addr = modThread
      (writeTarget (count (excState s p t) 13 (grainOcc (excState s p t) p)) (.ls p (frameBase t))
        (excFrame (excThread s p t) cause insn addr)) p t
      (fun th => { setGpr th 31 (BitVec.ofNat 64 (frameBase t)) with xactive := true, pc := th.xvec }) := by
  obtain ⟨vec, act⟩ := excThread_handler s p t
  have handled : ((excThread s p t).xvec = 0 || (excThread s p t).xactive) = false := by
    rw [vec, act, ha, Bool.or_false]
    exact decide_eq_false hv
  unfold excThread at handled
  unfold takeExc
  simp only [handled, Bool.false_eq_true, if_false]
  rfl

/-- A fatal exception ends a thread, of which its copies and tile instructions alone go on (R183). -/
def endOne (s : State) (p u : Nat) : State :=
  setThread (dropOwnRsv s p u) p u { live := false, copies := (getThread s p u).copies, tileOps := (getThread s p u).tileOps }

/-- It ends every thread of its grain. -/
def endThreads (s : State) (p : Nat) : State := (List.range 8).foldl (fun s u => endOne s p u) s

theorem endThreads_live (s : State) (p : Nat) {v : Nat} (hv : v < 8) : (getThread (endThreads s p) p v).live = false := by
  have ended (l : List Nat) : ∀ s : State, (getThread (l.foldl (fun s u => endOne s p u) s) p v).live =
      if v ∈ l then false else (getThread s p v).live := by
    induction l with
    | nil => simp
    | cons u l ih =>
      intro s
      rw [List.foldl_cons, ih]
      by_cases h : v = u <;> simp [endOne, h]
  exact (ended _ s).trans (if_pos (List.mem_range.mpr hv))

/-- With none, or with an exception active, the exception ends the grain's threads and fails its item. -/
theorem takeExc_fatal {s : State} {p t : Nat} (h : (getThread s p t).xvec = 0 ∨ (getThread s p t).xactive = true)
    (cause insn addr : Nat) : ∃ u : State,
      takeExc s p t cause insn addr = modGrain (endThreads u p) p (fun g => { g with itemFailed := true }) := by
  obtain ⟨vec, act⟩ := excThread_handler s p t
  have fatal : ((excThread s p t).xvec = 0 || (excThread s p t).xactive) = true := by
    rw [vec, act]
    rcases h with h | h <;> simp [h]
  unfold excThread at fatal
  unfold takeExc
  simp only [fatal, if_true]
  exact ⟨_, rfl⟩

/-- What a handled exception leaves of its thread. -/
theorem takeExc_handled_thread {s : State} {p t : Nat} (hv : (getThread s p t).xvec ≠ 0) (ha : (getThread s p t).xactive = false)
    (cause insn addr : Nat) : (getThread (takeExc s p t cause insn addr) p t).pc = (getThread s p t).xvec
      ∧ (getThread (takeExc s p t cause insn addr) p t).xactive = true
      ∧ gpr (getThread (takeExc s p t cause insn addr) p t) 31 = BitVec.ofNat 64 (frameBase t) := by
  have kept : handlers (writeTarget (count (excState s p t) 13 (grainOcc (excState s p t) p)) (.ls p (frameBase t))
      (excFrame (excThread s p t) cause insn addr)) = handlers s := by
    rw [handlers_writeTarget, ← handlers_excState s p t]
    funext k
    simp only [handlers, count_keeps]
  have vec := congrArg Prod.fst (congrFun kept (p * 8 + t))
  rw [handlers_thread, handlers_thread] at vec
  rw [takeExc_handled hv ha, getThread_modThread, if_pos rfl]
  refine ⟨vec, rfl, ?_⟩
  simp [gpr, setGpr]

/-- And of its grain's local store: with no store under way and no load outstanding, the frame of the thread as it was. -/
theorem takeExc_handled_frame {s : State} {p t : Nat} (hv : (getThread s p t).xvec ≠ 0) (ha : (getThread s p t).xactive = false)
    (hs : (getThread s p t).stores = []) (hl : (getThread s p t).loads = []) (cause insn addr : Nat) :
    lsRead (takeExc s p t cause insn addr) p (frameBase t) 32 = excFrame (getThread s p t) cause insn addr := by
  have drained : drainThread s p t = s := by simp [drainThread, drainLinks, hs, openStores]
  have frame : excFrame (excThread s p t) cause insn addr = excFrame (getThread s p t) cause insn addr := by
    simp [excFrame, excThread, drained, retireAll, hl, gpr]
  rw [takeExc_handled hv ha, frame]
  have read := lsRead_writeTarget (count (excState s p t) 13 (grainOcc (excState s p t) p)) p (frameBase t)
    (excFrame (getThread s p t) cause insn addr)
  rw [excFrame_length] at read
  simp only [modThread_keeps]
  exact read

/-- Settles O37: the system registers, XRET, BRK and END, then the two forms of an exception. -/
theorem systemRegistersAndExceptions : Obligations.SystemRegistersAndExceptions := by
  refine ⟨?rows, ?handled, ?fatal⟩
  case rows =>
    intro s p t w hw u th g ret
    refine ⟨fun hk => ?sysr, fun hk hr => ⟨exec_sysw_xvec hw hk hr, exec_sysw_other hw hk hr⟩,
      fun hk => ⟨exec_xret_outside hw hk, exec_xret_returns hw hk⟩, exec_brk_breaks hw, fun hk => ⟨exec_endThread_waits hw hk, ?ends⟩⟩
    case sysr =>
      refine ⟨fun h => ?_, fun l h hl => ?_, fun h => ?_, fun h => ?_, fun h hq => ?_, fun h hq => ?_, fun h => ?_, fun h => ?_,
        fun h => ?_⟩
      · rw [exec_sysr_gives hw hk h (by simp)]
        rfl
      · rw [exec_sysr_gives hw hk h (by simp)]
        simp only [sysrValue, launchCycles, hl]
        rfl
      · rw [exec_sysr_gives hw hk h (by simp)]
        rfl
      · rw [exec_sysr_gives hw hk h (by simp)]
        rfl
      · rw [exec_sysr_gives hw hk h (fun _ => hq)]
        rfl
      · exact exec_sysr_waits hw hk h hq
      · rw [exec_sysr_gives hw hk h (by simp)]
        rfl
      · rw [exec_sysr_gives hw hk h (by simp)]
        rfl
      · obtain ⟨n, hn⟩ : ∃ n, fC w = n + 7 := ⟨fC w - 7, by omega⟩
        rw [exec_sysr_gives hw hk hn (by omega)]
        rfl
    case ends =>
      intro ho hc he hp hs
      refine ⟨_, exec_endThread_waits hw hk, ?_⟩
      rw [settle_frame]
      exact recheck_ends (by simp) (by simpa using hs) (by simpa using ho) (by simpa using hc)
        (by simpa using runsWord_tileErrs hw) (by simpa using he) (by simpa using hp)
  case handled =>
    intro s p t cause insn addr _ hv ha hs hl u
    obtain ⟨hpc, hact, hframe⟩ := takeExc_handled_thread hv ha cause insn addr
    exact ⟨hpc, hact, hframe, takeExc_handled_frame hv ha hs hl cause insn addr⟩
  case fatal =>
    intro s p t cause insn addr _ h
    obtain ⟨u, hu⟩ := takeExc_fatal h cause insn addr
    rw [hu]
    exact ⟨fun v hv => by simpa using endThreads_live u p hv, by simp⟩

end Sys2Proof.Machine
end

section
/-! PROOFS. A copy that fails (R176): BCOPY_COMPLETE with an error takes the copy off its thread's list and then keeps the error, two
writes of the thread. They are one write wherever the thread map is in its canonical form, and not where its keys are out of order. -/

namespace Sys2Proof.Machine

/-! ### Two writes of a thread -/

section
variable {α : Type} (d : Nat → α)

theorem KMap.get_below {m : KMap α} {lo k : Nat} (hm : KMap.risingFrom lo m = true) (hk : k < lo) : KMap.get d m k = d k := by
  induction m generalizing lo with
  | nil => rfl
  | cons e m ih =>
    simp only [KMap.risingFrom, Bool.and_eq_true, decide_eq_true_eq] at hm
    rw [KMap.get, if_neg (by omega), ih hm.2 (by omega)]

/-- The first entry of a canonical map is the first that another of the same reading lists. -/
theorem KMap.head_le {m : KMap α} {k k' : Nat} {v v' : α} {m' : KMap α} (hm' : KMap.risingFrom k' ((k', v') :: m') = true)
    (hv : v ≠ d k) (h : ∀ j, KMap.get d ((k, v) :: m) j = KMap.get d ((k', v') :: m') j) : k' ≤ k := by
  by_contra hlt
  have read := h k
  rw [KMap.get_below d hm' (by omega)] at read
  exact hv (by simpa [KMap.get] using read)

/-- Rising maps without a default entry that read alike are equal. -/
theorem KMap.ext_of_rising {m m' : KMap α} {lo lo' : Nat} (hm : KMap.risingFrom lo m = true) (hm' : KMap.risingFrom lo' m' = true)
    (hd : ∀ e ∈ m, e.2 ≠ d e.1) (hd' : ∀ e ∈ m', e.2 ≠ d e.1) (h : ∀ k, KMap.get d m k = KMap.get d m' k) : m = m' := by
  induction m generalizing lo lo' m' with
  | nil =>
    cases m' with
    | nil => rfl
    | cons e m' => exact absurd (by simpa [KMap.get] using (h e.1).symm) (hd' e List.mem_cons_self)
  | cons e m ih =>
    cases m' with
    | nil => exact absurd (by simpa [KMap.get] using h e.1) (hd e List.mem_cons_self)
    | cons e' m' =>
      obtain ⟨k, v⟩ := e
      obtain ⟨k', v'⟩ := e'
      simp only [KMap.risingFrom, Bool.and_eq_true, decide_eq_true_eq] at hm hm'
      have le : k' ≤ k := KMap.head_le d (by simpa [KMap.risingFrom] using hm'.2) (hd _ List.mem_cons_self) h
      have ge : k ≤ k' := KMap.head_le d (by simpa [KMap.risingFrom] using hm.2) (hd' _ List.mem_cons_self) (fun j => (h j).symm)
      obtain rfl : k = k' := by omega
      have head : v = v' := by simpa [KMap.get] using h k
      have tails (j : Nat) : KMap.get d m j = KMap.get d m' j := by
        by_cases hj : j = k
        · rw [KMap.get_below d hm.2 (by omega), KMap.get_below d hm'.2 (by omega)]
        · simpa [KMap.get, hj] using h j
      rw [head, ih hm.2 hm'.2 (fun e he => hd e (List.mem_cons_of_mem _ he)) (fun e he => hd' e (List.mem_cons_of_mem _ he)) tails]

/-- In a canonical map a second write of a key is the only one. -/
theorem KMap.set_set [DecidableEq α] {m : KMap α} (hm : KMap.wf d m = true) (k : Nat) (u v : α) :
    KMap.set d (KMap.set d m k u) k v = KMap.set d m k v := by
  have twice := KMap.wf_set d _ k v (KMap.wf_set d m k u hm)
  have once := KMap.wf_set d m k v hm
  simp only [KMap.wf, Bool.and_eq_true, List.all_eq_true, decide_eq_true_eq] at twice once
  refine KMap.ext_of_rising d twice.1 once.1 twice.2 once.2 (fun j => ?_)
  simp only [KMap.get_set]
  split <;> rfl

end

/-- With the thread map in canonical form a second write of a thread is the only one. -/
theorem setThread_setThread {s : State} (hs : KMap.wf (fun _ => ({} : Thread)) s.garr.threads = true) (p t : Nat) (x y : Thread) :
    setThread (setThread s p t x) p t y = setThread s p t y := by
  simp only [setThread, KMap.set_set _ hs]

/-! ### The row -/

/-- BCOPY_COMPLETE with an error drops the oldest copy, and keeps the address unless one is kept already. -/
theorem exec_bcopyComplete_fails {s : State} {p : Fin 1088} {t : Fin 8} {c : PendCopy} {rest : List PendCopy}
    (hc : (getThread s p t).copies = c :: rest) (hh : copyHeld s p c = false) (a : Nat) :
    exec (.bcopyComplete p t (some a)) s = .next (settle (recheck (modThread (setThread s p t
      { getThread s p t with copies := rest }) p t (fun x => { x with copyErr := some (x.copyErr.getD a) })) p t)) := by
  change done (bcopyComplete p t (some a) s) = _
  simp only [bcopyComplete, hc, hh, Bool.false_eq_true, if_false, done]

/-- With the thread map in canonical form that is one write of the thread. -/
theorem exec_bcopyComplete_fails_canonical {s : State} (hs : KMap.wf (fun _ => ({} : Thread)) s.garr.threads = true) {p : Fin 1088}
    {t : Fin 8} {c : PendCopy} {rest : List PendCopy} (hc : (getThread s p t).copies = c :: rest) (hh : copyHeld s p c = false)
    (a : Nat) : exec (.bcopyComplete p t (some a)) s = .next (settle (recheck (setThread s p t
      { getThread s p t with copies := rest, copyErr := some ((getThread s p t).copyErr.getD a) }) p t)) := by
  rw [exec_bcopyComplete_fails hc hh, modThread, setThread_setThread hs, getThread_setThread, if_pos rfl]

/-- A copy of 64 bytes within a local store. -/
def shortCopy : PendCopy := { src := 0, dst := 64, len := 64 }

/-- A block whose thread map lists thread 5 of grain 0 before thread 3, which has ended with a copy under way. -/
def unorderedThreads : State :=
  { State.reset with garr := { threads := [(5, { live := true }), (3, { copies := [shortCopy] })] } }

/-- Looking at a thread that waits for nothing leaves the block as it is. -/
theorem recheck_ready {s : State} {p t : Nat} (h : (getThread s p t).wait = .ready) : recheck s p t = s := by
  simp only [recheck, h]

/-- Refutes O36: its clause of a copy that fails takes the two writes of the thread, without the copy and then with the error, for one
(`exec_bcopyComplete_fails`). In `unorderedThreads` the first write empties the thread's entry and the second puts a new one in its place
by key, before that of thread 5, where one write leaves the old entry behind it. Where the thread map is in canonical form the clause
holds (`exec_bcopyComplete_fails_canonical`), but the statement is of every state. -/
theorem not_copiesFencesAndWaits : ¬ Obligations.CopiesFencesAndWaits := by
  rintro ⟨⟨_, completes, _⟩, _⟩
  have copy : (getThread unorderedThreads (0 : Fin 1088) (3 : Fin 8)).copies = [shortCopy] := by decide
  have free : copyHeld unorderedThreads (0 : Fin 1088) shortCopy = false := by decide
  obtain ⟨_, _, fails⟩ := completes unorderedThreads 0 3 shortCopy [] copy
  have same := Host.Outcome.next.inj ((exec_bcopyComplete_fails copy free 0).symm.trans (fails 0 free))
  rw [recheck_ready (by decide), recheck_ready (by decide), settle_frame, settle_frame] at same
  exact absurd (congrArg (fun s => s.garr.threads) same) (by decide)

end Sys2Proof.Machine
end

section
/-! PROOFS. The end of a SPILL (R221, R232): a root that holds no valid copy any more comes before a failed line and before the write of
the image. -/

namespace Sys2Proof.Machine

/-! ### The row -/

section
variable {s : State} {c : Nat} {dma : Option Nat} {m : Move} {r : Stratum}

/-- A SPILL in its data stage that holds a seal context comes to its end. -/
theorem exec_stratumMoveEnd_spill (hm : findMove s c = some m) (hd : m.stage = .data) (hs : m.stopping = false)
    (hk : m.spoke = 8) (ho : m.op = 0x14) (hh : sealHolds s (sealWho c) = true) :
    exec (.stratumMoveEnd c dma) s = .next (settle (spillEnd s m dma)) := by
  change done (moveEnd c dma s) = _
  simp [moveEnd, done, hm, hd, hs, hk, ho, hh]

/-- A SPILL whose root holds no valid copy loses the stratum and completes DATA_ERROR with value 6, whatever else failed. -/
theorem spillEnd_rootBad (hr : findRec s m.handle = some r) (hc : currentCopy s r.root = none) :
    spillEnd s m dma = failMove (loseRec s r.handle) m (refuse .dataError 5 0x06) := by
  simp [spillEnd, hr, hc]

/-- With a valid copy, a failed line of the stratum completes it DATA_ERROR and is reported. -/
theorem spillEnd_badLine (hr : findRec s m.handle = some r) (hc : currentCopy s r.root ≠ none) (hb : hasBadLine s r.handle = true) :
    spillEnd s m dma = failMove (reportUe s (badLineOf s r.handle) r.handle) m { status := .dataError } := by
  simp [spillEnd, hr, hc, hb]

/-- With a valid copy and no failed line, so does an error of the image's write, which has used the SEQ. -/
theorem spillEnd_writeError (hr : findRec s m.handle = some r) (hc : currentCopy s r.root ≠ none)
    (hb : hasBadLine s r.handle = false) (a : Nat) : spillEnd s m (some a) =
      failMove (modTen s m.tenant (fun t => { t with spillSeq := t.spillSeq + 1 })) m (dmaWriteErr a) := by
  simp [spillEnd, hr, hc, hb]

end

/-! ### A SPILL without a root -/

/-- A stratum at home in the steward, whose root lies where nothing has been written. -/
def rootlessRec : Stratum := { handle := 0, home := .steward, shape := ⟨1, 1, 32, 2⟩ }

/-- A SPILL of it in its data stage. -/
def rootlessMove : Move := { cmd := 5, tenant := 7, spoke := 8, op := 0x14, raw := [], stage := .data }

/-- A block where that SPILL holds a seal context. -/
def rootlessSpill : State := { State.reset with
  strata := { recs := [rootlessRec], moves := [rootlessMove] }
  sealEng := { State.reset.sealEng with ctx0 := some ⟨sealWho 5, 1, false⟩ } }

/-- Refutes O39: its clauses of a SPILL leave out that the root holds a valid copy. In `rootlessSpill` it holds none, so that the stratum
becomes LOST and the SPILL completes DATA_ERROR (`spillEnd_rootBad`), where the statement has it homed in the host tier. With a valid
copy the failures are as stated (`spillEnd_badLine`, `spillEnd_writeError`). -/
theorem not_stratumTransfersEnd : ¬ Obligations.StratumTransfersEnd := by
  rintro ⟨_, _, _, spill, _⟩
  have found : findMove rootlessSpill 5 = some rootlessMove := by decide
  have record : findRec rootlessSpill rootlessMove.handle = some rootlessRec := by decide
  have holds : sealHolds rootlessSpill (sealWho 5) = true := by decide
  have invalid : currentCopy rootlessSpill rootlessRec.root = none := by decide
  obtain ⟨_, _, homed⟩ := spill rootlessSpill 5 rootlessMove rootlessRec found rfl rfl rfl rfl record holds
  obtain ⟨t, ht, homed, _⟩ := homed (by decide)
  rw [exec_stratumMoveEnd_spill found rfl rfl rfl rfl holds, spillEnd_rootBad record invalid] at ht
  have same : t.strata = (failMove (loseRec rootlessSpill rootlessRec.handle) rootlessMove (refuse .dataError 5 0x06)).strata := by
    simpa using (congrArg State.strata (Host.Outcome.next.inj ht)).symm
  have lost : (findRec t rootlessMove.handle).map (·.home) = some .lost := by
    rw [findRec, same]
    decide
  obtain ⟨x, hx, hl⟩ := Option.map_eq_some_iff.mp lost
  obtain ⟨hh, _⟩ := homed x hx
  exact absurd (hl.symm.trans hh) (by decide)

end Sys2Proof.Machine
end

section
/-! PROOFS. What a write of the steward's engines changes beside Loam and HBM (R189 item 5, R193, R195, log entry 12): where it meets a
copy in progress, the free value that orders the two decides. -/

namespace Sys2Proof.Machine

/-! ### No copy falls before the write -/

/-- Of the grain array states s and t differ in threads and reservations alone, and of the memories in Loam and HBM alone. -/
structure GmFrame (s t : State) : Prop where
  garr : t.garr = { s.garr with rsvs := t.garr.rsvs, threads := t.garr.threads }
  mem : t.mem = { s.mem with gm := t.mem.gm }

section
variable {s t u : State}

theorem gmFrame_refl (s : State) : GmFrame s s := ⟨rfl, rfl⟩

theorem gmFrame_trans (h : GmFrame s t) (h' : GmFrame t u) : GmFrame s u :=
  ⟨by rw [h'.garr, h.garr], by rw [h'.mem, h.mem]⟩

theorem gmFrame_of_eq (hg : t.garr = s.garr) (hm : t.mem = s.mem) : GmFrame s t := ⟨by rw [hg], by rw [hm]⟩

theorem gmFrame_ite {p : Prop} [Decidable p] (ht : GmFrame s t) (hu : GmFrame s u) : GmFrame s (if p then t else u) := by
  split
  · exact ht
  · exact hu

/-- A fold whose steps keep to the frame keeps to it. -/
theorem gmFrame_foldl {α : Type} {f : State → α → State} (hf : ∀ s a, GmFrame s (f s a)) (l : List α) (s : State) :
    GmFrame s (l.foldl f s) := by
  induction l generalizing s with
  | nil => exact gmFrame_refl s
  | cons a l ih => exact gmFrame_trans (hf s a) (ih (f s a))

end

theorem gmFrame_modThread (s : State) (p t : Nat) (f : Thread → Thread) : GmFrame s (modThread s p t f) := ⟨rfl, rfl⟩

theorem gmFrame_dropRsvs (s : State) (lo hi : Nat) : GmFrame s (dropRsvs s lo hi) := by
  have cleared : GmFrame s ((s.garr.rsvs.filter (fun r => lo ≤ r.granule && r.granule ≤ hi)).foldl
      (fun s r => modThread s r.grain r.thread (fun t => { t with rsv := none })) s) :=
    gmFrame_foldl (fun u r => gmFrame_modThread u _ _ _) _ s
  exact gmFrame_trans cleared ⟨rfl, rfl⟩

/-- A write at a resolved address of Loam or HBM keeps to the frame. -/
theorem gmFrame_writeTarget (s : State) (a : Nat) (bs : List Byte) : GmFrame s (writeTarget s (.gm a) bs) := by
  have written : GmFrame s (gmWrite s a bs) := ⟨rfl, rfl⟩
  exact gmFrame_ite (gmFrame_refl s) (gmFrame_trans written (gmFrame_dropRsvs _ _ _))

/-- So does what it meets of LDVs under way. -/
theorem gmFrame_meetVectors (s : State) (tg : Target) (n : Nat) : GmFrame s (meetVectors s tg n) := by
  refine gmFrame_foldl (fun u e => ?_) _ s
  dsimp only
  split
  · exact gmFrame_ite ⟨rfl, rfl⟩ ⟨rfl, rfl⟩
  · exact ⟨rfl, rfl⟩

/-- Every free value is even: no piece of an access in progress falls before an access that meets it. `Config.freeDword` has no body, so
that neither this nor its negation can be proved. -/
def DrawsEven : Prop := ∀ n, (Config.freeDword n).toNat % 2 = 0

/-- A copy in progress is left as it is by an even free value. -/
theorem gmFrame_copyPiece (hE : DrawsEven) (s : State) (p t k i : Nat) : GmFrame s (copyPiece s p t k i) := by
  unfold copyPiece
  split
  · exact ⟨rfl, rfl⟩
  · refine gmFrame_ite ⟨rfl, rfl⟩ ?_
    simp only [drawFree, hE s.freeCtr, if_true]
    exact ⟨rfl, rfl⟩

theorem gmFrame_meet (hE : DrawsEven) (s : State) (a n : Nat) : GmFrame s (meet s (.gm a) n true) := by
  have copies : GmFrame s (meetCopies s (.gm a) n true) := gmFrame_foldl (fun u _ => gmFrame_copyPiece hE u _ _ _ _) _ s
  exact gmFrame_trans copies (gmFrame_meetVectors _ _ n)

/-- So with even free values an engine's write keeps to the frame. -/
theorem gmFrame_agentWrite (hE : DrawsEven) (s : State) (a : Nat) (bs : List Byte) : GmFrame s (agentWrite s a bs) :=
  gmFrame_trans (gmFrame_meet hE s a bs.length) (gmFrame_writeTarget _ a bs)

/-- Whatever the free values, it leaves the stratum engine as it is. -/
theorem agentWrite_strata (s : State) (a : Nat) (bs : List Byte) : (agentWrite s a bs).strata = s.strata := by
  rw [agentWrite, (grainFrame_writeTarget _ _ _).eq, (grainFrame_meet s _ _ _).eq]

/-! ### A copy falls before the write -/

/-- A copy of 8 bytes at a grain address to the first bytes of the local store of the grain that issued it. -/
def copyOf (a : Nat) : PendCopy := { src := a, dst := 0, len := 8 }

/-- The only thread with a copy in progress is thread 0 of grain 0, and that copy is `copyOf a`. -/
def copying (s : State) (a : Nat) : Prop := s.garr.threads = [(0, { copies := [copyOf a] })]

section
variable {s : State} {a : Nat}

/-- The pieces of that copy that a write of n bytes at b meets. -/
theorem meetCopies_copying (hs : copying s a) (hr : resolve s 0 a = .gm a) (b n : Nat) :
    meetCopies s (.gm b) n true = (piecesIn (.gm a) 8 (.gm b) n).foldl (fun s i => copyPiece s 0 0 0 i) s := by
  have hd : resolve s 0 0 = .ls 0 0 := rfl
  have none (o : Nat) : piecesIn (.ls 0 o) 8 (.gm b) n = [] := by simp [piecesIn, place]
  rw [copying] at hs
  simp [meetCopies, hs, copyOf, hr, hd, none, List.foldl_map]

/-- A write that meets none of them changes nothing before it. -/
theorem meet_unmet (hs : copying s a) (hr : resolve s 0 a = .gm a) {b n : Nat} (hb : piecesIn (.gm a) 8 (.gm b) n = []) :
    meet s (.gm b) n true = s := by
  rw [copying] at hs
  simp [meet, meetTiles, meetCopies_copying hs hr, hb, meetVectors, hs]

/-- Waking a grain's threads writes no memory. -/
theorem wakeWaits_mem (s : State) (p : Nat) : (wakeWaits s p).mem = s.mem := by
  refine foldl_keeps State.mem (fun u t => ?_) _ s
  dsimp only
  split
  · split <;> rfl
  · rfl

/-- A write of a local store leaves the bytes that it writes there. -/
theorem writeTarget_ls (s : State) (p o : Nat) {bs : List Byte} (hb : bs ≠ []) :
    (writeTarget s (.ls p o) bs).mem.ls = KMap.writeN mem0 s.mem.ls (p * 0x40000 + o) bs := by
  rw [writeTarget, if_neg hb, wakeWaits_mem, touchRsvs, dropRsvs_mem]
  rfl

/-- The copy's only piece, where the free value is odd: its 8 bytes go to the local store. -/
theorem copyPiece_performs (hs : copying s a) (hr : resolve s 0 a = .gm a) (ho : (Config.freeDword s.freeCtr).toNat % 2 = 1) :
    (copyPiece s 0 0 0 0).mem.ls = KMap.writeN mem0 s.mem.ls 0 (gmRead s a 8) := by
  have hc : (getThread s 0 0).copies[0]? = some (copyOf a) := by
    rw [copying] at hs
    simp [getThread, hs, KMap.get]
  have marked (u : State) (f : Thread → Thread) (hg : u.garr.remap = s.garr.remap) (hm : u.mem = s.mem) :
      (writeTarget (modThread u 0 0 f) (resolve (modThread u 0 0 f) 0 (0 + 8 * 0))
        (readTarget (modThread u 0 0 f) (resolve (modThread u 0 0 f) 0 (a + 8 * 0)) 8)).mem.ls
        = KMap.writeN mem0 s.mem.ls 0 (gmRead s a 8) := by
    have src : resolve (modThread u 0 0 f) 0 (a + 8 * 0) = .gm a := by
      rw [← hr]
      simp [resolve, physOf, getRemap, hg]
    have dst : resolve (modThread u 0 0 f) 0 (0 + 8 * 0) = .ls 0 0 := rfl
    rw [src, dst, writeTarget_ls _ _ _ (by simp [readTarget, gmRead, KMap.readN])]
    simp [readTarget, gmRead, hm]
  rw [copyPiece, hc]
  simp only [drawFree, ho]
  exact marked _ _ rfl rfl

/-- A write of 8 bytes or more at the copy's source, where the free value is odd, comes after the copy. -/
theorem agentWrite_copies (hs : copying s a) (hr : resolve s 0 a = .gm a) (ho : (Config.freeDword s.freeCtr).toNat % 2 = 1)
    {bs : List Byte} (hb : piecesIn (.gm a) 8 (.gm a) bs.length = [0]) :
    (agentWrite s a bs).mem.ls = KMap.writeN mem0 s.mem.ls 0 (gmRead s a 8) := by
  have copied : (meetCopies s (.gm a) bs.length true).mem.ls = KMap.writeN mem0 s.mem.ls 0 (gmRead s a 8) := by
    rw [meetCopies_copying hs hr, hb]
    exact copyPiece_performs hs hr ho
  rw [agentWrite, (gmFrame_writeTarget _ a bs).mem]
  change (meetVectors (meetCopies s (.gm a) bs.length true) (.gm a) bs.length).mem.ls = _
  rw [(gmFrame_meetVectors _ _ _).mem]
  exact copied

end

end Sys2Proof.Machine
end

section
/-! PROOFS. STRATUM_INGEST, admission windows, and the phases and commit of a batch (R223 to R231). Every clause of O41 holds but that of
the next phase, whose writes meet copies in progress: that one holds exactly where no free value is odd. -/

namespace Sys2Proof.Machine

/-! ### STRATUM_INGEST from step 10 -/

/-- Tokens that an INGEST adds. -/
def ingestNew (c : Cmd) : Nat := if c.f 0x11 1 % 2 = 1 then c.f 0x14 4 else c.f 0x14 4 - 1

/-- The sizes of the extents that it reserves for its blocks. -/
def ingestUnits (r : Stratum) (new : Nat) : List Nat :=
  (newBlocks r.tokens new).map (fun k => unitsOf (k * r.shape.tokenBytes))
    ++ (if r.mode = 0 then [] else [unitsOf (layerBytes r.shape r.tokens)])

/-- The session that it becomes, with its extents at `as`. -/
def ingestSession (c : Cmd) (r : Stratum) (as : List Nat) : Session :=
  let k := (newBlocks r.tokens (ingestNew c)).length
  { cmd := c.seq, tenant := c.tenant, handle := c.handle, ingested := ingestNew c, heldBack := c.f 0x14 4 - ingestNew c,
    buf := c.f 0x18 8, blocks := List.zip (as.take k) (newBlocks r.tokens (ingestNew c)), oldStage := as.getD k 0 }

/-- The rows that it reserves in its slot's window. -/
def ingestRows (u w : State) (c : Cmd) : Option (Nat × State) :=
  reserveRows w (getModel u (c.f 0x10 1)) (joined w (c.f 0x10 1) (ingestNew c)) c.seq (ingestNew c)

/-- What it does with the outcome of that reservation. -/
def ingestPlace (u : State) (c : Cmd) (r : Stratum) (as : List Nat) : Option (Nat × State) → State
  | none => complete u c.seq { status := .noSpace }
  | some (a, w) => addSession (setPending w c.handle 0x12) (c.f 0x10 1) (ingestSession c r as) a

/-- What it does with the outcome of the reservation of its blocks. -/
def ingestAdmit (u : State) (c : Cmd) (r : Stratum) : Option (List Nat × State) → State
  | none => complete u c.seq { status := .noSpace }
  | some (as, w) => ingestPlace u c r as (ingestRows u w c)

section
variable {s u : State} {c : Nat} {cmd : Cmd} {r : Stratum}

/-- An INGEST that starts, with its domains ON and no die latch. -/
theorem exec_stratumIngest_now (h : startsNow s c 0x12 none cmd = true) (hd : modelDoms s cmd = none)
    (hl : s.therm.latch.getLsbD 8 = false) :
    exec (.stratumIngest c) s = .next (settle (ingestBody (markStarted s c) cmd)) :=
  congrArg done (startCmd_now modelDoms (fun s _ => s.therm.latch.getLsbD 8) ingestBody h hd hl)

theorem ingestBody_refused {x : Result} (hr : findRec u cmd.handle = some r) (hx : ingestRefusal u cmd r = some x) :
    ingestBody u cmd = complete u cmd.seq x := by
  simp [ingestBody, hr, hx]

theorem ingestBody_nothing (hr : findRec u cmd.handle = some r) (hx : ingestRefusal u cmd r = none) (hn : ingestNew cmd = 0) :
    ingestBody u cmd = complete u cmd.seq (okR (2 ^ 32) r.tokens) := by
  unfold ingestNew at hn
  simp [ingestBody, hr, hx, hn]

/-- With tokens to add and a root that holds a valid copy, the reservations decide. (They stand under names of their own in the proof, or
the kernel would start to compute them.) -/
theorem ingestBody_admits {al : Option (List Nat × State)} (hr : findRec u cmd.handle = some r) (hx : ingestRefusal u cmd r = none)
    (hn : ingestNew cmd ≠ 0) (hc : currentCopy u r.root ≠ none)
    (ha : allocateAll u 3 cmd.seq (ingestUnits r (ingestNew cmd)) = al) : ingestBody u cmd = ingestAdmit u cmd r al := by
  obtain ⟨blocks, hblocks⟩ : ∃ f, f = allocateAll := ⟨_, rfl⟩
  obtain ⟨rows, hrows⟩ : ∃ f, f = reserveRows := ⟨_, rfl⟩
  unfold ingestUnits ingestNew at ha
  unfold ingestNew at hn
  unfold ingestBody ingestAdmit ingestRows ingestNew
  rw [← hblocks] at ha ⊢
  rw [← hrows, hr]
  dsimp only
  rw [hx]
  dsimp only
  rw [if_neg hn, if_neg (by simpa using hc), ha]
  obtain _ | ⟨as, w⟩ := al
  · rfl
  · dsimp only
    cases rows w _ _ _ _ <;> rfl

end
/-! ### Windows, and the start of a batch -/

section
variable {s : State} {w : Window} {ws : List Window}

theorem exec_windowClose_due {slot : Fin 4} (hw : getWindow s slot.val = some w) (ht : w.opened + w.lengthUs ≤ s.tick) :
    exec (.windowClose slot) s = .next (settle (closeWindow s w 129)) := by
  change done (windowClose slot.val s) = _
  simp [windowClose, done, hw, ht]

theorem exec_windowClose_early {slot : Fin 4} (hw : getWindow s slot.val = some w) (ht : s.tick < w.opened + w.lengthUs) :
    exec (.windowClose slot) s = .next (settle s) := by
  change done (windowClose slot.val s) = _
  simp [windowClose, done, hw, Nat.not_le.mpr ht]

/-- The oldest queued batch off its queue. -/
def dequeued (s : State) (ws : List Window) : State := { s with strata := { s.strata with queue := ws } }

/-- What the oldest queued batch does once none runs. -/
def batchBegin (bad : List (Nat × Nat)) (s : State) (w : Window) : State :=
  if s.therm.latch.getLsbD 8 then failSessions (freeRows s w) w.sessions .thermalHold
  else match firstNotOn s (4 :: (hbmDoms ++ loamDoms)) with
    | some d => failSessionsR (freeRows s w) w.sessions (refuse .notPermitted 4 d)
    | none => if (getModel s w.slot).loaded then startBatch bad s w else failSessions (freeRows s w) w.sessions .notPermitted

theorem exec_batchStart_next (bad : List (Nat × Nat)) (hb : s.strata.batch = none) (hq : s.strata.queue = w :: ws) :
    exec (.batchStart bad) s = .next (settle (batchBegin bad (dequeued s ws) w)) := by
  change done (batchStart bad s) = _
  rw [batchStart, hb, hq]
  rfl

theorem exec_batchStart_idle (bad : List (Nat × Nat)) (h : s.strata.batch ≠ none ∨ s.strata.queue = []) :
    exec (.batchStart bad) s = .next (settle s) := by
  change done (batchStart bad s) = _
  unfold batchStart
  split
  · next hb hq => simp [hb, hq] at h
  · rfl

theorem batchBegin_hot (bad : List (Nat × Nat)) (hl : s.therm.latch.getLsbD 8 = true) :
    batchBegin bad s w = failSessions (freeRows s w) w.sessions .thermalHold := if_pos hl

theorem batchBegin_starts (bad : List (Nat × Nat)) (hl : s.therm.latch.getLsbD 8 = false)
    (hd : firstNotOn s (4 :: (hbmDoms ++ loamDoms)) = none) (hm : (getModel s w.slot).loaded = true) :
    batchBegin bad s w = startBatch bad s w := by
  rw [batchBegin, hl, hd, hm]
  rfl

theorem batchBegin_unloaded (bad : List (Nat × Nat)) (hl : s.therm.latch.getLsbD 8 = false)
    (hd : firstNotOn s (4 :: (hbmDoms ++ loamDoms)) = none) (hm : (getModel s w.slot).loaded = false) :
    batchBegin bad s w = failSessions (freeRows s w) w.sessions .notPermitted := by
  rw [batchBegin, hl, hd, hm]
  rfl

end

/-! ### Re-runs and the commit -/

section
variable {s : State} {b : Batch}

theorem exec_itemRerun_failed (hb : s.strata.batch = some b) (hl : b.launch = none) (hr : b.redo ≠ []) (hy : b.layer ≠ 0xFFFF) :
    exec .itemRerun s = .next (settle (internalLaunch (count s 136 {} b.redo.length) b (getModel s b.win.slot).layerKernel
      (((getModel s b.win.slot).phases.getD b.phase (0, 0, 1)).2.2) (some b.redo))) := by
  change done (itemRerun s) = _
  simp [itemRerun, done, hb, hl, hr, hy]

theorem exec_phaseLaunch_redo (hb : s.strata.batch = some b) (hr : b.redo ≠ []) :
    exec .phaseLaunch s = .next (settle s) := by
  change done (phaseLaunch s) = _
  simp [phaseLaunch, done, hb, hr]

theorem exec_batchCommit_redo (hb : s.strata.batch = some b) (hr : b.redo ≠ []) :
    exec .batchCommit s = .next (settle s) := by
  change done (batchCommit s) = _
  simp [batchCommit, done, hb, hr]

theorem exec_batchCommit_last (hb : s.strata.batch = some b) (hl : b.launch = none) (hr : b.redo = []) (hy : b.layer ≠ 0xFFFF)
    (hn : nextPhase (getModel s b.win.slot) b = none) : exec .batchCommit s =
      .next (settle (freeRows (b.win.sessions.foldl commitSession (setBatch s none)) b.win)) := by
  change done (batchCommit s) = _
  simp [batchCommit, done, hb, hl, hr, hy, hn]

/-- A session with a failed line leaves its batch, its stratum unchanged. -/
theorem commitSession_failed {x : Session} {r : Stratum} (hr : findRec s x.handle = some r) (h : x.excluded = true ∨ x.ue = true) :
    commitSession s x = complete (freeSession s x) x.cmd { status := .dataError } := by
  simp [commitSession, leaveBatch, hr, h]

end

/-! ### The next phase -/

/-- The batch of the next phase. -/
def phaseBatch (s : State) (b : Batch) (layer phase : Nat) : Batch :=
  { b with win := { b.win with sessions := (excludeBad (oldTokens layer phase b.win.sessions s).1).1 },
           layer := layer, phase := phase, failures := [] }

/-- The block after the decode phase, with the excluded sessions counted. -/
def phaseDecoded (s : State) (b : Batch) (layer phase : Nat) : State :=
  count (oldTokens layer phase b.win.sessions s).2 138 {} (excludeBad (oldTokens layer phase b.win.sessions s).1).2

/-- The weight buffer of a phase. -/
def phaseBuf (m : ModelSlot) (layer phase : Nat) : Nat := weightBuf ((layer * m.phases.length + phase) % 2)

/-- That block with the weights of the phase in their buffer. -/
def phaseWeights (s : State) (b : Batch) (layer phase : Nat) : State :=
  let m := getModel s b.win.slot
  let p := m.phases.getD phase (0, 0, 1)
  match sectionOf m 5 layer with
  | some (a, _) => if p.2.1 = 0 then phaseDecoded s b layer phase
      else agentWrite (phaseDecoded s b layer phase) (phaseBuf m layer phase) (gmRead (phaseDecoded s b layer phase) (a + p.1) p.2.1)
  | none => phaseDecoded s b layer phase

/-- The block as the next phase launches. -/
def phaseReady (s : State) (b : Batch) (layer phase : Nat) : State :=
  let m := getModel s b.win.slot
  let l := (m.phases.getD phase (0, 0, 1)).2.1
  let b' := phaseBatch s b layer phase
  count (writeDesc (setBatch (count (phaseWeights s b layer phase) 139 {} (l / 64)) (some b')) b' m l
    (if l = 0 then 0 else phaseBuf m layer phase)) 135 {}

section
variable {s : State} {b : Batch} {layer phase : Nat}

/-- A batch that waits for no launch and has no item to re-run launches its next phase. -/
theorem exec_phaseLaunch_next (hb : s.strata.batch = some b) (hl : b.launch = none) (hr : b.redo = [])
    (hn : nextPhase (getModel s b.win.slot) b = some (layer, phase)) : exec .phaseLaunch s =
      .next (settle (internalLaunch (phaseReady s b layer phase) (phaseBatch s b layer phase) (getModel s b.win.slot).layerKernel
        (((getModel s b.win.slot).phases.getD phase (0, 0, 1)).2.2) none)) := by
  change done (phaseLaunch s) = _
  rw [phaseLaunch, hb]
  dsimp only
  rw [if_neg (by simp [hl, hr]), hn]
  rfl

end

/-! ### The next phase with even free values -/

theorem gmFrame_count (s : State) (e : Nat) (o : Occ) (n : Nat) : GmFrame s (count s e o n) := gmFrame_of_eq (by simp) (by simp)

theorem gmFrame_reportUe (s : State) (a h : Nat) : GmFrame s (reportUe s a h) :=
  gmFrame_of_eq (by simp [reportUe]) (by simp [reportUe])

theorem gmFrame_eachSession {f : State → Session → Session × State} (hf : ∀ s x, GmFrame s (f s x).2) (xs : List Session) (s : State) :
    GmFrame s (eachSession f xs s).2 := by
  induction xs generalizing s with
  | nil => exact gmFrame_refl s
  | cons x xs ih => exact gmFrame_trans (hf s x) (ih _)

/-- A fold that writes one block after another keeps to the frame. -/
theorem gmFrame_writes {α : Type} (hE : DrawsEven) (bytes : α → List Byte) (size : α → Nat) (l : List α) (p : State × Nat) :
    GmFrame p.1 (l.foldl (fun (p : State × Nat) e => (agentWrite p.1 p.2 (bytes e), p.2 + size e)) p).1 := by
  induction l generalizing p with
  | nil => exact gmFrame_refl p.1
  | cons e l ih => exact gmFrame_trans (gmFrame_agentWrite hE p.1 p.2 (bytes e)) (ih (agentWrite p.1 p.2 (bytes e), p.2 + size e))

section
variable (hE : DrawsEven)
include hE

theorem gmFrame_decodeOld (layer : Nat) (s : State) (x : Session) : GmFrame s (decodeOld layer s x).2 := by
  unfold decodeOld
  split
  · exact gmFrame_refl s
  · dsimp only
    split
    · exact gmFrame_refl s
    · split
      · exact gmFrame_reportUe s _ _
      · exact gmFrame_writes hE _ _ _ (s, x.oldStage)

theorem gmFrame_oldTokens (layer phase : Nat) (xs : List Session) (s : State) : GmFrame s (oldTokens layer phase xs s).2 := by
  unfold oldTokens
  split
  · exact gmFrame_eachSession (gmFrame_decodeOld hE layer) xs s
  · exact gmFrame_refl s

theorem gmFrame_phaseWeights (s : State) (b : Batch) (layer phase : Nat) : GmFrame s (phaseWeights s b layer phase) := by
  have decoded : GmFrame s (phaseDecoded s b layer phase) :=
    gmFrame_trans (gmFrame_oldTokens hE layer phase _ s) (gmFrame_count _ _ _ _)
  unfold phaseWeights
  dsimp only
  split
  · exact gmFrame_ite decoded (gmFrame_trans decoded (gmFrame_agentWrite hE _ _ _))
  · exact decoded

theorem gmFrame_writeDesc (s : State) (b : Batch) (m : ModelSlot) (l a : Nat) : GmFrame s (writeDesc s b m l a) :=
  gmFrame_trans (gmFrame_agentWrite hE s _ _) (gmFrame_agentWrite hE _ _ _)

theorem gmFrame_phaseReady (s : State) (b : Batch) (layer phase : Nat) : GmFrame s (phaseReady s b layer phase) := by
  have counted := gmFrame_trans (gmFrame_phaseWeights hE s b layer phase)
    (gmFrame_count _ 139 {} (((getModel s b.win.slot).phases.getD phase (0, 0, 1)).2.1 / 64))
  have stored (t : State) (x : Option Batch) : GmFrame t (setBatch t x) := ⟨rfl, rfl⟩
  exact gmFrame_trans (gmFrame_trans (gmFrame_trans counted (stored _ _)) (gmFrame_writeDesc hE _ _ _ _ _)) (gmFrame_count _ _ _ _)

/-- O41 where every free value is even. -/
theorem ingestBatches_of_even : Obligations.IngestBatches := by
  refine ⟨?ingest, ?close, ?start, ?idle, ?phase, ?rerun, ?commit, ?failed⟩
  case ingest =>
    intro s c cmd r h hd hl u new hr
    obtain rfl := startsNow_seq h
    rw [exec_stratumIngest_now h hd hl]
    refine ⟨fun x hx => ?_, fun hx hn => ?_, fun hx hn hc => ⟨fun ha => ?_, fun as w ha hw => ?_, fun as w a w' ha hw => ?_⟩⟩
    · rw [ingestBody_refused hr hx]
    · rw [ingestBody_nothing hr hx hn]
    · rw [ingestBody_admits hr hx hn hc ha, ingestAdmit]
    · have rows : ingestRows u w cmd = none := hw
      rw [ingestBody_admits hr hx hn hc ha, ingestAdmit, rows, ingestPlace]
    · have rows : ingestRows u w cmd = some (a, w') := hw
      rw [ingestBody_admits hr hx hn hc ha, ingestAdmit, rows, ingestPlace]
      rfl
  case close => exact fun s slot w hw => ⟨exec_windowClose_due hw, exec_windowClose_early hw⟩
  case start =>
    intro s bad w ws hb hq u
    rw [exec_batchStart_next bad hb hq]
    exact ⟨fun hl => congrArg done (batchBegin_hot (s := u) bad hl), fun hl hd =>
      ⟨fun hm => congrArg done (batchBegin_starts (s := u) bad hl hd hm), fun hm => congrArg done (batchBegin_unloaded (s := u) bad hl hd hm)⟩⟩
  case idle => exact fun s bad h => exec_batchStart_idle bad h
  case phase =>
    intro s b hb hl hr layer phase hn
    obtain ⟨garr, mem⟩ := gmFrame_phaseReady hE s b layer phase
    exact ⟨_, _, exec_phaseLaunch_next hb hl hr hn, rfl, rfl, rfl, garr, mem, rfl⟩
  case rerun =>
    exact fun s b hb hl hr hy => ⟨exec_itemRerun_failed hb hl hr hy, exec_phaseLaunch_redo hb hr, exec_batchCommit_redo hb hr⟩
  case commit => exact fun s b hb hl hr hy hn => exec_batchCommit_last hb hl hr hy hn
  case failed => exact fun s x r hr h => ⟨commitSession_failed hr h, rfl⟩

end

end Sys2Proof.Machine
end

section
/-! PROOFS. A batch's descriptor meets a copy in progress (R189 item 5, R227): with an odd free value the copy is performed first, into a
local store, so that the next phase changes more than Loam and HBM. -/

namespace Sys2Proof.Machine

/-! ### An internal launch with no bed to run on -/

section
variable {s : State}

/-- A completion writes no local store. -/
theorem complete_ls (s : State) (c : Nat) (r : Result) : (complete s c r).mem.ls = s.mem.ls := by rw [complete_frame]

/-- A batch that fails while nothing is launched writes no local store. -/
theorem failBatch_ls (hl : s.garr.launches = []) (st : Status) : (failBatch s st).mem.ls = s.mem.ls := by
  have dropped : dropLaunches s (fun l => l.cmd.isNone) = s := by rw [dropLaunches, hl]; rfl
  have failed (u : State) (xs : List Session) : (failSessions u xs st).mem.ls = u.mem.ls :=
    foldl_keeps (fun u => u.mem.ls) (fun u x => complete_ls (freeSession u x) x.cmd _) xs u
  unfold failBatch
  split
  · rfl
  · dsimp only
    have counted (u : State) : (count u 137 {}).mem = u.mem := by simp
    rw [failed, counted, dropped]
    rfl

/-- Every bed of a host's pool. -/
def hostBeds : KMap Bed := (List.range 64).map (fun b => (b, { inHost := true }))

theorem internalPool_hosted (hb : s.garr.beds = hostBeds) : internalPool s = [] := by
  have hosted : ∀ b < 64, (KMap.get (fun _ => ({} : Bed)) hostBeds b).inHost = true := by decide
  simp only [internalPool, List.filter_eq_nil_iff, List.mem_range, getBed, hb]
  intro b hlt
  rw [hosted b hlt, Bool.not_true, Bool.and_false]
  exact Bool.false_ne_true

/-- With every bed in a host's pool, an internal launch writes no local store: the batch fails. -/
theorem internalLaunch_hosted (hb : s.garr.beds = hostBeds) (hl : s.garr.launches = []) (b : Batch) (image : List Byte) (items : Nat)
    (todo : Option (List Nat)) : (internalLaunch s b image items todo).mem.ls = s.mem.ls := by
  rw [internalLaunch, internalPool_hosted hb]
  exact failBatch_ls hl _

end

/-! ### The counterexample for an odd free value -/

/-- A batch after its prologue, with no session, of a model with one phase and no weights. -/
def bareBatch : Batch := { win := { slot := 0, opened := 0, lengthUs := 0, maxSessions := 0, sessions := [] }, layer := 0xFFFF, phase := 0 }

/-- Free value n is the next one; a thread copies from where the descriptor of that batch will lie. -/
def phaseCopying (n : Nat) : State := {
  freeCtr := n
  strata := { models := [(0, { phases := [(0, 0, 1)] })], batch := some bareBatch }
  garr := { beds := hostBeds, threads := [(0, { copies := [copyOf descAt] })] }
  mem := { gm := [(descAt, 1)] } }

/-! ### The descriptor meets the copy -/

section
variable {v : State}

/-- A write of no bytes that meets no piece of the copy changes nothing. -/
theorem agentWrite_unmet {a b : Nat} (hs : copying v a) (hr : resolve v 0 a = .gm a) (hb : piecesIn (.gm a) 8 (.gm b) 0 = []) :
    agentWrite v b [] = v := by
  rw [agentWrite, List.length_nil, meet_unmet hs hr hb]
  rfl

/-- The descriptor of a batch without sessions has 64 bytes and meets the only piece of a copy from its place. -/
theorem writeDesc_copies {b : Batch} (hs : copying v descAt) (ho : (Config.freeDword v.freeCtr).toNat % 2 = 1) (hb : b.win.sessions = [])
    (m : ModelSlot) (l a : Nat) : (writeDesc v b m l a).mem.ls = KMap.writeN mem0 v.mem.ls 0 (gmRead v descAt 8) := by
  have hr : resolve v 0 descAt = .gm descAt := rfl
  have runs : agentWrite v runsAt [] = v := agentWrite_unmet hs hr (by decide)
  rw [writeDesc, hb]
  simp only [sessionEntries]
  rw [runs]
  refine agentWrite_copies hs hr ho ?_
  simp [leBytes]
  decide

end

/-- Whatever the free values, the descriptor's write changes grains, threads, reservations and memories alone. -/
theorem grainFrame_writeDesc (s : State) (b : Batch) (m : ModelSlot) (l a : Nat) : GrainFrame s (writeDesc s b m l a) := by
  have written (u : State) (a : Nat) (bs : List Byte) : GrainFrame u (agentWrite u a bs) :=
    grainFrame_trans (grainFrame_meet u _ _ _) (grainFrame_writeTarget _ _ _)
  exact grainFrame_trans (written s _ _) (written _ _ _)

/-- The block as the descriptor of that batch is written. -/
def phaseStaged (n : Nat) : State :=
  setBatch (count (count (phaseCopying n) 138 {} 0) 139 {} 0) (some (phaseBatch (phaseCopying n) bareBatch 0 0))

theorem phaseStaged_frame (n : Nat) : (phaseStaged n).garr = (phaseCopying n).garr ∧ (phaseStaged n).mem = (phaseCopying n).mem
    ∧ (phaseStaged n).freeCtr = (phaseCopying n).freeCtr := by
  have staged (s : State) (x : Option Batch) : (setBatch (count (count s 138 {} 0) 139 {} 0) x).garr = s.garr
      ∧ (setBatch (count (count s 138 {} 0) 139 {} 0) x).mem = s.mem ∧ (setBatch (count (count s 138 {} 0) 139 {} 0) x).freeCtr = s.freeCtr := by
    simp [setBatch]
  exact staged (phaseCopying n) (some (phaseBatch (phaseCopying n) bareBatch 0 0))

theorem phaseReady_bare (n : Nat) : phaseReady (phaseCopying n) bareBatch 0 0
    = count (writeDesc (phaseStaged n) (phaseBatch (phaseCopying n) bareBatch 0 0) (getModel (phaseCopying n) 0) 0 0) 135 {} := by
  have weights : phaseWeights (phaseCopying n) bareBatch 0 0 = count (phaseCopying n) 138 {} 0 := rfl
  have noWeights : (getModel (phaseCopying n) bareBatch.win.slot).phases.getD 0 (0, 0, 1) = (0, 0, 1) := rfl
  unfold phaseReady
  dsimp only
  rw [weights, noWeights, if_pos rfl]
  rfl

/-- What that batch writes in its next phase. -/
theorem phaseReady_copies {n : Nat} (ho : (Config.freeDword n).toNat % 2 = 1) : (phaseReady (phaseCopying n) bareBatch 0 0).mem.ls
    = KMap.writeN mem0 [] 0 (gmRead (phaseCopying n) descAt 8) := by
  obtain ⟨garr, mem, free⟩ := phaseStaged_frame n
  have counted (u : State) : (count u 135 {}).mem = u.mem := by simp
  rw [phaseReady_bare, counted, writeDesc_copies (by rw [copying, garr]; rfl) (by rw [free]; exact ho) rfl, gmRead, mem]
  rfl

/-- Its launch has no bed to run on. -/
theorem phaseReady_garr (n : Nat) : (phaseReady (phaseCopying n) bareBatch 0 0).garr.beds = hostBeds
    ∧ (phaseReady (phaseCopying n) bareBatch 0 0).garr.launches = [] := by
  obtain ⟨garr, -, -⟩ := phaseStaged_frame n
  have counted (u : State) : (count u 135 {}).garr = u.garr := by simp
  rw [phaseReady_bare, counted, (grainFrame_writeDesc _ _ _ _ _).eq, garr]
  exact ⟨rfl, rfl⟩

/-- With an odd free value O41 would fail: the next phase of that batch writes a local store. -/
theorem not_ingestBatches_of_odd {n : Nat} (ho : (Config.freeDword n).toNat % 2 = 1) : ¬ Obligations.IngestBatches := by
  intro h
  obtain ⟨-, -, -, -, phase, -, -, -⟩ := h
  obtain ⟨u, b', hx, -, -, -, hg, hm, -⟩ := phase (phaseCopying n) bareBatch rfl rfl rfl 0 0 rfl
  obtain ⟨beds, launches⟩ := phaseReady_garr n
  have kept (s : State) : (settle s).mem.ls = s.mem.ls := by rw [settle_frame]
  have same := Host.Outcome.next.inj ((exec_phaseLaunch_next rfl rfl rfl rfl).symm.trans hx)
  have ls := kept (internalLaunch u b' (getModel (phaseCopying n) bareBatch.win.slot).layerKernel
    (((getModel (phaseCopying n) bareBatch.win.slot).phases.getD 0 (0, 0, 1)).2.2) none)
  rw [← same, kept, internalLaunch_hosted beds launches, phaseReady_copies ho, internalLaunch_hosted (by rw [hg]; rfl) (by rw [hg]; rfl), hm] at ls
  exact absurd ls (show ¬ KMap.writeN mem0 [] 0 (KMap.readN mem0 [(descAt, 1)] descAt 8) = [] by decide)

/-- O41 says no more and no less than that every free value is even: `Config.freeDword` has no body, so that neither it nor its negation
can be proved. -/
theorem ingestBatches_iff : Obligations.IngestBatches ↔ DrawsEven := by
  refine ⟨fun h n => ?_, ingestBatches_of_even⟩
  by_contra odd
  exact not_ingestBatches_of_odd (n := n) (by omega) h

end Sys2Proof.Machine
end

section
/-! PROOFS. MODEL_LOAD, MODEL_UNLOAD, HBM errors and the patrol (R215 to R217, R232, R256). Every clause of O40 holds but that of a model
that loads, whose sections meet copies in progress: that one holds where no free value is odd. -/

namespace Sys2Proof.Machine

/-! ### Placing extents and reporting an error -/

/-- Placing extents writes no memory. -/
theorem allocateAll_mem {kind key : Nat} {units as : List Nat} {s w : State} (h : allocateAll s kind key units = some (as, w)) :
    w.mem = s.mem := by
  induction units generalizing s as with
  | nil =>
    obtain ⟨-, rfl⟩ := Prod.mk.inj (Option.some.inj h)
    rfl
  | cons x units ih =>
    unfold allocateAll at h
    split at h
    · cases h
    · next a v placed =>
      obtain ⟨⟨as', w'⟩, rest, same⟩ := Option.map_eq_some_iff.mp h
      obtain ⟨-, rfl⟩ := Prod.mk.inj same
      rw [ih rest]
      obtain ⟨_, -, -, rfl⟩ := by simpa [allocate] using placed
      rfl

/-- What a reported uncorrectable error changes in the stratum engine. -/
theorem reportUe_strata (s : State) (a h : Nat) : (reportUe s a h).strata = { s.strata with
    hbmUe := true, ueAddr := BitVec.ofNat 64 (a - a % 64), ueHandle := BitVec.ofNat 64 h } := by
  simp [reportUe]

section
variable {s u : State} {c : Nat} {cmd : Cmd} {dma : Option Nat}

/-! ### MODEL_LOAD -/

theorem exec_modelLoad_now (h : startsNow s c 0x16 none cmd = true) (hd : modelDoms s cmd = none) :
    exec (.modelLoad c dma) s = .next (settle (modelLoadBody dma (markStarted s c) cmd)) :=
  congrArg done (startCmd_now modelDoms noHold (modelLoadBody dma) h hd rfl)

theorem modelLoadBody_loaded (h : (getModel u (cmd.f 8 1)).loaded = true) :
    modelLoadBody dma u cmd = complete u cmd.seq (refuse .notPermitted 5 1) := by
  simp [modelLoadBody, h]

theorem modelLoadBody_badHeader (h : (getModel u (cmd.f 8 1)).loaded = false)
    (hh : modelHeaderOk (hostRead u (cmd.f 0x10 8) 0x40) (cmd.f 0x18 8) = false) :
    modelLoadBody none u cmd = complete u cmd.seq (refuse .dataError 5 1) := by
  simp [modelLoadBody, h, hh]

/-- The HBM sections of an image with their places. -/
def placed (xs : List Section) (as : List Nat) : List (Section × Nat) := List.zip (xs.filter inHbm) as

/-- The block with the sections in their places. -/
def writeSections (img : List Byte) (xs : List Section) (as : List Nat) (w : State) : State :=
  (placed xs as).foldl (fun s p => agentWrite s p.2 (sectionBytes img p.1)) w

/-- The model that an image becomes. -/
def loadedModel (img : List Byte) (xs : List Section) (as : List Nat) (tag : Nat) : ModelSlot := {
  loaded := true, shape := ⟨leAt img 6 2, leAt img 8 1, leAt img 0xA 2, leAt img 0xC 1⟩,
  rotations := leAt img 0xD 1 = 1, tag := tag, vocab := leAt img 0x10 4, maxTokens := leAt img 0x14 4,
  actBytes := leAt img 0x18 4, bytes := ((xs.filter inHbm).map (·.len)).foldl (· + ·) 0,
  phases := phasesOf ((ofKind xs 3).flatMap (sectionBytes img)),
  prologue := (ofKind xs 1).flatMap (sectionBytes img),
  layerKernel := (ofKind xs 2).flatMap (sectionBytes img),
  sections := (placed xs as).map (fun p => (p.1.kind, p.1.idx, p.2, p.1.len)) }

/-- A good image goes into a free slot, its sections into HBM. -/
theorem modelLoadBody_good {top img : List Byte} {xs : List Section} {as : List Nat} {w : State}
    (htop : hostRead u (cmd.f 0x10 8) (0x40 + 32 * leAt (hostRead u (cmd.f 0x10 8) 0x40) 0xE 2) = top)
    (himg : hostRead u (cmd.f 0x10 8) (cmd.f 0x18 8) = img) (hxs : modelSections top = xs)
    (hl : (getModel u (cmd.f 8 1)).loaded = false) (hh : modelHeaderOk (hostRead u (cmd.f 0x10 8) 0x40) (cmd.f 0x18 8) = true)
    (hb : (boundTo u (cmd.f 8 1)).any (fun r => r.modelTag ≠ modelTag top) = false)
    (hk : ((xs.filter (fun x => x.kind = 1 || x.kind = 2)).map (·.len)).foldl (· + ·) 0 ≤ modelStoreFree u)
    (ha : allocateAll u 1 (cmd.f 8 1) ((xs.filter inHbm).map (fun x => unitsOf x.len)) = some (as, w))
    (hc : xs.any (fun x => x.crc ≠ (crc32 (sectionBytes img x)).toNat) = false) (hst : modelStructureOk img xs (cmd.f 0x18 8) = true) :
    modelLoadBody none u cmd = complete (setModel (writeSections img xs as w) (cmd.f 8 1) (loadedModel img xs as (modelTag top))) cmd.seq
      (okR (loadedModel img xs as (modelTag top)).bytes (loadedModel img xs as (modelTag top)).shape.layers) := by
  obtain ⟨places, hplaces⟩ : ∃ f, f = allocateAll := ⟨_, rfl⟩
  unfold modelLoadBody
  dsimp only
  rw [← hplaces] at ha ⊢
  rw [htop, himg, hxs, List.map_map]
  change places u 1 (cmd.f 8 1) (List.map (unitsOf ∘ fun x => x.len) (xs.filter inHbm)) = _ at ha
  rw [if_neg (by rw [hl]; decide), if_neg (by decide), if_neg (by rw [hh]; decide), if_neg (by rw [hb]; decide), if_neg (Nat.not_lt.mpr hk),
    ha]
  dsimp only
  rw [if_neg (by rw [hc]; decide), if_neg (by rw [hst]; decide)]
  rfl

/-! ### MODEL_UNLOAD -/

theorem exec_modelUnload_now (h : startsNow s c 0x17 none cmd = true) :
    exec (.modelUnload c) s = .next (settle (modelUnloadBody (markStarted s c) cmd)) :=
  congrArg done (startCmd_now noDoms noHold modelUnloadBody h rfl rfl)

theorem modelUnloadBody_empty (hl : (getModel u (cmd.f 8 1)).loaded = false) :
    modelUnloadBody u cmd = complete u cmd.seq { status := .okNoop } := by
  simp [modelUnloadBody, hl]

theorem modelUnloadBody_batch (hl : (getModel u (cmd.f 8 1)).loaded = true) (hb : 0 < batchesOf u (cmd.f 8 1)) :
    modelUnloadBody u cmd = complete u cmd.seq (refuse .busyGuarded 5 1) := by
  simp [modelUnloadBody, hl, hb]

theorem modelUnloadBody_bound (hl : (getModel u (cmd.f 8 1)).loaded = true) (hb : batchesOf u (cmd.f 8 1) = 0)
    (hn : boundTo u (cmd.f 8 1) ≠ []) : modelUnloadBody u cmd = complete u cmd.seq (refuse .busyGuarded 5 2) := by
  simp [modelUnloadBody, hl, hb, hn]

theorem modelUnloadBody_frees (hl : (getModel u (cmd.f 8 1)).loaded = true) (hb : batchesOf u (cmd.f 8 1) = 0)
    (hn : boundTo u (cmd.f 8 1) = []) :
    modelUnloadBody u cmd = complete (setModel (freeKey u 1 (cmd.f 8 1)) (cmd.f 8 1) {}) cmd.seq (okR) := by
  simp [modelUnloadBody, hl, hb, hn]

end

/-! ### Errors of HBM -/

/-- The transfer in its data stage that reads a stratum. -/
def reader (s : State) (h : Nat) : Option Move :=
  s.strata.moves.find? (fun m => m.handle = h && m.stage = .data && (m.op = 0x11 || m.op = 0x14))

/-- The failed lines with that of an address. -/
def linesWith (s : State) (a : Nat) : List Nat :=
  if s.strata.badLines.contains (a - a % 64) then s.strata.badLines else s.strata.badLines ++ [a - a % 64]

/-- A block with its failed lines. -/
def withLines (s : State) (lines : List Nat) : State := { s with strata := { s.strata with badLines := lines } }

/-- The error reported, and its line kept. -/
def ueKept (s : State) (a h : Nat) : State := withLines (reportUe s a h) (linesWith s a)

section
variable {s : State} {a h : Nat}

/-- Keeping the line changes neither the transfers nor the batch. -/
theorem ueKept_strata (s : State) (a h : Nat) :
    (ueKept s a h).strata.moves = s.strata.moves ∧ (ueKept s a h).strata.batch = s.strata.batch := by
  have kept (u : State) (lines : List Nat) (hu : u.strata.moves = s.strata.moves ∧ u.strata.batch = s.strata.batch) :
      (withLines u lines).strata.moves = s.strata.moves ∧ (withLines u lines).strata.batch = s.strata.batch := hu
  refine kept (reportUe s a h) _ ?_
  rw [reportUe_strata]
  exact ⟨rfl, rfl⟩

/-- Who reads the stratum is told: a transfer, or the batch. -/
def ueTold (s : State) (h : Nat) : State :=
  match reader s h with
  | some m => if m.stopping then s else failMove s m { status := .dataError }
  | none => markUe s h

theorem ueTold_transfer {m : Move} (hf : reader s h = some m) (hp : m.stopping = false) :
    ueTold s h = failMove s m { status := .dataError } := by
  simp [ueTold, hf, hp]

theorem ueTold_quiet (hf : reader s h = none) (hb : s.strata.batch = none) : ueTold s h = s := by
  simp [ueTold, hf, markUe, hb]

/-- An error in a stratum. (`reportUe` stands under another name in the proof, or the kernel would start to compute it.) -/
theorem hbmUe_stratum (hd : domOn s 14 = true) (h1 : Config.hbmBase ≤ a) (h2 : a < Config.hbmBase + Config.hbmBytes)
    (hst : stratumAt s a = some h) : hbmUe a s = ueTold (ueKept s a h) h := by
  have lines : (reportUe s a h).strata.badLines = s.strata.badLines := by rw [reportUe_strata]
  obtain ⟨report, hreport⟩ : ∃ f, f = reportUe := ⟨_, rfl⟩
  rw [hbmUe, if_neg (by rw [hd, decide_eq_true h1, decide_eq_true h2]; decide), hst]
  rw [ueKept, ← hreport]
  rw [← hreport] at lines
  dsimp only
  rw [lines]
  rfl

theorem exec_hbmUe_transfer {m : Move} (hd : domOn s 14 = true) (h1 : Config.hbmBase ≤ a) (h2 : a < Config.hbmBase + Config.hbmBytes)
    (hst : stratumAt s a = some h) (hf : reader s h = some m) (hp : m.stopping = false) :
    exec (.hbmUe a) s = .next (settle (failMove (ueKept s a h) m { status := .dataError })) := by
  have read : reader (ueKept s a h) h = some m := by rw [reader, (ueKept_strata s a h).1, ← reader, hf]
  exact congrArg done ((hbmUe_stratum hd h1 h2 hst).trans (ueTold_transfer read hp))

theorem exec_hbmUe_quiet (hd : domOn s 14 = true) (h1 : Config.hbmBase ≤ a) (h2 : a < Config.hbmBase + Config.hbmBytes)
    (hst : stratumAt s a = some h) (hf : reader s h = none) (hb : s.strata.batch = none) :
    exec (.hbmUe a) s = .next (settle (ueKept s a h)) := by
  have unread : reader (ueKept s a h) h = none := by rw [reader, (ueKept_strata s a h).1, ← reader, hf]
  exact congrArg done ((hbmUe_stratum hd h1 h2 hst).trans (ueTold_quiet unread ((ueKept_strata s a h).2.trans hb)))

theorem exec_hbmUe_outside (hd : domOn s 14 = true) (h1 : Config.hbmBase ≤ a) (h2 : a < Config.hbmBase + Config.hbmBytes)
    (hst : stratumAt s a = none) : exec (.hbmUe a) s = .next (settle (count
      (logRec s 0x41 4 2 (leBytes 8 2 ++ leBytes 8 (a - a % 64) ++ leBytes 8 0)) (51 + 5 * hbmStack a) { addr := some a })) := by
  change done (hbmUe a s) = _
  rw [hbmUe, if_neg (by rw [hd, decide_eq_true h1, decide_eq_true h2]; decide), hst]
  rfl

theorem exec_hbmCe_on (hd : domOn s 14 = true) (h1 : Config.hbmBase ≤ a) (h2 : a < Config.hbmBase + Config.hbmBytes) :
    exec (.hbmCe a) s = .next (settle (ltAdd (count s (50 + 5 * hbmStack a) { addr := some a }) 29)) := by
  change done _ = _
  simp [hd, h1, h2, done]

theorem exec_patrolScrub_on (hd : domOn s 14 = true) :
    exec .patrolScrub s = .next (settle (count s 78 {} (Config.hbmBytes / 64))) := by
  change done _ = _
  rw [if_pos hd]
  rfl

end

/-! ### O40 -/

/-- O40 where every free value is even. -/
theorem modelSlotsAndHbmErrors_of_even (hE : DrawsEven) : Obligations.ModelSlotsAndHbmErrors := by
  refine ⟨?load, ?unload, fun s a => exec_hbmCe_on, fun s a => exec_hbmUe_outside, ?inside, fun s => exec_patrolScrub_on⟩
  case load =>
    intro s c dma cmd h hd u slot buf len top xs img kern
    obtain rfl := startsNow_seq h
    rw [exec_modelLoad_now h hd]
    refine ⟨fun hl => congrArg done (modelLoadBody_loaded (u := u) hl), fun hl hh hdma => ?_, fun as w hl hdma hh hb hk ha hc hst => ?_⟩
    · subst hdma
      exact congrArg done (modelLoadBody_badHeader (u := u) hl hh)
    · subst hdma
      have frame : GmFrame w (writeSections img xs as w) := gmFrame_foldl (fun v p => gmFrame_agentWrite hE v _ _) _ w
      refine ⟨writeSections img xs as w, loadedModel img xs as (modelTag top),
        congrArg done (modelLoadBody_good rfl rfl rfl hl hh hb hk ha hc hst), rfl, rfl, rfl, ?_, ?_⟩
      · exact foldl_keeps State.strata (fun v p => agentWrite_strata v _ _) _ w
      · rw [← allocateAll_mem ha]
        exact frame.mem
  case unload =>
    intro s c cmd h u slot
    obtain rfl := startsNow_seq h
    rw [exec_modelUnload_now h]
    exact ⟨fun hl => congrArg done (modelUnloadBody_empty (u := u) hl), fun hl hb => congrArg done (modelUnloadBody_batch (u := u) hl hb),
      fun hl hb hn => congrArg done (modelUnloadBody_bound (u := u) hl hb hn),
      fun hl hb hn => congrArg done (modelUnloadBody_frees (u := u) hl hb hn)⟩
  case inside =>
    intro s a h hd h1 h2 hst
    have transfer (m : Move) := exec_hbmUe_transfer (m := m) hd h1 h2 hst
    have quiet := exec_hbmUe_quiet hd h1 h2 hst
    obtain ⟨report, hreport⟩ : ∃ f, f = reportUe := ⟨_, rfl⟩
    rw [ueKept, ← hreport] at quiet
    simp only [ueKept, ← hreport] at transfer
    rw [← hreport]
    exact ⟨transfer, quiet⟩

end Sys2Proof.Machine
end

section
/-! PROOFS. The sections of a model meet a copy in progress (R189 item 5, R216): with an odd free value the copy is performed first, into a
local store, so that MODEL_LOAD changes more than the model's slot and HBM. -/

namespace Sys2Proof.Machine

/-! ### A model image (R215, Table 9.5) -/

/-- Its fields that are not zero, by offset, bytes and value: the header, the section table, the kernel of both kinds, the phase. -/
def goodFields : List (Nat × Nat × Nat) := [
  (0x00, 4, 0x4D524C54), (0x04, 2, 1), (0x06, 2, 1), (0x08, 1, 1), (0x0A, 2, 32), (0x0E, 2, 4), (0x3C, 4, 0x2F529FF9),
  (0x40, 1, 1), (0x48, 8, 0xC0), (0x50, 8, 320), (0x58, 4, 0x91A9701B),
  (0x60, 1, 2), (0x68, 8, 0xC0), (0x70, 8, 320), (0x78, 4, 0x91A9701B),
  (0x80, 1, 3), (0x88, 8, 0x200), (0x90, 8, 16), (0x98, 4, 0x20114BCB),
  (0xA0, 1, 5), (0xB0, 8, 64), (0xB8, 4, 0x2144DF1C),
  (0xC0, 4, 0x3146524C), (0xC4, 2, 1), (0xC6, 1, 1), (0xC8, 4, 256), (0xE8, 4, 320), (0xF8, 4, 0x0D968558),
  (0xFC, 4, 0x61DE39EA),
  (0x208, 4, 1)]

/-- Host memory with that image of 528 bytes at 0x1000. -/
def goodHost : KMap Byte :=
  (goodFields.flatMap (fun (o, n, v) => List.zip (List.range' (0x1000 + o) n) (leBytes n v))).filter (fun e => e.2 ≠ 0)

/-- The first n bytes of the image. -/
def goodImage (n : Nat) : List Byte := KMap.readN mem0 goodHost 0x1000 n

/-- Its section for HBM. -/
def goodWeights : Section := ⟨5, 0, 0, 64, 0x2144DF1C⟩

/-- Its sections. -/
def goodSections : List Section := [⟨1, 0, 0xC0, 320, 0x91A9701B⟩, ⟨2, 0, 0xC0, 320, 0x91A9701B⟩, ⟨3, 0, 0x200, 16, 0x20114BCB⟩, goodWeights]

theorem goodImage_count : leAt (goodImage 0x40) 0xE 2 = 4 := by decide +kernel

theorem goodImage_header : modelHeaderOk (goodImage 0x40) 528 = true := by decide +kernel

theorem goodImage_sections : modelSections (goodImage 192) = goodSections := by decide +kernel

/-! ### Its CRCs, 32 bytes at a time -/

theorem KMap.readN_add {α : Type} (d : Nat → α) (m : KMap α) (a n k : Nat) :
    KMap.readN d m a (n + k) = KMap.readN d m a n ++ KMap.readN d m (a + n) k := by
  induction n generalizing a with
  | zero => simp [KMap.readN]
  | succ n ih =>
    rw [Nat.add_right_comm, KMap.readN, KMap.readN, ih, Nat.add_assoc a 1 n, Nat.add_comm 1 n]
    rfl

/-- Does the CRC register of the bytes from a, which starts at c, pass a list of values, one after each 32 bytes. -/
def crcPasses (a : Nat) (c : Word) : List Word → Bool
  | [] => true
  | d :: ds => decide ((KMap.readN mem0 goodHost a 32).foldl crcByte c = d) && crcPasses (a + 32) d ds

theorem foldl_of_crcPasses {a n : Nat} {c last : Word} {ds : List Word} (h : crcPasses a c ds = true) (hn : n = 32 * ds.length)
    (hl : ds.getLastD c = last) : (KMap.readN mem0 goodHost a n).foldl crcByte c = last := by
  subst hn hl
  induction ds generalizing a c with
  | nil => rfl
  | cons d ds ih =>
    simp only [crcPasses, Bool.and_eq_true, decide_eq_true_eq] at h
    obtain ⟨here, rest⟩ := h
    rw [List.length_cons, Nat.mul_succ, Nat.add_comm, KMap.readN_add, List.foldl_append, here, ih rest]
    cases ds <;> rfl

/-- The bytes of a section of the image. -/
theorem goodImage_section {x : Section} (h : x.off + x.len ≤ 528) :
    sectionBytes (goodImage 528) x = KMap.readN mem0 goodHost (0x1000 + x.off) x.len := by
  obtain ⟨k, hk⟩ := Nat.exists_eq_add_of_le h
  rw [sectionBytes, goodImage, hk, KMap.readN_add, KMap.readN_add, List.append_assoc, List.drop_left' (KMap.readN_length _ _ _ _),
    List.take_left' (KMap.readN_length _ _ _ _)]

/-- The kernel of both kinds. -/
def goodKernel : List Byte := KMap.readN mem0 goodHost 0x10C0 320

theorem goodKernel_crc : (crc32 goodKernel).toNat = 0x91A9701B := by
  have passes : crcPasses 0x10C0 0xFFFFFFFF [0x22D01EB5, 0xDEBB20E3, 0x95494D2A, 0xEF289152, 0x66773935, 0x3A767AE1, 0xE09034D6,
    0x158908AD, 0x4336E0AD, 0x6E568FE4] = true := by decide +kernel
  have register : goodKernel.foldl crcByte 0xFFFFFFFF#32 = 0x6E568FE4 :=
    foldl_of_crcPasses passes rfl rfl
  rw [crc32, register]
  decide

theorem goodKernel_body : (crc32 ((goodKernel.drop 64).take 256)).toNat = 0x0D968558 := by
  have passes : crcPasses 0x1100 0xFFFFFFFF [0xE6F5AA52, 0x8A729CC9, 0x450B9A51, 0x3D570562, 0x55F8AC9C, 0x7400F70D, 0xC2DEA49C,
    0xF2697AA7] = true := by decide +kernel
  have body : (goodKernel.drop 64).take 256 = KMap.readN mem0 goodHost 0x1100 256 := by
    rw [goodKernel, KMap.readN_add mem0 goodHost 0x10C0 64 256, List.drop_left' (KMap.readN_length _ _ _ _),
      List.take_of_length_le (KMap.readN_length _ _ _ _).le]
  have register : (KMap.readN mem0 goodHost 0x1100 256).foldl crcByte 0xFFFFFFFF#32 = 0xF2697AA7 :=
    foldl_of_crcPasses passes rfl rfl
  rw [body, crc32, register]
  decide

theorem goodKernel_ok : kernelOk goodKernel = true := by
  have header : imgHeaderOk goodKernel 320 = true := by decide +kernel
  have lens : imgCode goodKernel + imgRodata goodKernel = 256 := by decide +kernel
  have crc : leAt goodKernel 0x38 4 = 0x0D968558 := by decide +kernel
  have length : goodKernel.length = 320 := KMap.readN_length _ _ _ _
  rw [kernelOk, length, header, imgBodyOk, lens, crc, goodKernel_body]
  rfl

theorem goodImage_crcs : goodSections.any (fun x => x.crc ≠ (crc32 (sectionBytes (goodImage 528) x)).toNat) = false := by
  have kernel (k : Nat) : (crc32 (sectionBytes (goodImage 528) ⟨k, 0, 0xC0, 320, 0x91A9701B⟩)).toNat = 0x91A9701B :=
    (congrArg (fun b => (crc32 b).toNat) (goodImage_section (by simp))).trans goodKernel_crc
  have phase : (crc32 (sectionBytes (goodImage 528) ⟨3, 0, 0x200, 16, 0x20114BCB⟩)).toNat = 0x20114BCB := by
    rw [goodImage_section (by decide)]
    decide +kernel
  have weights : (crc32 (sectionBytes (goodImage 528) goodWeights)).toNat = 0x2144DF1C := by
    rw [goodImage_section (by decide)]
    decide +kernel
  simp [goodSections, kernel, phase, weights]
  rfl

theorem goodImage_structure : modelStructureOk (goodImage 528) goodSections 528 = true := by
  have kinds : ofKind goodSections 1 = [⟨1, 0, 0xC0, 320, 0x91A9701B⟩] ∧ ofKind goodSections 2 = [⟨2, 0, 0xC0, 320, 0x91A9701B⟩]
      ∧ ofKind goodSections 3 = [⟨3, 0, 0x200, 16, 0x20114BCB⟩] ∧ ofKind goodSections 4 = [] ∧ ofKind goodSections 5 = [goodWeights]
      ∧ ofKind goodSections 6 = [] := by decide
  obtain ⟨k1, k2, k3, k4, k5, k6⟩ := kinds
  have kernel (k : Nat) : kernelOk (sectionBytes (goodImage 528) ⟨k, 0, 0xC0, 320, 0x91A9701B⟩) = true :=
    (congrArg kernelOk (goodImage_section (by simp))).trans goodKernel_ok
  have phase : sectionBytes (goodImage 528) ⟨3, 0, 0x200, 16, 0x20114BCB⟩ = [0, 0, 0, 0, 0, 0, 0, 0, 1, 0, 0, 0, 0, 0, 0, 0] := by
    rw [goodImage_section (by decide)]
    decide +kernel
  have layers : leAt (goodImage 528) 6 2 = 1 := by decide +kernel
  have rotations : leAt (goodImage 528) 0xD 1 = 0 := by decide +kernel
  unfold modelStructureOk
  simp only [k1, k2, k3, k4, k5, k6, List.flatMap_cons, List.flatMap_nil, List.append_nil, phase, layers, rotations, List.cons_append,
    List.nil_append, List.all_cons, List.all_nil, kernel]
  decide

/-! ### The counterexample for an odd free value -/

/-- MODEL_LOAD of that image into slot 0. -/
def loadCmd : Cmd := {
  seq := 0, tenant := 0, qp := 0, cls := 0, acc := 0
  raw := leBytes 8 0x16 ++ leBytes 8 0 ++ leBytes 8 0x1000 ++ leBytes 8 528 ++ List.replicate 32 0 }

/-- Free value n is the next one; that command is in the table, with the domains it needs ON, and a thread copies from where the
section for HBM will lie. -/
def loadCopying (n : Nat) : State := {
  freeCtr := n
  doms := (4 :: (hbmDoms ++ loamDoms ++ [28])).map (fun d => (d, { cur := .on, req := .on, target := .on }))
  qc := { cmds := [loadCmd] }
  garr := { threads := [(0, { copies := [copyOf Config.hbmBase] })] }
  mem := { host := goodHost, gm := [(Config.hbmBase, 1)] } }

/-- The section's write in that block. -/
theorem writeSections_copies {n : Nat} (ho : (Config.freeDword n).toNat % 2 = 1) {w : State} (hg : w.garr = (loadCopying n).garr)
    (hf : w.freeCtr = n) (hm : w.mem = (loadCopying n).mem) :
    (writeSections (goodImage 528) goodSections [Config.hbmBase] w).mem.ls
      = KMap.writeN mem0 [] 0 (KMap.readN mem0 [(Config.hbmBase, 1)] Config.hbmBase 8) := by
  have hs : copying w Config.hbmBase := by
    rw [copying, hg]
    rfl
  have hb : (sectionBytes (goodImage 528) goodWeights).length = 64 := by
    rw [goodImage_section (by decide), KMap.readN_length]
    rfl
  have write : writeSections (goodImage 528) goodSections [Config.hbmBase] w
      = agentWrite w Config.hbmBase (sectionBytes (goodImage 528) goodWeights) := rfl
  rw [write, agentWrite_copies hs rfl (by rw [hf]; exact ho) (by rw [hb]; decide), gmRead, hm]
  rfl

/-- The command finds the image in host memory. -/
theorem loadCopying_read (n k : Nat) : hostRead (markStarted (loadCopying n) 0) (loadCmd.f 0x10 8) k = goodImage k := by
  have place : loadCmd.f 0x10 8 = 0x1000 := by decide
  have mem : (markStarted (loadCopying n) 0).mem = (loadCopying n).mem := by simp
  rw [hostRead, place, mem]
  rfl

/-- The block with the section's extent. -/
def loadPlaced (n : Nat) : State :=
  let u := markStarted (loadCopying n) 0
  { u with strata := { u.strata with extents := u.strata.extents ++ [⟨0, 1, 1, 0⟩] } }

theorem loadCopying_places (n : Nat) : allocateAll (markStarted (loadCopying n) 0) 1 0 [1] = some ([Config.hbmBase], loadPlaced n) := by
  have extents : (markStarted (loadCopying n) 0).strata.extents = [] := by simp [loadCopying]
  have units : hbmUnits (markStarted (loadCopying n) 0) = hbmUnits {} := rfl
  have room : fits (markStarted (loadCopying n) 0) 0 1 = true := by
    rw [fits, units, extents]
    decide +kernel
  have place : placeOf (markStarted (loadCopying n) 0) 1 = some 0 := by
    rw [placeOf, extents]
    simp [room, lowest]
  rw [allocateAll, allocate, place]
  rfl

/-- With an odd free value O40 would fail: that MODEL_LOAD writes a local store. -/
theorem not_modelSlotsAndHbmErrors_of_odd {n : Nat} (ho : (Config.freeDword n).toNat % 2 = 1) :
    ¬ Obligations.ModelSlotsAndHbmErrors := by
  intro h
  obtain ⟨load, -⟩ := h
  have now : startsNow (loadCopying n) 0 0x16 none loadCmd = true := rfl
  have doms : modelDoms (loadCopying n) loadCmd = none := rfl
  obtain ⟨-, -, good⟩ := load (loadCopying n) 0 none loadCmd now doms
  have len : loadCmd.f 0x18 8 = 528 := by decide
  have slot : loadCmd.f 8 1 = 0 := by decide
  have free : (getModel (markStarted (loadCopying n) 0) (loadCmd.f 8 1)).loaded = false := rfl
  have header : modelHeaderOk (hostRead (markStarted (loadCopying n) 0) (loadCmd.f 0x10 8) 0x40) (loadCmd.f 0x18 8) = true := by
    rw [loadCopying_read, len, goodImage_header]
  have top : hostRead (markStarted (loadCopying n) 0) (loadCmd.f 0x10 8)
      (0x40 + 32 * leAt (hostRead (markStarted (loadCopying n) 0) (loadCmd.f 0x10 8) 0x40) 0xE 2) = goodImage 192 := by
    rw [loadCopying_read, loadCopying_read, goodImage_count]
  have image : hostRead (markStarted (loadCopying n) 0) (loadCmd.f 0x10 8) (loadCmd.f 0x18 8) = goodImage 528 := by
    rw [loadCopying_read, len]
  have bound : (boundTo (markStarted (loadCopying n) 0) (loadCmd.f 8 1)).any (fun r => r.modelTag ≠ modelTag (goodImage 192)) = false := rfl
  have room : ((goodSections.filter (fun x => x.kind = 1 || x.kind = 2)).map (·.len)).foldl (· + ·) 0
      ≤ modelStoreFree (markStarted (loadCopying n) 0) := by
    have store : modelStoreFree (markStarted (loadCopying n) 0) = 0x200000 := rfl
    rw [store]
    decide
  have placed : allocateAll (markStarted (loadCopying n) 0) 1 (loadCmd.f 8 1) ((goodSections.filter inHbm).map (fun x => unitsOf x.len))
      = some ([Config.hbmBase], loadPlaced n) := by
    rw [slot]
    exact loadCopying_places n
  have formed : modelStructureOk (goodImage 528) goodSections (loadCmd.f 0x18 8) = true := by rw [len, goodImage_structure]
  have loaded := modelLoadBody_good top image goodImage_sections free header bound room placed goodImage_crcs formed
  rw [top, goodImage_sections, image] at good
  obtain ⟨t, m, hx, -, -, -, -, hm⟩ := good [Config.hbmBase] (loadPlaced n) free rfl header bound room placed goodImage_crcs
    formed
  have garr : (loadPlaced n).garr = (loadCopying n).garr := by simp [loadPlaced]
  have mem : (loadPlaced n).mem = (loadCopying n).mem := by simp [loadPlaced]
  have draw : (loadPlaced n).freeCtr = n := by simp [loadPlaced, loadCopying]
  have same := Host.Outcome.next.inj ((exec_modelLoad_now now doms).symm.trans hx)
  have kept (s : State) : (settle s).mem.ls = s.mem.ls := by rw [settle_frame]
  have stored (s : State) (k : Nat) (m : ModelSlot) : (setModel s k m).mem = s.mem := rfl
  have ls := kept (modelLoadBody none (markStarted (loadCopying n) 0) loadCmd)
  rw [same, kept, loaded, complete_ls, complete_ls, stored, stored, writeSections_copies ho garr draw mem, hm] at ls
  exact absurd ls.symm (show ¬ KMap.writeN mem0 [] 0 (KMap.readN mem0 [(Config.hbmBase, 1)] Config.hbmBase 8) = [] by decide)

/-- O40 says no more and no less than that every free value is even: `Config.freeDword` has no body, so that neither it nor its negation
can be proved. -/
theorem modelSlotsAndHbmErrors_iff : Obligations.ModelSlotsAndHbmErrors ↔ DrawsEven := by
  refine ⟨fun h n => ?_, modelSlotsAndHbmErrors_of_even⟩
  by_contra odd
  exact not_modelSlotsAndHbmErrors_of_odd (n := n) (by omega) h

end Sys2Proof.Machine
end

section
/-! PROOFS. The links of U and of the spokes (R24, R235, R236, R239 to R243, R259): L0, training, Recovery, Detect and their errors, and
what each row does in each case. -/

namespace Sys2Proof.Machine

/-! ### U -/

section
variable {u : ULink} {rate width : Nat}

/-- An L0p step of U keeps its rate and goes to a width it may have (Table 10.1, log entry 31). -/
theorem uL0p_iff : uL0p u rate width = true ↔
    u.l0 = true ∧ u.recovering = false ∧ rate = u.rate ∧ (width = 4 ∨ width = 8 ∨ width = 16) ∧ width ≤ u.width := by
  simp [uL0p, l0pStep, and_assoc, or_assoc]

theorem uUp_lanes (h : uL0p u rate width = true) : uUp u rate width = { u with l0p := decide (width < u.width) } := if_pos h

theorem uUp_trained (h : ¬ uL0p u rate width = true) :
    uUp u rate width = { u with l0 := true, rate := rate, width := width, recovering := false, l0p := false } := if_neg h

end

section
variable {s : State} {rate width v b : Nat}

theorem hostConfigures_stays (hv : s.qc.vfs ≠ 0 ∨ 63 < v) (hb : b < 20 ∨ 36 < b) : hostConfigures s v b = s := by
  have vfs : ¬ (s.qc.vfs = 0 ∧ v ≤ Config.totalVfs) := by simp only [Config.totalVfs]; omega
  have bar : ¬ (20 ≤ b ∧ b ≤ 36) := by omega
  simp only [hostConfigures, if_neg vfs, if_neg bar]

theorem hostConfigures_both (hv : s.qc.vfs = 0) (hm : v ≤ 63) (hl : 20 ≤ b) (hh : b ≤ 36) : hostConfigures s v b =
    { s with qc := { s.qc with vfs := v }, regs := { s.regs with bar2Size := 2 ^ b } } := by
  have vfs : s.qc.vfs = 0 ∧ v ≤ Config.totalVfs := ⟨hv, hm⟩
  simp only [hostConfigures, if_pos vfs, if_pos (And.intro hl hh)]

theorem exec_uLinkUp_up (hr : s.crd.phase = .running) (hf : s.crd.fallback = false) (hp : s.crd.perstN = true)
    (hl : linkForm rate width = true) : exec (.uLinkUp rate width v b) s = .next (settle (hostConfigures (linkResume
      { s with links := { s.links with u := uUp s.links.u rate width } } 8) v b)) :=
  congrArg done (if_pos ⟨hr, by simp [hf], hp, hl⟩)

theorem exec_uLinkUp_stays
    (h : s.crd.phase ≠ .running ∨ s.crd.fallback = true ∨ s.crd.perstN = false ∨ linkForm rate width = false) :
    exec (.uLinkUp rate width v b) s = .next (settle s) :=
  congrArg done (if_neg (by rcases h with h | h | h | h <;> simp [h]))

theorem exec_uRecovery_leaves (hl : s.links.u.l0 = true) (hr : s.links.u.recovering = false) (why : LinkCause) :
    exec (.uRecovery (some why)) s = .next (settle (uLeaves s why)) :=
  congrArg done (if_pos ⟨hl, by simp [hr]⟩)

theorem exec_uRecovery_stays (h : s.links.u.l0 = false ∨ s.links.u.recovering = true) (why : LinkCause) :
    exec (.uRecovery (some why)) s = .next (settle s) :=
  congrArg done (if_neg (by rcases h with h | h <;> simp [h]))

theorem exec_uRecovery_returns (h : s.links.u.recovering = true) : exec (.uRecovery none) s = .next (settle (linkResume
    { s with links := { s.links with u := { s.links.u with recovering := false } } } 8)) :=
  congrArg done (if_pos h)

end

/-! ### Training (R24, R240, R241, R259) -/

theorem refClock_iff (s : State) (n : Nat) : refClock s n = true ↔
    s.crd.fallback = false ∧ ((getDom s (6 + n)).cur = .on ∨ (getDom s (6 + n)).cur = .gated) := by
  simp [refClock]

section
variable {s : State} {n : Fin 8}

theorem exec_sperstNDeassert_trains (hp : (getAcc s n.val).phase = .link) (hs : (getSpoke s n.val).sperstHigh = false)
    (hd : domOn s (6 + n.val) = true) (hr : refClock s n.val = true) (hc : (getSpoke s n.val).clkSince + 100 ≤ s.tick)
    (hv : (getRail (getAcc s n.val) 4).onSince + 100 ≤ s.tick) :
    exec (.sperstNDeassert n) s = .next (settle (setSpoke s n.val (latchTraining s n.val
      { getSpoke s n.val with sperstHigh := true, link := .training, since := s.tick }))) :=
  congrArg done ((if_pos ⟨hp, by simp [hs], hr, hc, hv⟩).trans (if_pos hd))

/-- Before its reference clock and VCORE have run for 100 us, SPERST_N stays low (R240). -/
theorem exec_sperstNDeassert_stays (h : refClock s n.val = false ∨ s.tick < (getSpoke s n.val).clkSince + 100
    ∨ s.tick < (getRail (getAcc s n.val) 4).onSince + 100) : exec (.sperstNDeassert n) s = .next (settle s) := by
  refine congrArg done (if_neg ?_)
  rintro ⟨-, -, hr, hc, hv⟩
  rcases h with h | h | h
  · exact Bool.false_ne_true (h.symm.trans hr)
  · exact Nat.not_le.mpr h hc
  · exact Nat.not_le.mpr h hv

theorem exec_spokeTrainingRetry_trains {t : Nat} (hr : (getSpoke s n.val).retryAt = some t) (hd : (getSpoke s n.val).linkDown = true)
    (hl : (getSpoke s n.val).link ≠ .l0) (ha : accLive (getAcc s n.val) = true) (ht : t ≤ s.tick) :
    exec (.spokeTrainingRetry n) s = .next (settle (setSpoke s n.val (latchTraining s n.val
      { getSpoke s n.val with link := .training, since := s.tick, retryAt := some (s.tick + 100000) }))) := by
  change execSpokeTrainingRetry n s = _
  simp only [execSpokeTrainingRetry, hr]
  exact congrArg done (if_pos ⟨hd, hl, ht, ha⟩)

theorem exec_spokeTrainingRetry_early {t : Nat} (hr : (getSpoke s n.val).retryAt = some t) (ht : s.tick < t) :
    exec (.spokeTrainingRetry n) s = .next (settle s) := by
  change execSpokeTrainingRetry n s = _
  simp only [execSpokeTrainingRetry, hr]
  exact congrArg done (if_neg fun ⟨_, _, due, _⟩ => Nat.not_le.mpr ht due)

theorem exec_spokeTrainingTimeout_early (ht : s.tick < (getSpoke s n.val).since + 20000) :
    exec (.spokeTrainingTimeout n) s = .next (settle s) :=
  congrArg done (if_neg fun ⟨_, _, due⟩ => Nat.not_le.mpr ht due)

/-- 20 ms without L0 on the way from RETAIN leave An in IDLE, its boot window as it was (log entry 38). -/
theorem exec_spokeTrainingTimeout_retain (hp : (getAcc s n.val).phase = .link) (hl : (getSpoke s n.val).link = .training)
    (ht : (getSpoke s n.val).since + 20000 ≤ s.tick) (hb : (getAcc s n.val).before = .retain) :
    exec (.spokeTrainingTimeout n) s = .next (settle (endTransition (setAcc s n.val
      { getAcc s n.val with st := .idle, share := plimApplied (getAcc s n.val) }) n.val { status := .linkNotReady })) := by
  refine congrArg done ((if_pos ⟨hp, hl, ht⟩).trans ?_)
  have kept : ¬ ((getAcc s n.val).before = .off ∨ (getAcc s n.val).before = .aux) := by simp [hb]
  simp only [if_neg kept]

end

/-! ### L0 of a spoke (R241, R242) -/

section
variable {s : State} {n : Fin 8} {rate width : Nat} (hf : linkForm rate width = true) (hr : rate ≤ (getSpoke s n.val).maxRate)
  (hw : width ≤ (getSpoke s n.val).maxWidth) (hd : domOn s (6 + n.val) = true)
include hf hr hw hd

/-- A rate and a width that the spoke trains toward pass the checks of a report. -/
theorem spokeLinkUp_admits : ¬ ((!linkForm rate width) = true ∨ (getSpoke s n.val).maxRate < rate
    ∨ (getSpoke s n.val).maxWidth < width ∨ (!domOn s (6 + n.val)) = true) := by
  simp [hf, hd, hr, hw]

theorem exec_spokeLinkUp_trained (hl : (getSpoke s n.val).link = .training) :
    exec (.spokeLinkUp n rate width) s = .next (settle (setSpoke s n.val
      { linkAt (getSpoke s n.val) rate width with since := s.tick, enum := .readiness, trained := true })) :=
  congrArg done ((if_neg (spokeLinkUp_admits hf hr hw hd)).trans (if_pos hl))

theorem exec_spokeLinkUp_returns
    (hl : (getSpoke s n.val).link = .recovery ∨ ((getSpoke s n.val).link = .l0 ∧ (getSpoke s n.val).locked = false))
    (he : (getSpoke s n.val).enum = .done) : exec (.spokeLinkUp n rate width) s = .next (settle (linkResume
      (spokeBecameReady (setSpoke s n.val (linkAt (getSpoke s n.val) rate width)) n.val) n.val)) := by
  have idle : (getSpoke s n.val).link ≠ .training := by rcases hl with h | h <;> simp [h]
  have back : (getSpoke s n.val).link = .recovery ∨ ((getSpoke s n.val).link = .l0 ∧ (!(getSpoke s n.val).locked) = true) := by
    simpa using hl
  exact congrArg done ((if_neg (spokeLinkUp_admits hf hr hw hd)).trans
    ((if_neg idle).trans ((if_pos back).trans (if_pos he))))

/-- In L0 with its PLL locked a report is an L0p step or nothing. -/
theorem exec_spokeLinkUp_l0 (hl : (getSpoke s n.val).link = .l0) (hk : (getSpoke s n.val).locked = true) :
    exec (.spokeLinkUp n rate width) s = .next (settle (if spokeL0p s n.val rate width = true then
      setSpoke s n.val { getSpoke s n.val with lanes := width } else s)) := by
  have idle : (getSpoke s n.val).link ≠ .training := by simp [hl]
  have stayed : ¬ ((getSpoke s n.val).link = .recovery ∨ ((getSpoke s n.val).link = .l0 ∧ (!(getSpoke s n.val).locked) = true)) := by
    simp [hl, hk]
  exact congrArg done ((if_neg (spokeLinkUp_admits hf hr hw hd)).trans ((if_neg idle).trans (if_neg stayed)))

end

/-- An L0p step of a spoke, as U's, needs L0P_EN below the negotiated width (Table 10.7). -/
theorem spokeL0p_iff {s : State} {n rate width : Nat} : spokeL0p s n rate width = true ↔
    (getSpoke s n).link = .l0 ∧ (getSpoke s n).locked = true ∧ rate = (getSpoke s n).rate
    ∧ (width = 4 ∨ width = 8 ∨ width = 16) ∧ width ≤ (getSpoke s n).width
    ∧ (width = (getSpoke s n).width ∨ cfgF s (0x508104 + 0x40 * n) 4 4 = 1) := by
  simp [spokeL0p, l0pStep, and_assoc, or_assoc]

/-! ### A spoke that stops being ready (R242) -/

section
variable {s : State} {n : Nat}

theorem getSpoke_holdSpoke (k : Nat) : getSpoke (holdSpoke s n) k = getSpoke s k := rfl

theorem holdSpoke_pm : (holdSpoke s n).pm = s.pm := rfl

theorem getSpoke_spokeNotReady (l : LinkSt) : getSpoke (spokeNotReady s n l) n = { getSpoke s n with
    link := l, ready := false, downSince := if (getSpoke s n).ready then s.tick else (getSpoke s n).downSince } := by
  rw [spokeNotReady, getSpoke_holdSpoke, getSpoke_modSpoke, if_pos rfl]

/-- Which commands a spoke holds is no matter of its own state. -/
theorem spokeNotReady_qc (l : LinkSt) : (spokeNotReady s n l).qc = (holdSpoke s n).qc := rfl

theorem spokeNotReady_pm (l : LinkSt) : (spokeNotReady s n l).pm = s.pm := rfl

theorem holdSpoke_setSpoke_qc (x : Spoke) : (holdSpoke (setSpoke s n x) n).qc = (holdSpoke s n).qc := rfl

/-- A spoke in L0 with its Recovery counted (Table 10.7). -/
def recoveryCounted (s : State) (n : Nat) : Spoke :=
  { getSpoke s n with recoveries := satN 8 ((getSpoke s n).recoveries + 1), recoverySince := s.tick }

theorem enterRecovery_l0 (h : (getSpoke s n).link = .l0) : enterRecovery s n =
    spokeNotReady (setSpoke (count s (194 + 4 * n) {}) n (recoveryCounted s n)) n .recovery := by
  rw [enterRecovery, if_pos h, recoveryCounted]
  simp only [count_keeps]

theorem enterRecovery_stays (h : (getSpoke s n).link ≠ .l0) : enterRecovery s n = s := if_neg h

theorem getSpoke_enterRecovery (h : (getSpoke s n).link = .l0) : getSpoke (enterRecovery s n) n = { recoveryCounted s n with
    link := .recovery, ready := false, downSince := if (getSpoke s n).ready then s.tick else (getSpoke s n).downSince } := by
  rw [enterRecovery_l0 h, getSpoke_spokeNotReady, getSpoke_setSpoke, if_pos rfl]
  simp [recoveryCounted]

end

/-! ### Events of a spoke in L0 (R239, R242, R259) -/

section
variable {s : State} {n : Fin 8} (hl : (getSpoke s n.val).link = .l0)
include hl

theorem exec_spokeRecovery_corrected : exec (.spokeRecovery ⟨n, .corrected⟩) s =
    .next (settle (enterRecovery (ltAdd (count s (195 + 4 * n.val) {}) 31) n.val)) :=
  congrArg done (if_pos hl)

theorem exec_spokeRecovery_relock : exec (.spokeRecovery ⟨n, .relock⟩) s =
    .next (settle (spokeNotReady (modSpoke s n.val (fun x => { x with locked := false })) n.val .l0)) :=
  congrArg done (if_pos hl)

/-- A fatal error fails the transfer on the spoke, and the port retrains (R85, R259). -/
theorem exec_spokeFatalError_transfer {m : Move} (hm : spokeMove s n.val = some m) (hd : m.stage = .data) :
    exec (.spokeFatalError n) s = .next (settle (enterRecovery (failMove
      (modSpoke s n.val (fun x => { x with aer := x.aer + 1 })) m { status := .dataError }) n.val)) := by
  refine congrArg done ((if_pos hl).trans ?_)
  have move : spokeMove (modSpoke s n.val (fun x => { x with aer := x.aer + 1 })) n.val = some m := hm
  simp only [move, if_pos hd]

theorem exec_spokeFatalError_idle (hm : spokeMove s n.val = none) : exec (.spokeFatalError n) s =
    .next (settle (enterRecovery (modSpoke s n.val (fun x => { x with aer := x.aer + 1 })) n.val)) := by
  refine congrArg done ((if_pos hl).trans ?_)
  have move : spokeMove (modSpoke s n.val (fun x => { x with aer := x.aer + 1 })) n.val = none := hm
  simp only [move]

theorem exec_inboundRequest_counted : exec (.inboundRequest n) s = .next (settle (modSpoke s n.val
    (fun x => { x with inboundUr := satN 8 (x.inboundUr + 1), aer := x.aer + 1 }))) :=
  congrArg done (if_pos hl)

end

section
variable {s : State} {n : Fin 8} (hl : (getSpoke s n.val).link ≠ .l0)
include hl

theorem exec_spokeRecovery_stays (why : LinkCause) : exec (.spokeRecovery ⟨n, why⟩) s = .next (settle s) := by
  cases why with
  | recovery => exact congrArg done (enterRecovery_stays hl)
  | corrected => exact congrArg done (if_neg hl)
  | relock => exact congrArg done (if_neg hl)

theorem exec_spokeFatalError_stays : exec (.spokeFatalError n) s = .next (settle s) := congrArg done (if_neg hl)

theorem exec_inboundRequest_stays : exec (.inboundRequest n) s = .next (settle s) := congrArg done (if_neg hl)

end

/-- Settles O42: each row by the state of its link, and by its times. -/
theorem linksTrain : Obligations.LinksTrain := by
  refine ⟨fun s rate width hr hf hp hl v b => exec_uLinkUp_up hr hf hp hl, ?lanes, fun s v b => hostConfigures_stays,
    fun s v b => hostConfigures_both, fun s rate width v b => exec_uLinkUp_stays, fun s => ⟨rfl, rfl, rfl⟩, fun s => rfl, ?leaves,
    ?ignored, fun s => exec_uRecovery_returns, refClock_iff, ?sperst, fun s n h => exec_sperstNDeassert_stays (.inl h), ?spokeUp,
    ?spokeL0, ?spokeNotL0, fun s n hl ha => congrArg done (if_pos ⟨hl, ha⟩), ?retry, ?timeout⟩
  case lanes =>
    refine fun u rate width => ⟨fun h0 h1 h2 h3 h4 => uUp_lanes (uL0p_iff.mpr ⟨h0, h1, h2, h3, h4⟩), fun h => uUp_trained ?_⟩
    rw [uL0p_iff]
    rintro ⟨h0, h1, h2, -, h4⟩
    rcases h with h | h | h | h
    · exact Bool.false_ne_true (h.symm.trans h0)
    · exact Bool.false_ne_true (h1.symm.trans h)
    · exact h h2
    · exact Nat.not_le.mpr h h4
  case leaves =>
    intro s hl hr u
    exact ⟨exec_uRecovery_leaves hl hr .recovery, exec_uRecovery_leaves hl hr .corrected, exec_uRecovery_leaves hl hr .relock⟩
  case ignored =>
    intro s e h he
    obtain ⟨why, rfl⟩ := Option.ne_none_iff_exists'.mp he
    exact exec_uRecovery_stays h why
  case sperst =>
    intro s n hp hs hd hr
    exact ⟨fun hc hv => exec_sperstNDeassert_trains hp hs hd hr hc hv, fun h => exec_sperstNDeassert_stays (.inr h)⟩
  case spokeUp =>
    intro s n rate width hf hr hw hd y
    refine ⟨fun hl => exec_spokeLinkUp_trained hf hr hw hd hl, fun hl he => exec_spokeLinkUp_returns hf hr hw hd hl he,
      fun hl hk ht hx hn => ⟨fun h => ?steps, fun h hp => ?forbidden⟩⟩
    case steps => rw [exec_spokeLinkUp_l0 hf hr hw hd hl hk, if_pos (spokeL0p_iff.mpr ⟨hl, hk, ht, hx, hn, h⟩)]
    case forbidden =>
      have stays : ¬ spokeL0p s n.val rate width = true := by
        rw [spokeL0p_iff]
        rintro ⟨-, -, -, -, -, same | permitted⟩
        · exact h.ne same
        · omega
      rw [exec_spokeLinkUp_l0 hf hr hw hd hl hk, if_neg stays]
  case spokeL0 =>
    intro s n hl x down r
    refine ⟨rfl, ?qc, ?pm, ?spoke, exec_spokeRecovery_corrected hl, ⟨_, exec_spokeRecovery_relock hl, spokeNotReady_pm .l0, ?relocked,
      (spokeNotReady_qc .l0).trans (holdSpoke_setSpoke_qc _)⟩, fun m => exec_spokeFatalError_transfer hl,
      exec_spokeFatalError_idle hl, exec_inboundRequest_counted hl⟩
    case qc =>
      rw [enterRecovery_l0 hl, spokeNotReady_qc, holdSpoke_setSpoke_qc]
      exact (holdSpoke_setSpoke_qc _).symm
    case pm => rw [enterRecovery_l0 hl, spokeNotReady_pm, holdSpoke_pm]; rfl
    case spoke =>
      rw [getSpoke_enterRecovery hl, getSpoke_holdSpoke, getSpoke_setSpoke, if_pos rfl]
      rfl
    case relocked =>
      rw [getSpoke_spokeNotReady, getSpoke_modSpoke, if_pos rfl]
      rfl
  case spokeNotL0 =>
    exact fun s n why hl => ⟨exec_spokeRecovery_stays hl why, exec_spokeFatalError_stays hl, exec_inboundRequest_stays hl⟩
  case retry =>
    exact fun s n t hr hd hl ha => ⟨exec_spokeTrainingRetry_trains hr hd hl ha, exec_spokeTrainingRetry_early hr⟩
  case timeout =>
    exact fun s n hp hl => ⟨exec_spokeTrainingTimeout_early, exec_spokeTrainingTimeout_retain hp hl⟩

end Sys2Proof.Machine
end

section
/-! PROOFS. Enumeration, the contract's handshakes and held commands (R238, R242, R244 to R252, Table 11.2), and SPOKE_CTRL.RETRAIN (Table
10.6): what each row does in each case. -/

namespace Sys2Proof.Machine

/-! ### Enumeration (R238, R244, R246) -/

theorem barsFit_iff (bs : List BarIn) : barsFit bs = true ↔
    ((bs.filter (fun b => !b.wide)).map BarIn.size).sum ≤ 2 ^ 32 ∧ (bs.map BarIn.size).sum ≤ 2 ^ 36 := by
  simp [barsFit]

theorem findsContract_iff (e : EnumIn) : findsContract e = true ↔
    ∃ c, contractCap e = some c ∧ (barAt e (c.loc % 8)).isSome = true ∧ e.kcId / 2 ^ 8 = 0x4B4301 := by
  unfold findsContract
  cases contractCap e <;> simp

section
variable {s : State} {n : Nat} {e : EnumIn}

/-- Within 100 ms of L0 only the readiness message of an accelerator that shows a contract, and whose BARs fit, is enough. -/
theorem mayEnumerate_early (ht : s.tick < (getSpoke s n).since + 100000)
    (h : (getSpoke s n).enum = .readiness ∨ barsFit e.bars = false ∨ findsContract e = false) : mayEnumerate s n e = false := by
  have early : ¬ (getSpoke s n).since + 100000 ≤ s.tick := Nat.not_le.mpr ht
  rcases h with h | h | h <;> simp [mayEnumerate, early, h]

section
variable (hl : (getSpoke s n).link = .l0) (hk : (getSpoke s n).locked = true)
include hl hk

theorem mayEnumerate_told (h : (getSpoke s n).enum = .enumerate) (hf : barsFit e.bars = true) (hc : findsContract e = true) :
    mayEnumerate s n e = true := by
  simp [mayEnumerate, hl, hk, h, hf, hc]

theorem mayEnumerate_waited (h : (getSpoke s n).enum = .enumerate ∨ (getSpoke s n).enum = .readiness)
    (ht : (getSpoke s n).since + 100000 ≤ s.tick) : mayEnumerate s n e = true := by
  simp [mayEnumerate, hl, hk, h, ht]

end
end

/-- A spoke whose BARs are placed: memory decode on, and the windows of the block that the capability locates. -/
def placedSpoke (s : State) (n : Nat) (e : EnumIn) : Spoke :=
  { contractWindows e (getSpoke s n) with enumErr := false, memSpace := true, since := s.tick }

section
variable {s : State} {n : Fin 8} {e : EnumIn}

theorem exec_spokeEnumeration_stays (h : mayEnumerate s n.val e = false) :
    exec (.spokeEnumeration n e) s = .next (settle s) :=
  congrArg done (if_pos (by simp [h]))

section
variable (h : mayEnumerate s n.val e = true)
include h

theorem exec_spokeEnumeration_misfit (hf : barsFit e.bars = false) : exec (.spokeEnumeration n e) s = .next (settle (enumDone
    (setSpoke s n.val { getSpoke s n.val with enumErr := true, memSpace := false }) n.val false false)) :=
  congrArg done ((if_neg (by simp [h])).trans (if_pos (by simp [hf])))

theorem exec_spokeEnumeration_placed (hf : barsFit e.bars = true) (hp : barsPlaced e.bars = true) :
    exec (.spokeEnumeration n e) s = .next (settle (if findsContract e = true then
      setSpoke s n.val { placedSpoke s n.val e with enum := .poll }
      else enumDone (setSpoke s n.val (placedSpoke s n.val e)) n.val false false)) :=
  congrArg done ((if_neg (by simp [h])).trans ((if_neg (by simp [hf])).trans (if_neg (by simp [hp]))))

end

/-! ### KC_STAT.READY (R244, R245) -/

theorem exec_contractPoll_ready (hl : (getSpoke s n.val).link = .l0) (hk : (getSpoke s n.val).locked = true)
    (he : (getSpoke s n.val).enum = .poll) (ht : s.tick ≤ (getSpoke s n.val).since + 1000) (kept : Bool) :
    exec (.contractPoll n true kept) s = .next (settle (enumDone s n.val true kept)) :=
  congrArg done (if_pos ⟨hl, hk, he, rfl, ht⟩)

theorem exec_contractPoll_notReady (kept : Bool) : exec (.contractPoll n false kept) s = .next (settle s) :=
  congrArg done (if_neg (by simp))

theorem exec_contractTimeout_due (he : (getSpoke s n.val).enum = .poll) (ht : (getSpoke s n.val).since + 1000 ≤ s.tick) :
    exec (.contractTimeout n) s = .next (settle (enumDone
      (accEvent (setSpoke s n.val { getSpoke s n.val with contractTimeout := true }) n.val 4) n.val false false)) :=
  congrArg done (if_pos ⟨he, ht⟩)

theorem exec_contractTimeout_early (ht : s.tick < (getSpoke s n.val).since + 1000) :
    exec (.contractTimeout n) s = .next (settle s) :=
  congrArg done (if_neg fun ⟨_, due⟩ => Nat.not_le.mpr ht due)

end

/-! ### The mailbox (R249, R250) -/

section
variable {s : State} {m : Move}

theorem mbxFailed_begin (h : m.stage = .begin) (value : Nat) : mbxFailed s m value = failMove s m (refuse .accNotReady 5 value) := by
  simp only [mbxFailed, h]

/-- A failed END leaves the result standing, whatever failed it (R250). -/
theorem mbxFailed_ending (h : m.stage = .ending) (value : Nat) : mbxFailed s m value =
    finishMove (accEvent (modSpoke s m.spoke (fun x => { x with mbxErr := true })) m.spoke 2) m := by
  simp only [mbxFailed, h]

theorem mbxAnswer_begun (h : m.stage = .begin) : mbxAnswer s m 0 = modMove s m.cmd (fun x => { x with stage := .data }) := by
  simp [mbxAnswer, h]

theorem mbxAnswer_ended (h : m.stage = .ending) : mbxAnswer s m 0 = finishMove s m := by
  simp [mbxAnswer, h]

theorem mbxAnswer_refused {status : Nat} (h : status ≠ 0) :
    mbxAnswer s m status = mbxFailed s m (if status = 2 then 0x12 else 0x11) := if_neg h

end

section
variable {s : State} {n : Fin 8} {m : Move} (hm : spokeMove s n.val = some m)
include hm

theorem exec_mbxAckPoll_answered (hw : mbxWaits m = true) (hr : spokeReady s n.val = true) (ht : s.tick ≤ mbxEnd s n.val m)
    (status : Nat) : exec (.mbxAckPoll n m.mbxSeq status) s = .next (settle (mbxAnswer s m status)) := by
  change execMbxAckPoll n m.mbxSeq status s = _
  simp only [execMbxAckPoll, hm]
  exact congrArg done (if_pos (by simp [hw, hr, ht]))

theorem exec_mbxAckPoll_ignored {q : Nat} (h : q ≠ m.mbxSeq ∨ mbxEnd s n.val m < s.tick) (status : Nat) :
    exec (.mbxAckPoll n q status) s = .next (settle s) := by
  change execMbxAckPoll n q status s = _
  simp only [execMbxAckPoll, hm]
  refine congrArg done (if_neg ?_)
  rcases h with h | h
  · simp [h.symm]
  · simp [Nat.not_le.mpr h]

theorem exec_mbxTimeout_due (hw : mbxWaits m = true) (ht : mbxEnd s n.val m ≤ s.tick) :
    exec (.mbxTimeout n) s = .next (settle (mbxFailed s m 0x20)) := by
  change execMbxTimeout n s = _
  simp only [execMbxTimeout, hm]
  exact congrArg done (if_pos (by simp [hw, ht]))

theorem exec_mbxTimeout_early (ht : s.tick < mbxEnd s n.val m) : exec (.mbxTimeout n) s = .next (settle s) := by
  change execMbxTimeout n s = _
  simp only [execMbxTimeout, hm]
  exact congrArg done (if_neg (by simp [Nat.not_le.mpr ht]))

end

/-! ### The RETAIN handshake (R251) -/

theorem exec_retainPoll_silent {s : State} {n : Fin 8} : exec (.retainPoll n false none) s = .next (settle s) :=
  congrArg done (ite_self s)

section
variable {s : State} {n : Fin 8} (hs : getStop s n.val = none)
include hs

/-- The grace of a command's handshake began with the command. -/
theorem graceFrom_command : graceFrom s n.val = (getAcc s n.val).since := by
  simp only [graceFrom, hs]

section
variable (hp : (getAcc s n.val).phase = .handshake) (hr : spokeReady s n.val = true)
  (ht : s.tick ≤ (getAcc s n.val).since + graceUs s n.val)
include hp hr ht

theorem exec_retainPoll_ready (b : Option Byte) : exec (.retainPoll n true b) s = .next (settle (startDown s n.val)) := by
  have command : ¬ (getStop s n.val).isSome = true := by simp [hs]
  exact congrArg done ((if_pos ⟨hp, hr, (graceFrom_command hs).symm ▸ ht⟩).trans (if_neg command))

theorem exec_retainPoll_refused (why : Byte) : exec (.retainPoll n false (some why)) s = .next (settle (handshakeFails
    (setSpoke s n.val { getSpoke s n.val with reason := why }) n.val 0x11)) :=
  congrArg done (if_pos ⟨hp, hr, (graceFrom_command hs).symm ▸ ht⟩)

end

theorem exec_retainGraceExpiry_due (hp : (getAcc s n.val).phase = .handshake)
    (ht : (getAcc s n.val).since + graceUs s n.val ≤ s.tick) :
    exec (.retainGraceExpiry n) s = .next (settle (handshakeFails s n.val 0x12)) :=
  congrArg done (if_pos ⟨hp, by simp [hs], (graceFrom_command hs).symm ▸ ht⟩)

theorem exec_retainGraceExpiry_early (ht : s.tick < (getAcc s n.val).since + graceUs s n.val) :
    exec (.retainGraceExpiry n) s = .next (settle s) :=
  congrArg done (if_neg fun ⟨_, _, due⟩ => Nat.not_le.mpr ht (graceFrom_command hs ▸ due))

end

/-! ### Held commands (R242) -/

section
variable {s : State} {c t : Nat} {cmd : Cmd} (hc : findCmd s c = some cmd) (hh : cmd.holdSince = some t)
include hc hh

theorem spokeHoldExpiry_early (ht : s.tick < t + 10000) : spokeHoldExpiry c s = s := by
  simp only [spokeHoldExpiry, hc, hh, if_pos ht]

variable (ht : t + 10000 ≤ s.tick) (ho : cmd.op ≠ 0x20)
include ht ho

theorem spokeHoldExpiry_command (hm : findMove s c = none) : spokeHoldExpiry c s =
    complete (sealDrop (modCmd s c (fun x => { x with held := true, holdSince := none })) c) c { status := .linkNotReady } := by
  have none : findMove (modCmd s c (fun x => { x with held := true, holdSince := none })) c = none := hm
  simp only [spokeHoldExpiry, hc, hh, if_neg (Nat.not_lt.mpr ht), if_neg ho, none]

/-- A move that has not passed its commit point fails. -/
theorem spokeHoldExpiry_move {m : Move} (hm : findMove s c = some m) (he : m.stage ≠ .ending) : spokeHoldExpiry c s =
    failMove (modCmd s c (fun x => { x with held := true, holdSince := none })) m { status := .linkNotReady } := by
  have move : findMove (modCmd s c (fun x => { x with held := true, holdSince := none })) c = some m := hm
  simp only [spokeHoldExpiry, hc, hh, if_neg (Nat.not_lt.mpr ht), if_neg ho, move, if_neg he]

end

/-! ### SPOKE_CTRL.RETRAIN (R241, Table 10.6) -/

/-- A bit of a written word, as the registers take it. -/
theorem wbit_toNat (v : Word) (i : Nat) : wbit v.toNat i = v.getLsbD i := by
  rw [BitVec.getLsbD, Nat.testBit_eq_decide_div_mod_eq, wbit, Nat.shiftRight_eq_div_pow]

section
variable {s : State} {n : Nat} {v : Word}

/-- The block once SPOKE_CTRL is stored: without L0P_EN the link carries traffic on its whole width. -/
def spokeCtrlStored (s : State) (n : Nat) (v : Word) : State :=
  if v.getLsbD 4 then putCfg s (0x508104 + 0x40 * n) v.toNat
  else modSpoke (putCfg s (0x508104 + 0x40 * n) v.toNat) n (fun x => { x with lanes := x.width })

theorem spokeCtrlStored_link : (getSpoke (spokeCtrlStored s n v) n).link = (getSpoke s n).link := by
  have stored (k w : Nat) : getSpoke (putCfg s k w) = getSpoke s := rfl
  unfold spokeCtrlStored
  split
  · rw [stored]
  · rw [getSpoke_modSpoke, if_pos rfl, stored]

variable (hr : v.getLsbD 16 = true)
include hr

theorem spokeCtrlWrite_busy (hi : (getAcc s n).st ≠ .idle) (hu : (getAcc s n).st ≠ .run) :
    spokeCtrlWrite s n v.toNat = setBusy s 7 := by
  have away : (wbit v.toNat 16 && !((getAcc s n).st = .idle || (getAcc s n).st = .run)) = true := by simp [wbit_toNat, hr, hi, hu]
  exact if_pos (by simp only [away, Bool.or_true])

/-- A good write with RETRAIN takes a spoke in L0 into Recovery, toward the rate and width written. -/
theorem spokeCtrlWrite_retrains (hlo : 1 ≤ bf v 3 0) (hhi : bf v 3 0 ≤ 6)
    (hw : bf v 12 8 = 1 ∨ bf v 12 8 = 4 ∨ bf v 12 8 = 8 ∨ bf v 12 8 = 16) (ha : (getAcc s n).st = .idle ∨ (getAcc s n).st = .run)
    (hl : (getSpoke s n).link = .l0) : spokeCtrlWrite s n v.toNat =
      enterRecovery (modSpoke (spokeCtrlStored s n v) n (latchTraining (spokeCtrlStored s n v) n)) n := by
  have rate : inRange (wf v.toNat 3 0) 1 6 = true := by
    simp only [inRange, Bool.and_eq_true, decide_eq_true_eq]
    exact ⟨hlo, hhi⟩
  have width : (wf v.toNat 12 8 = 1 || wf v.toNat 12 8 = 4 || wf v.toNat 12 8 = 8 || wf v.toNat 12 8 = 16) = true := by
    simp only [Bool.or_eq_true, decide_eq_true_eq, or_assoc]
    exact hw
  have live : ((getAcc s n).st = .idle || (getAcc s n).st = .run) = true := by simpa using ha
  have starts : v.getLsbD 16 = true ∧ (getSpoke (spokeCtrlStored s n v) n).link = .l0 := ⟨hr, spokeCtrlStored_link.trans hl⟩
  unfold spokeCtrlWrite
  simp only [rate, width, live, wbit_toNat, Bool.not_true, Bool.and_false, Bool.or_false, Bool.false_eq_true, if_false]
  exact if_pos starts

end

/-- Settles O43: each row by what its spoke waits for, by the answer, and by its times. -/
theorem enumerationAndContract : Obligations.EnumerationAndContract := by
  refine ⟨?ready, ?early, ?enumerates, barsFit_iff, findsContract_iff, ?polls, ?answers, ?timeouts, ?handshake, ?holds, ?retrain⟩
  case ready =>
    exact fun s n hl he => ⟨congrArg done (if_pos ⟨hl, he⟩),
      fun e ht => exec_spokeEnumeration_stays (mayEnumerate_early ht (.inl he))⟩
  case early => exact fun s n e h ht => exec_spokeEnumeration_stays (mayEnumerate_early ht (.inr h))
  case enumerates =>
    intro s n e hl hk x y
    refine ⟨fun h hf hp hc => ?found, fun h ht hf => exec_spokeEnumeration_misfit (mayEnumerate_waited hl hk h ht) hf,
      fun h ht hf hp hc => ?absent⟩
    case found =>
      have may : mayEnumerate s n.val e = true := by
        rcases h with h | ⟨h, ht⟩
        · exact mayEnumerate_told hl hk h hf hc
        · exact mayEnumerate_waited hl hk (.inr h) ht
      rw [exec_spokeEnumeration_placed may hf hp, if_pos hc]
      rfl
    case absent =>
      rw [exec_spokeEnumeration_placed (mayEnumerate_waited hl hk h ht) hf hp, if_neg (Bool.eq_false_iff.mp hc)]
      rfl
  case polls =>
    exact fun s n hl hk he => ⟨fun kept ht => ⟨exec_contractPoll_ready hl hk he ht kept, exec_contractPoll_notReady kept⟩,
      exec_contractTimeout_due he, exec_contractTimeout_early⟩
  case answers =>
    intro s n m q st hm hw hr lim
    have answer (ht : s.tick ≤ lim) (st : Nat) := exec_mbxAckPoll_answered hm hw hr ht st
    refine ⟨fun h => exec_mbxAckPoll_ignored hm h st, fun ht hb => ⟨?_, ?_, ?_⟩, fun ht he => ⟨?_, fun hst => ?_⟩⟩
    · rw [answer ht, mbxAnswer_begun hb]
    · rw [answer ht, mbxAnswer_refused (by decide), if_pos rfl, mbxFailed_begin hb]
    · rw [answer ht, mbxAnswer_refused (by decide), if_neg (by decide), mbxFailed_begin hb]
    · rw [answer ht, mbxAnswer_ended he]
    · rw [answer ht, mbxAnswer_refused hst, mbxFailed_ending he]
  case timeouts =>
    intro s n m hm hw lim
    refine ⟨exec_mbxTimeout_early hm, fun ht hb => ?_, fun ht he => ?_⟩
    · rw [exec_mbxTimeout_due hm hw ht, mbxFailed_begin hb]
    · rw [exec_mbxTimeout_due hm hw ht, mbxFailed_ending he]
  case handshake =>
    exact fun s n why hp hs => ⟨fun hr ht => ⟨exec_retainPoll_ready hs hp hr ht, exec_retainPoll_refused hs hp hr ht why,
      exec_retainPoll_silent⟩, exec_retainGraceExpiry_due hs hp, exec_retainGraceExpiry_early hs⟩
  case holds =>
    exact fun s c t cmd hc hh => ⟨fun ht => congrArg done (spokeHoldExpiry_early hc hh ht),
      fun ht ho hm => congrArg done (spokeHoldExpiry_command hc hh ht ho hm),
      fun m ht ho hm he => congrArg done (spokeHoldExpiry_move hc hh ht ho hm he)⟩
  case retrain =>
    intro s n v hu hlo hhi hw hr u w
    refine ⟨fun ha hl => ?_, fun hi hn => ?_⟩
    · rw [exec_retrain n v hu, spokeCtrlWrite_retrains hr hlo hhi hw ha hl]
      rfl
    · rw [exec_retrain n v hu, spokeCtrlWrite_busy hr hi hn]

end Sys2Proof.Machine
end

section
/-! PROOFS. ACC_POWER_STATE, the rail sequences, power-good and the cut of an accelerator (R264 to R272, R281, Tables 11.2 to 11.5): each
row by its cases, and what a cut leaves of the state that it meets. -/

namespace Sys2Proof.Machine

/-! ### ACC_POWER_STATE (R264, R265, R281) -/

section
variable {s : State} {c : Nat} {cmd : Cmd}

/-- One transition of An at a time. -/
theorem exec_accPowerState_waits (hf : findCmd s c = some cmd) (hp : (getAcc s cmd.accN).phase ≠ .none) :
    exec (.accPowerState c) s = .next (settle s) := by
  simp [exec, execAccPowerState, done, hf, hp]

/-- One that starts, with An in no transition and no stop, and the spoke domain ON where it needs it. -/
theorem exec_accPowerState_now (h : startsNow s c 0x20 none cmd = true) (hp : (getAcc s cmd.accN).phase = .none)
    (hs : getStop s cmd.accN = none) (hd : powerDoms s cmd = none) :
    exec (.accPowerState c) s = .next (settle (powerBody (markStarted s c) cmd)) := by
  rw [← startCmd_now _ noHold powerBody h hd rfl]
  simp [exec, execAccPowerState, done, startsNow_find h, hp, hs]

/-- T64's move is checked against the spoke domain once its ceiling is recorded (R281). -/
theorem powerDoms_t64 (ht : cmd.tenant = 64) : powerDoms s cmd = none := if_pos ht

theorem powerTarget_host (ht : cmd.tenant ≠ 64) : powerTarget s cmd =
    (if (getAcc s cmd.accN).stateCeil.code < (AccSt.ofCode (cmd.f 9 1)).code then (getAcc s cmd.accN).stateCeil
      else AccSt.ofCode (cmd.f 9 1)) := if_neg ht

theorem powerTarget_t64 (ht : cmd.tenant = 64) : powerTarget s cmd =
    (if AccSt.ofCode (cmd.f 9 1) = .retain ∧ (getSpoke s cmd.accN).contract = false then .aux else AccSt.ofCode (cmd.f 9 1)) := by
  simp [powerTarget, ht]

theorem powerTarget_markStarted : powerTarget (markStarted s c) cmd = powerTarget s cmd := by
  simp [powerTarget]

/-- A host's command moves An to its STATE under the ceiling, CLAMPED where that is another. -/
theorem powerBody_host (ht : cmd.tenant ≠ 64) : powerBody s cmd =
    powerMove (if powerTarget s cmd = AccSt.ofCode (cmd.f 9 1) then s
      else modCmd s cmd.seq (fun x => { x with clamped := true })) cmd (powerTarget s cmd) := if_neg ht

/-- T64's records its ceiling, and OFF ends a cut. -/
def ceilingSet (s : State) (c : Cmd) : State :=
  let want := AccSt.ofCode (c.f 9 1)
  setAcc (modAcc s c.accN (fun a => { a with stateCeil := want })) c.accN
    { getAcc s c.accN with stateCeil := want, cut := (getAcc s c.accN).cut && decide (want ≠ .off) }

/-- T64's, where An is not above the new ceiling. -/
theorem powerBody_ceiling (ht : cmd.tenant = 64) (hc : (getAcc s cmd.accN).st.code ≤ (AccSt.ofCode (cmd.f 9 1)).code) :
    powerBody s cmd = complete (ceilingSet s cmd) cmd.seq
      (okR ((getAcc s cmd.accN).st.code + 256 * (getAcc s cmd.accN).st.code)) := by
  simp [powerBody, onlyCeiling, ceilingSet, ht, hc]

section
variable (ht : cmd.tenant = 64) (hc : (AccSt.ofCode (cmd.f 9 1)).code < (getAcc s cmd.accN).st.code)
include ht hc

/-- T64's above it moves An down to it, where the spoke domain allows the move. -/
theorem powerBody_lowers
    (hm : moveLacks (modAcc s cmd.accN (fun a => { a with stateCeil := AccSt.ofCode (cmd.f 9 1) })) cmd.accN (powerTarget s cmd) = none) :
    powerBody s cmd = powerMove (modAcc s cmd.accN (fun a => { a with stateCeil := AccSt.ofCode (cmd.f 9 1) })) cmd
      (powerTarget s cmd) := by
  simp [powerBody, onlyCeiling, ht, Nat.not_le.mpr hc, hm]

theorem powerBody_lacks {d : Nat}
    (hm : moveLacks (modAcc s cmd.accN (fun a => { a with stateCeil := AccSt.ofCode (cmd.f 9 1) })) cmd.accN (powerTarget s cmd) = some d) :
    powerBody s cmd = complete (modAcc s cmd.accN (fun a => { a with stateCeil := AccSt.ofCode (cmd.f 9 1) })) cmd.seq
      (refuse .notPermitted 4 d) := by
  simp [powerBody, onlyCeiling, ht, Nat.not_le.mpr hc, hm]

end

section
variable {dest : AccSt}

theorem powerMove_refused {r : Result} (hr : powerRefusal s cmd.accN dest = some r) : powerMove s cmd dest = complete s cmd.seq r := by
  simp [powerMove, hr]

theorem powerMove_there (hr : powerRefusal s cmd.accN dest = none) (hd : (getAcc s cmd.accN).st = dest) :
    powerMove s cmd dest = complete (setAcc s cmd.accN { getAcc s cmd.accN with
      target := dest, cut := (getAcc s cmd.accN).cut && decide (dest ≠ .off) }) cmd.seq (okR (dest.code + 256 * dest.code)) := by
  simp [powerMove, hr, hd]

theorem powerMove_begins (hr : powerRefusal s cmd.accN dest = none) (hd : (getAcc s cmd.accN).st ≠ dest) :
    powerMove s cmd dest = startTransition s cmd.accN dest (some cmd.seq) := by
  simp [powerMove, hr, hd]

end
end

/-! ### The rail sequences (R266, R267, R269, R272) -/

section
variable {s : State} {n : Fin 8}

theorem enableDue_iff (s : State) (n r : Nat) : enableDue s n r = true ↔
    (∀ q ∈ (getAcc s n).upped, (getRail (getAcc s n) q).pg = true)
    ∧ ((getAcc s n).upped = [] ∨ (getAcc s n).since + upSpace (getAcc s n) ≤ s.tick) ∧ storedDue s n r = false := by
  simp [enableDue, and_assoc]

section
variable {r : Nat} {rest : List Nat} (hp : (getAcc s n.val).phase = .up (r :: rest))
include hp

theorem exec_railEnableStep_due (hd : enableDue s n.val r = true) : exec (.railEnableStep n) s =
    .next (settle (modAcc (enableRail s n.val r) n.val (fun a => { a with phase := .up rest }))) := by
  simp [exec, execRailEnableStep, done, hp, hd]

theorem exec_railEnableStep_early (hd : ¬ enableDue s n.val r = true) : exec (.railEnableStep n) s = .next (settle s) := by
  simp [exec, execRailEnableStep, done, hp, hd]

end

section
variable {todo : List Nat}

theorem exec_railDisableStep_down (hp : (getAcc s n.val).phase = .down todo)
    (ht : (getAcc s n.val).since + downSpace (getAcc s n.val) ≤ s.tick) :
    exec (.railDisableStep n) s = .next (settle (downStep s n.val todo)) := by
  simp [exec, execRailDisableStep, done, hp, ht]

theorem exec_railDisableStep_failed (hp : (getAcc s n.val).phase = .failed todo)
    (ht : (getAcc s n.val).since + downSpace (getAcc s n.val) ≤ s.tick) :
    exec (.railDisableStep n) s = .next (settle (failStep s n.val todo)) := by
  simp [exec, execRailDisableStep, done, hp, ht]

theorem exec_railDisableStep_early (ht : s.tick < (getAcc s n.val).since + downSpace (getAcc s n.val)) :
    exec (.railDisableStep n) s = .next (settle s) :=
  congrArg done (if_neg (Nat.not_le.mpr ht))

/-- A rail of an up-sequence is not good in time (R272). -/
theorem exec_pgTimeout_late {q : Nat} (hp : (getAcc s n.val).phase = .up todo) (hq : q ∈ (getAcc s n.val).upped)
    (hg : (getRail (getAcc s n.val) q).pg = false)
    (ht : (getRail (getAcc s n.val) q).onSince + pgLimit (getAcc s n.val) ≤ s.tick) :
    exec (.pgTimeout n) s = .next (settle (failStep s n.val (getAcc s n.val).upped.reverse)) := by
  have late : ((getAcc s n.val).upped.any fun q => !(getRail (getAcc s n.val) q).pg
      && decide ((getRail (getAcc s n.val) q).onSince + pgLimit (getAcc s n.val) ≤ s.tick)) = true :=
    List.any_eq_true.mpr ⟨q, hq, by simp [hg, ht]⟩
  simp only [exec, execPgTimeout, done, hp, if_pos late]

end

end

/-! ### Power-good (R269) -/

/-- A rail's first power-good after its enable, which arms it. -/
def railArmed (s : State) (n r : Nat) : State := modRail s n r (fun x => { x with pg := true, armed := true, onSince := s.tick })

/-- What a power-good means for an up-sequence with no rail left to enable: with every rail good it ends in AUX, or goes on to the link. -/
def upSequenceGood (s : State) (n : Nat) : State :=
  match (getAcc s n).phase with
  | .up [] =>
    if (getAcc s n).upped.all (fun q => (getRail (getAcc s n) q).pg) then
      (if (getAcc s n).target = .aux then transitionOk (modAcc s n (fun a => { a with st := .aux })) n
       else modAcc s n (fun a => { a with phase := .link }))
    else s
  | _ => s

theorem exec_powerGoodRise_rises {s : State} {n : Fin 8} {r : Fin 5} (he : (getRail (getAcc s n.val) r.val).en = true)
    (hg : (getRail (getAcc s n.val) r.val).pg = false) :
    exec (.powerGoodRise n r) s = .next (settle (upSequenceGood (railArmed s n.val r.val) n.val)) :=
  congrArg done (if_pos ⟨he, by simp [hg]⟩)

/-- Arming a rail leaves the transition as it is. -/
theorem railArmed_keeps (s : State) (n r : Nat) : (getAcc (railArmed s n r) n).phase = (getAcc s n).phase
    ∧ (getAcc (railArmed s n r) n).target = (getAcc s n).target ∧ (getAcc (railArmed s n r) n).upped = (getAcc s n).upped := by
  simp [railArmed, modRail, setRail]

section
variable {s : State} {n : Nat}

theorem upSequenceGood_none (hp : (getAcc s n).phase = .none) : upSequenceGood s n = s := by
  simp [upSequenceGood, hp]

section
variable (hp : (getAcc s n).phase = .up []) (hg : ∀ q ∈ (getAcc s n).upped, (getRail (getAcc s n) q).pg = true)
include hp hg

theorem upSequenceGood_aux (ht : (getAcc s n).target = .aux) :
    upSequenceGood s n = transitionOk (modAcc s n (fun a => { a with st := .aux })) n := by
  simp only [upSequenceGood, hp, if_pos (List.all_eq_true.mpr hg), if_pos ht]

theorem upSequenceGood_link (ht : (getAcc s n).target ≠ .aux) :
    upSequenceGood s n = modAcc s n (fun a => { a with phase := .link }) := by
  simp only [upSequenceGood, hp, if_pos (List.all_eq_true.mpr hg), if_neg ht]

end
end

/-! ### What the end of an accelerator's use leaves as it is (R20, R43, R270) -/

/-- What a cut of An sets once, and what decides how it is recorded. -/
structure CutPart where
  accs : Nat → Acc
  regs : RegFile
  crd : Crd
  cuts : List CutRead
  ports : KMap Port
  link : LinkSt
  ready : Bool

/-- That part of a state, with the link of spoke n. -/
def cutPart (n : Nat) (s : State) : CutPart :=
  ⟨getAcc s, s.regs, s.crd, s.tw.cuts, s.tw.ports, (getSpoke s n).link, (getSpoke s n).ready⟩

section
variable {s t u : State} (n : Nat)

theorem cutPart_ite {p : Prop} [Decidable p] (ht : cutPart n t = cutPart n s) (hu : cutPart n u = cutPart n s) :
    cutPart n (if p then t else u) = cutPart n s := by
  split
  · exact ht
  · exact hu

@[simp] theorem cutPart_complete (c : Nat) (r : Result) : cutPart n (complete s c r) = cutPart n s := by
  rw [complete_frame]
  rfl

@[simp] theorem cutPart_count (e : Nat) (o : Occ) (k : Nat) : cutPart n (count s e o k) = cutPart n s := by
  rw [count_frame]
  rfl

@[simp] theorem cutPart_failPowerCmds (m : Nat) (r : Result) : cutPart n (failPowerCmds s m r) = cutPart n s :=
  foldl_keeps (cutPart n) (fun _ _ => cutPart_complete n _ _) _ _

@[simp] theorem cutPart_sealDrop (c : Nat) : cutPart n (sealDrop s c) = cutPart n s := by
  unfold sealDrop
  split <;> rfl

@[simp] theorem cutPart_countMove (t op : Nat) (st : Status) : cutPart n (countMove s t op st) = cutPart n s := by
  unfold countMove
  split <;> simp

@[simp] theorem cutPart_completeMove (c : Cmd) (r : Result) : cutPart n (completeMove s c r) = cutPart n s :=
  (cutPart_complete n _ _).trans (cutPart_countMove n _ _ _)

/-- A move that ends gives up its seal context. -/
theorem cutPart_sealGone (m : Move) : cutPart n (if m.spoke = 8 then sealRelease s (sealWho m.cmd) else s) = cutPart n s :=
  cutPart_ite n rfl rfl

@[simp] theorem cutPart_setPending (h op : Nat) : cutPart n (setPending s h op) = cutPart n s := rfl
@[simp] theorem cutPart_freeKey (k key : Nat) : cutPart n (freeKey s k key) = cutPart n s := rfl
@[simp] theorem cutPart_dropMove (c : Nat) : cutPart n (dropMove s c) = cutPart n s := rfl
@[simp] theorem cutPart_mapRecs (f : Stratum → Stratum) : cutPart n (mapRecs s f) = cutPart n s := rfl
@[simp] theorem cutPart_ltAdd (i k : Nat) : cutPart n (ltAdd s i k) = cutPart n s := rfl

@[simp] theorem cutPart_abandonMove (m : Move) : cutPart n (abandonMove s m) = cutPart n s := by
  have freed := cutPart_sealGone (s := s) n m
  exact cutPart_ite n (by simpa using freed) (by simpa using freed)

@[simp] theorem cutPart_finishMove (m : Move) : cutPart n (finishMove s m) = cutPart n s := by
  have freed := cutPart_sealGone (s := s) n m
  exact (cutPart_completeMove n _ _).trans (cutPart_ite n (by simpa using freed) (by simpa using freed))

theorem cutPart_accGoneMove (m value : Nat) : cutPart n (accGoneMove s m value) = cutPart n s := by
  unfold accGoneMove
  split
  · rfl
  · split
    · exact cutPart_finishMove n _
    · exact (cutPart_completeMove n _ _).trans (cutPart_abandonMove n _)

@[simp] theorem cutPart_accLeft (m value : Nat) : cutPart n (accLeft s m value) = cutPart n s :=
  (foldl_keeps (cutPart n) (fun _ _ => by simp) _ _).trans (cutPart_accGoneMove n m value)

@[simp] theorem cutPart_loseAccStrata (m : Nat) : cutPart n (loseAccStrata s m) = cutPart n s := by
  refine Eq.trans (b := cutPart n (List.foldl loseRec s _)) rfl (foldl_keeps (cutPart n) (fun u h => ?_) _ s)
  unfold loseRec
  split
  · rfl
  · rw [faultLog_frame]
    rfl

@[simp] theorem cutPart_seqFails (q : DomSeq) (d k e : Nat) : cutPart n (seqFails s q d k e) = cutPart n s := cutPart_complete n _ _

theorem cutPart_modDoms (f : Nat → Dom → Dom) (ds : List Nat) : cutPart n (ds.foldl (fun s d => modDom s d (f d)) s) = cutPart n s :=
  foldl_keeps (cutPart n) (f := fun s d => modDom s d (f d)) (fun _ _ => rfl) ds s

theorem cutPart_beginDoms (t : DomSt) (ds : List Nat) : cutPart n (ds.foldl (fun s d => beginDom s d t) s) = cutPart n s :=
  foldl_keeps (cutPart n) (f := fun s d => beginDom s d t) (fun _ _ => rfl) ds s

theorem cutPart_seqRun (ds : List Nat) : ∀ (s : State) (q : DomSeq), cutPart n (seqRun s q ds) = cutPart n s := by
  induction ds with
  | nil => exact fun s q => cutPart_ite n (cutPart_complete n _ _) rfl
  | cons d ds ih =>
    exact fun s q => cutPart_ite n rfl (cutPart_ite n (cutPart_seqFails n _ _ _ _) (cutPart_ite n
      ((ih _ _).trans (cutPart_modDoms n _ _)) (cutPart_beginDoms n _ _)))

@[simp] theorem cutPart_seqPump : cutPart n (seqPump s) = cutPart n s := by
  refine foldl_keeps (cutPart n) (fun u q => ?_) _ s
  split
  · rfl
  · exact cutPart_seqRun n _ _ _

end

/-- A spoke port that stops has nothing of its link left to lose where SPERST_N is low. -/
theorem cutPart_stopSpoke {s : State} {n : Nat} (hl : (getSpoke s n).link = .off) (hr : (getSpoke s n).ready = false) :
    cutPart n (stopSpoke s n) = cutPart n s := by
  refine Eq.trans (b := cutPart n (setSpoke s n _)) rfl ?_
  simp [cutPart, hl, hr]

theorem loseDom_spoke (s : State) {n : Nat} (hn : n < 8) : loseDom s (6 + n) true = stopSpoke s n := by
  have hb : isBed (6 + n) = false := by simp [isBed]; omega
  have hs : isSlice (6 + n) = false := by simp [isSlice]; omega
  have hp : isSpoke (6 + n) = true := by simp [isSpoke]; omega
  simp [loseDom, hb, hs, hp, show 6 + n ≠ 14 by omega]

section
variable {s : State} {n : Nat} (hn : n < 8)
include hn

theorem cutPart_enterDom_off (hl : (getSpoke s n).link = .off) (hr : (getSpoke s n).ready = false) :
    cutPart n (enterDom s (6 + n) .off) = cutPart n s :=
  (congrArg (cutPart n) (loseDom_spoke _ hn)).trans (cutPart_stopSpoke (s := modDom s (6 + n) _) hl hr)

/-- R43 on an accelerator whose SPERST_N is low. -/
theorem cutPart_dieSpoke (hl : (getSpoke s n).link = .off) (hr : (getSpoke s n).ready = false) :
    cutPart n (dieSpoke s n) = cutPart n s := by
  refine cutPart_ite n ((cutPart_seqPump n).trans ((foldl_keeps (cutPart n) (fun u m => cutPart_seqFails n _ _ _ _) _ _).trans ?_)) rfl
  exact cutPart_ite n rfl (cutPart_ite n rfl (cutPart_enterDom_off hn hl hr))

end

/-! ### The cut (R270) -/

/-- A rail off, disarmed and in no slew. -/
def Rail.cutOff (x : Rail) : Rail :=
  { x with en := false, pg := false, armed := false, moving := false, slewing := none, tries := 0, gaveUp := false }

/-- An accelerator cut by the fall of rail r: all five enables low, OFF, CUT latched. -/
def Acc.cutOff (a : Acc) (r : Nat) : Acc :=
  { a with rails := (List.range 5).foldl (fun m q => KMap.set (fun _ => ({} : Rail)) m q (getRail a q).cutOff) a.rails,
           st := .off, phase := .none, cmd := none, upped := [], tries := 0, cut := true, cutRail := r }

/-- Writing a map at keys, each with the value that goes with the key. -/
theorem KMap.get_foldl_set {α : Type} [DecidableEq α] (d f : Nat → α) (k : Nat) (l : List Nat) : ∀ m : KMap α,
    KMap.get d (l.foldl (fun m k => KMap.set d m k (f k)) m) k = if k ∈ l then f k else KMap.get d m k := by
  induction l with
  | nil => exact fun m => rfl
  | cons j l ih =>
    intro m
    rw [List.foldl_cons, ih, KMap.get_set]
    by_cases hl : k ∈ l
    · simp [hl]
    · by_cases hj : k = j <;> simp [hl, hj]

theorem getRail_cutOff (a : Acc) (r : Nat) {q : Nat} (hq : q < 5) : getRail (a.cutOff r) q = (getRail a q).cutOff :=
  (KMap.get_foldl_set (fun _ => ({} : Rail)) (fun q => (getRail a q).cutOff) q _ a.rails).trans (if_pos (List.mem_range.mpr hq))

/-- What the fall of armed rail r does to An before its record. -/
def cutDown (s : State) (n r : Nat) : State :=
  let u := setStop (dropSpoke (setAcc s n ((getAcc s n).cutOff r)) n) n none
  let u := enterLow (accLeft (failPowerCmds u n (refuse .accNotReady 5 0x30)) n 0x30) n .off
  let u := if (getRail (getAcc s n) 2).en then loseAccStrata u n else u
  if (getStop s n).isSome then dieSpoke u n else u

theorem railCut_disarmed {s : State} {n : Nat} {fell : List (Fin 5)} (h : ∀ r ∈ fell, (getRail (getAcc s n) r.val).armed = false) :
    railCut s n fell = s := by
  have none_armed : (fell.map (·.val)).filter (fun r => (getRail (getAcc s n) r).armed) = [] :=
    List.filter_eq_nil_iff.mpr (List.forall_mem_map.mpr (fun r hr => by simp [h r hr]))
  simp only [railCut, none_armed]
  rfl

section
variable {s : State} {n r : Nat}

theorem getAcc_enterLow_off (k : Nat) : getAcc (enterLow s n .off) k = if k = n then { getAcc s n with st := .off } else getAcc s k := by
  simp [enterLow]

theorem cutPart_enterLow_off (h : (getAcc s n).st = .off) : cutPart n (enterLow s n .off) = cutPart n s := by
  have still : getAcc (enterLow s n .off) = getAcc s := by
    funext k
    rw [getAcc_enterLow_off, ← h]
    split
    next hk => rw [hk]
    next => rfl
  unfold cutPart
  rw [still]
  simp [enterLow]

/-- The cut sets An, and with SPERST_N its link, once. -/
theorem cutPart_cutDown (hn : n < 8) : cutPart n (cutDown s n r) = cutPart n (dropSpoke (setAcc s n ((getAcc s n).cutOff r)) n) := by
  generalize hu : dropSpoke (setAcc s n ((getAcc s n).cutOff r)) n = u
  have acc : (getAcc u n).st = .off := by simp [← hu, dropSpoke, Acc.cutOff]
  have link : (getSpoke u n).link = .off ∧ (getSpoke u n).ready = false := by simp [← hu, dropSpoke]
  have left : cutPart n (accLeft (failPowerCmds (setStop u n none) n (refuse .accNotReady 5 0x30)) n 0x30) = cutPart n u :=
    (cutPart_accLeft n n 0x30).trans (cutPart_failPowerCmds n n _)
  have low := (cutPart_enterLow_off ((congrArg (fun x => (x.accs n).st) left).trans acc)).trans left
  have lost := cutPart_ite n (p := (getRail (getAcc s n) 2).en = true) ((cutPart_loseAccStrata n n).trans low) low
  have off := (congrArg CutPart.link lost).trans link.1
  have dead := (congrArg CutPart.ready lost).trans link.2
  rw [cutDown, hu]
  exact cutPart_ite n ((cutPart_dieSpoke hn off dead).trans lost) lost

section
variable {t : State} (h : cutPart n t = cutPart n (dropSpoke (setAcc s n ((getAcc s n).cutOff r)) n))
include h

/-- What stands of the accelerators after a cut. -/
theorem getAcc_cut (k : Nat) : getAcc t k = if k = n then (getAcc s n).cutOff r else getAcc s k :=
  (congrArg (fun x => x.accs k) h).trans (by simp [cutPart, dropSpoke])

theorem getSpoke_cut : (getSpoke t n).link = .off ∧ (getSpoke t n).ready = false :=
  ⟨(congrArg CutPart.link h).trans (by simp [cutPart, dropSpoke]), (congrArg CutPart.ready h).trans (by simp [cutPart, dropSpoke])⟩

/-- What decides how a cut is recorded stands as it was. -/
theorem cut_keeps : t.tw.cuts = s.tw.cuts ∧ hasReg t = hasReg s ∧ t.crd = s.crd ∧ portUp t = portUp s := by
  have regs : t.regs = s.regs := congrArg CutPart.regs h
  have crd : t.crd = s.crd := congrArg CutPart.crd h
  have ports : t.tw.ports = s.tw.ports := congrArg CutPart.ports h
  have cfg : cfgF t = cfgF s := by unfold cfgF cfgGet; rw [regs]
  have port : getPort t = getPort s := by unfold getPort; rw [ports]
  refine ⟨congrArg CutPart.cuts h, ?_, crd, ?_⟩
  · unfold hasReg
    rw [cfg]
  · unfold portUp portEn
    rw [cfg, port, crd]

end

/-- A cut enters Daxrin's unread cuts where it can read STATUS_WORD, and else the log. -/
theorem railCut_armed {r : Fin 5} (ha : (getRail (getAcc s n) r.val).armed = true) : railCut s n [r] =
    (if hasReg (cutDown s n r.val) n r.val && (cutDown s n r.val).crd.fwUp && portUp (cutDown s n r.val) (1 + n) then
      { cutDown s n r.val with tw := { (cutDown s n r.val).tw with
          cuts := (cutDown s n r.val).tw.cuts ++ [⟨n, r.val, (getAcc s n).st.code, false⟩] } }
    else cutRecord (cutDown s n r.val) n r.val (getAcc s n).st.code 0xFFFF) := by
  have one : lowest (([r].map (·.val)).filter (fun q => (getRail (getAcc s n) q).armed)) = some r.val := by
    simp [ha, lowest]
  simp only [railCut, one]
  rfl

end

/-- What a cut sets, however it is recorded. -/
theorem railCut_sets {s t : State} {n r : Nat} (hn : n < 8) (ha : getAcc t = getAcc (cutDown s n r))
    (hs : getSpoke t = getSpoke (cutDown s n r)) :
    (getAcc t n).st = .off ∧ (getAcc t n).cut = true ∧ (getAcc t n).cutRail = r ∧ (getAcc t n).phase = .none
    ∧ (∀ q, q < 5 → (getRail (getAcc t n) q).en = false ∧ (getRail (getAcc t n) q).armed = false)
    ∧ (∀ k, k ≠ n → getAcc t k = getAcc s k) ∧ (getSpoke t n).link = .off ∧ (getSpoke t n).ready = false := by
  have down := cutPart_cutDown (s := s) (r := r) hn
  have acc : getAcc (cutDown s n r) n = (getAcc s n).cutOff r := (getAcc_cut down n).trans (if_pos rfl)
  rw [ha, hs, acc]
  refine ⟨rfl, rfl, rfl, rfl, fun q hq => ?_, fun k hk => (getAcc_cut down k).trans (if_neg hk), getSpoke_cut down⟩
  rw [getRail_cutOff _ _ hq]
  exact ⟨rfl, rfl⟩

/-- Settles O45: the command by its target, then each row of the sequences, of power-good and of the cut by its cases. -/
theorem acceleratorTransitions : Obligations.AcceleratorTransitions := by
  refine ⟨?host, fun s c cmd => exec_accPowerState_waits, ?ceiling, ?lowers, ?enables, ?disables, ?rises, ?late, ?disarmed, ?cuts⟩
  case host =>
    intro s c cmd h ht hp hs hd want dest m u
    obtain rfl := startsNow_seq h
    have hu : getAcc u = getAcc s := by
      simp only [u, m]
      split <;> simp
    have hdest : powerTarget m cmd = dest := powerTarget_markStarted.trans (powerTarget_host ht)
    have begun : exec (.accPowerState cmd.seq) s = .next (settle (powerMove u cmd dest)) := by
      rw [exec_accPowerState_now h hp hs hd, powerBody_host ht, hdest]
    refine ⟨fun r hr => ?_, fun hr hat => ⟨{ getAcc s cmd.accN with
      target := dest, cut := (getAcc s cmd.accN).cut && decide (dest ≠ .off) }, ?_, hat, by simp⟩, fun hr hat => ?_⟩
    · rw [begun, powerMove_refused hr]
    · rw [begun, powerMove_there hr (by rw [hu]; exact hat), hu]
    · rw [begun, powerMove_begins hr (by rw [hu]; exact hat)]
  case ceiling =>
    intro s c cmd h ht hp hs hc
    obtain rfl := startsNow_seq h
    have hm : getAcc (markStarted s cmd.seq) = getAcc s := by simp
    refine ⟨ceilingSet (markStarted s cmd.seq) cmd, ?_, ?_, fun k hk => ?_, ?_, ?_⟩
    · rw [exec_accPowerState_now h hp hs (powerDoms_t64 ht), powerBody_ceiling ht (by rw [hm]; exact hc), hm]
    · simp [ceilingSet]
    · simp [ceilingSet, hk]
    · simp [ceilingSet]
    · simp [ceilingSet]
  case lowers =>
    intro s c cmd h ht hp hs hc want u dest
    obtain rfl := startsNow_seq h
    have hm : getAcc (markStarted s cmd.seq) = getAcc s := by simp
    have hdest : powerTarget (markStarted s cmd.seq) cmd = dest := powerTarget_markStarted.trans (powerTarget_t64 ht)
    have hc' : want.code < (getAcc (markStarted s cmd.seq) cmd.accN).st.code := by rw [hm]; exact hc
    have begun := exec_accPowerState_now h hp hs (powerDoms_t64 ht)
    refine ⟨fun d hd => ?_, fun hd => ?_⟩
    · rw [begun, powerBody_lacks ht hc' (hdest ▸ hd)]
    · rw [begun, powerBody_lowers ht hc' (hdest ▸ hd), hdest]
  case enables =>
    intro s n r rest hp a
    refine ⟨fun hg ht hs => exec_railEnableStep_due hp ((enableDue_iff s n.val r).mpr ⟨hg, ht, hs⟩),
      fun h => exec_railEnableStep_early hp fun hd => ?_⟩
    obtain ⟨hg, ht, hs⟩ := (enableDue_iff s n.val r).mp hd
    rcases h with ⟨q, hq, hb⟩ | ⟨hne, hlt⟩ | hst
    · exact Bool.false_ne_true (hb.symm.trans (hg q hq))
    · exact ht.elim hne (Nat.not_le.mpr hlt)
    · exact absurd hs (by simp [hst])
  case disables =>
    exact fun s n todo => ⟨exec_railDisableStep_down, exec_railDisableStep_failed, exec_railDisableStep_early⟩
  case rises =>
    intro s n r he hg u
    obtain ⟨phase, target, upped⟩ := railArmed_keeps s n.val r.val
    have risen : exec (.powerGoodRise n r) s = .next (settle (upSequenceGood u n.val)) := exec_powerGoodRise_rises he hg
    exact ⟨fun hp => risen.trans (congrArg done (upSequenceGood_none (phase.trans hp))), fun hp hall =>
      ⟨fun ht => risen.trans (congrArg done (upSequenceGood_aux (phase.trans hp) (upped ▸ hall) (target.trans ht))),
        fun ht => risen.trans (congrArg done (upSequenceGood_link (phase.trans hp) (upped ▸ hall) (target ▸ ht)))⟩⟩
  case late => exact fun s n todo q => exec_pgTimeout_late
  case disarmed => exact fun s n fell h => congrArg done (railCut_disarmed h)
  case cuts =>
    intro s n r ha
    obtain ⟨cuts, reg, crd, port⟩ := cut_keeps (cutPart_cutDown (s := s) (r := r.val) n.isLt)
    have row := congrArg done (railCut_armed ha)
    rw [reg, crd, port] at row
    by_cases reads : (hasReg s n.val r.val && s.crd.fwUp && portUp s (1 + n.val)) = true
    case pos =>
      rw [if_pos reads, cuts] at row
      obtain ⟨hst, hcut, hrail, hph, hr, hk, hl, hrd⟩ := railCut_sets (s := s) (r := r.val) (t := { cutDown s n.val r.val with tw :=
        { (cutDown s n.val r.val).tw with cuts := s.tw.cuts ++ [⟨n.val, r.val, (getAcc s n.val).st.code, false⟩] } }) n.isLt rfl rfl
      refine ⟨_, row, hst, hcut, hrail, hph, hr, hk, hl, hrd, fun _ _ _ => rfl, fun h => ?_⟩
      simp only [Bool.and_eq_true] at reads
      obtain ⟨⟨hreg, hup⟩, hport⟩ := reads
      simp [hreg, hup, hport] at h
    case neg =>
      rw [if_neg reads] at row
      obtain ⟨hst, hcut, hrail, hph, hr, hk, hl, hrd⟩ := railCut_sets (s := s) (r := r.val)
        (t := cutRecord (cutDown s n.val r.val) n.val r.val (getAcc s n.val).st.code 0xFFFF) n.isLt (by simp [cutRecord])
        (by simp [cutRecord])
      refine ⟨_, row, hst, hcut, hrail, hph, hr, hk, hl, hrd, fun h1 h2 h3 => ?_, fun _ => ⟨_, rfl⟩⟩
      exact absurd (by simp [h1, h2, h3]) reads

end Sys2Proof.Machine
end

section
/-! PROOFS. ACC_RAIL_SET and slews, ACC_LIMIT_SET, and the writes of the effective limit (R273 to R278, R281, R291, Tables 11.3 and 11.5):
each row by its cases. -/

namespace Sys2Proof.Machine

/-! ### ACC_RAIL_SET (R273, R275, R281) -/

@[simp] theorem hasReg_markStarted (s : State) (c : Nat) : hasReg (markStarted s c) = hasReg s := by
  unfold hasReg
  simp

@[simp] theorem modeUnsupported_markStarted (s : State) (c : Nat) : modeUnsupported (markStarted s c) = modeUnsupported s := by
  unfold modeUnsupported
  simp

theorem exec_accRailSet_now {s : State} {c : Nat} {cmd : Cmd} (h : startsNow s c 0x21 none cmd = true) :
    exec (.accRailSet c) s = .next (settle (railBody (markStarted s c) cmd)) :=
  congrArg done (startCmd_now noDoms noHold railBody h rfl rfl)

/-- The range of the rail that an ACC_RAIL_SET names. -/
def railSetRange (s : State) (c : Cmd) : Word := cfgGet s (railBase c.accN (c.f 9 1) + 4)

/-- The rail that an ACC_RAIL_SET names. -/
def railNamed (s : State) (c : Cmd) : Rail := getRail (getAcc s c.accN) (c.f 9 1)

/-- That rail with the value of the command kept: the host's, or T64's ceiling. -/
def railAsked (s : State) (c : Cmd) : Rail :=
  if c.tenant = 64 then { railNamed s c with ceilMv := c.f 0xC 4 } else { railNamed s c with hostMv := c.f 0xC 4 }

/-- What decides an ACC_RAIL_SET stands as it starts. -/
theorem railSet_markStarted (s : State) (c : Nat) (cmd : Cmd) : hasReg (markStarted s c) = hasReg s
    ∧ railSetRange (markStarted s c) cmd = railSetRange s cmd ∧ railNamed (markStarted s c) cmd = railNamed s cmd
    ∧ getAcc (markStarted s c) = getAcc s ∧ modeUnsupported (markStarted s c) = modeUnsupported s
    ∧ (markStarted s c).therm = s.therm := by
  simp [railSetRange, railNamed]

section
variable {u : State} {c : Cmd}

theorem railAsked_host (ht : c.tenant ≠ 64) : railAsked u c = { railNamed u c with hostMv := c.f 0xC 4 } := if_neg ht

theorem railAsked_t64 (ht : c.tenant = 64) : railAsked u c = { railNamed u c with ceilMv := c.f 0xC 4 } := if_pos ht

theorem railBody_unset (hr : hasReg u c.accN (c.f 9 1) = false ∨ bf (railSetRange u c) 31 16 = 0) :
    railBody u c = complete u c.seq (refuse .badParam 5 0x38) :=
  if_pos (by simpa [railSetRange] using hr)

section
variable (hr : hasReg u c.accN (c.f 9 1) = true) (hm : bf (railSetRange u c) 31 16 ≠ 0)
include hr hm

theorem railBody_outside (ho : c.f 0xC 4 < bf (railSetRange u c) 15 0 ∨ bf (railSetRange u c) 31 16 < c.f 0xC 4) :
    railBody u c = complete u c.seq (badField 0xC) :=
  (if_neg (by simpa [hr, railSetRange] using hm)).trans (if_pos ho)

section
variable (hlo : bf (railSetRange u c) 15 0 ≤ c.f 0xC 4) (hhi : c.f 0xC 4 ≤ bf (railSetRange u c) 31 16)
include hlo hhi

/-- The checks that follow where MV lies in the range. -/
theorem railBody_inside : railBody u c =
    if (getAcc u c.accN).cut then complete u c.seq (refuse .accNotReady 5 0x30)
    else if modeUnsupported u c.accN (c.f 9 1) then complete u c.seq (refuse .accNotReady 5 0x35)
    else if u.therm.latch.getLsbD c.accN ∧ railTarget (railNamed u c) < railTarget (railAsked u c) then
      complete u c.seq { status := .thermalHold }
    else
      let v := modRail u c.accN (c.f 9 1) (fun _ => railAsked u c)
      let w := if c.tenant ≠ 64 ∧ (railNamed u c).ceilMv < c.f 0xC 4 then modCmd v c.seq (fun y => { y with clamped := true }) else v
      if c.tenant = 64 ∧ railTarget (railAsked u c) = (railNamed u c).target then
        complete (releaseRes w c.seq) c.seq (okR (if (railNamed u c).en then (railNamed u c).applied else (railNamed u c).target))
      else retarget (releaseRes w c.seq) c.accN (c.f 9 1) (c.f 0x10 4) (some c.seq) :=
  (if_neg (by simpa [hr, railSetRange] using hm)).trans (if_neg (not_or.mpr ⟨Nat.not_lt.mpr hlo, Nat.not_lt.mpr hhi⟩))

theorem railBody_cut (hc : (getAcc u c.accN).cut = true) : railBody u c = complete u c.seq (refuse .accNotReady 5 0x30) := by
  rw [railBody_inside hr hm hlo hhi, if_pos hc]

section
variable (hc : (getAcc u c.accN).cut = false)
include hc

theorem railBody_nonlinear (hx : modeUnsupported u c.accN (c.f 9 1) = true) :
    railBody u c = complete u c.seq (refuse .accNotReady 5 0x35) := by
  rw [railBody_inside hr hm hlo hhi, if_neg (by simp [hc]), if_pos hx]

section
variable (hx : modeUnsupported u c.accN (c.f 9 1) = false)
include hx

theorem railBody_hot (hl : u.therm.latch.getLsbD c.accN = true) (ht : railTarget (railNamed u c) < railTarget (railAsked u c)) :
    railBody u c = complete u c.seq { status := .thermalHold } := by
  rw [railBody_inside hr hm hlo hhi, if_neg (by simp [hc]), if_neg (by simp [hx]), if_pos ⟨hl, ht⟩]

section
variable (hl : u.therm.latch.getLsbD c.accN = false)
include hl

/-- The host's value is kept, CLAMPED above the ceiling, and the rail retargeted. -/
theorem railBody_host (ht : c.tenant ≠ 64) : railBody u c =
    (let v := modRail u c.accN (c.f 9 1) (fun _ => railAsked u c)
    let w := if (railNamed u c).ceilMv < c.f 0xC 4 then modCmd v c.seq (fun y => { y with clamped := true }) else v
    retarget (releaseRes w c.seq) c.accN (c.f 9 1) (c.f 0x10 4) (some c.seq)) := by
  rw [railBody_inside hr hm hlo hhi]
  simp [hc, hx, hl, ht]

section
variable (ht : c.tenant = 64)
include ht

/-- A ceiling that leaves the target as it is leaves a slew as it is. -/
theorem railBody_ceilingIdle (he : railTarget (railAsked u c) = (railNamed u c).target) : railBody u c =
    complete (releaseRes (modRail u c.accN (c.f 9 1) (fun _ => railAsked u c)) c.seq) c.seq
      (okR (if (railNamed u c).en then (railNamed u c).applied else (railNamed u c).target)) := by
  rw [railBody_inside hr hm hlo hhi]
  simp [hc, hx, hl, ht, he]

theorem railBody_ceiling (he : railTarget (railAsked u c) ≠ (railNamed u c).target) : railBody u c =
    retarget (releaseRes (modRail u c.accN (c.f 9 1) (fun _ => railAsked u c)) c.seq) c.accN (c.f 9 1) (c.f 0x10 4) (some c.seq) := by
  rw [railBody_inside hr hm hlo hhi]
  simp [hc, hx, hl, ht, he]

end
end
end
end
end
end
end

/-! ### Writes of a setpoint (R274, R291) -/

theorem modRail_congr {s : State} {n r : Nat} {f g : Rail → Rail} (h : f (getRail (getAcc s n) r) = g (getRail (getAcc s n) r)) :
    modRail s n r f = modRail s n r g := by
  simp [modRail, modAcc, h]

section
variable {s : State} {n r : Nat}

theorem storedWrite_acked : storedWrite s n r true =
    modRail (count s (225 + 4 * n) {}) n r (fun x => { x with applied := x.target, tries := 0 }) := rfl

theorem storedWrite_again (h : (getRail (getAcc s n) r).tries < 3) :
    storedWrite s n r false = modRail s n r (fun x => { x with tries := x.tries + 1 }) := by
  refine Eq.trans (if_neg Bool.false_ne_true) (modRail_congr ?_)
  rw [if_pos h]

theorem storedWrite_fails (h : 3 ≤ (getRail (getAcc s n) r).tries) :
    storedWrite s n r false = modRail s n r (fun x => { x with tries := 0, gaveUp := true }) := by
  refine Eq.trans (if_neg Bool.false_ne_true) (modRail_congr ?_)
  rw [if_neg (Nat.not_lt.mpr h)]

theorem slewFails_command {c : Nat} (h : (getRail (getAcc s n) r).slewing = some c) : slewFails s n r = complete
    (modRail s n r (fun x => { x with moving := false, slewing := none, tries := 0 })) c
    { refuse .accNotReady 5 0x35 with r0 := (getRail (getAcc s n) r).applied } := by
  simp only [slewFails, h]

theorem railSlewStep_idle {busy : Bool} (ack : Bool)
    (h : (stepDue s (getRail (getAcc s n) r) = false ∧ storedDue s n r = false) ∨ busy = true) : railSlewStep n r busy ack s = s := by
  rcases h with ⟨hs, hd⟩ | hb
  · simp [railSlewStep, hs, hd]
  · exact if_pos hb

theorem railSlewStep_stored (hd : storedDue s n r = true) (ack : Bool) : railSlewStep n r false ack s = storedWrite s n r ack := by
  simp [railSlewStep, hd]

/-- An acknowledged step of a slew. -/
def slewStepped (s : State) (n r : Nat) : State :=
  modRail (count s (225 + 4 * n) {}) n r (fun x => { x with applied := nextMv x, tries := 0, lastStep := some s.tick })

theorem slewStepped_eq (s : State) (n r : Nat) : slewStepped s n r = modRail (count s (225 + 4 * n) {}) n r (fun x =>
    { x with applied := nextMv (getRail (getAcc s n) r), tries := 0, lastStep := some s.tick }) :=
  modRail_congr (by simp)

/-- An acknowledged step that reaches the target. -/
def slewEnded (s : State) (n r : Nat) : State := modRail (slewStepped s n r) n r (fun x => { x with moving := false, slewing := none })

section
variable (hs : stepDue s (getRail (getAcc s n) r) = true) (hd : storedDue s n r = false)
include hs hd

theorem railSlewStep_gone (hr : hasReg s n r = false) (ack : Bool) : railSlewStep n r false ack s = slewFails s n r := by
  simp [railSlewStep, hs, hd, hr]

section
variable (hr : hasReg s n r = true)
include hr

theorem railSlewStep_refused (h : (getRail (getAcc s n) r).tries < 3) :
    railSlewStep n r false false s = modRail s n r (fun x => { x with tries := x.tries + 1 }) := by
  simp [railSlewStep, hs, hd, hr, h]

theorem railSlewStep_fails (h : 3 ≤ (getRail (getAcc s n) r).tries) : railSlewStep n r false false s = slewFails s n r := by
  simp [railSlewStep, hs, hd, hr, Nat.not_lt.mpr h]

theorem railSlewStep_steps (h : nextMv (getRail (getAcc s n) r) ≠ (getRail (getAcc s n) r).target) :
    railSlewStep n r false true s = slewStepped s n r := by
  rw [slewStepped_eq]
  simp [railSlewStep, hs, hd, hr, h]

section
variable (h : nextMv (getRail (getAcc s n) r) = (getRail (getAcc s n) r).target)
include h

theorem railSlewStep_ends (hn : (getRail (getAcc s n) r).slewing = none) : railSlewStep n r false true s = slewEnded s n r := by
  rw [slewEnded, slewStepped_eq]
  simp [railSlewStep, hs, hd, hr, h, hn]

theorem railSlewStep_completes {c : Nat} (hc : (getRail (getAcc s n) r).slewing = some c) :
    railSlewStep n r false true s = complete (slewEnded s n r) c (okR (getRail (getAcc s n) r).target) := by
  rw [slewEnded, slewStepped_eq]
  simp [railSlewStep, hs, hd, hr, h, hc]

end
end
end
end

/-! ### ACC_LIMIT_SET (R277, R278, R281) -/

theorem exec_accLimitSet_now {s : State} {c : Nat} {cmd : Cmd} (h : startsNow s c 0x22 none cmd = true) :
    exec (.accLimitSet c) s = .next (settle (limitBody (markStarted s c) cmd)) :=
  congrArg done (startCmd_now noDoms noHold limitBody h rfl rfl)

/-- Changing accelerators one after another, each once. -/
theorem getAcc_foldl_modAcc (f : Nat → Acc → Acc) {l : List Nat} (hl : l.Nodup) (k : Nat) : ∀ s : State,
    getAcc (l.foldl (fun s n => modAcc s n (f n)) s) k = if k ∈ l then f k (getAcc s k) else getAcc s k := by
  induction l with
  | nil => exact fun s => rfl
  | cons n l ih =>
    intro s
    obtain ⟨hn, hl⟩ := List.nodup_cons.mp hl
    rw [List.foldl_cons, ih hl, getAcc_modAcc]
    by_cases hk : k = n
    · subst hk
      simp [hn]
    · simp [hk]

/-- What ACC_LIMIT_SET keeps of one accelerator. -/
def limitKept (s : State) (c : Cmd) : State :=
  setIlim (modAcc s (c.f 8 1) (fun a => if decide (c.tenant = 64) then { a with plimCeil := limField (c.f 0xC 4) a.plimCeil }
    else { a with plimHost := limField (c.f 0xC 4) a.plimHost })) (c.f 8 1) (c.f 0x10 4) (decide (c.tenant = 64))

/-- What ACC_LIMIT_SET keeps of the tray. -/
def trayKept (s : State) (c : Cmd) : State :=
  { s with pow := (if decide (c.tenant = 64) then { s.pow with trayPceil := limField (c.f 0xC 4) s.pow.trayPceil }
    else { s.pow with trayPlim := limField (c.f 0xC 4) s.pow.trayPlim }) }

/-- The shares as a tray limit is set or given up (R280). -/
def traySharesSet (s : State) (c : Cmd) : State :=
  let s := if c.f 0xC 4 ≠ 0 ∧ trayApplied s ≠ noLimit then startShares s else s
  if c.f 0xC 4 ≠ 0 ∧ trayApplied s = noLimit then
    (List.range 8).foldl (fun s n => modAcc s n (fun a => { a with share := noLimit })) s
  else s

/-- What ACC_LIMIT_SET of the tray keeps of the tray and of every accelerator. -/
def trayLimitKept (s : State) (c : Cmd) : State :=
  (List.range 8).foldl (fun s n => setIlim s n (c.f 0x10 4) (decide (c.tenant = 64))) (traySharesSet (trayKept s c) c)

section
variable {u : State} {c : Cmd}

theorem limitBody_one (h : c.f 8 1 < 8) : ∃ f : Cmd → Cmd, limitBody u c = complete (modCmd (limitKept u c) c.seq f) c.seq
    (okR (plimApplied (getAcc (limitKept u c) (c.f 8 1))) (ilimApplied (getAcc (limitKept u c) (c.f 8 1)))) :=
  ⟨_, if_neg (by omega)⟩

theorem exec_accLimitSet_one {s : State} (h : startsNow s c.seq 0x22 none c = true) (hn : c.f 8 1 < 8) :
    ∃ t : State, exec (.accLimitSet c.seq) s = .next (settle (complete t c.seq
        (okR (plimApplied (getAcc t (c.f 8 1))) (ilimApplied (getAcc t (c.f 8 1))))))
      ∧ getAcc t = getAcc (limitKept (markStarted s c.seq) c) := by
  obtain ⟨f, hf⟩ := limitBody_one (u := markStarted s c.seq) hn
  have kept : getAcc (modCmd (limitKept (markStarted s c.seq) c) c.seq f) = getAcc (limitKept (markStarted s c.seq) c) := by simp
  exact ⟨_, by rw [exec_accLimitSet_now h, hf, ← kept], kept⟩

theorem limitBody_tray (h : c.f 8 1 = 0xFF) : ∃ f : Cmd → Cmd, limitBody u c = complete (modCmd (trayLimitKept u c) c.seq f) c.seq
    (okR (trayApplied (modCmd (trayLimitKept u c) c.seq f)) (ilimApplied (getAcc (modCmd (trayLimitKept u c) c.seq f) 0))) :=
  ⟨_, if_pos h⟩

end

/-- Setting the shares leaves what no share decides. -/
theorem traySharesSet_keeps {β : Type} (part : State → β) (s : State) (c : Cmd)
    (hp : ∀ (s : State) (n : Nat) (g : Acc → Nat), part (modAcc s n (fun a => { a with share := g a })) = part s) :
    part (traySharesSet s c) = part s := by
  have folds (g : Acc → Nat) (s : State) : part ((List.range 8).foldl (fun s n => modAcc s n (fun a => { a with share := g a })) s)
      = part s := foldl_keeps part (fun s n => hp s n g) _ s
  have either (p : Prop) [Decidable p] (g : Acc → Nat) (s : State) : part (if p then
      (List.range 8).foldl (fun s n => modAcc s n (fun a => { a with share := g a })) s else s) = part s := by
    split
    · exact folds g s
    · rfl
  exact (either _ (fun _ => noLimit) _).trans (either _ plimApplied s)

section
variable (u : State) (c : Cmd)

/-- The tray's limits stand as they are kept, whatever follows of the accelerators. -/
theorem trayLimitKept_tray : (trayLimitKept u c).pow.trayPlim = (trayKept u c).pow.trayPlim
    ∧ (trayLimitKept u c).pow.trayPceil = (trayKept u c).pow.trayPceil := by
  have plim := traySharesSet_keeps (fun s => s.pow.trayPlim) (trayKept u c) c (fun _ _ _ => rfl)
  have pceil := traySharesSet_keeps (fun s => s.pow.trayPceil) (trayKept u c) c (fun _ _ _ => rfl)
  have ilim {β : Type} (part : State → β) (hp : ∀ s n, part (setIlim s n (c.f 0x10 4) (decide (c.tenant = 64))) = part s) :
      part (trayLimitKept u c) = part (traySharesSet (trayKept u c) c) := foldl_keeps part hp _ _
  exact ⟨(ilim (fun s => s.pow.trayPlim) (fun _ _ => rfl)).trans plim,
    (ilim (fun s => s.pow.trayPceil) (fun _ _ => rfl)).trans pceil⟩

theorem getAcc_trayKept : getAcc (trayKept u c) = getAcc u := by
  unfold trayKept
  split <;> rfl

/-- The current limits of each accelerator, kept with the tray's. -/
theorem trayLimitKept_ilim {k : Nat} (hk : k < 8) :
    (getAcc (trayLimitKept u c) k).ilimHost
      = (if c.tenant = 64 then (getAcc u k).ilimHost else limField (c.f 0x10 4) (getAcc u k).ilimHost)
    ∧ (getAcc (trayLimitKept u c) k).ilimCeil
      = (if c.tenant = 64 then limField (c.f 0x10 4) (getAcc u k).ilimCeil else (getAcc u k).ilimCeil) := by
  have share (β : Type) (g : Acc → β) (hg : ∀ a v, g { a with share := v } = g a) :
      g (getAcc (traySharesSet (trayKept u c) c) k) = g (getAcc u k) := by
    rw [← getAcc_trayKept u c]
    refine traySharesSet_keeps (fun s => g (getAcc s k)) (trayKept u c) c (fun s n f => ?_)
    rw [getAcc_modAcc]
    split
    next hn => rw [hg, hn]
    next => rfl
  have host := share Nat Acc.ilimHost (fun _ _ => rfl)
  have ceil := share Nat Acc.ilimCeil (fun _ _ => rfl)
  have kept : getAcc (trayLimitKept u c) k = _ := (getAcc_foldl_modAcc (fun _ a => if decide (c.tenant = 64) then
    { a with ilimCeil := limField (c.f 0x10 4) a.ilimCeil } else { a with ilimHost := limField (c.f 0x10 4) a.ilimHost })
    List.nodup_range k _).trans (if_pos (List.mem_range.mpr hk))
  rw [kept, ← host, ← ceil]
  by_cases ht : c.tenant = 64 <;> simp [ht]

/-- A host's limits of the tray and all, a 0 leaving a limit as it is. -/
theorem trayLimitKept_host (ht : c.tenant ≠ 64) :
    (trayLimitKept u c).pow.trayPlim = (if c.f 0xC 4 = 0 then u.pow.trayPlim else c.f 0xC 4)
    ∧ (trayLimitKept u c).pow.trayPceil = u.pow.trayPceil
    ∧ ∀ k, k < 8 → (getAcc (trayLimitKept u c) k).ilimHost = (if c.f 0x10 4 = 0 then (getAcc u k).ilimHost else c.f 0x10 4) := by
  obtain ⟨plim, pceil⟩ := trayLimitKept_tray u c
  refine ⟨plim.trans ?_, pceil.trans ?_, fun k hk => (trayLimitKept_ilim u c hk).1.trans (if_neg ht)⟩
  · simp [trayKept, ht, limField]
  · simp [trayKept, ht]

/-- T64's ceilings of the tray and all. -/
theorem trayLimitKept_t64 (ht : c.tenant = 64) :
    (trayLimitKept u c).pow.trayPceil = (if c.f 0xC 4 = 0 then u.pow.trayPceil else c.f 0xC 4)
    ∧ (trayLimitKept u c).pow.trayPlim = u.pow.trayPlim
    ∧ ∀ k, k < 8 → (getAcc (trayLimitKept u c) k).ilimCeil = (if c.f 0x10 4 = 0 then (getAcc u k).ilimCeil else c.f 0x10 4) := by
  obtain ⟨plim, pceil⟩ := trayLimitKept_tray u c
  refine ⟨pceil.trans ?_, plim.trans ?_, fun k hk => (trayLimitKept_ilim u c hk).2.trans (if_pos ht)⟩
  · simp [trayKept, ht, limField]
  · simp [trayKept, ht]

end

/-! ### Writes of the effective limit (R277, R291, Table 11.2) -/

section
variable {s : State} {n : Nat}

theorem limitTransition_gone (hr : hasReg s n 4 = false) (ack : Bool) :
    limitTransition s n ack = endTransition s n (refuse .accNotReady 5 0x35) := if_pos (by simp [hr])

section
variable (hr : hasReg s n 4 = true)
include hr

theorem limitTransition_acked : limitTransition s n true = transitionOk (setAcc s n { getAcc s n with
    ilimEff := limitIn s n (getAcc s n).target, st := (getAcc s n).target, failedMa := none, retryAt := none,
    share := if (getAcc s n).target = .idle then plimApplied (getAcc s n) else (getAcc s n).share }) n := by
  simp [limitTransition, hr]

theorem limitTransition_again (ht : (getAcc s n).tries < 3) :
    limitTransition s n false = setAcc s n { getAcc s n with tries := (getAcc s n).tries + 1 } := by
  simp [limitTransition, hr, ht]

theorem limitTransition_fails (ht : 3 ≤ (getAcc s n).tries) :
    limitTransition s n false = endTransition s n (refuse .accNotReady 5 0x35) := by
  simp [limitTransition, hr, Nat.not_lt.mpr ht]

end

theorem limitWrite_acked : limitWrite s n true = setAcc s n { getAcc s n with
    ilimEff := limitIn s n (getAcc s n).st, tries := 0, failedMa := none, retryAt := none } := rfl

theorem limitWrite_again (ht : (getAcc s n).tries < 3) :
    limitWrite s n false = setAcc s n { getAcc s n with tries := (getAcc s n).tries + 1 } := by
  simp [limitWrite, ht]

theorem limitWrite_fails (ht : 3 ≤ (getAcc s n).tries) : limitWrite s n false = accEvent (setAcc s n { getAcc s n with
    tries := 0, pmbusErr := true, failedMa := some (limitIn s n (getAcc s n).st), retryAt := some (s.tick + 100000) }) n 3 := by
  simp [limitWrite, Nat.not_lt.mpr ht]

end

section
variable {s : State} {n : Fin 8}

theorem exec_effectiveLimitWrite_transition (hp : (getAcc s n.val).phase = .limit) (ack : Bool) :
    exec (.effectiveLimitWrite n ack) s = .next (settle (limitTransition s n.val ack)) := congrArg done (if_pos hp)

section
variable (hd : limitDue s n.val = true)
include hd

/-- A limit that is due is no transition's. -/
theorem exec_effectiveLimitWrite_due (hf : (getAcc s n.val).failedMa ≠ some (limitIn s n.val (getAcc s n.val).st)) (ack : Bool) :
    exec (.effectiveLimitWrite n ack) s = .next (settle (limitWrite s n.val ack)) := by
  have phase : (getAcc s n.val).phase ≠ .limit := fun hp => by simp [limitDue, hp] at hd
  exact congrArg done ((if_neg phase).trans (if_pos ⟨hd, hf⟩))

theorem exec_pmbusLimitRetry_due {d : Nat} (hr : (getAcc s n.val).retryAt = some d) (ht : d ≤ s.tick) (ack : Bool) :
    exec (.pmbusLimitRetry n ack) s = .next (settle (limitWrite s n.val ack)) := by
  simp only [exec, execPmbusLimitRetry, done, hr, if_pos (And.intro ht hd)]

end

theorem exec_pmbusLimitRetry_early {d : Nat} (hr : (getAcc s n.val).retryAt = some d) (ht : s.tick < d) (ack : Bool) :
    exec (.pmbusLimitRetry n ack) s = .next (settle s) := by
  simp [exec, execPmbusLimitRetry, done, hr, Nat.not_le.mpr ht]

end

/-- Settles O46: ACC_RAIL_SET by its checks, a slew by its step, ACC_LIMIT_SET by what it keeps, a write of a limit by its outcome. -/
theorem railsAndLimits : Obligations.RailsAndLimits := by
  refine ⟨?host, ?ceiling, fun s n r busy ack h => congrArg done (railSlewStep_idle ack h), ?stored, ?gone, ?steps, ?hostLimits,
    ?ceilings, ?tray, ?transition, ?limits⟩
  case host =>
    intro s c cmd h ht u n r mv range x
    obtain rfl := startsNow_seq h
    have begun : exec (.accRailSet cmd.seq) s = .next (settle (railBody u cmd)) := exec_accRailSet_now h
    obtain ⟨reg, rng, named, acc, mode, therm⟩ := railSet_markStarted s cmd.seq cmd
    have asked : railAsked u cmd = { x with hostMv := mv } := by rw [railAsked_host ht, named]; rfl
    rw [begun, ← reg, ← acc, ← mode, ← therm, show range = railSetRange u cmd from rng.symm]
    refine ⟨fun hr => congrArg done (railBody_unset hr), fun hr hm => ⟨fun ho => congrArg done (railBody_outside hr hm ho),
      fun hlo hhi => ⟨fun hc => congrArg done (railBody_cut hr hm hlo hhi hc), fun hc hx => ?_, fun hc hx hl hup => ?_,
        fun hc hx hl => ?_⟩⟩⟩
    · exact congrArg done (railBody_nonlinear hr hm hlo hhi hc hx)
    · exact congrArg done (railBody_hot hr hm hlo hhi hc hx hl (by rw [named, asked]; exact hup))
    · refine congrArg done ((railBody_host hr hm hlo hhi hc hx hl ht).trans ?_)
      rw [asked, named]
      rfl
  case ceiling =>
    intro s c cmd h ht n r mv range x y w hr hm hlo hhi hc hx hl
    obtain rfl := startsNow_seq h
    have begun : exec (.accRailSet cmd.seq) s = .next (settle (railBody (markStarted s cmd.seq) cmd)) := exec_accRailSet_now h
    obtain ⟨reg, rng, named, acc, mode, therm⟩ := railSet_markStarted s cmd.seq cmd
    have asked : railAsked (markStarted s cmd.seq) cmd = y := by rw [railAsked_t64 ht, named]; rfl
    rw [← reg] at hr
    rw [show range = railSetRange (markStarted s cmd.seq) cmd from rng.symm] at hm hlo hhi
    rw [← acc] at hc
    rw [← mode] at hx
    rw [← therm] at hl
    refine ⟨fun he => begun.trans (congrArg done ?_), fun he => begun.trans (congrArg done ?_)⟩
    · rw [railBody_ceilingIdle hr hm hlo hhi hc hx hl ht (by rw [asked, named]; exact he), asked, named]
      rfl
    · rw [railBody_ceiling hr hm hlo hhi hc hx hl ht (by rw [asked, named]; exact he), asked]
  case stored =>
    intro s n r hd x
    exact ⟨congrArg done ((railSlewStep_stored hd true).trans storedWrite_acked),
      fun ht => congrArg done ((railSlewStep_stored hd false).trans (storedWrite_again ht)),
      fun ht => congrArg done ((railSlewStep_stored hd false).trans (storedWrite_fails ht))⟩
  case gone =>
    exact fun s n r c ack hs hd hr hc => congrArg done ((railSlewStep_gone hs hd hr ack).trans (slewFails_command hc))
  case steps =>
    intro s n r hs hd hr x u v
    exact ⟨fun h => congrArg done (railSlewStep_steps hs hd hr h), fun h hn => congrArg done (railSlewStep_ends hs hd hr h hn),
      fun c h hc => congrArg done (railSlewStep_completes hs hd hr h hc), fun ht => congrArg done (railSlewStep_refused hs hd hr ht),
      fun c ht hc => congrArg done ((railSlewStep_fails hs hd hr ht).trans (slewFails_command hc))⟩
  case hostLimits =>
    intro s c cmd h hn ht n p i
    obtain rfl := startsNow_seq h
    obtain ⟨t, row, acc⟩ := exec_accLimitSet_one h hn
    refine ⟨t, row, ?_, fun k hk => ?_⟩
    · simp [acc, limitKept, setIlim, ht, limField, n, p, i]
    · simp [acc, limitKept, setIlim, hk, n]
  case ceilings =>
    intro s c cmd h hn ht n p i
    obtain rfl := startsNow_seq h
    obtain ⟨t, row, acc⟩ := exec_accLimitSet_one h hn
    refine ⟨t, row, ?_, fun k hk => ?_⟩
    · simp [acc, limitKept, setIlim, ht, limField, n, p, i]
    · simp [acc, limitKept, setIlim, hk, n]
  case tray =>
    intro s c cmd h hn p i
    obtain rfl := startsNow_seq h
    generalize hu : markStarted s cmd.seq = u
    have acc : getAcc u = getAcc s := by simp [← hu]
    have pow : u.pow = s.pow := by simp [← hu]
    obtain ⟨f, hf⟩ := limitBody_tray (u := u) hn
    have kept : getAcc (modCmd (trayLimitKept u cmd) cmd.seq f) = getAcc (trayLimitKept u cmd)
        ∧ (modCmd (trayLimitKept u cmd) cmd.seq f).pow = (trayLimitKept u cmd).pow := by simp
    refine ⟨modCmd (trayLimitKept u cmd) cmd.seq f, ?_, fun ht => ?_, fun ht => ?_⟩
    · rw [exec_accLimitSet_now h, hu, hf]
    · rw [kept.1, kept.2, ← acc, ← pow]
      exact trayLimitKept_host u cmd ht
    · rw [kept.1, kept.2, ← acc, ← pow]
      exact trayLimitKept_t64 u cmd ht
  case transition =>
    intro s n hp a failed
    have row := exec_effectiveLimitWrite_transition hp
    refine ⟨fun ack hr => ?_, fun hr => ?_, fun hr ht => ?_, fun hr ht => ?_⟩
    · rw [row, limitTransition_gone hr]
    · rw [row, limitTransition_acked hr]
    · rw [row, limitTransition_again hr ht]
    · rw [row, limitTransition_fails hr ht]
  case limits =>
    intro s n hd a v t0 t1 t4
    refine ⟨fun hf => ⟨?_, fun ht => ?_, fun ht => ?_⟩, fun d hr ht => ⟨?_, fun h3 => ?_⟩, fun d ack hr ht => ?_⟩
    · rw [exec_effectiveLimitWrite_due hd hf, limitWrite_acked]
    · rw [exec_effectiveLimitWrite_due hd hf, limitWrite_again ht]
    · rw [exec_effectiveLimitWrite_due hd hf, limitWrite_fails ht]
    · rw [exec_pmbusLimitRetry_due hd hr ht, limitWrite_acked]
    · rw [exec_pmbusLimitRetry_due hd hr ht, limitWrite_fails h3]
    · exact exec_pmbusLimitRetry_early hr ht ack

end Sys2Proof.Machine
end

section
/-! PROOFS. Telemetry samples and windows, the tray governor and loss of input (R279, R280, R284, R285, R287 to R289, R349, Table 11.4):
each row by its cases. -/

namespace Sys2Proof.Machine

/-! ### How reads on a port fail (R355, R358) -/

section
variable {s : State} {p : Nat} (hr : s.crd.phase = .running)
include hr

theorem portRead_down (h : portEn s p = false ∨ (getPort s p).st = 3) (r : TwResult) :
    portRead s p r = (portErr s p 0xB, false) :=
  (if_neg (by simp [hr])).trans (if_pos (by simpa using h))

theorem portRead_clearing (he : portEn s p = true) (h : (getPort s p).st = 2) (r : TwResult) : portRead s p r = (s, false) := by
  simp [portRead, hr, he, h]

end

/-! ### Samples (R279, R284) -/

section
variable {s : State} {n : Fin 8} {x : TelemIn}

theorem exec_telemetrySample_acc (h : sampleDue s n.val (1 + n.val) = true) :
    exec (.telemetrySample (some n) x) s = .next (settle (accSample (sampleTaken s n.val) n.val x)) := congrArg done (if_pos h)

theorem exec_telemetrySample_accEarly (h : sampleDue s n.val (1 + n.val) = false) :
    exec (.telemetrySample (some n) x) s = .next (settle s) := congrArg done (if_neg (Bool.eq_false_iff.mp h))

theorem exec_telemetrySample_tray (h : sampleDue s 8 9 = true) :
    exec (.telemetrySample none x) s = .next (settle (traySample (sampleTaken s 8) x)) := congrArg done (if_pos h)

theorem exec_telemetrySample_trayEarly (h : sampleDue s 8 9 = false) :
    exec (.telemetrySample none x) s = .next (settle s) := congrArg done (if_neg (Bool.eq_false_iff.mp h))

end

/-- The power of VCORE in a sample, in 0.1 W. -/
def corePower (s : State) (n : Nat) (x : TelemIn) : Nat :=
  if (getRail (getAcc s n) 4).en && hasReg s n 4 then x.vcoreMv * x.vcoreMa / 100000 else 0

/-- What a sample that succeeds leaves before its power-derived limit. -/
def accSampled (s : State) (n : Nat) (x : TelemIn) : State :=
  let power := corePower s n x + otherPower s n x.others
  modAcc (addEnergy (sampleIn s n power) (3 + n) power (samplePeriod s (1 + n)) 10000000000) n
    (fun a => { a with sample := some (otherPower s n x.others, x.vcoreMv) })

/-- A sample leaves what the limits allow. -/
theorem allowance_accSampled (s : State) (n : Nat) (x : TelemIn) :
    allowance (accSampled s n x) (getAcc (accSampled s n x) n) = allowance s (getAcc s n) := by
  unfold accSampled
  rw [getAcc_modAcc, if_pos rfl]
  rfl

section
variable {s : State} {n : Nat} {x : TelemIn}

/-- A failed read makes the sample missing. -/
theorem accSample_missing {v : State} (hr : (List.range 5).any (hasReg s n) = true) (hp : portRead s (1 + n) x.result = (v, false)) :
    accSample s n x = v := by
  simp only [accSample, if_pos hr, hp]
  rfl

section
variable (hg : (if (List.range 5).any (hasReg s n) then portRead s (1 + n) x.result else (s, true)) = (s, true))
include hg

/-- A sample that succeeds sets the power-derived limit (R279). -/
theorem accSample_good : accSample s n x =
    if allowance s (getAcc s n) = noLimit then modAcc (accSampled s n x) n (fun a => { a with iPow := noLimit })
    else if x.vcoreMv = 0 then modAcc { accSampled s n x with freeCtr := s.freeCtr + 1 } n
      (fun a => { a with iPow := (Config.freeDword s.freeCtr).toNat % 2 ^ 32 })
    else modAcc (accSampled s n x) n
      (fun a => { a with iPow := iPowOf (allowance s (getAcc s n)) (otherPower s n x.others) x.vcoreMv }) := by
  rw [← allowance_accSampled s n x]
  simp only [accSample, hg]
  exact if_neg (by simp)

end
end

/-- Reads that all succeed: there is no regulator to read, or its port is up and the bus says OK. -/
theorem accReads_good {s : State} {n : Nat} {r : TwResult}
    (h : (∀ q, q < 5 → hasReg s n q = false) ∨ (portUp s (1 + n) = true ∧ r = .ok)) :
    (if (List.range 5).any (hasReg s n) then portRead s (1 + n) r else (s, true)) = (s, true) := by
  rcases h with none | ⟨up, ok⟩
  · have : (List.range 5).any (hasReg s n) = false :=
      List.any_eq_false.mpr (fun q hq => by simp [none q (List.mem_range.mp hq)])
    simp [this]
  · simp [portRead_up up, ok]

/-- What the tray's sample leaves of the steward's own power (R284). -/
def stewardSampled (s : State) (x : TelemIn) : State :=
  addEnergy (sampleIn { s with pow := { s.pow with stewardPower := x.others.headD 0 } } 9 (x.others.headD 0)) 1 (x.others.headD 0)
    (samplePeriod s 9) 10000000

section
variable {s : State} {x : TelemIn}

theorem traySample_alone (hm : cfgF s 0x50001C 6 0 = 0) : traySample s x = stewardSampled s x := if_pos hm

section
variable (hm : cfgF s 0x50001C 6 0 ≠ 0)
include hm

/-- The tray input monitor, read once the steward's own power is taken. -/
theorem traySample_monitor : traySample s x =
    if (portRead (stewardSampled s x) 9 x.result).2 then
      addEnergy (sampleIn (portRead (stewardSampled s x) 9 x.result).1 8 x.vcoreMa) 2 x.vcoreMa
        (samplePeriod (portRead (stewardSampled s x) 9 x.result).1 9) 10000000000
    else (portRead (stewardSampled s x) 9 x.result).1 := if_neg hm

theorem traySample_good (hp : portUp s 9 = true) (ho : x.result = .ok) : traySample s x =
    addEnergy (sampleIn (stewardSampled s x) 8 x.vcoreMa) 2 x.vcoreMa (samplePeriod s 9) 10000000000 := by
  rw [traySample_monitor hm, portRead_up (s := stewardSampled s x) hp, if_pos ho]
  rfl

theorem traySample_fails (hp : portUp s 9 = true) (ho : x.result ≠ .ok) :
    traySample s x = portErr (stewardSampled s x) 9 (twCode x.result) := by
  rw [traySample_monitor hm, portRead_up (s := stewardSampled s x) hp, if_neg ho]
  rfl

end
end

/-! ### Windows (R285) -/

/-- Window k of a map of windows. -/
def winOf (m : KMap TelemWin) (k : Nat) : TelemWin := KMap.get (fun _ => ({} : TelemWin)) m k

/-- What the ten windows publish. -/
def winsPublished (peak : Bool) (wins : KMap TelemWin) (pub : KMap Nat) : KMap Nat :=
  (List.range 10).foldl (fun m k => KMap.set (fun _ => 0) m k (publishWin k peak (winOf wins k))) pub

/-- A window of ms as it begins, at a multiple of its length. -/
def winBegun (now ms : Nat) : TelemWin := { start := now / ms * ms, len := ms }

/-- The ten windows as they begin again. -/
def winsBegun (now ms : Nat) (wins : KMap TelemWin) : KMap TelemWin :=
  (List.range 10).foldl (fun m k => KMap.set (fun _ => ({} : TelemWin)) m k (winBegun now ms)) wins

theorem get_winsPublished (peak : Bool) (wins : KMap TelemWin) (pub : KMap Nat) {k : Nat} (hk : k < 10) :
    KMap.get (fun _ => 0) (winsPublished peak wins pub) k = publishWin k peak (winOf wins k) :=
  (KMap.get_foldl_set (fun _ => 0) (fun k => publishWin k peak (winOf wins k)) k _ pub).trans (if_pos (List.mem_range.mpr hk))

theorem winOf_winsBegun (now ms : Nat) (wins : KMap TelemWin) {k : Nat} (hk : k < 10) :
    winOf (winsBegun now ms wins) k = winBegun now ms :=
  (KMap.get_foldl_set (fun _ => ({} : TelemWin)) (fun _ => winBegun now ms) k _ wins).trans (if_pos (List.mem_range.mpr hk))

section
variable {s : State}

theorem telemetryWindowEnd_early (peak : Bool) (h : s.tick < (winOf (if peak then s.pow.peak else s.pow.avg) 0).start
    + (winOf (if peak then s.pow.peak else s.pow.avg) 0).len) : telemetryWindowEnd peak s = s := if_pos h

theorem telemetryWindowEnd_avg (h : (winOf s.pow.avg 0).start + (winOf s.pow.avg 0).len ≤ s.tick) : telemetryWindowEnd false s =
    { s with pow := { s.pow with pubAvg := winsPublished false s.pow.avg s.pow.pubAvg,
                                 avg := winsBegun s.tick (cfgF s 0x500008 15 0 * 1000) s.pow.avg } } :=
  if_neg (Nat.not_lt.mpr h)

theorem telemetryWindowEnd_peak (h : (winOf s.pow.peak 0).start + (winOf s.pow.peak 0).len ≤ s.tick) : telemetryWindowEnd true s =
    { s with pow := { s.pow with pubPeak := winsPublished true s.pow.peak s.pow.pubPeak,
                                 peak := winsBegun s.tick (cfgF s 0x500008 31 16 * 1000) s.pow.peak } } :=
  if_neg (Nat.not_lt.mpr h)

end

/-! ### The tray governor (R280) -/

/-- The governor's windows emptied, and its next 10 ms begun. -/
def governed (s : State) : State := { s with pow := { s.pow with gov := [], govAt := s.tick } }

/-- The accelerators in IDLE and RUN. -/
def liveAccs (s : State) : List Nat := (List.range 8).filter (fun n => accLive (getAcc s n))

/-- What the share of An falls by, E over the limit: its part of the power of those in IDLE and RUN. -/
def governCut (s : State) (e n : Nat) : Nat :=
  let total := (liveAccs s).foldl (fun t n => t + (govMean s n).getD 0) 0
  if total = 0 then 0 else e * (govMean s n).getD 0 / total

section
variable {s : State}

theorem exec_trayGovernor_due (h : s.pow.govAt + 10000 ≤ s.tick) : exec .trayGovernor s = .next (settle (trayGovernor s)) :=
  congrArg done (if_pos h)

theorem exec_trayGovernor_early (h : s.tick < s.pow.govAt + 10000) : exec .trayGovernor s = .next (settle s) :=
  congrArg done (if_neg (Nat.not_le.mpr h))

theorem governShares_idle (h : trayApplied s = noLimit ∨ cfgF s 0x50001C 6 0 = 0 ∨ govMean s 8 = none) :
    governShares s = governed s := by
  unfold governShares
  dsimp only
  split
  next => rfl
  next hn =>
    have none : govMean s 8 = none := h.elim (fun h => absurd (.inl h) hn) (fun h => h.elim (fun h => absurd (.inr h) hn) id)
    rw [none]
    rfl

section
variable {p : Nat} (hl : trayApplied s ≠ noLimit) (hm : cfgF s 0x50001C 6 0 ≠ 0) (hp : govMean s 8 = some p)
include hl hm hp

/-- The shares as the mean tray power decides them. -/
theorem governShares_mean : governShares s =
    if trayApplied s < p then (liveAccs s).foldl (fun u n => modAcc u n (fun a =>
      { a with share := max (plimApplied a / 4) (a.share - governCut s (p - trayApplied s) n) })) (governed s)
    else if p < trayApplied s - trayApplied s / 32 then (List.range 8).foldl (fun u n => modAcc u n (fun a =>
      { a with share := min (plimApplied a) (a.share + trayApplied s / 64) })) (governed s)
    else governed s := by
  unfold governShares
  dsimp only
  rw [if_neg (not_or.mpr ⟨hl, hm⟩), hp]
  rfl

theorem getAcc_governShares_over (ho : trayApplied s < p) (k : Nat) : getAcc (governShares s) k = if k ∈ liveAccs s then
    { getAcc s k with share := max (plimApplied (getAcc s k) / 4) ((getAcc s k).share - governCut s (p - trayApplied s) k) }
    else getAcc s k := by
  rw [governShares_mean hl hm hp, if_pos ho]
  exact getAcc_foldl_modAcc (fun n a =>
    { a with share := max (plimApplied a / 4) (a.share - governCut s (p - trayApplied s) n) }) (List.nodup_range.filter _) k _

theorem getAcc_governShares_under (ho : p < trayApplied s - trayApplied s / 32) {k : Nat} (hk : k < 8) :
    getAcc (governShares s) k = { getAcc s k with
      share := min (plimApplied (getAcc s k)) ((getAcc s k).share + trayApplied s / 64) } := by
  rw [governShares_mean hl hm hp, if_neg (by omega), if_pos ho]
  exact (getAcc_foldl_modAcc (fun _ a => { a with share := min (plimApplied a) (a.share + trayApplied s / 64) })
    List.nodup_range k _).trans (if_pos (List.mem_range.mpr hk))

end

/-- Whatever the mean, the governor writes no more than its windows and the accelerators. -/
theorem governShares_keeps {β : Type} (part : State → β) (hp : ∀ s n f, part (modAcc s n f) = part s) :
    part (governShares s) = part (governed s) := by
  by_cases h : trayApplied s = noLimit ∨ cfgF s 0x50001C 6 0 = 0 ∨ govMean s 8 = none
  · rw [governShares_idle h]
  · obtain ⟨hl, hm, hn⟩ := not_or.mp h |>.imp id not_or.mp
    obtain ⟨p, hs⟩ := Option.ne_none_iff_exists'.mp hn
    rw [governShares_mean hl hm hs]
    split
    · exact foldl_keeps part (fun u n => hp u n _) _ _
    · split
      · exact foldl_keeps part (fun u n => hp u n _) _ _
      · rfl

/-- The power-derived limits that follow leave what they do not decide. -/
theorem trayGovernor_keeps {β : Type} (part : State → β) (hp : ∀ s n, part (freshIPow s n) = part s) :
    part (trayGovernor s) = part (governShares s) := by
  refine foldl_keeps part (fun u n => ?_) _ _
  split
  · exact hp u n
  · rfl

theorem share_freshIPow (s : State) (n k : Nat) : (getAcc (freshIPow s n) k).share = (getAcc s k).share := by
  rw [freshIPow, getAcc_modAcc]
  split
  next hk =>
    subst hk
    split
    · dsimp only
      split
      · rfl
      · split <;> rfl
    · rfl
  next => rfl

theorem share_trayGovernor (k : Nat) : (getAcc (trayGovernor s) k).share = (getAcc (governShares s) k).share :=
  trayGovernor_keeps (fun s => (getAcc s k).share) (fun s n => share_freshIPow s n k)

theorem trayGovernor_windows : (trayGovernor s).pow.gov = [] ∧ (trayGovernor s).pow.govAt = s.tick :=
  ⟨(trayGovernor_keeps (fun s => s.pow.gov) (fun _ _ => rfl)).trans (governShares_keeps (fun s => s.pow.gov) (fun _ _ _ => rfl)),
    (trayGovernor_keeps (fun s => s.pow.govAt) (fun _ _ => rfl)).trans (governShares_keeps (fun s => s.pow.govAt) (fun _ _ _ => rfl))⟩

theorem mem_liveAccs {n : Nat} : n ∈ liveAccs s ↔ n < 8 ∧ accLive (getAcc s n) = true := by
  simp [liveAccs]

end

/-! ### Loss and return of input (R287 to R289) -/

section
variable {s : State}

theorem exec_inFailNFall_lost (h : s.pow.inputLost = true) : exec .inFailNFall s = .next (settle s) := congrArg done (if_pos h)

theorem exec_inFailNRise_there (h : s.pow.inputLost = false) : exec .inFailNRise s = .next (settle s) :=
  congrArg done (if_pos (by simp [h]))

theorem exec_inFailNRise_returns (h : s.pow.inputLost = true) : exec .inFailNRise s = .next (settle (chargerCheck (logRec
    { s with pow := { s.pow with inputLost := false, rideThrough := true } } 0x04 5 0
    (leBytes 4 (satN 32 ((s.tick - s.pow.lostSince) / 1000)))))) := congrArg done (if_neg (by simp [h]))

/-- Fetching pauses while the input is lost (R288). -/
theorem fetchPaused_inputLost (h : s.pow.inputLost = true) : fetchPaused s = true := by
  simp [fetchPaused, h]

end

/-- Settles O47: a sample by its reads, a window by its end, the governor by the mean, and input by its loss and return. -/
theorem telemetryAndHoldup : Obligations.TelemetryAndHoldup := by
  refine ⟨fun s n x => exec_telemetrySample_accEarly, fun s x => exec_telemetrySample_trayEarly, ?missing, ?good, ?tray, ?windows,
    fun s => exec_trayGovernor_early, ?governs, fun s => exec_inFailNFall_lost, ?falls, fun t => fetchPaused_inputLost,
    fun s => exec_inFailNRise_there, fun s => exec_inFailNRise_returns⟩
  case missing =>
    intro s n x hd hr ⟨q, hq, hreg⟩ u p
    have some_reg : (List.range 5).any (hasReg u n.val) = true := List.any_eq_true.mpr ⟨q, List.mem_range.mpr hq, hreg⟩
    have row : exec (.telemetrySample (some n) x) s = .next (settle (accSample u n.val x)) := exec_telemetrySample_acc hd
    refine ⟨fun h => ?_, fun he h => ?_, fun he h ho => ?_⟩
    · rw [row, accSample_missing some_reg (portRead_down (s := u) hr h x.result)]
    · rw [row, accSample_missing some_reg (portRead_clearing (s := u) hr he h x.result)]
    · have up : portUp u p = true := by
        change (decide (s.crd.phase = .running) && portEn s p && decide ((getPort s p).st = 0)) = true
        simp [hr, he, h]
      rw [row, accSample_missing some_reg ((portRead_up up x.result).trans (if_neg ho))]
  case good =>
    intro s n x hd hg on core other w u al
    have row : exec (.telemetrySample (some n) x) s = .next (settle (accSample (sampleTaken s n.val) n.val x)) :=
      exec_telemetrySample_acc hd
    have good := accSample_good (s := sampleTaken s n.val) (accReads_good (s := sampleTaken s n.val) hg)
    rw [row, good]
    refine ⟨fun ha => ?_, fun ha hv => ?_, fun ha hv => ?_⟩
    · rw [if_pos (show allowance (sampleTaken s n.val) (getAcc (sampleTaken s n.val) n.val) = noLimit from ha)]
      rfl
    · rw [if_neg (show allowance (sampleTaken s n.val) (getAcc (sampleTaken s n.val) n.val) ≠ noLimit from ha), if_neg hv]
      rfl
    · rw [if_neg (show allowance (sampleTaken s n.val) (getAcc (sampleTaken s n.val) n.val) ≠ noLimit from ha), if_pos hv]
      exact ⟨_, Nat.mod_lt _ (Nat.two_pow_pos 32), rfl⟩
  case tray =>
    intro s x hd own v u
    have row : exec (.telemetrySample none x) s = .next (settle (traySample v x)) := exec_telemetrySample_tray hd
    refine ⟨fun hm => ?_, fun hp ho hm => ?_, fun hp ho hm => ?_⟩
    · rw [row, traySample_alone (s := v) hm]
      rfl
    · rw [row, traySample_good (s := v) hm hp ho]
      rfl
    · rw [row, traySample_fails (s := v) hm hp ho]
      rfl
  case windows =>
    intro s w top
    refine ⟨fun h => congrArg done (telemetryWindowEnd_early false h), fun h => ⟨_, congrArg done (telemetryWindowEnd_avg h), rfl,
        fun k hk => ?_⟩, fun h => congrArg done (telemetryWindowEnd_early true h),
      fun h => ⟨_, congrArg done (telemetryWindowEnd_peak h), rfl, fun k hk => ?_⟩⟩
    · have fresh := winOf_winsBegun s.tick (cfgF s 0x500008 15 0 * 1000) s.pow.avg hk
      exact ⟨congrArg TelemWin.count fresh, congrArg TelemWin.sum fresh, get_winsPublished false _ _ hk⟩
    · have fresh := winOf_winsBegun s.tick (cfgF s 0x500008 31 16 * 1000) s.pow.peak hk
      exact ⟨congrArg TelemWin.count fresh, congrArg TelemWin.peak fresh, get_winsPublished true _ _ hk⟩
  case governs =>
    intro s h
    obtain ⟨gov, began⟩ := trayGovernor_windows (s := s)
    refine ⟨trayGovernor s, exec_trayGovernor_due h, gov, began, fun hi n => ?_,
      fun p hl hm hp ho => ⟨fun n hn ha => ?_, fun n ha => ?_⟩, fun p hl hm hp ho n hn => ?_⟩
    · rw [share_trayGovernor, governShares_idle hi]
      rfl
    · rw [share_trayGovernor, getAcc_governShares_over hl hm hp ho, if_pos (mem_liveAccs.mpr ⟨hn, ha⟩)]
      exact ⟨Nat.le_max_left _ _, Nat.max_le.mpr ⟨Nat.le_max_right _ _, (Nat.sub_le _ _).trans (Nat.le_max_left _ _)⟩⟩
    · rw [share_trayGovernor, getAcc_governShares_over hl hm hp ho,
        if_neg (fun hk => Bool.false_ne_true (ha.symm.trans (mem_liveAccs.mp hk).2))]
    · rw [share_trayGovernor, getAcc_governShares_under hl hm hp ho hn]
  case falls => exact fun s h => congrArg done (if_neg (Bool.eq_false_iff.mp h))

end Sys2Proof.Machine
end

section
/-! PROOFS. What a shutdown may write (R43, R302, R303, Tables 12.4 and 12.5): the accelerators that it stops, the moves, launches and
batches that it ends and the domains that it forces leave the thermal unit as it is but for its stops, and the leak channels; of the
thermal unit the shutdown itself writes the latches and the pumps' full-speed drive. -/

namespace Sys2Proof.Machine

/-- What a shutdown of accelerators and domains leaves alone: the thermal unit but for its stops, and the leak channels. -/
def heatPart (s : State) : Therm × KMap Leak := ({ s.therm with stops := [] }, s.leaks)

section
variable {s t u : State}

theorem heatPart_of_eq (ht : t.therm = s.therm) (hl : t.leaks = s.leaks) : heatPart t = heatPart s := by
  rw [heatPart, heatPart, ht, hl]

theorem heatPart_ite {p : Prop} [Decidable p] (ht : heatPart t = heatPart s) (hu : heatPart u = heatPart s) :
    heatPart (if p then t else u) = heatPart s := by
  split
  · exact ht
  · exact hu

/-- What is done outside the thermal unit and the leak channels after it changes nothing of the part. -/
theorem heatPart_outside (h : heatPart u = heatPart s) (ht : t.therm = u.therm) (hl : t.leaks = u.leaks) : heatPart t = heatPart s :=
  (heatPart_of_eq ht hl).trans h

/-! ### Counts, records and completions -/

@[simp] theorem heatPart_count (e : Nat) (o : Occ) (k : Nat) : heatPart (count s e o k) = heatPart s :=
  heatPart_of_eq (by simp) (by simp)

@[simp] theorem heatPart_logRec (typ src sev : Nat) (bs : List Byte) : heatPart (logRec s typ src sev bs) = heatPart s :=
  heatPart_of_eq (by simp) (by simp)

@[simp] theorem heatPart_complete (c : Nat) (r : Result) : heatPart (complete s c r) = heatPart s :=
  heatPart_of_eq (by simp) (by simp)

@[simp] theorem heatPart_hostWrite (a : Nat) (bs : List Byte) : heatPart (hostWrite s a bs) = heatPart s := rfl

/-! ### Launches (R149) -/

theorem heatPart_of_grainFrame (h : GrainFrame s t) : heatPart t = heatPart s :=
  heatPart_of_eq (by rw [h.eq]) (by rw [h.eq])

@[simp] theorem heatPart_stopGrain (p : Nat) : heatPart (stopGrain s p) = heatPart s :=
  heatPart_of_grainFrame (grainFrame_stopGrain s p)

@[simp] theorem heatPart_modGrain (p : Nat) (f : Grain → Grain) : heatPart (modGrain s p f) = heatPart s := rfl
@[simp] theorem heatPart_modLaunch (l : Nat) (f : Launch → Launch) : heatPart (modLaunch s l f) = heatPart s := rfl
@[simp] theorem heatPart_modBed (b : Nat) (f : Bed → Bed) : heatPart (modBed s b f) = heatPart s := rfl

@[simp] theorem heatPart_stopLaunch (l : Launch) : heatPart (stopLaunch s l) = heatPart s :=
  foldl_keeps heatPart (fun u p => by simp) _ s

theorem heatPart_setBed (b : Nat) (x : Bed) : heatPart (setBed s b x) = heatPart s := rfl

@[simp] theorem heatPart_poolUpdate : heatPart (poolUpdate s) = heatPart s := by
  refine foldl_keeps heatPart (fun u b => ?_) _ s
  exact heatPart_ite (heatPart_setBed b _) rfl

@[simp] theorem heatPart_releaseLaunch (l : Launch) : heatPart (releaseLaunch s l) = heatPart s := by
  refine heatPart_poolUpdate.trans (foldl_keeps heatPart (fun u b => ?_) l.beds s)
  refine (foldl_keeps heatPart (fun v p => ?_) _ _).trans ?_
  · exact heatPart_ite (heatPart_modGrain p _) rfl
  · exact heatPart_ite (heatPart_modBed b _) rfl

@[simp] theorem heatPart_dropLaunches (which : Launch → Bool) : heatPart (dropLaunches s which) = heatPart s :=
  foldl_keeps heatPart (fun u l => by simp) _ s

@[simp] theorem heatPart_endLaunch (l : Launch) (st : Status) (b : Bool) (dma : Option Nat) :
    heatPart (endLaunch s l st b dma) = heatPart s := by
  unfold endLaunch
  split
  · simp
  · split
    · simp
    · exact (heatPart_complete _ _).trans (heatPart_ite (by simp) (by simp))

@[simp] theorem heatPart_thermalStopLaunches : heatPart (thermalStopLaunches s) = heatPart s := by
  refine foldl_keeps heatPart (fun u l => ?_) _ s
  split
  · rfl
  · dsimp only
    split <;> simp

/-! ### Moves and batches (R220, R231) -/

@[simp] theorem heatPart_setPending (h op : Nat) : heatPart (setPending s h op) = heatPart s := rfl
@[simp] theorem heatPart_freeKey (kind key : Nat) : heatPart (freeKey s kind key) = heatPart s := rfl
@[simp] theorem heatPart_dropMove (c : Nat) : heatPart (dropMove s c) = heatPart s := rfl
@[simp] theorem heatPart_mapRecs (f : Stratum → Stratum) : heatPart (mapRecs s f) = heatPart s := rfl
@[simp] theorem heatPart_ltAdd (i k : Nat) : heatPart (ltAdd s i k) = heatPart s := rfl

@[simp] theorem heatPart_sealDrop (c : Nat) : heatPart (sealDrop s c) = heatPart s := heatPart_ite rfl rfl

@[simp] theorem heatPart_completeMove (c : Cmd) (r : Result) : heatPart (completeMove s c r) = heatPart s := by
  refine (heatPart_complete _ _).trans ?_
  unfold countMove
  split <;> simp

/-- A move that ends gives up its seal context. -/
theorem heatPart_sealGone (m : Move) : heatPart (if m.spoke = 8 then sealRelease s (sealWho m.cmd) else s) = heatPart s :=
  heatPart_ite rfl rfl

@[simp] theorem heatPart_failMove (m : Move) (r : Result) : heatPart (failMove s m r) = heatPart s := by
  have freed := heatPart_sealGone (s := s) m
  exact (heatPart_completeMove _ _).trans (heatPart_ite (by simpa using freed) (by simpa using freed))

@[simp] theorem heatPart_finishMove (m : Move) : heatPart (finishMove s m) = heatPart s := by
  have freed := heatPart_sealGone (s := s) m
  exact (heatPart_completeMove _ _).trans (heatPart_ite (by simpa using freed) (by simpa using freed))

@[simp] theorem heatPart_failAllMoves (r : Result) : heatPart (failAllMoves s r) = heatPart s :=
  foldl_keeps heatPart (fun _ m => heatPart_ite (heatPart_finishMove m) (heatPart_failMove m r)) _ s

@[simp] theorem heatPart_failSessions (xs : List Session) (st : Status) : heatPart (failSessions s xs st) = heatPart s := by
  refine foldl_keeps heatPart (fun u x => ?_) xs s
  exact (heatPart_complete x.cmd _).trans rfl

@[simp] theorem heatPart_freeRows (w : Window) : heatPart (freeRows s w) = heatPart s := rfl

@[simp] theorem heatPart_failBatch (st : Status) : heatPart (failBatch s st) = heatPart s := by
  unfold failBatch
  split
  · rfl
  · refine (heatPart_failSessions _ _).trans ((heatPart_count _ _ _).trans ?_)
    exact heatPart_outside (heatPart_dropLaunches (fun l => l.cmd.isNone)) rfl rfl

@[simp] theorem heatPart_failBatches (st : Status) : heatPart (failBatches s st) = heatPart s := by
  refine (foldl_keeps heatPart (fun u w => ?_) _ _).trans ?_
  · exact (heatPart_failSessions _ _).trans (heatPart_freeRows w)
  · exact heatPart_outside (heatPart_failBatch st) rfl rfl

/-! ### Accelerators and their spokes (R240, R267, R303) -/

@[simp] theorem heatPart_modAcc (n : Nat) (f : Acc → Acc) : heatPart (modAcc s n f) = heatPart s := rfl
@[simp] theorem heatPart_modRails (n : Nat) (f : Rail → Rail) (l : List Nat) :
    heatPart (l.foldl (fun s r => modRail s n r f) s) = heatPart s :=
  foldl_keeps heatPart (f := fun s r => modRail s n r f) (fun _ _ => rfl) l s
@[simp] theorem heatPart_modSpoke (n : Nat) (f : Spoke → Spoke) : heatPart (modSpoke s n f) = heatPart s := rfl
@[simp] theorem heatPart_dropSpoke (n : Nat) : heatPart (dropSpoke s n) = heatPart s := rfl
@[simp] theorem heatPart_setStop (n : Nat) (x : Option Stop) : heatPart (setStop s n x) = heatPart s := rfl

@[simp] theorem heatPart_writeRetain (n v : Nat) : heatPart (writeRetain s n v) = heatPart s := heatPart_ite rfl rfl

@[simp] theorem heatPart_failPowerCmds (n : Nat) (r : Result) : heatPart (failPowerCmds s n r) = heatPart s :=
  foldl_keeps heatPart (fun _ _ => heatPart_complete _ r) _ s

@[simp] theorem heatPart_accGoneMove (n value : Nat) : heatPart (accGoneMove s n value) = heatPart s := by
  unfold accGoneMove
  split
  · rfl
  · exact heatPart_ite (heatPart_finishMove _) (heatPart_failMove _ _)

@[simp] theorem heatPart_accLeft (n value : Nat) : heatPart (accLeft s n value) = heatPart s :=
  (foldl_keeps heatPart (fun _ _ => by simp) _ _).trans (heatPart_accGoneMove n value)

@[simp] theorem heatPart_loseAccStrata (n : Nat) : heatPart (loseAccStrata s n) = heatPart s := by
  refine (heatPart_mapRecs _).trans (foldl_keeps heatPart (fun u h => ?_) _ s)
  unfold loseRec
  split
  · rfl
  · exact heatPart_of_eq (by simp) (by simp)

@[simp] theorem heatPart_disableRail (n r : Nat) : heatPart (disableRail s n r) = heatPart s := by
  unfold disableRail
  dsimp only
  split <;> split <;> simp

@[simp] theorem heatPart_disableRails (n : Nat) (l : List Nat) : heatPart (l.foldl (fun s r => disableRail s n r) s) = heatPart s :=
  foldl_keeps heatPart (fun _ r => heatPart_disableRail n r) l s

@[simp] theorem heatPart_enterLow (n : Nat) (st : AccSt) : heatPart (enterLow s n st) = heatPart s := heatPart_ite rfl rfl

@[simp] theorem heatPart_stopAcc (n : Nat) (retain : Bool) : heatPart (stopAcc s n retain) = heatPart s := by
  refine (heatPart_enterLow n _).trans ((heatPart_setStop n none).trans ((heatPart_disableRails n _).trans ?_))
  simp

@[simp] theorem heatPart_stopUp (n : Nat) : heatPart (stopUp s n) = heatPart s :=
  (heatPart_modAcc n _).trans ((heatPart_disableRails n _).trans rfl)

/-! ### Domains (R31, R40, R43) -/

theorem heatPart_foldl_modThread {α : Type} (g t : α → Nat) (f : α → Thread → Thread) (l : List α) :
    heatPart (l.foldl (fun s a => modThread s (g a) (t a) (f a)) s) = heatPart s :=
  foldl_keeps heatPart (f := fun s a => modThread s (g a) (t a) (f a)) (fun _ _ => rfl) l s

@[simp] theorem heatPart_dropEndpoint (p : Nat → Bool) : heatPart (dropEndpoint s p) = heatPart s :=
  heatPart_foldl_modThread _ _ _ _

@[simp] theorem heatPart_dropModels : heatPart (dropModels s) = heatPart s :=
  foldl_keeps heatPart (fun _ m => heatPart_freeKey 1 m) _ s

@[simp] theorem heatPart_loseD04 : heatPart (loseD04 s) = heatPart s := by
  have lost : heatPart (dropEndpoint (dropModels (resetCfg s (fun b => b = 5 || b = 6))) (fun e => decide (e < 1000))) = heatPart s :=
    (heatPart_dropEndpoint _).trans heatPart_dropModels
  exact heatPart_poolUpdate.trans (heatPart_outside lost rfl rfl)

@[simp] theorem heatPart_stopSpoke (n : Nat) : heatPart (stopSpoke s n) = heatPart s := heatPart_of_eq rfl rfl

@[simp] theorem heatPart_bedReset (b : Nat) : heatPart (bedReset s b) = heatPart s := by
  refine (heatPart_modBed b _).trans (foldl_keeps heatPart (fun u p => ?_) _ s)
  exact heatPart_of_eq rfl rfl

@[simp] theorem heatPart_passIndex (p : Nat) (spare : Option Nat) : heatPart (passIndex s p spare) = heatPart s := by
  unfold passIndex
  split <;> rfl

@[simp] theorem heatPart_fenceWaiting (b : Nat) : heatPart (fenceWaiting s b) = heatPart s := by
  have fenced : heatPart ((getBed s b).failing.foldl (fun s f => markFenced (passIndex s f.1 none) f.1) s) = heatPart s := by
    refine foldl_keeps heatPart (fun u f => ?_) _ s
    exact heatPart_outside (heatPart_passIndex f.1 none) rfl rfl
  exact heatPart_ite fenced ((heatPart_modBed b _).trans fenced)

@[simp] theorem heatPart_bedLose (b : Nat) : heatPart (bedLose s b) = heatPart s :=
  (heatPart_modBed b _).trans (by simp)

@[simp] theorem heatPart_bedZero (b : Nat) : heatPart (bedZero s b) = heatPart s := by
  refine foldl_keeps heatPart (fun u p => ?_) _ s
  rfl

@[simp] theorem heatPart_loseDom (d : Nat) (off : Bool) : heatPart (loseDom s d off) = heatPart s := by
  unfold loseDom
  refine heatPart_ite (heatPart_ite (by simp) (by simp)) (heatPart_ite ?_ (heatPart_ite ?_ (heatPart_ite (by simp)
    (heatPart_ite (by simp) rfl))))
  · exact heatPart_ite (heatPart_outside (heatPart_dropEndpoint (fun e => decide (e = d - 20))) rfl rfl) (heatPart_dropEndpoint _)
  · exact heatPart_ite (heatPart_outside (heatPart_dropEndpoint (fun e => decide (100 ≤ e ∧ e < 1000))) rfl rfl)
      (heatPart_dropEndpoint _)

@[simp] theorem heatPart_modDom (d : Nat) (f : Dom → Dom) : heatPart (modDom s d f) = heatPart s := rfl

@[simp] theorem heatPart_enterDom (d : Nat) (x : DomSt) : heatPart (enterDom s d x) = heatPart s := by
  have clock : heatPart (if x = .on then clockStarts s d else s) = heatPart s := heatPart_ite (heatPart_ite rfl rfl) rfl
  unfold enterDom
  dsimp only
  split
  · simp
  · simp
  · exact clock
  · exact heatPart_ite ((heatPart_modSpoke _ _).trans clock) clock

@[simp] theorem heatPart_seqFails (q : DomSeq) (d n e : Nat) : heatPart (seqFails s q d n e) = heatPart s :=
  heatPart_complete q.cmd _

theorem heatPart_modDoms (f : Nat → Dom → Dom) (ds : List Nat) :
    heatPart (ds.foldl (fun s d => modDom s d (f d)) s) = heatPart s :=
  foldl_keeps heatPart (f := fun s d => modDom s d (f d)) (fun _ _ => rfl) ds s

theorem heatPart_beginDoms (x : DomSt) (ds : List Nat) : heatPart (ds.foldl (fun s d => beginDom s d x) s) = heatPart s :=
  foldl_keeps heatPart (f := fun s d => beginDom s d x) (fun _ _ => rfl) ds s

theorem heatPart_seqRun (ds : List Nat) : ∀ (s : State) (q : DomSeq), heatPart (seqRun s q ds) = heatPart s := by
  induction ds with
  | nil => exact fun s q => heatPart_ite (heatPart_complete q.cmd _) rfl
  | cons d ds ih =>
    exact fun s q => heatPart_ite rfl (heatPart_ite (heatPart_seqFails q d _ _) (heatPart_ite
      ((ih _ _).trans (heatPart_modDoms _ _)) (heatPart_beginDoms _ _)))

@[simp] theorem heatPart_seqPump : heatPart (seqPump s) = heatPart s := by
  refine foldl_keeps heatPart (fun u q => ?_) _ s
  split
  · rfl
  · exact heatPart_seqRun _ _ _

@[simp] theorem heatPart_forceDoms (ds : List (Nat × DomSt)) (err : Nat) : heatPart (forceDoms s ds err) = heatPart s := by
  refine heatPart_seqPump.trans ((foldl_keeps heatPart (fun _ _ => heatPart_seqFails _ _ _ _) _ _).trans ?_)
  refine foldl_keeps heatPart (fun u f => ?_) ds s
  exact heatPart_ite rfl (heatPart_ite rfl (heatPart_enterDom _ _))

@[simp] theorem heatPart_dieSpoke (n : Nat) : heatPart (dieSpoke s n) = heatPart s := heatPart_ite (heatPart_forceDoms _ _) rfl

@[simp] theorem heatPart_stopAccDie (n : Nat) (retain : Bool) : heatPart (stopAccDie s n retain) = heatPart s :=
  (heatPart_dieSpoke n).trans (heatPart_stopAcc n retain)

/-! ### A shutdown (R303, Tables 12.4 and 12.5) -/

@[simp] theorem heatPart_stopHandshake (n chan : Nat) : heatPart (stopHandshake s n chan) = heatPart s :=
  heatPart_ite (heatPart_writeRetain n 1) rfl

@[simp] theorem heatPart_stopByTable (n chan : Nat) (skip : Bool) : heatPart (stopByTable s n chan skip) = heatPart s := by
  unfold stopByTable
  split <;> simp

@[simp] theorem heatPart_stopCause (chan : Nat) (skip : Bool) (n : Nat) : heatPart (stopCause s chan skip n) = heatPart s := by
  unfold stopCause
  split
  · rfl
  · exact heatPart_ite (heatPart_stopAccDie n false) rfl

@[simp] theorem heatPart_latchAcc (chan : Nat) (skip : Bool) (n : Nat) : heatPart (latchAcc s chan skip n) = heatPart s := by
  unfold latchAcc
  cases spokeMove s n
  all_goals
    dsimp only
    split <;> simp [apply_ite heatPart]

@[simp] theorem heatPart_dieDomains : heatPart (dieDomains s) = heatPart s := by
  refine (foldl_keeps heatPart (fun u n => heatPart_ite rfl (heatPart_dieSpoke n)) _ _).trans ((heatPart_forceDoms _ _).trans ?_)
  simp

end

/-! ### The latches (R302, R305, R311) -/

section
variable {s t : State}

/-- What an equal part says of the thermal unit and of the leak channels. -/
theorem therm_of_heatPart (h : heatPart t = heatPart s) :
    t.therm = { s.therm with stops := t.therm.stops } ∧ t.leaks = s.leaks := by
  obtain ⟨ht, hl⟩ := Prod.mk.inj h
  refine ⟨?_, hl⟩
  calc t.therm = { ({ t.therm with stops := [] } : Therm) with stops := t.therm.stops } := rfl
    _ = { s.therm with stops := t.therm.stops } := by rw [ht]

theorem leakOn_of_heatPart (h : heatPart t = heatPart s) (loop : Nat) : leakOn t loop = leakOn s loop := by
  obtain ⟨ht, hl⟩ := therm_of_heatPart h
  unfold leakOn leakActs armed leakLoop getLeak
  rw [hl, ht]

/-- The accelerators whose latches a shutdown sets anew, of those it names. -/
def newLatches (s : State) (named : Nat → Bool) : List Nat :=
  ((List.range 8).filter named).filter (fun n => !s.therm.latch.getLsbD n)

/-- The mask of some accelerators' latches, with the die's. -/
def latchMask (new : List Nat) (die : Bool) : BitVec 9 :=
  new.foldl (fun b n => b ||| (1#9 <<< n)) (if die then 0x100#9 else 0#9)

/-- The mask of those that raise pump m: the ones on its loop, and none while a leak is on it (R305, R311). -/
def pumpMask (s : State) (new : List Nat) (m : Nat) : BitVec 9 :=
  if leakOn s (pumpLoop s m) then 0#9
  else new.foldl (fun b n => if accLoop s n = pumpLoop s m then b ||| (1#9 <<< n) else b) 0#9

/-- The latches set, and the pumps' full-speed drive with them. -/
def raiseLatches (s : State) (new : List Nat) (die : Bool) : State :=
  { s with therm := { s.therm with
      latch := s.therm.latch ||| latchMask new die,
      pump6 := s.therm.pump6 ||| pumpMask s new 6, pump7 := s.therm.pump7 ||| pumpMask s new 7 } }

theorem pumpMask_of_heatPart (h : heatPart t = heatPart s) (new : List Nat) (m : Nat) : pumpMask t new m = pumpMask s new m := by
  unfold pumpMask accLoop pumpLoop
  rw [leakOn_of_heatPart h, (therm_of_heatPart h).1]

theorem heatPart_raiseLatches (h : heatPart t = heatPart s) (new : List Nat) (die : Bool) :
    heatPart (raiseLatches t new die) = heatPart (raiseLatches s new die) := by
  have pumps := pumpMask_of_heatPart h new
  obtain ⟨ht, hl⟩ := therm_of_heatPart h
  simp only [heatPart, raiseLatches, pumps, hl]
  rw [ht]

/-- With none to set, nothing is raised. -/
theorem raiseLatches_none (s : State) : raiseLatches s [] false = s := by
  simp [raiseLatches, latchMask, pumpMask]

@[simp] theorem heatPart_latchAccs (chan : Nat) (skip : Nat → Bool) (l : List Nat) :
    heatPart (l.foldl (fun s n => latchAcc s chan (skip n) n) s) = heatPart s :=
  foldl_keeps heatPart (fun _ n => heatPart_latchAcc chan (skip n) n) l s

/-- A shutdown raises the latches that it names and that are not set; its stops leave them so. -/
theorem heatPart_setLatches (named : Nat → Bool) (die : Bool) (chan v : Nat) (skip : Nat → Bool) :
    heatPart (setLatches s named die chan v skip)
      = heatPart (raiseLatches s (newLatches s named) (die && !s.therm.latch.getLsbD 8)) := by
  have caused : heatPart ((((List.range 8).filter named).filter (fun n => s.therm.latch.getLsbD n)).foldl
      (fun s n => stopCause s chan (skip n) n) s) = heatPart s :=
    foldl_keeps heatPart (fun _ n => heatPart_stopCause chan (skip n) n) _ s
  unfold setLatches
  dsimp only
  generalize List.foldl (fun s n => stopCause s chan (skip n) n) s _ = u at caused
  split
  next still =>
    obtain ⟨hn, hd⟩ := still
    have none_new : newLatches s named = [] := hn
    rw [none_new, (Bool.not_eq_true' _).mp hd, raiseLatches_none]
    exact caused
  next =>
    have counted (k : Nat) :=
      (heatPart_count (s := raiseLatches u (newLatches s named) (die && !s.therm.latch.getLsbD 8)) 269 {} k).trans
        (heatPart_raiseLatches caused _ _)
    refine (heatPart_logRec _ _ _ _).trans (heatPart_ite (heatPart_dieDomains.trans ?_) ?_)
    all_goals
      exact (heatPart_latchAccs chan skip _).trans (heatPart_ite (heatPart_outside (counted _) rfl rfl) (counted _))

end

end Sys2Proof.Machine
end

section
/-! PROOFS. Temperatures (R295 to R306, R313, R314): a sample with its cross-check and its levels, the latches that a shutdown sets,
throttle steps, the grace of a stop, the backstop and TH_CLEAR. -/

namespace Sys2Proof.Machine

/-! ### The bits of a mask of latches -/

/-- A mask that takes the bits of a list that a test names. -/
theorem getLsbD_foldl_setBits (p : Nat → Bool) {k : Nat} (hk : k < 9) (l : List Nat) : ∀ w : BitVec 9,
    (l.foldl (fun w n => if p n then w ||| (1#9 <<< n) else w) w).getLsbD k = (w.getLsbD k || (l.contains k && p k)) := by
  induction l with
  | nil => simp
  | cons n l ih =>
    intro w
    rw [List.foldl_cons, ih]
    have bit : (1#9 <<< n).getLsbD k = (decide (n < 9) && decide (n = k)) := BitVec.getLsbD_twoPow n k
    by_cases hn : k = n
    · subst hn
      cases p k <;> simp [hk]
    · cases hp : p n <;> simp [bit, hn, Ne.symm hn]

theorem getLsbD_latchMask {k : Nat} (hk : k < 9) (new : List Nat) (die : Bool) :
    (latchMask new die).getLsbD k = (new.contains k || (die && decide (k = 8))) := by
  have die_bit : (if die then 0x100#9 else 0#9).getLsbD k = (die && decide (k = 8)) := by
    cases die
    · simp
    · revert k; decide
  have bits := getLsbD_foldl_setBits (fun _ => true) hk new (if die then 0x100#9 else 0#9)
  simp only [if_true, Bool.and_true, die_bit] at bits
  exact bits.trans (Bool.or_comm _ _)

section
variable {s : State}

/-! ### What a shutdown leaves (R302, R303) -/

section
variable (named : Nat → Bool) (die : Bool) (chan v : Nat) (skip : Nat → Bool)

theorem latch_setLatches : (setLatches s named die chan v skip).therm.latch
    = s.therm.latch ||| latchMask (newLatches s named) (die && !s.therm.latch.getLsbD 8) :=
  congrArg (fun x => x.1.latch) (heatPart_setLatches named die chan v skip)

@[simp] theorem chans_setLatches : (setLatches s named die chan v skip).therm.chans = s.therm.chans :=
  congrArg (fun x => x.1.chans) (heatPart_setLatches named die chan v skip)

/-- Every latch that a shutdown names is set after it. -/
theorem latch_setLatches_named {n : Nat} (hn : n < 8) (h : named n = true) :
    (setLatches s named die chan v skip).therm.latch.getLsbD n = true := by
  rw [latch_setLatches, BitVec.getLsbD_or, getLsbD_latchMask (by omega)]
  cases set : s.therm.latch.getLsbD n with
  | true => rfl
  | false =>
    have new : (newLatches s named).contains n = true :=
      List.contains_iff_mem.mpr (List.mem_filter.mpr ⟨List.mem_filter.mpr ⟨List.mem_range.mpr hn, h⟩, by rw [set]; rfl⟩)
    rw [new]
    rfl

theorem latch_setLatches_die : (setLatches s named true chan v skip).therm.latch.getLsbD 8 = true := by
  rw [latch_setLatches, BitVec.getLsbD_or, getLsbD_latchMask (by omega)]
  cases s.therm.latch.getLsbD 8 <;> simp

end

section
variable (c : Nat) (v : Int)

/-- After the latches of a shutdown, a sample only ends the grace of some stops. -/
theorem heatPart_shutdownAt (he : chanEn s c = true) : heatPart (shutdownAt s c v) =
    heatPart (if chanLevel s c 0x0C ≤ v then
      setLatches s (fun n => (shutMap s c >>> n) % 2 = 1) (decide (c < 16)) c (wrapInt 16 v) (skipBy s c v) else s) := by
  unfold shutdownAt
  rw [he]
  refine foldl_keeps heatPart (fun u n => ?_) _ _
  split
  · exact heatPart_ite (heatPart_stopAccDie n false) rfl
  · rfl

theorem shutdownAt_disabled (he : chanEn s c = false) : shutdownAt s c v = s := by
  simp [shutdownAt, he]

/-- A value at SHUTDOWN leaves the latches that the shutdown sets. -/
theorem latch_shutdownAt (he : chanEn s c = true) (hv : chanLevel s c 0x0C ≤ v) : (shutdownAt s c v).therm.latch =
    (setLatches s (fun n => (shutMap s c >>> n) % 2 = 1) (decide (c < 16)) c (wrapInt 16 v) (skipBy s c v)).therm.latch := by
  have kept := heatPart_shutdownAt c v he
  rw [if_pos hv] at kept
  exact congrArg (fun x => x.1.latch) kept

@[simp] theorem getChan_shutdownAt : getChan (shutdownAt s c v) = getChan s := by
  have chans : (shutdownAt s c v).therm.chans = s.therm.chans := by
    cases he : chanEn s c with
    | false => rw [shutdownAt_disabled c v he]
    | true =>
      refine (congrArg (fun x => x.1.chans) (heatPart_shutdownAt c v he)).trans ?_
      split
      · exact chans_setLatches _ _ _ _ _
      · rfl
  unfold getChan
  rw [chans]

/-- A channel that is compared at a value holds its levels at it. -/
theorem getChan_compareAt (x0 x1 : Chan) : getChan (compareAt s c x0 x1 v) c = levelsAt s c x1 v := by
  simp [compareAt, apply_ite getChan]

end

/-! ### A sample (R295, R313) -/

section
variable {c : Nat}

theorem unreadable_die (hc : c < 16) : unreadable s c = setChan s c (goneAt s c (sampled s c)) := if_pos hc

/-- The first and the second failed read of an off-die channel in a row. -/
theorem unreadable_kept (hc : 16 ≤ c) (ha : cfgF s (chanBase c) 6 0 ≠ 0) (hf : (getChan s c).fails < 2) :
    unreadable s c = keptAt s c (sampled s c) := by
  unfold unreadable
  rw [if_neg (Nat.not_lt.mpr hc), if_neg ha]
  exact if_pos hf

/-- The channel keeps its value, or takes the median of the sample where it is suspect, and its counts of R298 restart: the levels and the
shutdown that follow leave them so. -/
theorem getChan_keptAt (x : Chan) :
    (getChan (keptAt s c x) c).value = (if x.suspect then (medianOf s c).or x.value else x.value)
    ∧ (getChan (keptAt s c x) c).fails = x.fails + 1
    ∧ (getChan (keptAt s c x) c).apart = 0 ∧ (getChan (keptAt s c x) c).near = 0 := by
  have kept : (if x.suspect then medianOf s c else none).or x.value = (if x.suspect then (medianOf s c).or x.value else x.value) := by
    split <;> rfl
  unfold keptAt
  dsimp only
  rw [kept]
  split
  next w _ =>
    rw [getChan_compareAt]
    exact ⟨rfl, rfl, rfl, rfl⟩
  next hw =>
    simp [goneAt, hw]

/-- The third one takes the value and writes a record. -/
theorem unreadable_third (hc : 16 ≤ c) (ha : cfgF s (chanBase c) 6 0 ≠ 0) (hf : (getChan s c).fails = 2) :
    unreadable s c = logRec (setChan s c { goneAt s c (sampled s c) with fails := 3 }) 0x31 6 1 (leBytes 1 c) := by
  have third : (sampled s c).fails = 2 := hf
  unfold unreadable
  rw [if_neg (Nat.not_lt.mpr hc), if_neg ha]
  dsimp only
  rw [if_neg (by omega), if_pos third]

/-! ### The cross-check (R298) and the levels (R296, R297) -/

theorem crossCheck_none (x : Chan) (raw : Int) : (crossCheck x raw none).suspect = x.suspect
    ∧ (x.suspect = false → (crossCheck x raw none).value = some raw) :=
  ⟨rfl, fun h => by simp [crossCheck, h]⟩

section
variable {x : Chan} {raw m : Int}

/-- The value is the median where the channel is suspect after the check. -/
theorem crossCheck_value (x : Chan) (raw m : Int) :
    (crossCheck x raw (some m)).value = some (if (crossCheck x raw (some m)).suspect then m else raw) := rfl

theorem crossCheck_good (h : x.suspect = false) :
    (crossCheck x raw (some m)).suspect = decide (192 < (raw - m).natAbs ∧ 2 ≤ x.apart) := by
  by_cases far : 192 < (raw - m).natAbs <;> simp [crossCheck, h, far]

theorem crossCheck_suspect (h : x.suspect = true) :
    (crossCheck x raw (some m)).suspect = decide (192 < (raw - m).natAbs ∨ x.near < 2) := by
  by_cases far : 192 < (raw - m).natAbs
  · simp [crossCheck, h, far]
  · simp only [crossCheck, h, far, decide_false, Bool.false_eq_true, if_false, if_true, false_or]
    exact decide_eq_decide.mpr (by omega)

end

theorem withHyst_cases (now : Bool) (v l h : Int) : (l ≤ v → withHyst now v l h = true)
    ∧ (v < l → v < l - h → withHyst now v l h = false) ∧ (v < l → l - h ≤ v → withHyst now v l h = now) := by
  refine ⟨fun h1 => if_pos h1, fun h1 h2 => ?_, fun h1 h2 => ?_⟩
  · rw [withHyst, if_neg (Int.not_le.mpr h1), if_pos h2]
  · rw [withHyst, if_neg (Int.not_le.mpr h1), if_neg (Int.not_lt.mpr h2)]

theorem levelsAt_rise (he : chanEn s c = true) (x : Chan) (v : Int) : (levelsAt s c x v).rise = true ↔ riseLimit s c ≠ 0
    ∧ (riseLimit s c * 16 * riseMs c : Int) ≤ (v - windowAgo c x.past v) * 10000 := by
  simp [levelsAt, he]

/-- A channel with EN 0 asserts nothing, with a value or without. -/
theorem disabled_asserts_nothing (he : chanEn s c = false) (x : Chan) (v : Int) :
    (levelsAt s c x v).warn = false ∧ (levelsAt s c x v).throt = false ∧ (levelsAt s c x v).rise = false
    ∧ (goneAt s c x).warn = false ∧ (goneAt s c x).throt = false ∧ (goneAt s c x).rise = false := by
  simp [levelsAt, goneAt, he]

end

theorem thermN_low (s : State) : thermN s = false ↔ (s.therm.hwTrip = true ∨ s.therm.latch.getLsbD 8 = true) := by
  simp only [thermN, Bool.not_eq_false', Bool.or_eq_true]

/-! ### The rows of samples -/

section
variable {c : Fin 32}

theorem exec_temperatureSample_off (raw : Option Int) (h : s.crd.phase ≠ .running) :
    exec (.temperatureSample c raw) s = .next (settle s) := congrArg done (if_pos h)

theorem exec_temperatureSample_none (h : s.crd.phase = .running) :
    exec (.temperatureSample c none) s = .next (settle (afterSample (unreadable (takeLoops s) c.val) c.val)) :=
  congrArg done (if_neg (not_not.mpr h))

theorem exec_temperatureSample_some {v : Int} (h : s.crd.phase = .running) (lo : -32768 < v) (hi : v < 32768)
    (ha : c.val < 16 ∨ cfgF s (chanBase c.val) 6 0 ≠ 0) :
    exec (.temperatureSample c (some v)) s = .next (settle (afterSample (readingAt (takeLoops s) c.val v) c.val)) := by
  have addressed : (decide (c.val < 16) || decide (cfgF s (chanBase c.val) 6 0 ≠ 0)) = true := by
    simpa using ha
  refine congrArg done ((if_neg (not_not.mpr h)).trans (congrArg (fun u => afterSample u c.val) ?_))
  exact if_pos ⟨addressed, lo, hi⟩

end

/-! ### Throttle steps, stops and the backstop (R300, R302, R303) -/

section
variable {k : Fin 9}

section
variable (ht : (getThr s k.val).throttled = true)
include ht

theorem exec_throttleStepDown_due (hd : (getThr s k.val).nextAt ≤ s.tick) (hk : 4 < (getThr s k.val).k) :
    exec (.throttleStepDown k) s = .next (settle (setThr (count s 267 {}) k.val
      { getThr s k.val with k := (getThr s k.val).k - 1, nextAt := s.tick + 10000 })) := by
  have step : max 4 ((getThr s k.val).k - 1) = (getThr s k.val).k - 1 := by omega
  simp [exec, execThrottleStepDown, done, ht, hd, hk, step]

theorem exec_throttleStepDown_least (hd : (getThr s k.val).nextAt ≤ s.tick) (hk : (getThr s k.val).k = 4) :
    exec (.throttleStepDown k) s = .next (settle (setThr s k.val { getThr s k.val with k := 4, nextAt := s.tick + 10000 })) := by
  simp [exec, execThrottleStepDown, done, ht, hd, hk]

theorem exec_throttleStepUp_throttled : exec (.throttleStepUp k) s = .next (settle s) := by
  simp [exec, execThrottleStepUp, done, ht]

end

theorem exec_throttleStepDown_early (hd : s.tick < (getThr s k.val).nextAt) : exec (.throttleStepDown k) s = .next (settle s) :=
  congrArg done (if_neg (fun h => Nat.not_le.mpr hd h.2))

theorem exec_throttleStepUp_due (ht : (getThr s k.val).throttled = false) (hd : (getThr s k.val).nextAt ≤ s.tick)
    (hk : (getThr s k.val).k < 16) : exec (.throttleStepUp k) s = .next (settle (setThr (count s 268 {}) k.val
      { getThr s k.val with k := (getThr s k.val).k + 1, nextAt := s.tick + 200000 })) :=
  congrArg done (if_pos ⟨by rw [ht]; rfl, hk, hd⟩)

theorem exec_throttleStepUp_early (h : s.tick < (getThr s k.val).nextAt ∨ 16 ≤ (getThr s k.val).k) :
    exec (.throttleStepUp k) s = .next (settle s) :=
  congrArg done (if_neg (fun hu => h.elim (Nat.not_lt.mpr hu.2.2) (Nat.not_le.mpr hu.2.1)))

end

theorem exec_backstopTrip_trips (h : s.crd.phase ≠ .por) : exec .backstopTrip s = .next (settle (motorsFollow
    (setLatches { s with therm := { s.therm with hwTrip := true } } (fun _ => true) true 0xFF 1920 (fun _ => true)))) :=
  congrArg done (if_neg h)

/-- RETAIN_CTRL is no part of a stop. -/
@[simp] theorem getStop_writeRetain (s : State) (n v : Nat) : getStop (writeRetain s n v) = getStop s := by
  unfold writeRetain
  split <;> rfl

section
variable {n : Fin 8} {x : Stop} (hx : getStop s n.val = some x)
include hx

theorem exec_stopGraceExpiry_due (hd : x.since + graceUs s n.val ≤ s.tick) :
    exec (.stopGraceExpiry n) s = .next (settle (stopAccDie (writeRetain s n.val 0) n.val false)) := by
  simp [exec, execStopGraceExpiry, done, hx, hd, handshakeFails]

theorem exec_stopGraceExpiry_early (hd : s.tick < x.since + graceUs s n.val) :
    exec (.stopGraceExpiry n) s = .next (settle s) := by
  simp [exec, execStopGraceExpiry, done, hx, Nat.not_le.mpr hd]

end

/-! ### TH_CLEAR (R306) -/

/-- A mask clears the latches that it names and that nothing blocks. -/
theorem latch_clearLatches (s : State) (mask : BitVec 9) {b : Nat} (hb : b < 9) :
    (clearLatches s mask).1.therm.latch.getLsbD b
      = (s.therm.latch.getLsbD b && (latchBlocked s b || !mask.getLsbD b)) := by
  have cleared := getLsbD_foldl_setBits (fun b => mask.getLsbD b && !latchBlocked s b) hb (List.range 9) 0#9
  have listed : (List.range 9).contains b = true := by simpa using hb
  rw [listed] at cleared
  unfold clearLatches
  rw [BitVec.getLsbD_and, BitVec.getLsbD_not, cleared]
  cases latchBlocked s b <;> cases mask.getLsbD b <;> simp [hb]

theorem exec_thClear_wrongKey {v : Word} (hm : hostMay s 0 = true) (hk : bf v 7 0 ≠ 0x3C) :
    exec (.thClear v) s = .next (settle (motorsFollow (setBusy s 8))) := by
  simp [exec_thClear v hm, thClearWrite, thClearWord, hk]

theorem exec_thClear_key {v : Word} (hm : hostMay s 0 = true) (hk : bf v 7 0 = 0x3C) :
    exec (.thClear v) s = .next (settle (motorsFollow (if (clearLatches s (v.extractLsb' 16 9)).2
      then setBusy (clearLatches s (v.extractLsb' 16 9)).1 8 else (clearLatches s (v.extractLsb' 16 9)).1))) := by
  simp [exec_thClear v hm, thClearWrite, thClearWord, hk]

end

/-- Settles O48: a sample by its reading, a channel by its levels and its shutdown, a target by its step, and TH_CLEAR by its key. -/
theorem temperaturesAndThrottles : Obligations.TemperaturesAndThrottles := by
  refine ⟨fun s c raw h => exec_temperatureSample_off raw h, fun s c h => exec_temperatureSample_none h,
    fun s c v h lo hi ha => exec_temperatureSample_some h lo hi ha, fun s => rfl, ?dieRead, ?offDieRead,
    fun x raw => crossCheck_none x raw, ?goodChannel, ?suspectChannel, fun now v l h => withHyst_cases now v l h,
    fun s c x v => ⟨rfl, fun he => levelsAt_rise he x v, fun he => disabled_asserts_nothing he x v⟩, fun s => thermN_low s,
    fun s c v he => shutdownAt_disabled c v he, ?shutdown, ?throttled, ?free, fun s h => exec_backstopTrip_trips h,
    fun s n x hx => ⟨exec_stopGraceExpiry_due hx, exec_stopGraceExpiry_early hx⟩,
    fun s v hm hk => exec_thClear_wrongKey hm hk, ?clears⟩
  case dieRead =>
    intro s c hc
    rw [unreadable_die hc]
    simp [goneAt]
  case offDieRead =>
    intro s c hc ha
    refine ⟨fun hf => ?_, fun hf => ?_⟩
    · rw [unreadable_kept hc ha hf]
      exact getChan_keptAt (sampled s c)
    · rw [unreadable_third hc ha hf]
      simp [goneAt]
  case goodChannel =>
    intro x raw m hx
    rw [crossCheck_value, crossCheck_good hx]
    refine ⟨fun far ha => ?_, fun h => ?_⟩
    · rw [decide_eq_true ⟨far, ha.ge⟩]
      exact ⟨rfl, rfl⟩
    · have stays : ¬ (192 < (raw - m).natAbs ∧ 2 ≤ x.apart) := by omega
      rw [decide_eq_false stays]
      exact ⟨rfl, rfl⟩
  case suspectChannel =>
    intro x raw m hx
    rw [crossCheck_value, crossCheck_suspect hx]
    refine ⟨fun within hn => ?_, fun h => ?_⟩
    · have clears : ¬ (192 < (raw - m).natAbs ∨ x.near < 2) := by omega
      rw [decide_eq_false clears]
      exact ⟨rfl, rfl⟩
    · rw [decide_eq_true h]
      exact ⟨rfl, rfl⟩
  case shutdown =>
    intro s c v he hv
    rw [latch_shutdownAt c v he hv]
    refine ⟨fun n hn hm => latch_setLatches_named _ _ _ _ _ hn (decide_eq_true hm), fun hc => ?_⟩
    rw [decide_eq_true hc]
    exact latch_setLatches_die _ _ _ _
  case throttled =>
    exact fun s k ht => ⟨exec_throttleStepDown_due ht, exec_throttleStepDown_least ht, exec_throttleStepDown_early,
      exec_throttleStepUp_throttled ht⟩
  case free => exact fun s k ht => ⟨exec_throttleStepUp_due ht, exec_throttleStepUp_early⟩
  case clears =>
    intro s v hm hk r
    refine ⟨exec_thClear_key hm hk, fun b hb => ?_⟩
    rw [latch_clearLatches s _ hb, BitVec.getLsbD_extractLsb']
    simp [hb]

end Sys2Proof.Machine
end

section
/-! PROOFS. Leak channels (R308 to R311, R313): a sample, a confirmation and an open rope, the pumps that a shutdown leaves as they are,
and LEAK_ARM. -/

namespace Sys2Proof.Machine

section
variable {s : State} {l : Fin 8}

/-! ### Samples, confirmation and an open rope -/

theorem exec_leakConfirm_confirms (hs : (getLeak s l.val).suspected = true) (hc : (getLeak s l.val).confirmed = false)
    (hn : cfgF s 0x600808 31 16 ≤ (getLeak s l.val).count) : exec (.leakConfirm l) s = .next (settle (motorsFollow (leaksAct
      (logRec (setLeak s l.val { getLeak s l.val with confirmed := true }) 0x32 6 1
        (leBytes 1 l.val ++ [1] ++ leBytes 2 (getLeak s l.val).g))))) :=
  congrArg done (if_pos ⟨hs, by rw [hc]; rfl, hn⟩)

theorem exec_leakConfirm_not (h : (getLeak s l.val).suspected = false ∨ (getLeak s l.val).confirmed = true
      ∨ (getLeak s l.val).count < cfgF s 0x600808 31 16) : exec (.leakConfirm l) s = .next (settle s) := by
  refine congrArg done (if_neg ?_)
  rintro ⟨hs, hc, hn⟩
  rcases h with h | h | h
  · exact Bool.false_ne_true (h.symm.trans hs)
  · rw [h] at hc
    exact Bool.false_ne_true hc
  · exact Nat.not_le.mpr h hn

theorem exec_ropeOpen_opens (hn : (getLeak s l.val).openCount = 100) (ho : (getLeak s l.val).opened = false) :
    exec (.ropeOpen l) s = .next (settle (logRec (setLeak s l.val { getLeak s l.val with opened := true }) 0x32 6 1
      (leBytes 1 l.val ++ [2] ++ leBytes 2 (getLeak s l.val).g))) :=
  congrArg done (if_pos ⟨hn, by rw [ho]; rfl⟩)

theorem exec_ropeOpen_not (h : (getLeak s l.val).openCount ≠ 100 ∨ (getLeak s l.val).opened = true) :
    exec (.ropeOpen l) s = .next (settle s) := by
  refine congrArg done (if_neg ?_)
  rintro ⟨hn, ho⟩
  rcases h with h | h
  · exact h hn
  · rw [h] at ho
    exact Bool.false_ne_true ho

end

/-! ### The pumps of a loop with a leak (R311) -/

/-- While a leak is on the loop of pump m, no latch raises it. -/
theorem pumpMask_leak {s : State} {m : Nat} (h : leakOn s (pumpLoop s m) = true) (new : List Nat) : pumpMask s new m = 0#9 :=
  if_pos h

section
variable {s : State} (named : Nat → Bool) (die : Bool) (chan v : Nat) (skip : Nat → Bool)

theorem pump6_setLatches (h : leakOn s (pumpLoop s 6) = true) : (setLatches s named die chan v skip).therm.pump6 = s.therm.pump6 := by
  refine (congrArg (fun x => x.1.pump6) (heatPart_setLatches named die chan v skip)).trans ?_
  simp [heatPart, raiseLatches, pumpMask_leak h]

theorem pump7_setLatches (h : leakOn s (pumpLoop s 7) = true) : (setLatches s named die chan v skip).therm.pump7 = s.therm.pump7 := by
  refine (congrArg (fun x => x.1.pump7) (heatPart_setLatches named die chan v skip)).trans ?_
  simp [heatPart, raiseLatches, pumpMask_leak h]

end

/-! ### LEAK_ARM (R309) -/

/-- A channel that LEAK_ARM names, armed or disarmed for its tenant's side. -/
def armLeak (c : Cmd) (x : Leak) : Leak :=
  if c.tenant = 64 then { x with armBmc := decide (c.f 9 1 = 1) } else { x with armHost := decide (c.f 9 1 = 1) }

/-- The channels that LEAK_ARM names. -/
def armNamed (c : Cmd) : List Nat := (List.range 8).filter (fun l => (c.f 8 1 >>> l) % 2 = 1)

/-- Those channels armed or disarmed. -/
def leaksArmed (s : State) (c : Cmd) : State := (armNamed c).foldl (fun s l => setLeak s l (armLeak c (getLeak s l))) s

/-- Does T0 disarm a channel that T64 keeps armed. -/
def armKept (s : State) (c : Cmd) : Bool :=
  decide (c.tenant ≠ 64) && !decide (c.f 9 1 = 1) && (armNamed c).any (fun l => (getLeak s l).armBmc)

/-- What LEAK_ARM leaves before its leaks act. -/
def leakArmSet (s : State) (c : Cmd) : State :=
  if armKept s c then modCmd (leaksArmed s c) c.seq (fun x => { x with clamped := true }) else leaksArmed s c

theorem leakArmBody_acts (s : State) (c : Cmd) : leakArmBody s c = complete (motorsFollow (leaksAct (leakArmSet s c))) c.seq
    (okR (armedMask (motorsFollow (leaksAct (leakArmSet s c))))) := rfl

/-- Changing some channels in turn, each once. -/
theorem getLeak_foldl_setLeak (f : Leak → Leak) (k : Nat) (l : List Nat) (hl : l.Nodup) : ∀ s : State,
    getLeak (l.foldl (fun s l => setLeak s l (f (getLeak s l))) s) k = if k ∈ l then f (getLeak s k) else getLeak s k := by
  induction l with
  | nil => exact fun s => rfl
  | cons j l ih =>
    intro s
    obtain ⟨hj, hn⟩ := List.nodup_cons.mp hl
    rw [List.foldl_cons, ih hn, getLeak_setLeak]
    by_cases hk : k = j
    · simp [hk, hj]
    · simp [hk]

theorem mem_armNamed {c : Cmd} {l : Nat} (hl : l < 8) : l ∈ armNamed c ↔ (c.f 8 1 >>> l) % 2 = 1 := by
  simp only [armNamed, List.mem_filter, List.mem_range, hl, true_and, decide_eq_true_eq]

section
variable {s : State} {c : Cmd}

theorem leaksArmed_frame (s : State) (c : Cmd) : leaksArmed s c = { s with leaks := (leaksArmed s c).leaks } :=
  foldl_frame (fun s t => { s with leaks := t.leaks }) (fun _ => rfl) (fun _ _ _ => rfl) _ (fun _ _ => rfl) _ s

theorem leakArmSet_leaks (s : State) (c : Cmd) : (leakArmSet s c).leaks = (leaksArmed s c).leaks := by
  unfold leakArmSet
  split <;> rfl

theorem leakArmSet_frame (s : State) (c : Cmd) :
    leakArmSet s c = { s with leaks := (leakArmSet s c).leaks, qc := (leakArmSet s c).qc } := by
  unfold leakArmSet
  rw [leaksArmed_frame]
  split <;> rfl

theorem getLeak_leakArmSet {l : Nat} (hl : l < 8) :
    getLeak (leakArmSet s c) l = if (c.f 8 1 >>> l) % 2 = 1 then armLeak c (getLeak s l) else getLeak s l := by
  have once : (armNamed c).Nodup := List.nodup_range.filter _
  have set := getLeak_foldl_setLeak (armLeak c) l (armNamed c) once s
  simp only [mem_armNamed hl] at set
  rw [← set]
  unfold getLeak
  rw [leakArmSet_leaks]
  rfl

/-- A command that is changed, with its acceptance number kept, is found changed. -/
theorem findCmd_modCmd_self {k : Nat} {f : Cmd → Cmd} (hf : ∀ x, (f x).seq = x.seq) :
    findCmd (modCmd s k f) k = (findCmd s k).map f := by
  have same : ((fun x => decide (x.seq = k)) ∘ fun x => if x.seq = k then f x else x) = fun x : Cmd => decide (x.seq = k) := by
    funext x
    by_cases hx : x.seq = k <;> simp [hx, hf]
  unfold findCmd modCmd
  rw [List.find?_map, same]
  cases found : s.qc.cmds.find? (fun x => decide (x.seq = k)) with
  | none => rfl
  | some x =>
    have hx : x.seq = k := by simpa using List.find?_some found
    simp [hx]

/-- The command is marked CLAMPED where T64 keeps a channel armed, and else keeps its mark. -/
theorem findCmd_leakArmSet {x : Cmd} (hx : findCmd s c.seq = some x) :
    findCmd (leakArmSet s c) c.seq = some { x with clamped := x.clamped || armKept s c } := by
  have kept : findCmd (leaksArmed s c) c.seq = some x := by
    rw [leaksArmed_frame]
    exact hx
  unfold leakArmSet
  cases armKept s c with
  | false => simpa using kept
  | true =>
    rw [if_pos rfl, findCmd_modCmd_self (f := fun x => { x with clamped := true }) (fun _ => rfl), kept, Bool.or_true]
    rfl

/-- T0's command is CLAMPED where it disarms a channel that T64 keeps armed. -/
theorem armKept_host (ht : c.tenant ≠ 64) : armKept s c = true ↔
    c.f 9 1 ≠ 1 ∧ ∃ l, l < 8 ∧ (c.f 8 1 >>> l) % 2 = 1 ∧ (getLeak s l).armBmc = true := by
  simp only [armKept, ht, ne_eq, not_false_eq_true, decide_true, Bool.true_and, Bool.and_eq_true, Bool.not_eq_true',
    decide_eq_false_iff_not, List.any_eq_true, armNamed, List.mem_filter, List.mem_range, decide_eq_true_eq, and_assoc]

end

section
variable {s : State} {cmd : Cmd} (h : startsNow s cmd.seq 0x32 none cmd = true)
include h

/-- LEAK_ARM that starts sets its channels, which then act, and completes. -/
theorem exec_leakArm_acts : exec (.leakArm cmd.seq) s = .next (settle (complete
    (motorsFollow (leaksAct (leakArmSet (markStarted s cmd.seq) cmd))) cmd.seq
    (okR (armedMask (motorsFollow (leaksAct (leakArmSet (markStarted s cmd.seq) cmd))))))) := by
  have begun : exec (.leakArm cmd.seq) s = .next (settle (leakArmBody (markStarted s cmd.seq) cmd)) :=
    congrArg done (startCmd_now noDoms noHold leakArmBody h rfl rfl)
  rw [begun, leakArmBody_acts]

/-- The mark CLAMPED of its command, which keeps one that it had. -/
theorem findCmd_leakArm {x : Cmd} (hx : findCmd (leakArmSet (markStarted s cmd.seq) cmd) cmd.seq = some x) :
    x.clamped = (cmd.clamped || armKept s cmd) := by
  have started : findCmd (markStarted s cmd.seq) cmd.seq = some { cmd with started := true } := by
    have marked := findCmd_modCmd_self (s := s) (k := cmd.seq) (f := fun x => { x with started := true }) (fun _ => rfl)
    rw [startsNow_find h] at marked
    unfold markStarted
    simpa using marked
  have kept : armKept (markStarted s cmd.seq) cmd = armKept s cmd := by simp [armKept]
  rw [findCmd_leakArmSet started, kept] at hx
  exact (congrArg Cmd.clamped (Option.some.inj hx)).symm

end

/-- LEAK_ARM changes the leak channels, its command and the performance monitor alone. -/
theorem leakArm_frame (s : State) (c : Nat) (cmd : Cmd) : leakArmSet (markStarted s c) cmd =
    { s with leaks := (leakArmSet (markStarted s c) cmd).leaks, qc := (leakArmSet (markStarted s c) cmd).qc,
             pm := (leakArmSet (markStarted s c) cmd).pm } := by
  rw [leakArmSet_frame, markStarted_frame]

/-- Settles O49: a sample, a confirmation and an open rope each by its cases, the pumps by the masks that raise them, and LEAK_ARM by
its tenant. -/
theorem leakChannels : Obligations.LeakChannels := by
  refine ⟨?sample, fun s l g ohm bad h => congrArg done (if_pos h),
    fun s named die chan v skip => ⟨pump6_setLatches named die chan v skip, pump7_setLatches named die chan v skip⟩,
    fun s l => ⟨exec_leakConfirm_confirms, exec_leakConfirm_not, exec_ropeOpen_opens, exec_ropeOpen_not⟩, ?host, ?bmc⟩
  case sample =>
    intro s l g ohm bad h
    exact congrArg done (if_neg (not_not.mpr h))
  case host =>
    intro s c cmd h ht
    obtain rfl := startsNow_seq h
    refine ⟨leakArmSet (markStarted s cmd.seq) cmd, exec_leakArm_acts h, fun l hl => ?_, fun x hx => ?_, leakArm_frame s _ cmd⟩
    · simp [getLeak_leakArmSet hl, armLeak, ht]
    · rw [findCmd_leakArm h hx, Bool.or_eq_true, armKept_host ht]
  case bmc =>
    intro s c cmd h ht
    obtain rfl := startsNow_seq h
    refine ⟨leakArmSet (markStarted s cmd.seq) cmd, exec_leakArm_acts h, fun l hl => ?_, leakArm_frame s _ cmd⟩
    simp [getLeak_leakArmSet hl, armLeak, ht]

end Sys2Proof.Machine
end

section
/-! PROOFS. The step (R61): it runs the front command or ticks, every command ends in settling, and what settling does; then what reset
leaves, and the test access port (Table 16.3). -/

namespace Sys2Proof.Machine

/-! ### Every step settles -/

/-- A step with a command at the front of the queue. -/
theorem step_front {s : State} {c : Instr} {rest : List Instr} (h : s.pending = c :: rest) :
    step s = exec c { s with pending := rest } := by
  unfold step
  rw [h]

/-- A request that asks for its own hash ends in settling, whether or not it has one. -/
theorem spdmHashed_settles (s : State) (f : State → State × Option (List Byte)) : ∃ u, spdmHashed s f = .next (settle u) := by
  unfold spdmHashed
  repeat' split
  all_goals exact ⟨_, rfl⟩

/-- The meaning of every row of the table ends in settling some state: each row ends in `done`, and the SPDM requests that ask for
their own hash by the lemma about them. -/
theorem exec_settles (i : Instr) (s : State) : ∃ u, exec i s = .next (settle u) := by
  cases i
  case getDigests => exact spdmHashed_settles s _
  case challenge => exact spdmHashed_settles s _
  case getMeasurements => exact spdmHashed_settles s _
  case getCsr => exact spdmHashed_settles s _
  all_goals exact ⟨_, rfl⟩

/-- So does every step, of a command or of an empty queue. -/
theorem step_settles (s : State) : ∃ u, step s = .next (settle u) := by
  match h : s.pending with
  | [] => exact ⟨idleTick s, step_empty h⟩
  | c :: rest =>
    rw [step_front h]
    exact exec_settles c _

/-- A state that has settled has HZ_FAULT compared. -/
theorem settle_settled (s : State) : (settle s).settled := by
  unfold State.settled
  rw [settle_faultWord, settle_hz]

/-- A Host Notify does not look at the Horizon page's own fields. -/
theorem hn_hostNote_hz (s : State) (x : Horizon) (r d : Nat) :
    (hostNote { s with hz := x } r d).tw.hn = (hostNote s r d).tw.hn := by
  have mask : cfgGet { s with hz := x } 0x800004 = cfgGet s 0x800004 := rfl
  unfold hostNote
  rw [mask]
  by_cases off : bf (cfgGet s 0x800004) 1 1 = 0
  · rw [if_pos off, if_pos off]
  · rw [if_neg off, if_neg off]
    dsimp only
    cases s.tw.hn.find? (·.reason = r) <;> rfl

/-- The Host Notify of a rise: of reason 3, with the lowest bit that NOTIFY_MASK selects. -/
theorem settle_hn (s : State) : (settle s).tw.hn =
    (match lowBit (faultWord s 64 &&& ~~~ s.hz.lastFault &&& cfgGet s 0x800008) with
      | some b => (hostNote s 3 b).tw.hn
      | none => s.tw.hn) := by
  obtain ⟨x, ends⟩ : ∃ x : Horizon, settle s =
      match lowBit (faultWord s 64 &&& ~~~ s.hz.lastFault &&& cfgGet { s with hz := x } 0x800008) with
      | some b => hostNote { s with hz := x } 3 b
      | none => { s with hz := x } := ⟨_, rfl⟩
  have mask : cfgGet { s with hz := x } 0x800008 = cfgGet s 0x800008 := rfl
  rw [ends, mask]
  split
  · exact hn_hostNote_hz s x 3 _
  · rfl

/-- Settles O1: the definition of a step. -/
theorem stepRunsFrontCommand : Obligations.StepRunsFrontCommand := fun _ _ _ h => step_front h

/-- Settles O5: every step ends in settling, and what has settled has been compared. -/
theorem stepKeepsFaultCompared : Obligations.StepKeepsFaultCompared := by
  intro s t h
  obtain ⟨u, hu⟩ := step_settles s
  obtain rfl := Host.Outcome.next.inj (hu.symm.trans h)
  exact settle_settled u

/-- Settles O6: every step ends in settling, which answers a next state. -/
theorem stepNeverStops : Obligations.StepNeverStops := by
  intro s
  obtain ⟨u, hu⟩ := step_settles s
  exact ⟨_, hu⟩

/-- Settles O7: the count and the compared word, then the Host Notify, then the frame. -/
theorem faultCountRises : Obligations.FaultCountRises :=
  fun s => ⟨settle_hz s, settle_hn s, settle_frame s, settle_faultWord s 64⟩

/-! ### Reset -/

/-- At reset every domain is as Table 2.2 has it at power-on. -/
theorem getDom_reset (d : Nat) : getDom State.reset d = domInit d := rfl

/-- Settles O3: what no write has changed reads as its reset value. -/
theorem resetState : Obligations.ResetState := by
  refine ⟨rfl, rfl, rfl, ?doms, rfl, rfl, fun _ _ => ⟨rfl, rfl⟩, fun _ => ⟨rfl, rfl⟩, rfl, rfl, rfl, rfl, fun _ => rfl, rfl, rfl⟩
  case doms =>
    intro d _
    rw [getDom_reset, domInit]
    split <;> exact ⟨rfl, rfl⟩

/-- Settles O4: both are facts of one state. -/
theorem resetFaultCompared : Obligations.ResetFaultCompared := by
  refine ⟨?_, reset_mem_wf⟩
  unfold State.settled
  decide

/-! ### The test access port -/

section
variable {s : State} (i : TapInstr) (driving floating lanes : Bool)

/-- With TEST_EN high an instruction takes the pins. -/
theorem tapTest_high (h : s.crd.testEn = true) : tapTest s i driving floating lanes =
    { s with jtag := { s.jtag with instr := i, driving := driving, floating := floating, lanes := lanes } } := if_pos h

/-- With TEST_EN low it acts as BYPASS. -/
theorem tapTest_low (h : s.crd.testEn = false) : tapTest s i driving floating lanes = tapPlain s .bypass :=
  if_neg (by rw [h]; exact Bool.false_ne_true)

end

/-- Settles O13: the three plain instructions, then the five others by TEST_EN. -/
theorem testAccessPort : Obligations.TestAccessPort := by
  refine ⟨fun s => rfl, fun s => rfl, fun s cells => rfl, fun s h => ?high, fun s i h hi => ?low⟩
  case high =>
    exact ⟨congrArg done (tapTest_high _ _ _ _ h), congrArg done (tapTest_high _ _ _ _ h), congrArg done (tapTest_high _ _ _ _ h),
      congrArg done (tapTest_high _ _ _ _ h), congrArg done (tapTest_high _ _ _ _ h)⟩
  case low =>
    simp only [List.mem_cons, List.not_mem_nil, or_false] at hi
    rcases hi with rfl | rfl | rfl | rfl | rfl <;> exact congrArg done (tapTest_low _ _ _ _ h)

end Sys2Proof.Machine
end

section
/-! PROOFS. Power-on reset, the straps, the root clock, the PLL and the trim load (R32, R37, R38, R44, R125, R394). -/

namespace Sys2Proof.Machine

/-! ### Leaving power-on reset (R125) -/

/-- The EPOCHn of the first n tenants drawn in turn, from free values in turn. -/
theorem foldl_drawEpoch (s : State) (n : Nat) :
    ((List.range n).foldl drawEpoch s).freeCtr = s.freeCtr + n
    ∧ ((List.range n).foldl drawEpoch s).crd = s.crd
    ∧ ∀ t, t < n → (getTen ((List.range n).foldl drawEpoch s) t).epoch = Config.freeDword (s.freeCtr + t) := by
  induction n with
  | zero => exact ⟨rfl, rfl, fun t h => absurd h (Nat.not_lt_zero t)⟩
  | succ n ih =>
    obtain ⟨hf, hc, he⟩ := ih
    rw [List.range_succ, List.foldl_append, List.foldl_cons, List.foldl_nil]
    generalize (List.range n).foldl drawEpoch s = u at hf hc he
    have drawn : drawEpoch u n = modTen { u with freeCtr := u.freeCtr + 1 } n
        (fun x => { x with epoch := Config.freeDword u.freeCtr }) := rfl
    rw [drawn]
    refine ⟨congrArg (· + 1) hf, hc, fun t h => ?_⟩
    rw [getTen_modTen]
    split
    · rename_i ht
      rw [ht, hf]
    · exact he t (by omega)

section
variable {s : State}

theorem leavePor_leaves (hp : s.crd.phase = .por) (hn : s.crd.porN = true) (hs : s.crd.supplyOk = true) : leavePor s =
    (List.range 64).foldl drawEpoch { s with crd := { s.crd with phase := .qualifying } } := if_pos ⟨hp, hn, hs⟩

theorem leavePor_held (h : s.crd.porN = false ∨ s.crd.supplyOk = false) : leavePor s = s := by
  refine if_neg ?_
  rintro ⟨-, hn, hs⟩
  rcases h with h | h
  · exact Bool.false_ne_true (h.symm.trans hn)
  · exact Bool.false_ne_true (h.symm.trans hs)

/-! ### The root clock and the PLL (Table 2.8) -/

theorem exec_rootOk_qualifies (hp : s.crd.phase = .qualifying) (hr : s.crd.rootOk = false) : exec .rootOk s =
    .next (settle { s with crd := { s.crd with rootOk := true, rootSince := s.tick, phase := .locking } }) := by
  simp [exec, execRootOk, done, hp, hr]

theorem exec_pllLock_locks (hp : s.crd.phase = .locking) (hf : s.crd.fallback = false) (hr : s.crd.rootOk = true)
    (hl : s.crd.pllLock = false) :
    exec .pllLock s = .next (settle { s with crd := { s.crd with pllLock := true, phase := .trim } }) := by
  simp [exec, execPllLock, done, hp, hf, hr, hl]

/-! ### The trim load (R37, R38) -/

/-- A pass of 512 words in range, with their CRC in the last, is good. -/
theorem trimGood_of {ws : List Word} {vid : Nat} (hl : ws.length = 512) (h0 : 20 ≤ vid) (h1 : vid ≤ 50)
    (hc : ws.getD 511 0 = crc32 ((ws.take 511).flatMap (fun w => leBytes 4 w.toNat))) : trimGood ws vid true = true := by
  unfold trimGood
  rw [hl, hc]
  simp [h0, h1]

section
variable {ws : List Word} {vid : Nat} {ok : Bool} (hp : s.crd.phase = .trim) (hf : s.crd.fallback = false)
include hp hf

theorem trimPass_inLoad : trimPass s ws vid ok =
    if trimGood ws vid ok then trimEnds s ws vid false
    else if s.crd.secondPass then trimEnds s ((List.range 512).map Config.trimDefault) 44 true
    else { s with crd := { s.crd with trimRetried := true, secondPass := true } } := by
  refine if_neg ?_
  rw [hp, hf]
  decide

/-- A good pass ends the load. -/
theorem trimPass_good (h : trimGood ws vid ok = true) : trimPass s ws vid ok = trimEnds s ws vid false := by
  rw [trimPass_inLoad hp hf, if_pos h]

/-- A bad first pass is repeated. -/
theorem trimPass_badFirst (h2 : s.crd.secondPass = false) (h : trimGood ws vid ok = false) :
    trimPass s ws vid ok = { s with crd := { s.crd with trimRetried := true, secondPass := true } } := by
  rw [trimPass_inLoad hp hf, h, h2]
  rfl

/-- A bad second pass takes the built-in defaults. -/
theorem trimPass_badSecond (h2 : s.crd.secondPass = true) (h : trimGood ws vid ok = false) :
    trimPass s ws vid ok = trimEnds s ((List.range 512).map Config.trimDefault) 44 true := by
  rw [trimPass_inLoad hp hf, h, h2]
  rfl

end

end

/-- Settles O14: power-on reset and its end, the straps, the clocks, then each outcome of a trim pass. -/
theorem powerOnAndTrim : Obligations.PowerOnAndTrim := by
  refine ⟨⟨fun s => ⟨rfl, rfl⟩, fun s => ⟨rfl, rfl, rfl, rfl, rfl, rfl, rfl, rfl⟩, ?rise, fun s b te w h => congrArg done (if_pos h),
    fun s => rfl, ?leaves, fun s h => leavePor_held h, fun s hp hr => exec_rootOk_qualifies hp hr,
    fun s hp hf hr hl => exec_pllLock_locks hp hf hr hl⟩, ?good, ?first, ?second, ?outside⟩
  case rise =>
    intro s b te w h
    exact congrArg done (if_neg (by rw [h]; exact Bool.false_ne_true))
  case leaves =>
    intro s hp hn hs
    obtain ⟨hf, hc, he⟩ := foldl_drawEpoch { s with crd := { s.crd with phase := .qualifying } } 64
    rw [leavePor_leaves hp hn hs]
    exact ⟨congrArg Crd.phase hc, hf, he⟩
  case good => exact fun s ws vid hp hf hl h0 h1 hc => congrArg done (trimPass_good hp hf (trimGood_of hl h0 h1 hc))
  case first => exact fun s ws vid ok hp hf h2 h => congrArg done (trimPass_badFirst hp hf h2 h)
  case second => exact fun s ws vid ok hp hf h2 h => congrArg done (trimPass_badSecond hp hf h2 h)
  case outside => exact fun s ws vid ok h => congrArg done (if_pos h)

end Sys2Proof.Machine
end

section
/-! PROOFS. Sampling (R377 to R380): enabling, overflow and tagged samples, the beds' queues, and the ring. -/

namespace Sys2Proof.Machine

/-! ### PM_SAMP_CTRL (R377) -/

/-- Where EN rises, sampling begins with the registers of both groups latched and every LFSR seeded. -/
theorem sampleStart_latches (s : State) : (∀ g, g < 2 →
      KMap.get (fun _ => 0) (sampleStart s).pm.samp g = cfgGet s (0xA00118 + 0x20 * g)
      ∧ KMap.get (fun _ => 0) (sampleStart s).pm.period g = cfgGet s (0xA0011C + 0x20 * g))
    ∧ ∀ b, b < 64 → KMap.get lfsr0 (sampleStart s).pm.lfsr b = lfsrSeed s b := by
  refine ⟨fun g hg => ?_, fun b hb => ?_⟩
  · have two : g = 0 ∨ g = 1 := by omega
    rcases two with rfl | rfl <;> simp [sampleStart, pmGroup]
  · exact (KMap.get_foldl_set lfsr0 (lfsrSeed s) b (List.range 64) []).trans (if_pos (List.mem_range.mpr hb))

section
variable {s : State} {v : Word} (h : hostMay s 0 = true)
include h

theorem exec_samplingEnable_starts (hv : v.getLsbD 0 = true) (he : s.pm.en = false) :
    exec (.samplingEnable 0 v) s = .next (settle (sampleStart s)) := by
  rw [exec_samplingEnable v h, sampCtrlWrite, if_pos hv, he]
  rfl

theorem exec_samplingEnable_again (hv : v.getLsbD 0 = true) (he : s.pm.en = true) :
    exec (.samplingEnable 0 v) s = .next (settle s) := by
  rw [exec_samplingEnable v h, sampCtrlWrite, if_pos hv, if_pos he]

theorem exec_samplingEnable_stops (hv : v.getLsbD 0 = false) :
    exec (.samplingEnable 0 v) s = .next (settle { s with pm := { s.pm with en := false } }) := by
  rw [exec_samplingEnable v h, sampCtrlWrite, hv]
  rfl

end

/-- A VF has no such register, and a host that may not write writes nothing. -/
theorem exec_samplingEnable_not {s : State} {fn : Nat} {v : Word} (h : fn ≠ 0 ∨ hostMay s 0 = false) :
    exec (.samplingEnable fn v) s = .next (settle s) := by
  refine congrArg done ?_
  by_cases hf : fn = 0
  · subst hf
    have hm : hostMay s 0 = false := h.resolve_left (fun h => h rfl)
    rw [if_pos rfl, hostWrites, hm]
    rfl
  · exact if_neg hf

/-! ### Samples (R377, R379) -/

/-- May grain p take a due sample of a logical grain: 1024 stands for any. -/
def sampleFits (s : State) (p lg : Nat) : Bool := decide (lg = 1024) || decide (logicalOf s p = some lg)

/-- Is a skid one that the sampled event allows: 0xFF where no instruction causes it. -/
def skidFits (s : State) (g skid : Nat) : Bool :=
  if noCause g (bf (sampOf s g) 3 0) then decide (skid = 0xFF) else decide (skid ≤ 40)

/-- The samples due in a group. -/
def samplesDue (s : State) (g : Nat) : List Nat := KMap.get (fun _ => []) s.pm.due g

section
variable {s : State} {g p t skid : Nat}

theorem overflowSample_not (h : (samplesDue s g).find? (sampleFits s p) = none ∨ sampling s g = false ∨ skidFits s g skid = false) :
    overflowSample g p t skid s = s := by
  unfold overflowSample
  dsimp only
  split
  · rfl
  · rename_i lg hd
    refine if_neg ?_
    rintro hs
    obtain ⟨h1, h2⟩ := Bool.and_eq_true_iff.mp hs
    rcases h with h | h | h
    · exact Option.some_ne_none lg (hd.symm.trans h)
    · exact Bool.false_ne_true (h.symm.trans h1)
    · exact Bool.false_ne_true (h.symm.trans h2)

theorem overflowSample_taken {lg : Nat} (hd : (samplesDue s g).find? (sampleFits s p) = some lg) (hs : sampling s g = true)
    (hk : skidFits s g skid = true) :
    let u : State := { s with pm := { s.pm with due := KMap.set (fun _ => []) s.pm.due g ((samplesDue s g).erase lg) } }
    overflowSample g p t skid s = sampleIntoBed u (p / 17) { takeSample u 1 g p t skid (getThread s p t).pc.toNat with
      count := (pmGet s (16 * g + bf (sampOf s g) 3 0)).toNat } := by
  unfold overflowSample
  dsimp only
  split
  · rename_i h
    exact absurd (hd.symm.trans h) (Option.some_ne_none lg)
  · rename_i lg' h
    obtain rfl := Option.some.inj (hd.symm.trans h)
    exact if_pos (Bool.and_eq_true_iff.mpr ⟨hs, hk⟩)

theorem tagSample_retires {pc addr lat ef : Nat} (h : KMap.get (fun _ => none) s.pm.tagged p = some (t, pc)) :
    let u : State := { s with pm := { s.pm with tagged := KMap.set (fun _ => none) s.pm.tagged p none } }
    tagSample p t addr lat ef s = sampleIntoBed u (p / 17)
      { takeSample u 2 0 p t 0 pc with addr := addr, latency := lat, eflags := ef } := by
  unfold tagSample
  rw [h]
  exact if_pos rfl

theorem tagSample_not {addr lat ef : Nat} (h : ∀ pc, KMap.get (fun _ => none) s.pm.tagged p ≠ some (t, pc)) :
    tagSample p t addr lat ef s = s := by
  unfold tagSample
  split
  · rename_i u pc hu
    refine if_neg ?_
    rintro rfl
    exact h pc hu
  · rfl

theorem sampleIntoBed_joins {b : Nat} {x : Sample} (h : (bedSamples s b).length < 4) :
    bedSamples (sampleIntoBed s b x) b = bedSamples s b ++ [x] := by
  rw [sampleIntoBed, if_pos h]
  exact KMap.get_set_self _ _ _ _

theorem sampleIntoBed_lost {b : Nat} {x : Sample} (h : 4 ≤ (bedSamples s b).length) : sampleIntoBed s b x = sampleLost s :=
  if_neg (Nat.not_lt.mpr h)

end

/-! ### The ring (R380) -/

/-- A bed whose oldest sample has left its queue. -/
def oldestTaken (s : State) (b : Nat) (rest : List Sample) : State :=
  { s with pm := { s.pm with queues := KMap.set (fun _ => []) s.pm.queues b rest } }

/-- The ring as a sample finds it: behind the record of lost samples, where there are any. -/
def lostReported (u : State) : State :=
  if u.pm.lostReport = 0 then u
  else { ringPut u (lostSample u) with pm := { (ringPut u (lostSample u)).pm with lostReport := 0 } }

theorem lostReported_some {u : State} (h : u.pm.lostReport ≠ 0) : lostReported u =
    { ringPut u (lostSample u) with pm := { (ringPut u (lostSample u)).pm with lostReport := 0 } } := if_neg h

section
variable {s : State} {b : Nat} {x : Sample} {rest : List Sample}

theorem sampleOut_none (h : bedSamples s b = []) (dma : Option Nat) : sampleOut s b dma = s := by
  unfold sampleOut
  rw [h]

/-- What becomes of a bed's oldest sample. -/
theorem sampleOut_some (h : bedSamples s b = x :: rest) (dma : Option Nat) : sampleOut s b dma =
    if dma.isSome then
      { oldestTaken s b rest with pm := { (oldestTaken s b rest).pm with en := false, dmaErr := true } }
    else if ringRoom s = 0 then sampleLost (oldestTaken s b rest)
    else if ringRoom (lostReported (oldestTaken s b rest)) = 0 then sampleLost (lostReported (oldestTaken s b rest))
    else ringPut (lostReported (oldestTaken s b rest)) x := by
  unfold sampleOut
  rw [h]
  rfl

end

/-- Settles O55: the register, the samples of a thread, the queue of a bed, then the ring by room, errors and losses. -/
theorem performanceSamples : Obligations.PerformanceSamples := by
  refine ⟨?enable, fun s fn v h => exec_samplingEnable_not h, ?overflow, ?tag,
    fun s b x => ⟨sampleIntoBed_joins, sampleIntoBed_lost⟩, fun s b h dma => congrArg done (sampleOut_none h dma), ?ring⟩
  case enable =>
    intro s v hm
    obtain ⟨latched, seeded⟩ := sampleStart_latches s
    exact ⟨fun hv he => ⟨sampleStart s, exec_samplingEnable_starts hm hv he, rfl, rfl, rfl, rfl, latched, seeded, rfl⟩,
      exec_samplingEnable_again hm, exec_samplingEnable_stops hm⟩
  case overflow =>
    exact fun s g p t skid => ⟨fun h => congrArg done (overflowSample_not h),
      fun lg hd hs hk => congrArg done (overflowSample_taken hd hs hk)⟩
  case tag =>
    exact fun s p t addr lat ef => ⟨fun pc h => congrArg done (tagSample_retires h), fun h => congrArg done (tagSample_not h)⟩
  case ring =>
    intro s b x rest h
    have out (dma : Option Nat) : exec (.sampleWrite b dma) s = .next (settle (sampleOut s b.val dma)) := rfl
    refine ⟨fun a => ?_, fun hr => ?_, fun hr hl => ⟨ringPut (oldestTaken s b.val rest) x, ?_, rfl, rfl⟩, fun hr hl hv => ?_,
      fun hr hl hv => ?_⟩
    · rw [out, sampleOut_some h]
      rfl
    · rw [out, sampleOut_some h, if_neg (by decide), if_pos hr]
      rfl
    · have ready : lostReported (oldestTaken s b.val rest) = oldestTaken s b.val rest := if_pos hl
      rw [out, sampleOut_some h, if_neg (by decide), if_neg hr, ready]
      exact congrArg done (if_neg hr)
    · have reported := lostReported_some (u := oldestTaken s b.val rest) hl
      rw [out, sampleOut_some h, if_neg (by decide), if_neg hr, reported]
      exact congrArg done (if_neg hv)
    · have reported := lostReported_some (u := oldestTaken s b.val rest) hl
      rw [out, sampleOut_some h, if_neg (by decide), if_neg hr, reported]
      exact congrArg done (if_pos hv)

end Sys2Proof.Machine
end

section
/-! PROOFS. A channel that follows its target (R325, R328 to R331): what it reads of the configuration, what it becomes, and what the
other channels keep; COOL_SET, COOL_TABLE_LOAD, and the controller of the speed. -/

namespace Sys2Proof.Machine

/-! ### What the channels read beside themselves -/

section
variable {s t : State} (m : Nat)

/-- The fields of a channel's configuration are read from the registers alone. -/
theorem motorConfig_congr (h : t.regs = s.regs) : motorDrive t m = motorDrive s m ∧ pwmPer t m = pwmPer s m
    ∧ rampDuty t m = rampDuty s m ∧ sensorless t m = sensorless s m ∧ handoff t m = handoff s m ∧ maxRpm t m = maxRpm s m
    ∧ polePairs t m = polePairs s m := by
  have field (o hi lo : Nat) : cfgF t o hi lo = cfgF s o hi lo := by rw [cfgF, cfgGet, h]; rfl
  unfold motorDrive pwmPer rampDuty startDuty sensorless handoff maxRpm polePairs pwmPer
  refine ⟨field _ _ _, field _ _ _, ?_, ?_, field _ _ _, field _ _ _, field _ _ _⟩
  · rw [field, field]
  · rw [field]

/-- The effective target depends on the registers, the channels, the latches and the heartbeats alone (R329). -/
theorem effTarget_congr (hr : t.regs = s.regs) (hm : t.motors = s.motors) (ht : t.therm = s.therm)
    (hh : t.qc.hostBeat = s.qc.hostBeat) (hb : t.qc.bmcBeat = s.qc.bmcBeat) : effTarget t m = effTarget s m := by
  have only (u : State) : effTarget u m = effTarget { State.reset with
    regs := u.regs, motors := u.motors, therm := u.therm
    qc := { State.reset.qc with hostBeat := u.qc.hostBeat, bmcBeat := u.qc.bmcBeat } } m := rfl
  rw [only t, only s, hr, hm, ht, hh, hb]

end

section
variable {s t : State}

theorem motorFrame.regs (h : motorFrame s t) : t.regs = s.regs := by rw [h]

end

/-! ### Starts and stops (R325, R329) -/

section
variable (s : State) (m k : Nat)

/-- GATE_MAN that comes into force changes its channel alone. -/
theorem getMotor_gatesLoad : getMotor (gatesLoad s m) k = if k = m then { getMotor s m with
    gates := (getMotor s m).gateMan, shoot := (getMotor s m).shoot || doubleOn (getMotor s m).gateMan } else getMotor s k := by
  unfold gatesLoad
  dsimp only
  split <;> simp

/-- A Hall code gives its channel a step, and changes no other. -/
theorem getMotor_applyHall (code : Nat) : ∃ n, ∀ k, getMotor (applyHall s m code) k =
    if k = m then { getMotor s m with step := n } else getMotor s k := by
  unfold applyHall
  split
  · exact ⟨_, fun k => getMotor_modMotor s m k _⟩
  · exact ⟨_, fun k => getMotor_modMotor (drawFree s).2 m k _⟩

/-- A channel as it begins to start at PCLK time t: driven, with nothing pending and the teeth of its handoff speed assumed. -/
def startBegun (s : State) (m t : Nat) : State := modMotor s m (fun x => { x with
  drive := true, softHeld := false, synth := 0, good := 0, pendingComm := none, last := t, rampStart := t
  tp := intervalAt s m (handoff s m)
  intervals := if intervalAt s m (handoff s m) = 0 then [] else List.replicate 6 (intervalAt s m (handoff s m)) })

/-- And as it begins to ramp. -/
def rampBegun (s : State) (m t : Nat) : State :=
  modMotor (startBegun s m t) m (fun x => { x with st := .ramp, dutyActive := rampDuty (startBegun s m t) m })

/-- The three starts: by hand, aligned in the open loop, or from a Hall code. -/
theorem motorStart_eq (t : Nat) : motorStart s m t =
    if motorDrive s m = 2 then gatesLoad (modMotor (startBegun s m t) m (fun x => { x with st := .running, gates := 0 })) m
    else if sensorless s m then
      modMotor (rampBegun s m t) m (fun x => { x with aligning := true, step := 0, tp := 0, intervals := [] })
    else applyHall (rampBegun s m t) m (getMotor (rampBegun s m t) m).lastHall := by
  have hd : motorDrive (startBegun s m t) m = motorDrive s m := (motorConfig_congr m rfl).1
  have hs : sensorless (rampBegun s m t) m = sensorless s m := (motorConfig_congr m rfl).2.2.2.1
  rw [← hd, ← hs]
  rfl

theorem getMotor_startBegun (t : Nat) : (getMotor (startBegun s m t) m).drive = true
    ∧ ∀ k, k ≠ m → getMotor (startBegun s m t) k = getMotor s k :=
  ⟨by simp [startBegun], fun k h => by simp [startBegun, h]⟩

theorem getMotor_rampBegun (t : Nat) : (getMotor (rampBegun s m t) m).st = .ramp ∧ (getMotor (rampBegun s m t) m).drive = true
    ∧ ∀ k, k ≠ m → getMotor (rampBegun s m t) k = getMotor s k := by
  obtain ⟨hd, ho⟩ := getMotor_startBegun s m t
  exact ⟨by simp [rampBegun], by simp [rampBegun, hd], fun k h => by simp [rampBegun, h, ho k h]⟩

/-- A start changes no other channel. -/
theorem getMotor_motorStart_other (t : Nat) (h : k ≠ m) : getMotor (motorStart s m t) k = getMotor s k := by
  obtain ⟨-, -, ho⟩ := getMotor_rampBegun s m t
  rw [motorStart_eq]
  split
  · rw [getMotor_gatesLoad, if_neg h, getMotor_modMotor, if_neg h, (getMotor_startBegun s m t).2 k h]
  · split
    · rw [getMotor_modMotor, if_neg h, ho k h]
    · obtain ⟨n, hn⟩ := getMotor_applyHall (rampBegun s m t) m (getMotor (rampBegun s m t) m).lastHall
      rw [hn k, if_neg h, ho k h]

/-- A channel whose gates are driven by hand starts in RUNNING. -/
theorem motorStart_gates (t : Nat) (h : motorDrive s m = 2) :
    (getMotor (motorStart s m t) m).st = .running ∧ (getMotor (motorStart s m t) m).drive = true := by
  rw [motorStart_eq, if_pos h, getMotor_gatesLoad, if_pos rfl, getMotor_modMotor, if_pos rfl]
  exact ⟨rfl, (getMotor_startBegun s m t).1⟩

/-- Any other channel starts in RAMP. -/
theorem motorStart_ramp (t : Nat) (h : motorDrive s m ≠ 2) :
    (getMotor (motorStart s m t) m).st = .ramp ∧ (getMotor (motorStart s m t) m).drive = true := by
  obtain ⟨hs, hd, -⟩ := getMotor_rampBegun s m t
  rw [motorStart_eq, if_neg h]
  split
  · rw [getMotor_modMotor, if_pos rfl]
    exact ⟨hs, hd⟩
  · obtain ⟨n, hn⟩ := getMotor_applyHall (rampBegun s m t) m (getMotor (rampBegun s m t) m).lastHall
    rw [hn m, if_pos rfl]
    exact ⟨hs, hd⟩

end

/-! ### A channel that follows its target -/

/-- The channel with its effective target kept as the one last applied. -/
def appliedKept (s : State) (m : Nat) : State :=
  if motorEn s m ∧ (getMotor s m).st ≠ .lockout then setMotor s m { getMotor s m with applied := some (effTarget s m) } else s

theorem getMotor_appliedKept (s : State) (m k : Nat) :
    ∃ a, getMotor (appliedKept s m) k = if k = m then { getMotor s m with applied := a } else getMotor s k := by
  unfold appliedKept
  split
  · exact ⟨_, getMotor_setMotor s m k _⟩
  · refine ⟨(getMotor s m).applied, ?_⟩
    split
    · rename_i h
      rw [h]
    · rfl

theorem motorDrive_appliedKept (s : State) (m : Nat) : motorDrive (appliedKept s m) m = motorDrive s m := by
  unfold appliedKept
  split <;> rfl

/-- What following comes to while the steward runs: a start, a stop, or nothing more. -/
theorem motorFollow_running {s : State} (h : s.crd.phase = .running) (m : Nat) : motorFollow s m =
    match (getMotor s m).st with
    | .stopped => if runTarget s m = 0 then appliedKept s m else motorStart (appliedKept s m) m (pclkNow (appliedKept s m))
    | .lockout => appliedKept s m
    | _ => if runTarget s m = 0 then motorStop (appliedKept s m) m else appliedKept s m := by
  unfold motorFollow
  rw [if_neg (not_not.mpr h)]
  rfl

/-- Following changes no other channel. -/
theorem getMotor_motorFollow_other (s : State) {m k : Nat} (h : k ≠ m) : getMotor (motorFollow s m) k = getMotor s k := by
  have kept : getMotor (appliedKept s m) k = getMotor s k := by
    obtain ⟨a, ha⟩ := getMotor_appliedKept s m k
    rw [ha, if_neg h]
  by_cases hp : s.crd.phase = .running
  · rw [motorFollow_running hp]
    split
    · split
      · exact kept
      · rw [getMotor_motorStart_other _ _ _ _ h, kept]
    · exact kept
    · split
      · rw [motorStop, getMotor_modMotor, if_neg h, kept]
      · exact kept
  · rw [motorFollow_still hp]

section
variable {s : State} {m : Nat} (hp : s.crd.phase = .running)
include hp

/-- A channel out of LOCKOUT whose target is 0 stops. -/
theorem motorFollow_stops (hl : (getMotor s m).st ≠ .lockout) (ht : runTarget s m = 0) :
    (getMotor (motorFollow s m) m).st = .stopped := by
  rw [motorFollow_running hp]
  obtain ⟨a, ha⟩ := getMotor_appliedKept s m m
  rw [if_pos rfl] at ha
  split
  · rename_i hs
    rw [if_pos ht, ha]
    exact hs
  · rename_i hs
    exact absurd hs hl
  · rw [if_pos ht]
    simp [motorStop]

/-- A stopped channel with a target starts. -/
theorem motorFollow_starts (hs : (getMotor s m).st = .stopped) (ht : runTarget s m ≠ 0) :
    motorFollow s m = motorStart (appliedKept s m) m (pclkNow (appliedKept s m)) := by
  rw [motorFollow_running hp, hs]
  exact if_neg ht

end

/-! ### COOL_SET (R330, R331) -/

/-- Changing a channel leaves the configuration and the latches as they are, and so does releasing a pump for the configuration. -/
theorem getMotor_leakReleases (s : State) (m k : Nat) : getMotor (leakReleases s m) k = getMotor s k := by
  rw [leakReleases_frame]
  rfl

/-- With no leak on its loop a pump releases nothing. -/
theorem leakReleases_dry {s : State} {m : Nat} (h : leakOn s (pumpLoop s m) = false) : leakReleases s m = s :=
  if_neg (by rw [h]; exact Bool.false_ne_true)

theorem fullSpeed_leakReleases6 {s : State} (h : leakOn s (pumpLoop s 6) = true) : fullSpeed (leakReleases s 6) 6 = false := by
  rw [leakReleases, if_pos h]
  rfl

theorem fullSpeed_leakReleases7 {s : State} (h : leakOn s (pumpLoop s 7) = true) : fullSpeed (leakReleases s 7) 7 = false := by
  rw [leakReleases, if_pos h]
  rfl

/-- What COOL_SET makes of a channel: the floor from T64, the mode from T0. -/
def coolSetMotor (s : State) (c : Cmd) (x : Motor) : Motor :=
  if c.tenant = 64 then
    { x with floor := if c.f 9 1 = 0 then .rpm (c.f 0xC 4) else if c.f 9 1 = 1 then .table else .rpm c.rpmAt }
  else { x with
    mode := c.f 9 1, hostRpm := if c.f 9 1 = 0 then c.f 0xC 4 else x.hostRpm,
    holdRpm := if c.f 9 1 = 2 then some (effTarget s (c.f 8 1)) else x.holdRpm,
    failsafe := if c.f 0xA 1 = 0 then x.failsafe else c.f 0xA 1 }

/-- The state after COOL_SET's channel has followed, before the command completes. -/
def coolSetFollowed (s u : State) (c : Cmd) : State :=
  motorFollow (setMotor (leakReleases u (c.f 8 1)) (c.f 8 1) (coolSetMotor s c (getMotor s (c.f 8 1)))) (c.f 8 1)

theorem getMotor_coolSetFollowed_other {s u : State} {c : Cmd} (hu : getMotor u = getMotor s) {k : Nat} (h : k ≠ c.f 8 1) :
    getMotor (coolSetFollowed s u c) k = getMotor s k := by
  rw [coolSetFollowed, getMotor_motorFollow_other _ h, getMotor_setMotor, if_neg h, getMotor_leakReleases, hu]

/-- A COOL_SET above MAX_RPM is refused. -/
theorem coolBody_refused {u : State} {c : Cmd} (h : maxRpm u (c.f 8 1) < c.f 0xC 4) :
    coolBody u c = complete u c.seq (badField 0xC) := if_pos h

/-- Any other sets its channel, which follows, and completes with the effective target. -/
theorem coolBody_sets {u : State} {c : Cmd} (h : c.f 0xC 4 ≤ maxRpm u (c.f 8 1)) : coolBody u c =
    complete (modCmd (coolSetFollowed u u c) c.seq (fun z => { z with clamped := motorClamped (coolSetFollowed u u c) (c.f 8 1) }))
      c.seq (okR (effTarget (coolSetFollowed u u c) (c.f 8 1))) := by
  have set : modMotor (leakReleases u (c.f 8 1)) (c.f 8 1) (coolSetMotor u c)
      = setMotor (leakReleases u (c.f 8 1)) (c.f 8 1) (coolSetMotor u c (getMotor u (c.f 8 1))) := by
    rw [modMotor, getMotor_leakReleases]
  unfold coolSetFollowed
  rw [← set]
  exact if_neg (Nat.not_lt.mpr h)

/-! ### COOL_TABLE_LOAD (R331) -/

theorem coolTableBody_dmaError (u : State) (c : Cmd) (a : Nat) :
    coolTableBody (some a) u c = complete u c.seq (dmaReadErr a) := rfl

/-- The words of the table in host memory. -/
def tableWords (s : State) (c : Cmd) : List Nat :=
  (List.range (c.f 9 1)).map (fun i => leAt (hostRead s (c.f 0x10 8 + 4 * i) 4) 0 4)

/-- Are they points that the channel may take. -/
def tableGood (s : State) (c : Cmd) : Bool :=
  pointsOk (maxRpm s (c.f 8 1)) ((tableWords s c).map (fun w => (sext 16 (w % 65536), w / 65536)))

/-- The channel's table registers written: the sensor, the points, and their number. -/
def tableLoaded (u : State) (c : Cmd) : State :=
  cfgSetF ((List.range (c.f 9 1)).foldl (fun s i => cfgSet s (motorBase (c.f 8 1) + 0x80 + 4 * i)
    (BitVec.ofNat 32 ((tableWords u c).getD i 0))) (cfgSetF u (motorBase (c.f 8 1) + 0x48) 15 8 (c.f 0xA 2)))
    (motorBase (c.f 8 1) + 0x48) 4 0 (c.f 9 1)

theorem coolTableBody_bad {u : State} {c : Cmd} (h : tableGood u c = false) :
    coolTableBody none u c = complete u c.seq (badField 0x10) := by
  have bad : (!tableGood u c) = true := by rw [h]; rfl
  exact if_pos bad

theorem coolTableBody_good {u : State} {c : Cmd} (h : tableGood u c = true) :
    coolTableBody none u c = complete (tableLoaded u c) c.seq (okR) := by
  have good : ¬ (!tableGood u c) = true := by rw [h]; decide
  exact if_neg good

section
variable (b : Nat) (v : Nat → Word) (s : State) {n : Nat}

/-- The registers of n words from b on, each as written. -/
theorem cfgGet_words_self {i : Nat} (h : i < n) :
    cfgGet ((List.range n).foldl (fun s i => cfgSet s (b + 4 * i) (v i)) s) (b + 4 * i) = v i := by
  induction n with
  | zero => exact absurd h (Nat.not_lt_zero i)
  | succ n ih =>
    rw [List.range_succ, List.foldl_append, List.foldl_cons, List.foldl_nil, cfgGet_cfgSet]
    split
    · rw [show i = n by omega]
    · exact ih (by omega)

/-- Every other register, as before. -/
theorem cfgGet_words_other {o : Nat} (h : ∀ i, i < n → o ≠ b + 4 * i) :
    cfgGet ((List.range n).foldl (fun s i => cfgSet s (b + 4 * i) (v i)) s) o = cfgGet s o := by
  induction n with
  | zero => rfl
  | succ n ih =>
    rw [List.range_succ, List.foldl_append, List.foldl_cons, List.foldl_nil, cfgGet_cfgSet, if_neg (h n (Nat.lt_succ_self n)),
      ih (fun i hi => h i (Nat.lt_succ_of_lt hi))]

/-- They are registers: nothing else is written. -/
theorem words_frame (l : List Nat) : l.foldl (fun s i => cfgSet s (b + 4 * i) (v i)) s
    = { s with regs := (l.foldl (fun s i => cfgSet s (b + 4 * i) (v i)) s).regs } :=
  foldl_frame (fun s t => { s with regs := t.regs }) (fun _ => rfl) (fun _ _ _ => rfl) _ (fun _ _ => rfl) l s

end

/-- Field 15:8 of a word that takes v there. -/
theorem bf_put15 (w : Word) (v : Nat) :
    bf (BitVec.ofNat 32 (w.toNat - fieldN 15 8 (w.toNat >>> 8) + fieldN 15 8 v)) 15 8 = v % 256 := by
  have hw : w.toNat < 4294967296 := w.isLt
  simp only [bf, fieldN, BitVec.toNat_ofNat, Nat.shiftRight_eq_div_pow, Nat.shiftLeft_eq, Nat.reducePow, Nat.reduceSub,
    Nat.reduceAdd]
  omega

/-- Field 4:0 takes its value and leaves field 15:8. -/
theorem bf_put4 (w : Word) (v : Nat) :
    bf (BitVec.ofNat 32 (w.toNat - fieldN 4 0 (w.toNat >>> 0) + fieldN 4 0 v)) 4 0 = v % 32
    ∧ bf (BitVec.ofNat 32 (w.toNat - fieldN 4 0 (w.toNat >>> 0) + fieldN 4 0 v)) 15 8 = bf w 15 8 := by
  have hw : w.toNat < 4294967296 := w.isLt
  simp only [bf, fieldN, BitVec.toNat_ofNat, Nat.shiftRight_eq_div_pow, Nat.shiftLeft_eq, Nat.reducePow, Nat.reduceSub,
    Nat.reduceAdd]
  omega

section
variable (u : State) (c : Cmd)

theorem tableLoaded_frame : tableLoaded u c = { u with regs := (tableLoaded u c).regs } := by
  unfold tableLoaded cfgSetF
  dsimp only
  rw [words_frame]
  rfl

theorem cfgGet_tableLoaded_other {o : Nat} (h : o ≠ motorBase (c.f 8 1) + 0x48)
    (hi : ∀ i, i < c.f 9 1 → o ≠ motorBase (c.f 8 1) + 0x80 + 4 * i) : cfgGet (tableLoaded u c) o = cfgGet u o := by
  unfold tableLoaded cfgSetF
  dsimp only
  rw [cfgGet_cfgSet, if_neg h, cfgGet_words_other _ _ _ hi, cfgGet_cfgSet, if_neg h]

theorem cfgGet_tableLoaded_point {i : Nat} (h : i < c.f 9 1) : cfgGet (tableLoaded u c) (motorBase (c.f 8 1) + 0x80 + 4 * i)
    = BitVec.ofNat 32 ((tableWords u c).getD i 0) := by
  unfold tableLoaded cfgSetF
  dsimp only
  rw [cfgGet_cfgSet, if_neg (by omega), cfgGet_words_self _ _ _ h]

/-- The number and the sensor. -/
theorem cfgF_tableLoaded : cfgF (tableLoaded u c) (motorBase (c.f 8 1) + 0x48) 4 0 = c.f 9 1 % 32
    ∧ cfgF (tableLoaded u c) (motorBase (c.f 8 1) + 0x48) 15 8 = c.f 0xA 2 % 256 := by
  unfold tableLoaded
  generalize hs : cfgSetF u (motorBase (c.f 8 1) + 0x48) 15 8 (c.f 0xA 2) = s
  have sensor : cfgF s (motorBase (c.f 8 1) + 0x48) 15 8 = c.f 0xA 2 % 256 := by
    rw [← hs, cfgSetF, cfgF, cfgGet_cfgSet, if_pos rfl]
    exact bf_put15 _ _
  generalize hp : (List.range (c.f 9 1)).foldl (fun s i => cfgSet s (motorBase (c.f 8 1) + 0x80 + 4 * i)
    (BitVec.ofNat 32 ((tableWords u c).getD i 0))) s = t
  have kept : cfgGet t (motorBase (c.f 8 1) + 0x48) = cfgGet s (motorBase (c.f 8 1) + 0x48) := by
    rw [← hp]
    exact cfgGet_words_other _ _ _ (fun i _ => by omega)
  obtain ⟨number, rest⟩ := bf_put4 (cfgGet t (motorBase (c.f 8 1) + 0x48)) (c.f 9 1)
  rw [cfgSetF, cfgF, cfgF, cfgGet_cfgSet, if_pos rfl]
  refine ⟨number, rest.trans ?_⟩
  rw [kept]
  exact sensor

end

/-! ### The controller of the speed (R327) -/

section
variable {s : State} {m : Fin 8}

theorem exec_speedControl_idle (h : (getMotor s m.val).st ≠ .running ∨ motorDrive s m.val ≠ 0) :
    exec (.speedControl m) s = .next (settle s) := congrArg done (if_pos h)

/-- The controller's state with the duty clamped between the start duty and PWM_PER. -/
theorem exec_speedControl_acts (hs : (getMotor s m.val).st = .running) (hd : motorDrive s m.val = 0) {e i d : Int}
    (he : e = (rampedNext s m.val / 1000 : Nat) - (motorSpeed s m.val : Int))
    (hi : i = (getMotor s m.val).integral + ((getMotor s m.val).gains % 2 ^ 16 : Nat) * e)
    (hc : d = Int.fdiv ((((getMotor s m.val).gains / 2 ^ 16 : Nat) * e + i) * pwmPer s m.val) 65536) :
    exec (.speedControl m) s = .next (settle (setMotor s m.val { getMotor s m.val with
      ramped := rampedNext s m.val
      integral := if max (rampDuty s m.val : Int) (min d (pwmPer s m.val)) = d then i else (getMotor s m.val).integral
      duty := (max (rampDuty s m.val : Int) (min d (pwmPer s m.val))).toNat })) := by
  subst hc hi he
  exact congrArg done (if_neg (by simp [hs, hd]))

end

/-- Settles O50: COOL_SET by its target, COOL_TABLE_LOAD by its points, then the controller, the table and the starts. -/
theorem motorTargets : Obligations.MotorTargets := by
  refine ⟨?set, fun s m => ⟨leakReleases_dry, fullSpeed_leakReleases6, fullSpeed_leakReleases7⟩, ?table,
    fun s m h => exec_speedControl_idle h, ?control, ?ramp, fun s m h => congrArg done (if_neg (not_not.mpr h)),
    fun s m h => congrArg done (if_pos h), fun s m h => motorFollow_still h m, ?follow⟩
  case set =>
    intro s c cmd h
    obtain rfl := startsNow_seq h
    have begun : exec (.coolSet cmd.seq) s = .next (settle (coolBody (markStarted s cmd.seq) cmd)) :=
      congrArg done (startCmd_now noDoms noHold coolBody h rfl rfl)
    have hu := markStarted_frame s cmd.seq
    have same : coolSetMotor (markStarted s cmd.seq) cmd = coolSetMotor s cmd := by
      funext x
      rw [coolSetMotor, coolSetMotor, effTarget_congr (s := s)] <;> simp
    have top : maxRpm (markStarted s cmd.seq) (cmd.f 8 1) = maxRpm s (cmd.f 8 1) := by
      simp [maxRpm]
    have motors : getMotor (markStarted s cmd.seq) = getMotor s := by simp
    have followed : coolSetFollowed (markStarted s cmd.seq) (markStarted s cmd.seq) cmd
        = coolSetFollowed s (markStarted s cmd.seq) cmd := by
      rw [coolSetFollowed, same, motors, coolSetFollowed]
    rw [begun]
    refine ⟨fun hr => ?_, fun hr => ⟨?_, fun k hk => getMotor_coolSetFollowed_other motors hk⟩⟩
    · rw [coolBody_refused (by rwa [top])]
    · rw [coolBody_sets (by rwa [top]), followed]
      rfl
  case table =>
    intro s c cmd h
    obtain rfl := startsNow_seq h
    have begun (dma : Option Nat) : exec (.coolTableLoad cmd.seq dma) s
        = .next (settle (coolTableBody dma (markStarted s cmd.seq) cmd)) :=
      congrArg done (startCmd_now noDoms noHold (coolTableBody dma) h rfl rfl)
    have words : tableWords (markStarted s cmd.seq) cmd = tableWords s cmd := by simp [tableWords]
    have good : tableGood (markStarted s cmd.seq) cmd = tableGood s cmd := by simp [tableGood, words, maxRpm]
    have regs (o : Nat) : cfgGet (markStarted s cmd.seq) o = cfgGet s o := by simp
    refine ⟨fun a => begun (some a), fun hb => ?_, fun hg => ⟨tableLoaded (markStarted s cmd.seq) cmd, ?_, fun hn => ?_,
      tableLoaded_frame _ cmd⟩⟩
    · rw [begun, coolTableBody_bad (good.trans hb)]
    · rw [begun, coolTableBody_good (good.trans hg)]
    · obtain ⟨number, sensor⟩ := cfgF_tableLoaded (markStarted s cmd.seq) cmd
      refine ⟨number.trans (Nat.mod_eq_of_lt (by omega)), sensor, fun i hi => ?_, fun o ho hi => ?_⟩
      · rw [cfgGet_tableLoaded_point _ _ hi, words]
        rfl
      · rw [cfgGet_tableLoaded_other _ _ ho hi, regs]
  case control =>
    intro s m hs hd
    have acts := exec_speedControl_acts hs hd rfl rfl rfl
    have lo : (rampDuty s m.val : Int) ≤ pwmPer s m.val := Int.ofNat_le.mpr (rampDuty_le s m.val)
    refine ⟨rampDuty_le s m.val, fun h1 h2 => ?_, fun h => ?_, fun h => ?_⟩
    · rw [acts, min_eq_left h2, max_eq_right h1, if_pos rfl]
    · rw [acts, min_eq_left (h.le.trans lo), max_eq_left h.le, if_neg (ne_of_gt h), Int.toNat_natCast]
    · rw [acts, min_eq_right h.le, max_eq_right lo, if_neg (ne_of_lt h), Int.toNat_natCast]
  case ramp =>
    intro s m
    refine ⟨fun ha => if_pos ha, fun ha hr => ?_, fun ha hr => ?_⟩
    · exact (if_neg ha).trans (if_pos hr)
    · exact (if_neg ha).trans (if_neg (Nat.not_lt.mpr hr))
  case follow =>
    intro s m hp
    refine ⟨fun hl => motorFollow_lockout hl, motorFollow_stops hp, fun hs ht hd => ?_, fun hs ht hd => ?_⟩
    · rw [motorFollow_starts hp hs ht]
      exact motorStart_ramp _ _ _ (by rwa [motorDrive_appliedKept])
    · rw [motorFollow_starts hp hs ht]
      exact motorStart_gates _ _ _ (by rwa [motorDrive_appliedKept])

end Sys2Proof.Machine
end

section
/-! PROOFS. What happens to a channel that runs (R318 to R326, R332 to R337): reloads, edges, commutations and teeth, ramps and stalls,
blanking, the faults and the release of LOCKOUT; the interval that a tooth records and the speed reported. -/

namespace Sys2Proof.Machine

/-! ### Faults (R332 to R337) -/

section
variable (s : State) (m : Nat)

/-- A channel that is locked out: its gates off, and nothing of its faults changed but the list of desaturations. -/
theorem getMotor_motorLockout : ∃ d f, getMotor (motorLockout s m) m =
    { gatesOff (getMotor s m) with st := .lockout, desatTimes := d, firstJudged := f } := by
  unfold motorLockout
  split
  · rename_i h
    refine ⟨(getMotor s m).desatTimes, (getMotor s m).firstJudged, ?_⟩
    rw [getMotor_modMotor, if_pos rfl, ← h]
    rfl
  · refine ⟨[], none, ?_⟩
    dsimp only
    simp

theorem st_motorLockout : (getMotor (motorLockout s m) m).st = .lockout := by
  obtain ⟨d, f, h⟩ := getMotor_motorLockout s m
  rw [h]

theorem drive_motorLockout : (getMotor (motorLockout s m) m).drive = false := by
  obtain ⟨d, f, h⟩ := getMotor_motorLockout s m
  rw [h]
  rfl

/-- A channel in LOCKOUT is recorded no second time. -/
theorem slog_motorLockout {s : State} {m : Nat} (h : (getMotor s m).st = .lockout) : (motorLockout s m).slog = s.slog := by
  rw [motorLockout, if_pos h]
  rfl

/-- Gates that are not driven are off. -/
theorem gateLeg_off {s : State} {m : Nat} (h : (getMotor s m).drive = false) (leg c : Nat) : gateLeg s m leg c = (false, false) :=
  if_pos (by rw [h]; rfl)

end

/-! ### Desaturation (R335, R336) -/

/-- Bits set in turn. -/
theorem testBit_foldl_setBits (l : List Nat) (k : Nat) : ∀ b : Nat,
    (l.foldl (fun b k => b ||| 2 ^ k) b).testBit k = (b.testBit k || l.contains k) := by
  induction l with
  | nil => simp
  | cons j l ih =>
    intro b
    rw [List.foldl_cons, ih, Nat.testBit_or, Nat.testBit_two_pow, List.contains_cons, Bool.or_assoc]
    congr 2
    rw [beq_eq_decide]
    exact decide_eq_decide.mpr eq_comm

/-- Legs judged at once, or the last one judged not long before on another leg: a fault between phases. -/
def betweenPhases (x : Motor) (t : Nat) (leg : Nat) (legs : List Nat) : Prop :=
  2 ≤ (leg :: legs).eraseDups.length ∨ ∃ t0 l0, x.firstJudged = some (t0, l0) ∧ t ≤ t0 + 8 ∧ l0 ≠ leg

section
variable {s : State} {m t leg : Nat} {legs : List Nat}

/-- A fault between phases locks the channel out, with PHASE_PHASE and the DESAT bits of every leg concerned. -/
theorem desatEvent_betweenPhases (h : betweenPhases (getMotor s m) t leg legs) : ∃ bits,
    desatEvent s m t (leg :: legs) = motorLockout (modMotor (setMotor s m { getMotor s m with
      desat := bits, firstJudged := some (t, leg) }) m (fun x => { x with phasePhase := true })) m
    ∧ (∀ l ∈ leg :: legs, bits.testBit l = true)
    ∧ (∀ t0 l0, (getMotor s m).firstJudged = some (t0, l0) → t ≤ t0 + 8 → bits.testBit l0 = true) := by
  have own (l : Nat) (hl : l ∈ leg :: legs) :
      ((leg :: legs).foldl (fun b k => b ||| 2 ^ k) (getMotor s m).desat).testBit l = true := by
    rw [testBit_foldl_setBits, List.contains_iff_mem.mpr hl, Bool.or_true]
  unfold desatEvent
  cases hj : (getMotor s m).firstJudged with
  | none =>
    have two : decide (2 ≤ (leg :: legs).eraseDups.length) = true := by
      rcases h with h | ⟨t0, l0, h, -⟩
      · exact decide_eq_true h
      · rw [hj] at h
        cases h
    dsimp only
    rw [hj, two]
    exact ⟨_, rfl, own, fun _ _ h => by cases h⟩
  | some j =>
    obtain ⟨t0, l0⟩ := j
    have pair : (decide (2 ≤ (leg :: legs).eraseDups.length) || decide (t ≤ t0 + 8 ∧ l0 ≠ leg)) = true := by
      rw [Bool.or_eq_true, decide_eq_true_eq, decide_eq_true_eq]
      refine h.imp_right ?_
      rintro ⟨t1, l1, h, near⟩
      obtain ⟨rfl, rfl⟩ := Prod.mk.inj (Option.some.inj (hj.symm.trans h))
      exact near
    dsimp only
    rw [hj]
    dsimp only
    rw [pair]
    refine ⟨_, rfl, fun l hl => ?_, fun t1 l1 h ht => ?_⟩
    · simp only [if_true]
      split
      · rw [Nat.testBit_or, own l hl, Bool.true_or]
      · exact own l hl
    · obtain ⟨rfl, rfl⟩ := Prod.mk.inj (Option.some.inj h)
      rw [if_pos rfl, if_pos ht, Nat.testBit_or, Nat.testBit_two_pow_self, Bool.or_true]

/-- What such a fault leaves of the channel. -/
theorem betweenPhases_locksOut (h : betweenPhases (getMotor s m) t leg legs) :
    (getMotor (desatEvent s m t (leg :: legs)) m).phasePhase = true
    ∧ (getMotor (desatEvent s m t (leg :: legs)) m).st = .lockout
    ∧ (getMotor (desatEvent s m t (leg :: legs)) m).drive = false
    ∧ (∀ l ∈ leg :: legs, (getMotor (desatEvent s m t (leg :: legs)) m).desat.testBit l = true)
    ∧ (∀ t0 l0, (getMotor s m).firstJudged = some (t0, l0) → t ≤ t0 + 8 →
      (getMotor (desatEvent s m t (leg :: legs)) m).desat.testBit l0 = true) := by
  obtain ⟨bits, hb, own, first⟩ := desatEvent_betweenPhases h
  obtain ⟨d, f, hl⟩ := getMotor_motorLockout (modMotor (setMotor s m { getMotor s m with
    desat := bits, firstJudged := some (t, leg) }) m (fun x => { x with phasePhase := true })) m
  rw [hb, hl]
  simp only [getMotor_modMotor, getMotor_setMotor, if_true]
  exact ⟨rfl, trivial, rfl, own, first⟩

/-- Two legs that differ are more than one. -/
theorem two_le_eraseDups_length {α : Type} [BEq α] [LawfulBEq α] {l : List α} {a b : α} (ha : a ∈ l) (hb : b ∈ l) (h : a ≠ b) :
    2 ≤ l.eraseDups.length := by
  have ha' : a ∈ l.eraseDups := List.mem_eraseDups.mpr ha
  have hb' : b ∈ l.eraseDups := List.mem_eraseDups.mpr hb
  match hl : l.eraseDups with
  | [] => rw [hl] at ha'; cases ha'
  | [x] =>
    rw [hl, List.mem_singleton] at ha' hb'
    exact absurd (ha'.trans hb'.symm) h
  | _ :: _ :: _ => simp

/-- More than one leg: some other than the first. -/
theorem exists_ne_of_two_le {α : Type} [BEq α] [LawfulBEq α] {a : α} {l : List α} (h : 2 ≤ (a :: l).eraseDups.length) :
    ∃ b ∈ l, a ≠ b := by
  by_contra hn
  push Not at hn
  have : (a :: l).eraseDups.length ≤ 1 := by
    rw [List.eraseDups_cons]
    have : l.filter (fun b => !b == a) = [] := by
      rw [List.filter_eq_nil_iff]
      intro b hb
      simp [hn b hb]
    simp [this]
  omega

/-- Desaturation on one leg of a channel that runs, with none judged before: it counts, restarts, and the third in 10 s locks out. -/
theorem desatEvent_one (a : Nat) (hs : (getMotor s m).st = .running) (hj : (getMotor s m).firstJudged = none) :
    let n := ((getMotor s m).desatTimes.filter (fun y => t ≤ y + 2000000000)).length
    (n < 2 → (getMotor (desatEvent s m t [a]) m).st = .restart
      ∧ (getMotor (desatEvent s m t [a]) m).desats = min ((getMotor s m).desats + 1) 255)
    ∧ (2 ≤ n → (getMotor (desatEvent s m t [a]) m).st = .lockout) := by
  have one : [a].eraseDups.length = 1 := rfl
  refine ⟨fun hn => ?_, fun hn => ?_⟩
  · have few := Nat.not_le.mpr hn
    simp [desatEvent, one, hj, hs, few, motorRestart, gatesOff, satN]
  · simp [desatEvent, one, hj, hs, hn, st_motorLockout]

end

/-- Settles O60: OC_HARD ends in a lockout, and so do two legs judged at once or in turn. -/
theorem lockoutFaults : Obligations.LockoutFaults := by
  refine ⟨fun s m => ⟨_, rfl, ?ocHard, st_motorLockout _ _, gateLeg_off (drive_motorLockout _ _)⟩, ?legs, ?second⟩
  case ocHard =>
    obtain ⟨d, f, h⟩ := getMotor_motorLockout (modMotor s m.val (fun x => { x with hardIn := true, ocHard := true })) m.val
    rw [if_pos rfl, h]
    simp [gatesOff]
  case legs =>
    intro s m t legs h
    match legs, h with
    | a :: l, h =>
      obtain ⟨b, hb, hab⟩ := exists_ne_of_two_le h
      have two : betweenPhases (getMotor (modMotor s m.val (fun x => { x with desatIn := decide (a :: l ≠ []) })) m.val) t a.val
          (l.map (·.val)) :=
        .inl (two_le_eraseDups_length (List.mem_cons_self) (List.mem_cons_of_mem _ (List.mem_map_of_mem hb))
          (fun e => hab (Fin.ext e)))
      obtain ⟨hp, hs, hd, own, -⟩ := betweenPhases_locksOut two
      exact ⟨_, rfl, hp, hs, fun k hk => own k.val (List.mem_map_of_mem (f := Fin.val) hk), gateLeg_off hd⟩
  case second =>
    intro s m t t0 l l0 hj h0 ht hl
    have judged : (getMotor (modMotor s m.val (fun x => { x with desatIn := decide ([l] ≠ []) })) m.val).firstJudged
        = some (t0, l0.val) := by
      rw [getMotor_modMotor, if_pos rfl]
      exact hj
    obtain ⟨hp, hs, hd, own, first⟩ := betweenPhases_locksOut (leg := l.val) (legs := [])
      (.inr ⟨t0, l0.val, judged, ht, fun e => hl (Fin.ext e.symm)⟩)
    exact ⟨_, rfl, hp, hs, own l.val List.mem_cons_self, first t0 l0.val judged ht, gateLeg_off hd⟩

/-! ### The interval of a tooth, and the speed (R322, R324) -/

/-- What the speed of a channel comes from. -/
def timing (x : Motor) : List Nat × Nat := (x.intervals, x.tp)

section
variable (s : State) (m : Nat)

theorem timing_commutate (k : Nat) : timing (getMotor (commutate s m k) m) = timing (getMotor s m) := by
  simp [commutate, timing]

/-- The commutation that a tooth causes leaves the timing. -/
theorem timing_toothCommutes (time now : Nat) (synthetic : Bool) :
    timing (getMotor (toothCommutes s m time now synthetic) m) = timing (getMotor s m) := by
  unfold toothCommutes
  dsimp only
  split
  · split
    · exact timing_commutate s m _
    · simp [timing]
  · split
    · exact timing_commutate s m _
    · obtain ⟨n, hn⟩ := getMotor_applyHall s m (getMotor s m).lastHall
      rw [hn m, if_pos rfl]
      rfl

/-- So does the start of RUNNING. -/
theorem timing_enterRunning : timing (getMotor (enterRunning s m) m) = timing (getMotor s m) := by
  simp [enterRunning, timing]

theorem timing_rampEnds : timing (getMotor (if (getMotor s m).st = .ramp ∧ 6 ≤ (getMotor s m).good then enterRunning s m else s) m)
    = timing (getMotor s m) := by
  split
  · exact timing_enterRunning s m
  · rfl

theorem getMotor_countTooth (k : Nat) : getMotor (countTooth s m) k = getMotor s k := by
  unfold countTooth
  dsimp only
  split <;> rfl

/-- A tooth records its interval. -/
theorem timing_tooth (time iv now : Nat) (synthetic : Bool) :
    timing (getMotor (tooth s m time iv now synthetic) m) = timing (recordInterval (getMotor s m) iv) := by
  unfold tooth
  rw [timing_toothCommutes, timing_rampEnds, getMotor_modMotor, if_pos rfl, getMotor_countTooth]
  rfl

end

/-- With five intervals before, the mean is that of six. -/
theorem timing_recordInterval {x : Motor} (h : 5 ≤ x.intervals.length) (iv : Nat) :
    timing (recordInterval x iv) = (iv :: x.intervals.take 5, (iv + (x.intervals.take 5).sum) / 6) := by
  have six : (iv :: x.intervals.take 5).length = 6 := by
    rw [List.length_cons, List.length_take]
    omega
  have total : (iv :: x.intervals.take 5).foldl (· + ·) 0 = iv + (x.intervals.take 5).sum := by
    rw [← List.sum_eq_foldl, List.sum_cons]
  simp only [timing, recordInterval, List.take_succ_cons, six, total]

/-- Settles O59: a tooth records its interval before it commutates, and the speed reads the mean. -/
theorem motorSpeedReported : Obligations.MotorSpeedReported := by
  refine ⟨fun s m time iv now synthetic h => ?_, fun s m hs ha hz => ?_, fun s m h => ?_⟩
  · obtain ⟨hi, ht⟩ := Prod.mk.inj ((timing_tooth s m time iv now synthetic).trans (timing_recordInterval h iv))
    exact ⟨ht, hi⟩
  · obtain ⟨htp, hpp⟩ := Nat.mul_ne_zero_iff.mp hz
    exact if_pos ⟨hs, ha, htp, hpp⟩
  · refine if_neg ?_
    rintro ⟨hs, ha, -, -⟩
    rcases h with h | h | h | h
    · simp [h] at hs
    · simp [h] at hs
    · simp [h] at hs
    · rw [h] at ha
      cases ha

end Sys2Proof.Machine
end

section
/-! PROOFS. The rows of the motor channels' events (R318 to R326, R332 to R337), each by what is due and what is not. -/

namespace Sys2Proof.Machine

/-! ### Reloads (R318, R342) -/

section
variable {s : State} {m : Nat}

/-- The channel at its reload: followed, its duty copied or the ramp's, and a soft hold ended. -/
def reloaded (s : State) (m : Nat) : State :=
  modMotor (motorFollow (liveTaken s m) m) m (fun x => { x with
    dutyActive := if x.st = .ramp then rampDuty s m else min x.duty (pwmPer s m), softHeld := false })

/-- A reload of what a channel follows, in the registers of that state. -/
def reloadAt (w : State) (m : Nat) : State :=
  modMotor w m (fun x => { x with
    dutyActive := if x.st = .ramp then rampDuty w m else min x.duty (pwmPer w m), softHeld := false })

theorem pwmReload_reloadAt (h : s.crd.phase = .running) : pwmReload m s =
    if (getMotor (reloadAt (motorFollow (liveTaken s m) m) m) m).drive = true
      ∧ (!sixStep (reloadAt (motorFollow (liveTaken s m) m) m) m) = true
    then gatesLoad (reloadAt (motorFollow (liveTaken s m) m) m) m
    else reloadAt (motorFollow (liveTaken s m) m) m := if_neg (not_not.mpr h)

/-- A reload while the steward runs; gates driven by hand take GATE_MAN. -/
theorem pwmReload_running (h : s.crd.phase = .running) : pwmReload m s =
    if (getMotor (motorFollow (liveTaken s m) m) m).drive = true ∧ motorDrive s m = 2 then gatesLoad (reloaded s m) m
    else reloaded s m := by
  have regs : (motorFollow (liveTaken s m) m).regs = s.regs := (motorFrame_motorFollow (liveTaken s m) m).regs
  obtain ⟨hd, hp, hr, -⟩ := motorConfig_congr m regs
  have same : reloadAt (motorFollow (liveTaken s m) m) m = reloaded s m := by
    rw [reloadAt, hp, hr]
    rfl
  have drive : (getMotor (reloaded s m) m).drive = (getMotor (motorFollow (liveTaken s m) m) m).drive := by
    simp [reloaded]
  have hand : motorDrive (reloaded s m) m = motorDrive s m := hd
  rw [pwmReload_reloadAt h, same, drive, sixStep, hand]
  simp only [ne_eq, decide_not, Bool.not_not, decide_eq_true_eq]

end

/-! ### Edges and teeth (R322, R323, R325) -/

section
variable {s : State} {m t : Nat}

/-- An edge before a quarter of T_P is noise. -/
theorem judgeEdge_soon (h : t < (getMotor s m).last + (getMotor s m).tp / 4) : judgeEdge s m t = noiseAt s m := by
  unfold judgeEdge
  simp only [h, decide_true, Bool.true_or, if_true]

/-- A later one with no commutation pending is a tooth. -/
theorem judgeEdge_free (h : (getMotor s m).last + (getMotor s m).tp / 4 ≤ t) (hp : (getMotor s m).pendingComm = none) :
    judgeEdge s m t = tooth s m t (t - (getMotor s m).last) t false := by
  simp [judgeEdge, firePending, hp, Nat.not_lt.mpr h]

/-- With one pending, an edge in the last tenth of its window is noise. -/
theorem judgeEdge_late {due k : Nat} (hp : (getMotor s m).pendingComm = some (due, k)) (ht : t < due)
    (hw : due - t < (due - (getMotor s m).last) / 10) : judgeEdge s m t = noiseAt s m := by
  simp [judgeEdge, hp, ht, hw]

/-- Any other fires it and is a tooth. -/
theorem judgeEdge_fires {due k : Nat} (h : (getMotor s m).last + (getMotor s m).tp / 4 ≤ t)
    (hp : (getMotor s m).pendingComm = some (due, k)) (hw : due ≤ t ∨ (due - (getMotor s m).last) / 10 ≤ due - t) :
    judgeEdge s m t = tooth (commutate s m k) m t (t - (getMotor s m).last) t false := by
  have inside : ¬ (t < due ∧ due - t < (due - (getMotor s m).last) / 10) := by omega
  simp [judgeEdge, firePending, hp, Nat.not_lt.mpr h, inside]

/-- The window in which a crossing of the open loop counts. -/
def crossingInWindow (x : Motor) (t due : Nat) : Prop := x.last + x.tp / 4 ≤ t ∧ t < due ∧ (due - x.last) / 10 ≤ due - t

section
variable {due k : Nat} (hp : (getMotor s m).pendingComm = some (due, k))
include hp

theorem openCrossing_outside (h : ¬ crossingInWindow (getMotor s m) t due) :
    openCrossing s m t = setMotor s m { getMotor s m with good := 0 } := by
  unfold openCrossing
  simp only [hp]
  exact if_pos (by rw [Bool.not_eq_true', decide_eq_false_iff_not]; exact h)

theorem openCrossing_counts (h : crossingInWindow (getMotor s m) t due) (hg : (getMotor s m).good < 5) :
    openCrossing s m t = setMotor s m { getMotor s m with good := (getMotor s m).good + 1 } := by
  unfold openCrossing
  simp only [hp]
  exact (if_neg (by simpa [crossingInWindow] using h)).trans (if_pos hg)

theorem openCrossing_sixth (h : crossingInWindow (getMotor s m) t due) (hg : 5 ≤ (getMotor s m).good) :
    openCrossing s m t = tooth (setMotor s m { getMotor s m with
      pendingComm := none, intervals := List.replicate 5 (getMotor s m).tp, good := 6 }) m t (getMotor s m).tp t false := by
  unfold openCrossing
  simp only [hp]
  exact (if_neg (by simpa [crossingInWindow] using h)).trans (if_neg (Nat.not_lt.mpr hg))

end

/-- A change of a Hall code, the channel with its new code. -/
def hallSeen (s : State) (m h : Nat) : State := setMotor s m { getMotor s m with lastHall := h }

/-- The channel after a Hall code that names no step. -/
def hallInvalid (s : State) (m h : Nat) : State :=
  noiseAt (modMotor (hallSeen s m h) m (fun x => { x with hallInvalid := true })) m

/-- Two steps that each change the motors alone. -/
theorem motorsOnly_trans {s t u : State} (h1 : t = { s with motors := t.motors }) (h2 : u = { t with motors := u.motors }) :
    u = { s with motors := u.motors } :=
  h2.trans (by rw [h1])

theorem hallInvalid_frame (s : State) (m h : Nat) : hallInvalid s m h = { s with motors := (hallInvalid s m h).motors } := by
  have seen : hallSeen s m h = { s with motors := (hallSeen s m h).motors } := rfl
  generalize hu : hallSeen s m h = u at seen
  have flagged : modMotor u m (fun x => { x with hallInvalid := true })
      = { u with motors := (modMotor u m (fun x => { x with hallInvalid := true })).motors } := rfl
  rw [hallInvalid, hu]
  generalize modMotor u m (fun x => { x with hallInvalid := true }) = v at flagged
  have noisy : noiseAt v m = { v with motors := (noiseAt v m).motors } := rfl
  exact motorsOnly_trans (motorsOnly_trans seen flagged) noisy

theorem getMotor_hallInvalid (s : State) (m h : Nat) :
    getMotor (hallInvalid s m h) m =
      { getMotor s m with lastHall := h, hallInvalid := true, noise := min ((getMotor s m).noise + 1) 255 } := by
  rw [hallInvalid, noiseAt, getMotor_modMotor, if_pos rfl, getMotor_modMotor, if_pos rfl, hallSeen, getMotor_setMotor, if_pos rfl]
  rfl

section
variable {h : Nat} (hs : sensorless s m = false)
include hs

theorem positionEdge_same (hh : h = (getMotor s m).lastHall) : positionEdge m t h s = s := by
  simp [positionEdge, hs, hh]

theorem positionEdge_invalid (hn : h ≠ (getMotor s m).lastHall) (hi : h = 0 ∨ h = 7) : positionEdge m t h s =
    hallInvalid s m h := by
  simp [positionEdge, hs, hn, hi, hallInvalid, hallSeen]

theorem positionEdge_judged (hn : h ≠ (getMotor s m).lastHall) (h0 : h ≠ 0) (h7 : h ≠ 7)
    (hr : (getMotor s m).st = .ramp ∨ (getMotor s m).st = .running) (hd : motorDrive s m ≠ 2) :
    positionEdge m t h s = judgeEdge (hallSeen s m h) m t := by
  have six : sixStep (setMotor s m { getMotor s m with lastHall := h }) m = true := decide_eq_true hd
  simp [positionEdge, hs, hn, h0, h7, hr, six, hallSeen]

theorem positionEdge_idle (hn : h ≠ (getMotor s m).lastHall) (h0 : h ≠ 0) (h7 : h ≠ 7)
    (hr : (getMotor s m).st ≠ .ramp ∧ (getMotor s m).st ≠ .running ∨ motorDrive s m = 2) :
    positionEdge m t h s = hallSeen s m h := by
  have six : sixStep (setMotor s m { getMotor s m with lastHall := h }) m = decide (motorDrive s m ≠ 2) := rfl
  simp only [positionEdge, hs, hn, h0, h7, six, hallSeen]
  rcases hr with ⟨h1, h2⟩ | h
  · simp [h1, h2]
  · simp [h]

end

section
variable {h : Nat} (hs : sensorless s m = true)
include hs

theorem positionEdge_openLoop (hr : (getMotor s m).st = .ramp) (ha : (getMotor s m).aligning = false) :
    positionEdge m t h s = openCrossing s m t := by
  simp [positionEdge, hs, hr, ha]

theorem positionEdge_crossing (hr : (getMotor s m).st = .running) (hd : motorDrive s m ≠ 2) :
    positionEdge m t h s = judgeEdge s m t := by
  simp [positionEdge, hs, hr, sixStep, hd]

theorem positionEdge_unwatched (hr : (getMotor s m).st = .ramp ∧ (getMotor s m).aligning = true
      ∨ (getMotor s m).st = .running ∧ motorDrive s m = 2
      ∨ (getMotor s m).st ≠ .ramp ∧ (getMotor s m).st ≠ .running) : positionEdge m t h s = s := by
  rcases hr with ⟨hr, ha⟩ | ⟨hr, hd⟩ | ⟨h1, h2⟩
  · simp [positionEdge, hs, hr, ha]
  · simp [positionEdge, hs, hr, sixStep, hd]
  · simp [positionEdge, hs, h1, h2]

end
end

/-! ### Commutations and synthetic teeth (R322, R325, R326) -/

section
variable {s : State} {m : Fin 8} {t : PclkTime}

theorem firePending_pending {n due k : Nat} (h : (getMotor s n).pendingComm = some (due, k)) : firePending s n = commutate s n k := by
  rw [firePending, h]

theorem exec_commutationDue_none (h : (getMotor s m.val).pendingComm = none) :
    exec (.commutationDue m t) s = .next (settle s) := by
  simp [exec, execCommutationDue, done, h]

/-- A pending commutation of a channel in RUNNING without sensors fires once due. -/
theorem exec_commutationDue_pending {due k : Nat} (h : (getMotor s m.val).pendingComm = some (due, k)) :
    exec (.commutationDue m t) s = .next (settle
      (if (getMotor s m.val).st = .running ∧ sensorless s m.val = true ∧ due ≤ t then commutate s m.val k else s)) := by
  simp [exec, execCommutationDue, done, h, firePending_pending h]

end

/-- When a synthetic tooth is due: at 150 % of T_P without an edge. -/
def synthDue (s : State) (m t : Nat) : Prop :=
  ((getMotor s m).st = .running ∨ (getMotor s m).st = .ramp ∧ sensorless s m = false) ∧ motorDrive s m ≠ 2
    ∧ (getMotor s m).tp ≠ 0 ∧ (getMotor s m).last + (getMotor s m).tp * 3 / 2 ≤ t

/-- The synthetic tooth, of T_P behind the last one, in a state u that has fired what was due. -/
def synthMade (s : State) (m t : Nat) (u : State) : State :=
  tooth (modMotor u m (fun y => { y with synth := y.synth + 1, synths := min (y.synths + 1) 255 })) m
    ((getMotor s m).last + (getMotor s m).tp) (getMotor s m).tp t true

section
variable {s : State} {m t : Nat}

theorem synthDue_iff : synthDue s m t ↔
    ((getMotor s m).st = .running ∨ ((getMotor s m).st = .ramp ∧ (!sensorless s m) = true)) ∧ sixStep s m = true
      ∧ (getMotor s m).tp ≠ 0 ∧ (getMotor s m).last + (getMotor s m).tp * 3 / 2 ≤ t := by
  unfold synthDue sixStep
  simp only [Bool.not_eq_true', decide_eq_true_eq]

theorem syntheticTooth_not (h : ¬ synthDue s m t) : syntheticTooth m t s = s := if_neg (fun hd => h (synthDue_iff.mpr hd))

theorem syntheticTooth_stalls (h : synthDue s m t) (h2 : (getMotor s m).synth = 2) : syntheticTooth m t s = motorStall s m t :=
  (if_pos (synthDue_iff.mp h)).trans (if_pos h2)

theorem syntheticTooth_free (h : synthDue s m t) (h2 : (getMotor s m).synth ≠ 2) (hp : (getMotor s m).pendingComm = none) :
    syntheticTooth m t s = synthMade s m t s := by
  refine (if_pos (synthDue_iff.mp h)).trans ((if_neg h2).trans ?_)
  rw [hp]
  rfl

/-- A commutation that is due by then fires first. -/
theorem syntheticTooth_pending {due k : Nat} (h : synthDue s m t) (h2 : (getMotor s m).synth ≠ 2)
    (hp : (getMotor s m).pendingComm = some (due, k)) :
    syntheticTooth m t s = synthMade s m t (if due ≤ t then commutate s m k else s) := by
  refine (if_pos (synthDue_iff.mp h)).trans ((if_neg h2).trans ?_)
  rw [hp, firePending_pending hp]
  rfl

end

/-! ### Ramps and stalls (R325, R326) -/

theorem getMotor_motorStall (s : State) (m t : Nat) : getMotor (motorStall s m t) m = { gatesOff (getMotor s m) with
    st := .restart, stall := true, stalls := min ((getMotor s m).stalls + 1) 255, pauseStart := t } := by
  rw [motorStall, motorRestart, getMotor_modMotor, if_pos rfl, getMotor_modMotor, if_pos rfl]
  rfl

section
variable {s : State} {m : Fin 8} {t : PclkTime}

theorem exec_alignEnd : exec (.alignEnd m t) s = .next (settle
    (if (getMotor s m.val).st = .ramp ∧ (getMotor s m.val).aligning = true
        ∧ (getMotor s m.val).rampStart + alignCycles s m.val ≤ t
      then openSchedule (setMotor s m.val { getMotor s m.val with aligning := false, rampStart := t, good := 0 }) m.val t
      else s)) := rfl

theorem exec_stallPauseEnd {h : Fin 8} : exec (.stallPauseEnd m t h) s = .next (settle
    (if (getMotor s m.val).st = .restart ∧ (getMotor s m.val).pauseStart + pauseCycles s m.val ≤ t then
      if runTarget (setMotor s m.val { getMotor s m.val with lastHall := h.val }) m.val = 0
      then motorStop (setMotor s m.val { getMotor s m.val with lastHall := h.val }) m.val
      else motorStart (setMotor s m.val { getMotor s m.val with lastHall := h.val }) m.val t
    else s)) := rfl

theorem exec_openLoopStep_none (h : (getMotor s m.val).pendingComm = none) :
    exec (.openLoopStep m t) s = .next (settle s) := by
  simp [exec, execOpenLoopStep, done, h]

theorem exec_openLoopStep_pending {due k : Nat} (h : (getMotor s m.val).pendingComm = some (due, k)) :
    exec (.openLoopStep m t) s = .next (settle
      (if (getMotor s m.val).st = .ramp ∧ sensorless s m.val = true ∧ (getMotor s m.val).aligning = false ∧ due ≤ t
        then openSchedule (commutate s m.val k) m.val due else s)) := by
  simp [exec, execOpenLoopStep, done, h, firePending_pending h]

theorem exec_rampTimeout : exec (.rampTimeout m) s = .next (settle
    (if (getMotor s m.val).st = .ramp ∧ sensorless s m.val = true ∧ (getMotor s m.val).aligning = false
        ∧ (getMotor s m.val).rampStart + rampCycles s m.val ≤ 200 * s.tick
      then motorStall s m.val (200 * s.tick) else s)) := by
  simp [exec, execRampTimeout, done, pclkNow, Nat.mul_comm]

end

/-! ### Blanking and MC_CLEAR (R332, R337) -/

/-- A soft event that is discarded counts as one. -/
theorem b2n_discarded (soft still : Bool) : b2n (soft && !still) = if soft = true ∧ still = false then 1 else 0 := by
  cases soft <;> cases still <;> rfl

/-- The latched legs and the latched soft event whose blanking ends: judged where still asserted, else discarded and counted. -/
theorem blankingEnd_judges (s : State) (m t : Nat) (ended still : List (Fin 3)) (softEnded softStill : Bool) :
    let es := ended.map (·.val)
    let mine := (getMotor s m).latchedLegs.filter es.contains
    let judged := mine.filter (still.map (·.val)).contains
    let soft := (getMotor s m).latchedSoft && softEnded
    let u := setMotor s m { getMotor s m with
      latchedLegs := (getMotor s m).latchedLegs.filter (fun l => !es.contains l),
      latchedSoft := (getMotor s m).latchedSoft && !softEnded,
      desatIn := if ended = [] then (getMotor s m).desatIn else decide (still ≠ []) }
    let gone := mine.length - judged.length + (if soft = true ∧ softStill = false then 1 else 0)
    let v := if gone = 0 then u else count (modMotor u m (fun y => { y with blankedSeen := true })) (272 + 2 * m) {} gone
    let w := if soft = true ∧ softStill = true then softEvent v m else v
    blankingEnd m t es (still.map (·.val)) softEnded softStill s = desatEvent w m t judged := by
  unfold blankingEnd discard
  simp only [b2n_discarded, Bool.and_eq_true, ne_eq, List.map_eq_nil_iff]

theorem mcClearWrite_wrongKey {s : State} {v : Word} (h : bf v 7 0 ≠ 0x6D) : mcClearWrite s v = setBusy s 9 := by
  rw [mcClearWrite, mcClearWord, if_neg h]
  rfl

theorem mcClearWrite_key {s : State} {v : Word} (h : bf v 7 0 = 0x6D) : mcClearWrite s v =
    if (clearLockouts s (bf v 15 8)).2 then setBusy (clearLockouts s (bf v 15 8)).1 9 else (clearLockouts s (bf v 15 8)).1 := by
  rw [mcClearWrite, mcClearWord, if_pos h]

theorem exec_mcClear_not {s : State} (v : Word) (h : hostMay s 0 = false) : exec (.mcClear v) s = .next (settle s) := by
  refine congrArg done ?_
  rw [hostWrites, h]
  rfl

/-- Settles O51: clause by clause, each event by what is due and what is not. -/
theorem motorEvents : Obligations.MotorEvents := by
  refine ⟨?reload, fun s m h => congrArg done (if_pos h), ?live, ?hall, ?crossing, ?judge, ?openLoop, ?due, ?synthetic, ?stall,
    ?align, ?step, ?timeout, ?pause, fun s m => ⟨rfl, rfl, rfl, rfl⟩,
    fun s m => ⟨st_motorLockout s m, slog_motorLockout, drive_motorLockout s m⟩, ?blanking, fun s m t legs => ⟨rfl, rfl⟩,
    fun s m t a _ hs hj => desatEvent_one a hs hj, ?two, ?wrongKey, ?key, fun s v h => exec_mcClear_not v h⟩
  case reload =>
    intro s m h
    have eq := pwmReload_running (m := m.val) h
    refine ⟨fun hd => congrArg done (eq.trans (if_neg fun h => hd h.2)), fun hd => congrArg done (eq.trans ?_)⟩
    simp only [hd, and_true]
    rfl
  case live =>
    intro s m
    refine ⟨?_, fun k hk => ?_, ?_⟩
    · rw [liveTaken, getMotor_modMotor, if_pos rfl]
    · rw [liveTaken, getMotor_modMotor, if_neg hk]
    · rw [getMotor_gatesLoad, if_pos rfl]
  case hall =>
    intro s m t h hs
    refine ⟨fun hh => congrArg done (positionEdge_same hs hh), fun hn hi => ?_,
      fun hn h0 h7 hr hd => congrArg done (positionEdge_judged hs hn h0 h7 hr hd),
      fun hn h0 h7 hr => congrArg done (positionEdge_idle hs hn h0 h7 hr)⟩
    exact ⟨_, congrArg done (positionEdge_invalid hs hn hi), getMotor_hallInvalid s m.val h.val, hallInvalid_frame s m.val h.val⟩
  case crossing =>
    exact fun s m t h hs => ⟨fun hr ha => congrArg done (positionEdge_openLoop hs hr ha),
      fun hr hd => congrArg done (positionEdge_crossing hs hr hd), fun hr => congrArg done (positionEdge_unwatched hs hr)⟩
  case judge =>
    exact fun s m t => ⟨judgeEdge_soon, judgeEdge_free,
      fun due k h hp => ⟨fun ht hw => judgeEdge_late hp ht hw, fun hw => judgeEdge_fires h hp hw⟩, rfl⟩
  case openLoop =>
    intro s m t due k x hp
    refine ⟨fun h => openCrossing_outside hp ?_, fun h1 h2 h3 => openCrossing_counts hp ⟨h1, h2, h3⟩,
      fun h1 h2 h3 => openCrossing_sixth hp ⟨h1, h2, h3⟩⟩
    rintro ⟨h1, h2, h3⟩
    exact h.elim (Nat.not_lt.mpr h1) (fun h => h.elim (Nat.not_le.mpr h2) (Nat.not_lt.mpr h3))
  case due =>
    intro s m t
    refine ⟨fun due k hp hr hs hd => ?_, fun due k hp h => ?_, exec_commutationDue_none⟩
    · rw [exec_commutationDue_pending hp, if_pos ⟨hr, hs, hd⟩]
      rfl
    · rw [exec_commutationDue_pending hp, if_neg]
      rintro ⟨hr, hs, hd⟩
      simp [hr, hs, Nat.not_lt.mpr hd] at h
  case synthetic =>
    intro s m t
    refine ⟨fun h => congrArg done (syntheticTooth_not h), fun h h2 => congrArg done (syntheticTooth_stalls h h2),
      fun h h2 hp => congrArg done (syntheticTooth_free h h2 hp), fun due k h h2 hp => ?_⟩
    have eq := syntheticTooth_pending h h2 hp
    refine ⟨fun hd => congrArg done (eq.trans ?_), fun hd => congrArg done (eq.trans ?_)⟩
    · rw [if_pos hd]
      rfl
    · rw [if_neg (Nat.not_le.mpr hd)]
      rfl
  case stall =>
    intro s m t
    rw [getMotor_motorStall]
    exact ⟨rfl, rfl, rfl, rfl, rfl, rfl⟩
  case align =>
    refine fun s m t => ⟨fun hr ha hd => ?_, fun h => ?_⟩
    · rw [exec_alignEnd, if_pos ⟨hr, ha, hd⟩]
    · rw [exec_alignEnd, if_neg]
      rintro ⟨hr, ha, hd⟩
      simp [hr, ha, Nat.not_lt.mpr hd] at h
  case step =>
    intro s m t
    refine ⟨fun due k hp hr hs ha hd => ?_, fun due k hp h => ?_, exec_openLoopStep_none⟩
    · rw [exec_openLoopStep_pending hp, if_pos ⟨hr, hs, ha, hd⟩]
      rfl
    · rw [exec_openLoopStep_pending hp, if_neg]
      rintro ⟨hr, hs, ha, hd⟩
      simp [hr, hs, ha, Nat.not_lt.mpr hd] at h
  case timeout =>
    refine fun s m => ⟨fun hr hs ha hd => ?_, fun h => ?_⟩
    · rw [exec_rampTimeout, if_pos ⟨hr, hs, ha, hd⟩]
    · rw [exec_rampTimeout, if_neg]
      rintro ⟨hr, hs, ha, hd⟩
      simp [hr, hs, ha, Nat.not_lt.mpr hd] at h
  case pause =>
    refine fun s m t h => ⟨fun hr hd => ?_, fun hn => ?_⟩
    · rw [exec_stallPauseEnd, if_pos ⟨hr, hd⟩]
    · rw [exec_stallPauseEnd, if_neg]
      rintro ⟨hr, hd⟩
      simp [hr, Nat.not_lt.mpr hd] at hn
  case blanking =>
    intro s m t ended still softEnded softStill
    exact congrArg done (blankingEnd_judges s m.val t ended still softEnded softStill)
  case two =>
    intro s m t a b h
    obtain ⟨hp, hs, -⟩ := betweenPhases_locksOut (s := s) (m := m) (t := t) (leg := a) (legs := [b])
      (.inl (two_le_eraseDups_length List.mem_cons_self (List.mem_cons_of_mem _ List.mem_cons_self) h))
    exact ⟨hs, hp⟩
  case wrongKey =>
    intro s v h hk
    rw [exec_mcClear v h, mcClearWrite_wrongKey hk]
  case key =>
    intro s v h hk
    rw [exec_mcClear v h, mcClearWrite_key hk]

end Sys2Proof.Machine
end

section
/-! PROOFS. The controller ports (R345 to R347, R354 to R356, R358): transactions, lost arbitration and timeouts, bus clearing, the
pass-through, and the reads of the loop devices and of the charger. -/

namespace Sys2Proof.Machine

/-! ### Transactions (R345, R347, R358) -/

section
variable {s : State} {p : Nat} (r : TwResult) (d : List Byte)

/-- A port with no request due, or before the steward runs. -/
theorem twoWireTransaction_none (h : s.crd.phase ≠ .running ∨ nextReq s p = none) : twoWireTransaction p r d s = s := by
  have nothing : (if s.crd.phase = .running then nextReq s p else none) = none := by
    rcases h with h | h
    · exact if_neg h
    · rw [h, ite_self]
  unfold twoWireTransaction
  rw [nothing]

/-- A port's request that is due: by the state of the port, then by the outcome on the bus. -/
theorem twoWireTransaction_due {q : TwReq} (hr : s.crd.phase = .running) (hq : nextReq s p = some q) :
    twoWireTransaction p r d s =
    if portEn s p = false ∨ (getPort s p).st = 3 then reqFails (portErr s p 0xB) 0xB q
    else if (getPort s p).st ≠ 0 then s
    else if r = .ok then
      if d.length = reqReads s q then reqOk (modPort (reqSent s p q) p (fun x => { x with lastErr := 0, losses := 0 })) d q else s
    else reqFails (portErr (modPort (reqSent s p q) p (fun x => { x with losses := 0 })) p (twCode r)) (twCode r) q := by
  unfold twoWireTransaction
  rw [if_pos hr, hq]
  simp only [Bool.not_eq_true']

end

/-! ### Lost arbitration and timeouts (R354, R355) -/

section
variable {s : State} {p : Nat}

theorem running_some {q : TwReq} (hr : s.crd.phase = .running) (he : portEn s p = true) (hs : (getPort s p).st = 0)
    (hq : nextReq s p = some q) : running s p = some q := (if_pos ⟨hr, he, hs⟩).trans hq

theorem running_none (h : s.crd.phase ≠ .running ∨ portEn s p = false ∨ (getPort s p).st ≠ 0 ∨ nextReq s p = none) :
    running s p = none := by
  unfold running
  split
  · rename_i up
    obtain ⟨hr, he, hs⟩ := up
    simpa [hr, he, hs] using h
  · rfl

@[simp] theorem getPort_modPort (s : State) (p k : Nat) (f : Port → Port) :
    getPort (modPort s p f) k = if k = p then f (getPort s p) else getPort s k := getPort_setPort s p k _

theorem getPort_setpointWord (s : State) (n r : Nat) : getPort (setpointWord s n r).2 = getPort s := by
  unfold setpointWord
  dsimp only
  generalize voutWord _ _ = v
  split <;> rfl

/-- What a request sends does not touch the losses of its port. -/
theorem losses_reqSent (s : State) (p : Nat) (q : TwReq) : (getPort (reqSent s p q) p).losses = (getPort s p).losses := by
  cases q with
  | setpoint n r => simp [reqSent, getPort_setpointWord]
  | xfer =>
    unfold reqSent
    dsimp only
    split <;> simp
  | _ => simp [reqSent]

theorem losses_portErr (s : State) (p code : Nat) : (getPort (portErr s p code) p).losses = (getPort s p).losses := by
  simp [portErr]

/-- A lost arbitration: counted as an error of the port, and as one more in a row. -/
def lostOnce (s : State) (p : Nat) (q : TwReq) (code : Nat) : State :=
  modPort (portErr (reqSent s p q) p code) p (fun x => { x with arbLost := min (x.arbLost + 1) 255, losses := x.losses + 1 })

theorem losses_lostOnce (s : State) (p : Nat) (q : TwReq) (code : Nat) :
    (getPort (lostOnce s p q code) p).losses = (getPort s p).losses + 1 := by
  simp [lostOnce, losses_portErr, losses_reqSent]

section
variable {q : TwReq} (hp : p ≠ 0) (hq : running s p = some q)
include hp hq

/-- A loss outside a STOP: a pass-through and the eighth in a row fail, any other request retries. -/
theorem arbLost_bit : arbLost p false s =
    if q = .xfer ∨ 7 ≤ (getPort s p).losses then reqFails (modPort (lostOnce s p q 3) p (fun x => { x with losses := 0 })) 3 q
    else lostOnce s p q 3 := by
  have eighth : 8 ≤ (getPort (lostOnce s p q 3) p).losses ↔ 7 ≤ (getPort s p).losses := by
    rw [losses_lostOnce]
    exact Nat.succ_le_succ_iff
  unfold arbLost
  rw [if_neg hp, hq]
  simp only [← eighth]
  rfl

/-- A loss in a STOP fails the attempt and clears the bus. -/
theorem arbLost_stop : arbLost p true s = failAndClear (lostOnce s p q 4) p 4 q := by
  unfold arbLost
  rw [if_neg hp, hq]
  rfl

end

theorem arbLost_idle (b : Bool) (hp : p ≠ 0) (hq : running s p = none) : arbLost p b s = s := by
  unfold arbLost
  rw [if_neg hp, hq]

theorem failAndClear_fails {code : Nat} {q : TwReq} (h : q ≠ .xfer) :
    failAndClear s p code q = startClear (reqFails s code q) p := by
  rw [failAndClear, if_neg h]

/-- A pass-through completes with the clear, and keeps its code until then. -/
theorem failAndClear_xfer {code : Nat} {q : TwReq} (h : q = .xfer) :
    failAndClear s p code q = startClear { s with tw := { s.tw with xferWait := some code } } p := by
  rw [failAndClear, if_pos h]

theorem nextReq_w0 (s : State) : nextReq s 0 = none := rfl

/-- W0 has no request of its own. -/
theorem running_w0 (s : State) : running s 0 = none := running_none (.inr (.inr (.inr (nextReq_w0 s))))

section
variable {p : Fin 12}

theorem exec_twoWireTimeout_running {q : TwReq} (h : running s p.val = some q) :
    exec (.twoWireTimeout p) s = .next (settle (failAndClear (portErr (reqSent s p.val q) p.val 5) p.val 5 q)) := by
  refine congrArg done ?_
  rw [h]

theorem exec_twoWireTimeout_idle (h : running s p.val = none) : exec (.twoWireTimeout p) s = .next (settle s) := by
  refine congrArg done ?_
  rw [h]

end

/-! ### Bus clearing (R355) -/

section
variable (h2 : (getPort s p).st = 2)
include h2

/-- An attempt that is due. -/
theorem busClear_due (b : Bool) (h : (getPort s p).attempts = 0 ∨ (getPort s p).since + 1000 ≤ s.tick) : busClear p b s =
    if b then clearEnds (count (setPort s p { getPort s p with st := 0, attempts := 0 }) 301 {}) p false
    else if (getPort s p).attempts < 3 then
      setPort s p { getPort s p with attempts := (getPort s p).attempts + 1, since := s.tick }
    else clearEnds (portErr (setPort s p { getPort s p with st := 3, attempts := 0, since := s.tick }) p 8) p true := by
  refine if_neg ?_
  rintro (h' | ⟨ha, hs⟩)
  · exact h' h2
  · exact h.elim ha (Nat.not_le.mpr hs)

end

/-- The next comes 1 ms after the last. -/
theorem busClear_early (b : Bool) (ha : (getPort s p).attempts ≠ 0) (hs : s.tick < (getPort s p).since + 1000) :
    busClear p b s = s := if_pos (.inr ⟨ha, hs⟩)

theorem busClear_other (b : Bool) (h : (getPort s p).st ≠ 2) : busClear p b s = s := if_pos (.inl h)

theorem clearEnds_unwaited (b : Bool) (h : s.tw.xferWait = none ∨ xferPort s ≠ p) : clearEnds s p b = s := by
  unfold clearEnds
  split
  · rename_i c hc
    refine if_neg ?_
    rcases h with h | h
    · rw [h] at hc
      cases hc
    · exact h
  · rfl

/-- The pass-through that waits for the clear ends with its own code, or BUS_STUCK. -/
theorem clearEnds_waited {c : Nat} (b : Bool) (h : s.tw.xferWait = some c) (hp : xferPort s = p) :
    clearEnds s p b = xferFails { s with tw := { s.tw with xferWait := none } } (if b then 8 else c) := by
  unfold clearEnds
  rw [h]
  exact if_pos hp

end

/-! ### The pass-through (R356) -/

section
variable {s : State} {v : Word}

/-- May the pass-through start: on ports 9 to 11, with 1 to 32 bytes. -/
def xferStarts (v : Word) : Prop := 9 ≤ bf v 27 24 ∧ bf v 27 24 ≤ 11 ∧ 1 ≤ bf v 5 0 ∧ bf v 5 0 ≤ 32

theorem xferStarts_iff : ((9 ≤ bf v 27 24 && bf v 27 24 ≤ 11 && 1 ≤ bf v 5 0 && bf v 5 0 ≤ 32 : Bool) = true) ↔ xferStarts v := by
  simp only [Bool.and_eq_true, decide_eq_true_eq, and_assoc, xferStarts]

theorem xferCtrlWrite_starts (hb : s.tw.xferBusy = false) (hg : v.getLsbD 31 = true) (h : xferStarts v) :
    let u := cfgSet s 0x801000 (v &&& 0x0F7FFFFF#32)
    xferCtrlWrite s v = { u with tw := { u.tw with xferBusy := true } } := by
  unfold xferCtrlWrite
  simp only [hb, hg, xferStarts_iff.mpr h]
  rfl

theorem xferCtrlWrite_refused (hb : s.tw.xferBusy = false) (h : ¬ xferStarts v) : xferCtrlWrite s v = setBusy s 10 := by
  have bad := Bool.eq_false_iff.mpr (fun ok => h (xferStarts_iff.mp ok))
  unfold xferCtrlWrite
  simp only [hb, bad]
  rfl

theorem xferCtrlWrite_busy (hb : s.tw.xferBusy = true) (hg : v.getLsbD 31 = true) : xferCtrlWrite s v = setBusy s 10 :=
  (if_pos hb).trans (if_pos (.inl hg))

theorem exec_xferCtrlGo_not (v : Word) (h : hostMay s 0 = false) : exec (.xferCtrlGo v) s = .next (settle s) := by
  refine congrArg done ?_
  rw [hostWrites, h]
  rfl

end

/-! ### Loop devices and the charge level (R346) -/

section
variable {s : State}

theorem loopsDue_iff : loopsDue s = true ↔ ∀ t, s.tw.loopAt = some t → t + 100000 ≤ s.tick := by
  unfold loopsDue
  split
  · rename_i t h
    simp [h]
  · rename_i h
    simp [h]

variable {l : Nat} {r : DevRead}

theorem loopRead_noFlow (h : cfgF s (0x800800 + 4 * l) 6 0 = 0) :
    loopRead s l true r = { s with tw := { s.tw with flow := KMap.set (fun _ => 0) s.tw.flow l 0 } } := if_pos h

theorem loopRead_noPress (h : cfgF s (0x800800 + 4 * l) 22 16 = 0) :
    loopRead s l false r = { s with tw := { s.tw with press := KMap.set (fun _ => 0xFFFF) s.tw.press l 0xFFFF } } := if_pos h

/-- After a failed read the last value stays. -/
theorem loopRead_fails {b : Bool} (h : (if b then cfgF s (0x800800 + 4 * l) 6 0 else cfgF s (0x800800 + 4 * l) 22 16) ≠ 0)
    (hr : (portRead s 11 r.result).2 = false) : loopRead s l b r = (portRead s 11 r.result).1 := by
  have failed : portRead s 11 r.result = ((portRead s 11 r.result).1, false) := Prod.ext rfl hr
  unfold loopRead
  dsimp only
  rw [if_neg h, failed]
  rfl

theorem loopRead_flow (h : cfgF s (0x800800 + 4 * l) 6 0 ≠ 0) (hr : portRead s 11 r.result = (s, true))
    (h0 : 0 ≤ lin11 r.value 100) (h1 : lin11 r.value 100 ≤ 65535) : loopRead s l true r =
      { s with tw := { s.tw with flow := KMap.set (fun _ => 0) s.tw.flow l (lin11 r.value 100).toNat } } := by
  have value : loopValue s r.value 100 65535 = ((lin11 r.value 100).toNat, s) := if_pos ⟨h0, h1⟩
  unfold loopRead
  simp only [if_true, h, if_false, hr, value]

theorem loopRead_press (h : cfgF s (0x800800 + 4 * l) 22 16 ≠ 0) (hr : portRead s 11 r.result = (s, true))
    (h0 : 0 ≤ lin11 r.value 10) (h1 : lin11 r.value 10 ≤ 65534) : loopRead s l false r =
      { s with tw := { s.tw with press := KMap.set (fun _ => 0xFFFF) s.tw.press l (lin11 r.value 10).toNat } } := by
  have value : loopValue s r.value 10 65534 = ((lin11 r.value 10).toNat, s) := if_pos ⟨h0, h1⟩
  unfold loopRead
  simp only [Bool.false_eq_true, if_true, h, if_false, hr, value]

theorem chargeRead_none (h : cfgF s 0x50000C 22 16 = 0) : chargeRead s r = s := if_pos h

theorem chargeRead_fails (h : cfgF s 0x50000C 22 16 ≠ 0) (hr : (portRead s 10 r.result).2 = false) :
    chargeRead s r = (portRead s 10 r.result).1 := by
  have failed : portRead s 10 r.result = ((portRead s 10 r.result).1, false) := Prod.ext rfl hr
  unfold chargeRead
  rw [if_neg h, failed]
  rfl

theorem chargeRead_reads (h : cfgF s 0x50000C 22 16 ≠ 0) (hr : portRead s 10 r.result = (s, true)) :
    chargeRead s r = { s with pow := { s.pow with chargePct := r.value % 256 } } := by
  unfold chargeRead
  rw [if_neg h, hr]
  rfl

end

theorem portRead_succeeds (s : State) (p : Nat) (r : TwResult) :
    (portRead s p r).2 = true ↔ portUp s p = true ∧ r = .ok := by
  refine ⟨fun h => ?_, fun ⟨hu, hr⟩ => ?_⟩
  · obtain ⟨hu, hr, -⟩ := portRead_ok h
    exact ⟨hu, hr⟩
  · rw [portRead_up hu, if_pos hr]

/-- Settles O52: clause by clause, each row by the state of its port and of its request. -/
theorem controllerPorts : Obligations.ControllerPorts := by
  refine ⟨?transaction, nextReq_w0, ?lost, ?idle, ?w0, ?clear, fun s p b h => congrArg done (busClear_other b h),
    fun s p b => ⟨clearEnds_unwaited b, fun c => clearEnds_waited b⟩, ?down, ?xfer, ?xferBusy, fun s v h => exec_xferCtrlGo_not v h,
    ?loops, ?loopsNot, fun s => loopsDue_iff, ?loop, fun s r => ⟨chargeRead_none, chargeRead_fails, chargeRead_reads⟩, ?reads⟩
  case transaction =>
    intro s p r d
    refine ⟨fun h => congrArg done (twoWireTransaction_none r d h), fun q hr hq => ?_⟩
    have due := twoWireTransaction_due r d hr hq
    refine ⟨fun h => congrArg done (due.trans (if_pos h)), fun he h0 h3 => congrArg done (due.trans ?_), fun he h0 => ?_⟩
    · rw [if_neg (by simp [he, h3]), if_pos h0]
    · rw [if_neg (by simp [he, h0]), if_neg (not_not.mpr h0)] at due
      refine ⟨fun hk hd => congrArg done (due.trans ?_), fun hk hd => congrArg done (due.trans ?_),
        fun hk => congrArg done (due.trans (if_neg hk))⟩
      · rw [if_pos hk, if_pos hd]
      · rw [if_pos hk, if_neg hd]
  case lost =>
    intro s p q hp hr he hs hq
    have run := running_some hr he hs hq
    refine ⟨fun hl hx => congrArg done ?_, fun hl => congrArg done ?_, fun hx => congrArg done ?_, fun hx => ⟨congrArg done ?_, ?_⟩,
      fun hx => ⟨congrArg done ?_, ?_⟩⟩
    · rw [arbLost_bit hp run, if_neg (by simp [hx, hl])]
      rfl
    · rw [arbLost_bit hp run, if_pos (.inr hl)]
      rfl
    · rw [arbLost_bit hp run, if_pos (.inl hx)]
      rfl
    · rw [arbLost_stop hp run, failAndClear_fails hx]
      rfl
    · rw [exec_twoWireTimeout_running run, failAndClear_fails hx]
    · rw [arbLost_stop hp run, failAndClear_xfer hx]
      rfl
    · rw [exec_twoWireTimeout_running run, failAndClear_xfer hx]
  case idle =>
    exact fun s p b hp h => ⟨congrArg done (arbLost_idle b hp (running_none h)), exec_twoWireTimeout_idle (running_none h)⟩
  case w0 =>
    refine fun s b => ⟨exec_twoWireTimeout_idle (running_w0 s), fun h => congrArg done ?_, fun n t hn h => congrArg done ?_⟩
    · exact (if_pos rfl).trans (if_neg (by rw [h]; exact Bool.false_ne_true))
    · refine (if_pos rfl).trans ((if_pos hn).trans ?_)
      unfold notifyLoses
      rw [h]
  case clear =>
    intro s p h2
    refine ⟨fun h => ⟨congrArg done (busClear_due h2 true h), fun ha => congrArg done ?_, fun ha => congrArg done ?_⟩,
      fun b ha hs => congrArg done (busClear_early b ha hs)⟩
    · exact (busClear_due h2 false h).trans (if_pos ha)
    · exact (busClear_due h2 false h).trans (if_neg (Nat.not_lt.mpr ha))
  case down =>
    refine fun s p => ⟨fun h3 hs => ⟨congrArg done (if_pos ⟨h3, hs⟩), congrArg done (if_pos ⟨h3, hs⟩)⟩,
      fun b h => congrArg done (if_neg ?_)⟩
    rintro ⟨h3, hs⟩
    exact h.elim (fun h => h h3) (Nat.not_lt.mpr hs)
  case xfer =>
    intro s v hm hb hg
    refine ⟨fun h1 h2 h3 h4 => ?_, fun h => ?_⟩
    · rw [exec_xferCtrlGo v hm, xferCtrlWrite_starts hb hg ⟨h1, h2, h3, h4⟩]
    · rw [exec_xferCtrlGo v hm, xferCtrlWrite_refused hb]
      rintro ⟨h1, h2, h3, h4⟩
      omega
  case xferBusy =>
    intro s v hm hb hg
    rw [exec_xferCtrlGo v hm, xferCtrlWrite_busy hb hg]
  case loops =>
    intro s a b c d e hr hd
    refine ⟨fun hf => congrArg done ((if_pos ⟨hr, hd⟩).trans ?_), fun hf => congrArg done ((if_pos ⟨hr, hd⟩).trans ?_)⟩
    · simp only [hf, if_true]
    · simp only [hf, Bool.false_eq_true, if_false]
  case loopsNot =>
    refine fun s a b c d e h => congrArg done (if_neg ?_)
    rintro ⟨hr, hd⟩
    exact h.elim (fun h => h hr) (fun h => Bool.false_ne_true (h.symm.trans hd))
  case loop =>
    exact fun s l r => ⟨loopRead_noFlow, loopRead_noPress, loopRead_fails (b := true), loopRead_fails (b := false), loopRead_flow,
      loopRead_press⟩
  case reads =>
    intro s p r
    refine ⟨portRead_succeeds s p r, fun h => ?_, fun hu hr => ?_, fun hr h => ?_⟩
    · obtain ⟨-, -, same⟩ := portRead_ok h
      rw [same]
    · rw [portRead_up hu, if_neg hr]
    · rw [portRead_down hr h]

end Sys2Proof.Machine
end

section
/-! PROOFS. Bytes, least significant first: what a list of bytes spells, and a field of a longer list. -/

namespace Sys2Proof.Machine

@[simp] theorem leBytes_length (n v : Nat) : (leBytes n v).length = n := by
  induction n generalizing v with
  | zero => rfl
  | succ n ih => simp [leBytes, ih]

/-- Bytes spell the number that they come from, as far as they reach. -/
@[simp] theorem ofLe_leBytes (n v : Nat) : ofLe (leBytes n v) = v % 256 ^ n := by
  induction n generalizing v with
  | zero => simp [leBytes, ofLe, Nat.mod_one]
  | succ n ih =>
    have low : (BitVec.ofNat 8 v).toNat = v % 256 := BitVec.toNat_ofNat ..
    rw [leBytes, ofLe, ih, low, Nat.pow_succ, Nat.mul_comm (256 ^ n), Nat.mod_mul]

theorem ofLe_lt (l : List Byte) : ofLe l < 256 ^ l.length := by
  induction l with
  | nil => exact Nat.one_pos
  | cons b l ih =>
    have hb : b.toNat < 256 := b.isLt
    rw [ofLe, List.length_cons, Nat.pow_succ]
    omega

/-- A field of n bytes holds less than 256^n. -/
theorem leAt_lt (l : List Byte) (off n : Nat) : leAt l off n < 256 ^ n :=
  (ofLe_lt _).trans_le (Nat.pow_le_pow_right (by decide) (by simp))

/-- A field that stands behind other bytes. -/
theorem leAt_behind (a b : List Byte) (n v : Nat) : leAt (a ++ (leBytes n v ++ b)) a.length n = v % 256 ^ n := by
  rw [leAt, List.drop_left, List.take_append_of_le_length (by simp), List.take_of_length_le (by simp), ofLe_leBytes]

/-- A field inside the first bytes of a list. -/
theorem leAt_take {n off k : Nat} (l : List Byte) (h : off + k ≤ n) : leAt (l.take n) off k = leAt l off k := by
  rw [leAt, List.drop_take, List.take_take, Nat.min_eq_left (by omega)]
  rfl

/-- A field of two bytes is its low and its high byte. -/
theorem leAt_two (l : List Byte) (off : Nat) : leAt l off 2 = leAt l off 1 + 256 * leAt l (off + 1) 1 := by
  unfold leAt
  rw [← List.drop_drop]
  match l.drop off with
  | [] => rfl
  | [x] => simp [ofLe]
  | x :: y :: _ => simp [ofLe]

end Sys2Proof.Machine
end

section
/-! PROOFS. W0 as target (R350, R351, R358): what it refuses of a write, what its codes do, and what it answers; Host Notify (R352, R353). -/

namespace Sys2Proof.Machine

/-! ### What W0 refuses of a write (R351, Tables 14.5 and 14.6) -/

section
variable {s : State} {code n : Nat} {block : Bool} {w : W0Write} (act : State → List Byte → State)

theorem w0Write_early (h : s.crd.phase ≠ .running) : w0Write s code n block w act = { s with resp := .nack 0 } := if_pos h

theorem w0Write_badLen (hr : s.crd.phase = .running) (hb : block = true) (hc : w.count ≠ n) :
    w0Write s code n block w act = w0Nack s 0x22 := (if_neg (not_not.mpr hr)).trans (if_pos ⟨hb, hc⟩)

/-- A wrong PEC is counted, and clears the staging buffer on 0x20 and 0x21. -/
def pecWrong (s : State) (code : Nat) : State :=
  let u : State := { s with tw := { s.tw with pecErrs := min (s.tw.pecErrs + 1) 255 } }
  if code = 0x20 ∨ code = 0x21 then setT64 u { u.qc.t64 with stage := [] } else u

section
variable (hr : s.crd.phase = .running) (hb : block = true → w.count = n)
include hr hb

theorem w0Write_restarted (hw : w.restart = true) (hl : w.data.length < n) : w0Write s code n block w act = s :=
  (if_neg (not_not.mpr hr)).trans ((if_neg (fun h => h.2 (hb h.1))).trans (if_pos ⟨hw, hl⟩))

theorem w0Write_stopped (hw : w.restart = false) (h : w.stopEarly = true ∨ w.data.length < n) :
    w0Write s code n block w act = w0Discard s 0x27 := by
  refine (if_neg (not_not.mpr hr)).trans ((if_neg (fun h => h.2 (hb h.1))).trans ((if_neg ?_).trans (if_pos h)))
  rw [hw]
  exact fun h => Bool.false_ne_true h.1

variable (he : w.stopEarly = false) (hl : n ≤ w.data.length)
include he hl

/-- A write of all its bytes without PEC. -/
theorem w0Write_noPec (hp : w0Pec n w = none) : w0Write s code n block w act =
    if w.restart then s else if pecReq s then w0Discard s 0x24 else act s (w.data.take n) := by
  have pec : (if n < w.data.length then some (w.data.getD n 0) else w.pec) = none := hp
  unfold w0Write
  dsimp only
  rw [if_neg (not_not.mpr hr), if_neg (fun h => h.2 (hb h.1)), if_neg (fun h => Nat.not_lt.mpr hl h.2), if_neg, pec]
  rw [he]
  exact fun h => h.elim Bool.false_ne_true (Nat.not_lt.mpr hl)

/-- A write of all its bytes with PEC. -/
theorem w0Write_pec {b : Byte} (hp : w0Pec n w = some b) : w0Write s code n block w act =
    if b ≠ w0Sum s code n block w then w0Nack (pecWrong s code) 0x23 else if w.restart then s else act s (w.data.take n) := by
  have pec : (if n < w.data.length then some (w.data.getD n 0) else w.pec) = some b := hp
  unfold w0Write
  dsimp only
  rw [if_neg (not_not.mpr hr), if_neg (fun h => h.2 (hb h.1)), if_neg (fun h => Nat.not_lt.mpr hl h.2), if_neg, pec]
  · rfl
  · rw [he]
    exact fun h => h.elim Bool.false_ne_true (Nat.not_lt.mpr hl)

theorem w0Write_discarded (hw : w.restart = true) (hp : w0Pec n w = none ∨ w0Pec n w = some (w0Sum s code n block w)) :
    w0Write s code n block w act = s := by
  rcases hp with hp | hp
  · rw [w0Write_noPec act hr hb he hl hp, if_pos hw]
  · rw [w0Write_pec act hr hb he hl hp, if_neg (not_not.mpr rfl), if_pos hw]

end

theorem w0Acts_running (h : w0Acts s code n block w = true) : s.crd.phase = .running := by
  simp only [w0Acts, Bool.and_eq_true, decide_eq_true_eq] at h
  obtain ⟨⟨⟨⟨⟨hr, -⟩, -⟩, -⟩, -⟩, -⟩ := h
  exact hr

end

/-! ### T64's codes (R101, R102, Table 4.11) -/

section
variable {s : State} {w : W0Write}

theorem exec_w0PostEntry_posts (h : w0Acts s 0x21 32 true w = true) (hn : (getTen s 64).reset = none)
    (hf : (t64Entries s (t64Pair (leAt (stagedLow s) 0 1))).length < 16) :
    exec (.w0PostEntry w) s = .next (settle (w0Done (postEntry s (w.data.take 32)) 0x21 0)) :=
  congrArg done ((if_neg (not_not.mpr (w0Acts_running h))).trans ((if_neg (by rw [hn]; exact Bool.false_ne_true)).trans
    ((if_neg (Nat.not_le.mpr hf)).trans (w0Write_acts h _))))

theorem exec_w0PostEntry_full (hr : s.crd.phase = .running) (hn : (getTen s 64).reset = none)
    (hf : 16 ≤ (t64Entries s (t64Pair (leAt (stagedLow s) 0 1))).length) :
    exec (.w0PostEntry w) s = .next (settle (w0Nack s 0x26)) :=
  congrArg done ((if_neg (not_not.mpr hr)).trans ((if_neg (by rw [hn]; exact Bool.false_ne_true)).trans (if_pos hf)))

theorem exec_w0PostEntry_inReset (hr : s.crd.phase = .running) (hn : (getTen s 64).reset ≠ none) :
    exec (.w0PostEntry w) s = .next (settle (w0Nack s 0)) :=
  congrArg done ((if_neg (not_not.mpr hr)).trans (if_pos (Option.isSome_iff_ne_none.mpr hn)))

theorem exec_w0ConsumeCompletion_returned (h : w0Acts s 0x23 0 false w = true) (hq : s.qc.t64.returned = true) :
    exec (.w0ConsumeCompletion w) s =
      .next (settle (w0Done (setT64 s { s.qc.t64 with cq := s.qc.t64.cq.drop 1, returned := false }) 0x23 0)) :=
  congrArg done ((if_neg (not_not.mpr (w0Acts_running h))).trans ((if_neg (by rw [hq]; exact Bool.false_ne_true)).trans
    (w0Write_acts h _)))

theorem exec_w0ConsumeCompletion_not (hr : s.crd.phase = .running) (hq : s.qc.t64.returned = false) :
    exec (.w0ConsumeCompletion w) s = .next (settle (w0Nack s 0)) :=
  congrArg done ((if_neg (not_not.mpr hr)).trans (if_pos (by rw [hq]; rfl)))

theorem exec_w0SetBufferPointer_acts (h : w0Acts s 0x25 2 false w = true) : exec (.w0SetBufferPointer w) s = .next (settle
    (if 127 < leAt w.data 0 2 then w0Nack s 0 else w0Done (setT64 s { s.qc.t64 with ptr := leAt w.data 0 2 }) 0x25 0)) := by
  have field : leAt (w.data.take 2) 0 2 = leAt w.data 0 2 := leAt_take _ (Nat.le_refl 2)
  refine congrArg done ((w0Write_acts h _).trans ?_)
  dsimp only
  rw [field]

theorem exec_notifyMask_acts (h : w0Acts s 0x18 4 true w = true) : exec (.notifyMask w) s =
    .next (settle (w0Done (cfgSet s 0x800008 (BitVec.ofNat 32 (leAt w.data 0 4))) 0x18 0)) := by
  have field : leAt (w.data.take 4) 0 4 = leAt w.data 0 4 := leAt_take _ (Nat.le_refl 4)
  refine congrArg done ((w0Write_acts h _).trans ?_)
  rw [field]

/-- A tenant reset that starts, or merges with the one in progress. -/
theorem startTReset_inReset (s : State) (t bit issuer : Nat) (cmd : Option Nat) :
    (getTen (startTReset s t bit issuer cmd) t).reset ≠ none := by
  cases h : (getTen s t).reset with
  | none =>
    rw [startTReset_starts bit issuer cmd h, getTen_modTen, if_pos rfl]
    exact Option.some_ne_none _
  | some r =>
    rw [startTReset_merges bit issuer cmd h, getTen_modTen, if_pos rfl]
    exact Option.some_ne_none _

/-! ### The keyed clears (R306, R337) -/

theorem bf_low (x : Nat) : bf (BitVec.ofNat 32 x) 7 0 = x % 256 := by
  unfold bf
  rw [BitVec.toNat_ofNat, Nat.shiftRight_zero]
  omega

theorem bf_second (x : Nat) : bf (BitVec.ofNat 32 x) 15 8 = x / 256 % 256 := by
  unfold bf
  rw [BitVec.toNat_ofNat, Nat.shiftRight_eq_div_pow]
  omega

theorem extractLsb'_upper (x : Nat) : (BitVec.ofNat 32 x).extractLsb' 16 9 = BitVec.ofNat 9 (x / 65536) := by
  apply BitVec.eq_of_toNat_eq
  rw [BitVec.extractLsb'_toNat, BitVec.toNat_ofNat, BitVec.toNat_ofNat, Nat.shiftRight_eq_div_pow]
  omega

/-- The TH_CLEAR word that three bytes of W0 stand for. -/
def thKeyWord (d : List Byte) : Word := BitVec.ofNat 32 (leAt d 0 1 + 65536 * leAt d 1 2)

theorem thKeyWord_key (d : List Byte) : bf (thKeyWord d) 7 0 = leAt d 0 1 := by
  have hb := leAt_lt d 0 1
  rw [thKeyWord, bf_low]
  omega

theorem thKeyWord_mask (d : List Byte) : (thKeyWord d).extractLsb' 16 9 = BitVec.ofNat 9 (leAt d 1 2) := by
  have hb := leAt_lt d 0 1
  rw [thKeyWord, extractLsb'_upper, Nat.add_mul_div_left _ _ (by decide), Nat.div_eq_of_lt (by omega), Nat.zero_add]

theorem exec_w0ThClear_acts (h : w0Acts s 0x10 3 true w = true) : exec (.w0ThClear w) s = .next (settle
    (w0Done (motorsFollow (thClearWrite s (thKeyWord w.data))) 0x10
      (clearOutcome (decide (leAt w.data 0 1 = 0x3C)) (thClearWord s (thKeyWord w.data)).2))) := by
  have key : leAt (w.data.take 3) 0 1 = leAt w.data 0 1 := leAt_take _ (by decide)
  have mask : leAt (w.data.take 3) 1 2 = leAt w.data 1 2 := leAt_take _ (Nat.le_refl 3)
  refine congrArg done ((w0Write_acts h _).trans ?_)
  dsimp only
  rw [key, mask]
  rfl

theorem thClearWord_wrongKey {v : Word} (h : bf v 7 0 ≠ 0x3C) : thClearWord s v = (s, true) := if_neg h

theorem thClearWord_key {v : Word} (h : bf v 7 0 = 0x3C) : thClearWord s v = clearLatches s (v.extractLsb' 16 9) := if_pos h

/-- The MC_CLEAR word that two bytes of W0 stand for. -/
def mcKeyWord (d : List Byte) : Word := BitVec.ofNat 32 (leAt d 0 2)

theorem mcKeyWord_key (d : List Byte) : bf (mcKeyWord d) 7 0 = leAt d 0 1 := by
  have hb := leAt_lt d 0 1
  rw [mcKeyWord, bf_low, leAt_two]
  omega

theorem mcKeyWord_mask (d : List Byte) : bf (mcKeyWord d) 15 8 = leAt d 1 1 := by
  have h0 := leAt_lt d 0 1
  have h1 := leAt_lt d 1 1
  rw [mcKeyWord, bf_second, leAt_two, Nat.zero_add]
  omega

theorem exec_w0McClear_acts (h : w0Acts s 0x11 2 false w = true) : exec (.w0McClear w) s = .next (settle
    (w0Done (motorsFollow (mcClearWrite s (mcKeyWord w.data))) 0x11
      (clearOutcome (decide (leAt w.data 0 1 = 0x6D)) (mcClearWord s (mcKeyWord w.data)).2))) := by
  have key : leAt (w.data.take 2) 0 1 = leAt w.data 0 1 := leAt_take _ (by decide)
  have both : leAt (w.data.take 2) 0 2 = leAt w.data 0 2 := leAt_take _ (Nat.le_refl 2)
  refine congrArg done ((w0Write_acts h _).trans ?_)
  dsimp only
  rw [key, both]
  rfl

theorem mcClearWord_wrongKey {v : Word} (h : bf v 7 0 ≠ 0x6D) : mcClearWord s v = (s, true) := if_neg h

theorem mcClearWord_key {v : Word} (h : bf v 7 0 = 0x6D) : mcClearWord s v = clearLockouts s (bf v 15 8) := if_pos h

theorem clearOutcome_key (b : Bool) : clearOutcome true b = if b then 1 else 0 := rfl

end

/-! ### Reads (R350) -/

section
variable {s : State}

theorem w0Read_running (h : s.crd.phase = .running) (f : State → State) : w0Read s f = f s := if_neg (not_not.mpr h)

theorem w0Read_early (h : s.crd.phase ≠ .running) (f : State → State) : w0Read s f = { s with resp := .nack 0 } := if_pos h

theorem exec_w0ReadCompletion_first {len : Nat} {e : List Byte} {rest : List (List Byte)} (hr : s.crd.phase = .running)
    (h : s.qc.t64.cq = e :: rest) :
    exec (.w0ReadCompletion len) s = .next (settle (w0Reply (setT64 s { s.qc.t64 with returned := true }) 0x22 len true e)) := by
  refine congrArg done ((w0Read_running hr _).trans ?_)
  dsimp only
  rw [h]

theorem exec_w0ReadCompletion_empty {len : Nat} (hr : s.crd.phase = .running) (h : s.qc.t64.cq = []) :
    exec (.w0ReadCompletion len) s =
      .next (settle (w0Reply (setT64 s { s.qc.t64 with returned := false }) 0x22 len true emptyReply)) := by
  refine congrArg done ((w0Read_running hr _).trans ?_)
  dsimp only
  rw [h]

/-! ### Host Notify (R352, R353) -/

theorem notifyOn_iff : notifyOn s = true ↔ s.crd.phase = .running ∧ cfgF s 0x800004 1 1 = 1 := by
  simp [notifyOn]

section
variable {x : Hn} {rest : List Hn} (h : s.tw.hn = x :: rest)
include h

/-- The first pending notification, by who wins the bus and by the host's acknowledge. -/
theorem exec_hostNotify_first (on : notifyOn s = true) (won acked : Bool) : exec (.hostNotify won acked) s = .next (settle (
    let u : State := { s with resp := .data [0x10, BitVec.ofNat 8 (2 * w0Addr s), BitVec.ofNat 8 x.reason, BitVec.ofNat 8 x.detail] }
    if won = false then notifyLoses s
    else if acked then count { u with tw := { s.tw with hn := rest } } 300 {} else u)) := by
  refine congrArg done ?_
  rw [h, on]
  simp only [Bool.not_true, Bool.false_eq_true, if_false, Bool.not_eq_true']

theorem notifyLoses_first : notifyLoses s = { s with tw := { s.tw with hn := { x with losses := x.losses + 1 } :: rest } } := by
  unfold notifyLoses
  rw [h]

end

theorem exec_hostNotify_none (won acked : Bool) (h : s.tw.hn = [] ∨ notifyOn s = false) :
    exec (.hostNotify won acked) s = .next (settle s) := by
  refine congrArg done ?_
  split
  · rename_i x rest hx
    refine if_pos ?_
    rcases h with h | h
    · rw [h] at hx
      cases hx
    · rw [h]
      rfl
  · rfl

/-- Those 100 ms old or lost eight times go, and only those. -/
theorem exec_hostNotifyDrop (s : State) : exec .hostNotifyDrop s = .next (settle { s with tw := { s.tw with
    hn := s.tw.hn.filter (fun h => decide (s.tick < h.since + 100000 ∧ h.losses < 8)),
    hnDropped := min (s.tw.hnDropped
      + (s.tw.hn.filter (fun h => decide (h.since + 100000 ≤ s.tick ∨ 8 ≤ h.losses))).length) 255 } }) := by
  have stays : s.tw.hn.filter (fun h => !decide (h.since + 100000 ≤ s.tick ∨ 8 ≤ h.losses))
      = s.tw.hn.filter (fun h => decide (s.tick < h.since + 100000 ∧ h.losses < 8)) := by
    refine List.filter_congr fun h _ => ?_
    rw [← decide_not]
    exact decide_eq_decide.mpr (by rw [not_or, Nat.not_le, Nat.not_le])
  rw [← stays]
  rfl

end

/-- Settles O53: a write by what W0 refuses of it, then each code, the reads, Host Notify, the mirror and the timeout. -/
theorem wZeroAndNotify : Obligations.WZeroAndNotify := by
  refine ⟨?write, ?codes, ?reads, ?early, ?notify, ?silent, fun s => ⟨_, rfl, exec_hostNotifyDrop s⟩, ?mirror, ?noMirror,
    fun s => ⟨fun h => congrArg done (if_pos h), fun h => congrArg done (if_neg h)⟩⟩
  case write =>
    intro s code n block w act
    refine ⟨fun h => w0Write_acts h act, w0Write_early act, w0Write_badLen act, fun hr hb => ⟨w0Write_restarted act hr hb,
      w0Write_stopped act hr hb, fun he hl => ⟨w0Write_discarded act hr hb he hl, fun hw hp hq => ?_, fun b hp hne => ?_⟩⟩⟩
    · rw [w0Write_noPec act hr hb he hl hp, hw, hq]
      rfl
    · rw [w0Write_pec act hr hb he hl hp, if_pos hne]
      refine ⟨fun h0 h1 => ?_, fun h => ?_⟩
      · rw [pecWrong, if_neg (not_or.mpr ⟨h0, h1⟩)]
      · rw [pecWrong, if_pos h]
  case codes =>
    intro s w
    refine ⟨fun h => congrArg done (w0Write_acts h _), exec_w0PostEntry_posts, exec_w0PostEntry_full, exec_w0PostEntry_inReset,
      exec_w0ConsumeCompletion_returned, exec_w0ConsumeCompletion_not, fun h hv => ?_, fun h hv => ?_, exec_bmcHb_acts,
      fun h => ⟨_, congrArg done (w0Write_acts h _), startTReset_inReset s 64 4 0xFF none, rfl, rfl⟩, exec_notifyMask_acts,
      fun h hk => ?_, fun h hk => ?_, fun h hk => ?_, fun h hk => ?_⟩
    · rw [exec_w0SetBufferPointer_acts h, if_neg (Nat.not_lt.mpr hv)]
    · rw [exec_w0SetBufferPointer_acts h, if_pos hv]
    · rw [exec_w0ThClear_acts h, thClearWrite, thClearWord_wrongKey (by rwa [thKeyWord_key]), decide_eq_false hk]
      rfl
    · have word := thClearWord_key (s := s) (v := thKeyWord w.data) (by rwa [thKeyWord_key])
      rw [thKeyWord_mask] at word
      refine ⟨?_, fun b hb => ?_⟩
      · rw [exec_w0ThClear_acts h, thClearWrite, word, decide_eq_true hk, clearOutcome_key]
      · rw [latch_clearLatches s _ hb, BitVec.getLsbD_ofNat, decide_eq_true hb, Bool.true_and]
    · rw [exec_w0McClear_acts h, mcClearWrite, mcClearWord_wrongKey (by rwa [mcKeyWord_key]), decide_eq_false hk]
      rfl
    · have word := mcClearWord_key (s := s) (v := mcKeyWord w.data) (by rwa [mcKeyWord_key])
      rw [mcKeyWord_mask] at word
      rw [exec_w0McClear_acts h, mcClearWrite, word, decide_eq_true hk, clearOutcome_key]
  case reads =>
    exact fun s len hr => ⟨fun e rest h => exec_w0ReadCompletion_first hr h, exec_w0ReadCompletion_empty hr,
      congrArg done (w0Read_running hr _), congrArg done (w0Read_running hr _)⟩
  case early =>
    intro s len hr i hi
    rcases hi with rfl | rfl | rfl <;> exact congrArg done (w0Read_early hr _)
  case notify =>
    intro s x rest hx hr hc
    have on := notifyOn_iff.mpr ⟨hr, hc⟩
    refine ⟨exec_hostNotify_first hx on true true, exec_hostNotify_first hx on true false, fun b => ?_⟩
    rw [exec_hostNotify_first hx on false b, if_pos rfl, notifyLoses_first hx]
  case silent =>
    intro s a b h
    refine exec_hostNotify_none a b (h.imp_right fun h => Bool.eq_false_iff.mpr fun on => ?_)
    obtain ⟨hr, hc⟩ := notifyOn_iff.mp on
    exact h.elim (fun h => h hr) (fun h => h hc)
  case mirror =>
    exact fun s code len bad hr h1 h2 => congrArg done ((if_pos ⟨h1, h2⟩).trans (w0Read_running (s := parityFails s bad) hr _))
  case noMirror =>
    refine fun s code len bad h => congrArg done (if_neg ?_)
    rintro ⟨h1, h2⟩
    exact h.elim (Nat.not_lt.mpr h1) (Nat.not_lt.mpr h2)

end Sys2Proof.Machine
end

section
/-! PROOFS. Completions (R78, R79, Table 4.3): where the entry of a completion goes and what it holds; NOP, ECHO and the commands accepted
as OK_NOOP (R84, R95). -/

namespace Sys2Proof.Machine

/-! ### A completion entry (Table 4.3) -/

/-- The bytes of a completion entry before its results. -/
def cqHead (c : Cmd) (r : Result) (h : Nat) (ph : Bool) : List Byte :=
  leBytes 2 c.id ++ leBytes 2 h ++ leBytes 1 r.status.code
  ++ leBytes 1 (b2n ph + 2 * b2n c.clamped + 4 * b2n c.superseded + 8 * b2n (faultStatus r.status) + 16 * b2n c.held)
  ++ leBytes 1 c.op ++ leBytes 1 c.qp

section
variable (c : Cmd) (r : Result) (h t : Nat) (ph : Bool)

theorem cqEntry_eq : cqEntry c r h t ph =
    cqHead c r h ph ++ (leBytes 8 r.r0 ++ (leBytes 8 r.r1 ++ (leBytes 4 r.r2 ++ leBytes 4 (satN 32 t)))) := by
  simp only [cqEntry, cqHead, List.append_assoc]

theorem cqEntry_length : (cqEntry c r h t ph).length = 32 := by
  simp [cqEntry]

theorem cqEntry_status : leAt (cqEntry c r h t ph) 4 1 = r.status.code % 256 := by
  simpa [cqEntry] using leAt_behind (leBytes 2 c.id ++ leBytes 2 h) _ 1 r.status.code

theorem cqEntry_r0 : leAt (cqEntry c r h t ph) 8 8 = r.r0 % 256 ^ 8 := by
  rw [cqEntry_eq]
  exact leAt_behind (cqHead c r h ph) _ 8 r.r0

theorem cqEntry_r1 : leAt (cqEntry c r h t ph) 16 8 = r.r1 % 256 ^ 8 := by
  rw [cqEntry_eq, ← List.append_assoc]
  exact leAt_behind (cqHead c r h ph ++ leBytes 8 r.r0) _ 8 r.r1

theorem cqEntry_r2 : leAt (cqEntry c r h t ph) 24 4 = r.r2 % 256 ^ 4 := by
  rw [cqEntry_eq, ← List.append_assoc, ← List.append_assoc]
  exact leAt_behind (cqHead c r h ph ++ leBytes 8 r.r0 ++ leBytes 8 r.r1) _ 4 r.r2

end

/-! ### Completing (R78, R79) -/

/-- The state in which a completion's entry is written: the command has left the table, and its events and its fault-log entry are
there. -/
def entryDue (s : State) (c : Nat) (r : Result) (cmd : Cmd) : State :=
  let u := countCompletion (dropCmd s c) cmd r
  if faultStatus r.status then faultLog u cmd.tenant 1 (failDetail cmd r) cmd.op cmd.qp cmd.id r.status.code else u

theorem entryDue_keeps (s : State) (c : Nat) (r : Result) (cmd : Cmd) : getQp (entryDue s c r cmd) = getQp s
    ∧ (entryDue s c r cmd).tick = s.tick ∧ (entryDue s c r cmd).mem = s.mem := by
  unfold entryDue
  dsimp only
  split <;> simp

/-- The pair behind a completion entry. -/
def cqAdvanced (p : Qp) : Qp :=
  { p with cqTail := ringNext p.cqTail p.cqEntries, phase := if ringNext p.cqTail p.cqEntries = 0 then !p.phase else p.phase }

section
variable {s : State} {c : Nat} {cmd : Cmd} (r : Result)

theorem complete_some (h : findCmd s c = some cmd) (ht : cmd.tenant < 64) : complete s c r =
    runningCheck (writeCompletion (entryDue s c r cmd) cmd r) cmd.tenant cmd.qp := by
  unfold complete
  rw [h]
  exact if_pos ht

/-- The entry goes to CQ_TAIL, which moves on. -/
theorem writeCompletion_works (ht : cmd.tenant < 64) (hw : (getQp s cmd.tenant cmd.qp).cqFail = false) :
    let p := getQp s cmd.tenant cmd.qp
    (writeCompletion s cmd r).mem = (hostWrite s (p.cqBase.toNat + 32 * p.cqTail)
      (cqEntry cmd r p.sqHead (s.tick - cmd.acc) p.phase)).mem
    ∧ getQp (writeCompletion s cmd r) cmd.tenant cmd.qp = cqAdvanced p := by
  unfold writeCompletion
  dsimp only
  rw [if_pos ht, if_neg (by rw [hw]; exact Bool.false_ne_true)]
  split <;> simp [cqAdvanced]

/-- A pair that stops RUNNING keeps its ring. -/
theorem getQp_runningCheck (s : State) (t q : Nat) : ∃ b, getQp (runningCheck s t q) t q = { getQp s t q with running := b } := by
  unfold runningCheck
  dsimp only
  split
  · exact ⟨false, by rw [getQp_setQp, if_pos rfl]⟩
  · exact ⟨(getQp s t q).running, rfl⟩

/-- The command that completes leaves the table. -/
theorem findCmd_complete (s : State) (c : Nat) (r : Result) : findCmd (complete s c r) c = none := by
  unfold findCmd
  rw [(complete_table s c r).1, List.find?_eq_none]
  simp

/-- Two steps that each change queue control and what it uses alone. -/
theorem queueFrame_trans {s t u : State} (h : queueFrame s t) (h' : queueFrame t u) : queueFrame s u := by
  unfold queueFrame at h h' ⊢
  exact h'.trans (by rw [h])

theorem queueFrame_complete (s : State) (c : Nat) (r : Result) : queueFrame s (complete s c r) := by
  have frame := complete_frame s c r
  have hz : (complete s c r).hz = s.hz := by simp
  unfold queueFrame
  rw [hz]
  exact frame

theorem queueFrame_markStarted (s : State) (c : Nat) : queueFrame s (markStarted s c) := by
  have frame := markStarted_frame s c
  unfold queueFrame
  generalize markStarted s c = t at frame ⊢
  rw [frame]

end

/-- Settles O8: the entry is written in a state that keeps the pair, and what comes behind it keeps the ring. -/
theorem completionEntryWritten : Obligations.CompletionEntryWritten := by
  intro s c r cmd hc ht _ hw p a
  obtain ⟨same, tick, mem⟩ := entryDue_keeps s c r cmd
  have pair : getQp (entryDue s c r cmd) cmd.tenant cmd.qp = p := congrFun (congrFun same _) _
  obtain ⟨hm, hp⟩ := writeCompletion_works (s := entryDue s c r cmd) r ht (by rw [pair]; exact hw)
  obtain ⟨b, hb⟩ := getQp_runningCheck (writeCompletion (entryDue s c r cmd) cmd r) cmd.tenant cmd.qp
  have host : (complete s c r).mem.host =
      KMap.writeN mem0 s.mem.host a (cqEntry cmd r p.sqHead (s.tick - cmd.acc) p.phase) := by
    have runs : (complete s c r).mem = (writeCompletion (entryDue s c r cmd) cmd r).mem := by
      rw [complete_some r hc ht]
      simp
    rw [runs, hm, pair, tick, hostWrite, mem]
  rw [← complete_some r hc ht, hp, pair] at hb
  refine ⟨?_, fun k hk => ?_, congrArg Qp.cqTail hb, congrArg Qp.phase hb, findCmd_complete s c r, queueFrame_complete s c r⟩
  · have whole := KMap.readN_writeN_self mem0 s.mem.host a (cqEntry cmd r p.sqHead (s.tick - cmd.acc) p.phase)
    rw [cqEntry_length] at whole
    rw [hostRead, host]
    exact whole
  · rw [host]
    refine KMap.get_writeN_other _ _ _ _ _ ?_
    rw [cqEntry_length]
    exact hk

/-! ### NOP, ECHO and OK_NOOP (R84, R95) -/

section
variable {s : State} {c : Nat} {cmd : Cmd}

theorem findCmd_markStarted (h : findCmd s c = some cmd) : findCmd (markStarted s c) c = some { cmd with started := true } := by
  have marked := findCmd_modCmd_self (s := s) (k := c) (f := fun x => { x with started := true }) (fun _ => rfl)
  rw [h] at marked
  have counted : findCmd (markStarted s c) = findCmd (modCmd s c (fun x => { x with started := true })) := by simp [markStarted]
  rw [counted]
  exact marked

theorem hostRead_settle (s : State) : hostRead (settle s) = hostRead s := by
  rw [settle_frame]
  rfl

theorem exec_nop_starts (h : startsNow s c 0x00 none cmd = true) :
    exec (.nop c) s = .next (settle (complete (markStarted s c) c { status := .ok })) := by
  obtain rfl := startsNow_seq h
  exact congrArg done (startCmd_now noDoms noHold _ h rfl rfl)

/-- What an ECHO answers. -/
def echoed (cmd : Cmd) : Result := { status := .ok, r0 := leAt cmd.raw 8 8, r1 := leAt cmd.raw 16 8, r2 := cmd.tenant }

theorem exec_echo_starts (h : startsNow s c 0x01 none cmd = true) :
    exec (.echo c) s = .next (settle (complete (markStarted s c) c (echoed cmd))) := by
  obtain rfl := startsNow_seq h
  exact congrArg done (startCmd_now noDoms noHold _ h rfl rfl)

theorem queueFrame_started (r : Result) : queueFrame s (complete (markStarted s c) c r) :=
  queueFrame_trans (queueFrame_markStarted s c) (queueFrame_complete _ c r)

/-- The entry of a command that completes as it starts. -/
theorem hostRead_completed (r : Result) (h : findCmd s c = some cmd) (ht : cmd.tenant < 64) (hq : cmd.qp < 8)
    (hw : (getQp s cmd.tenant cmd.qp).cqFail = false) :
    let p := getQp s cmd.tenant cmd.qp
    hostRead (complete (markStarted s c) c r) (p.cqBase.toNat + 32 * p.cqTail) 32 =
      cqEntry { cmd with started := true } r p.sqHead (s.tick - cmd.acc) p.phase := by
  have pair : getQp (markStarted s c) = getQp s := by simp
  have tick : (markStarted s c).tick = s.tick := by simp
  obtain ⟨entry, -⟩ := completionEntryWritten (markStarted s c) c r { cmd with started := true } (findCmd_markStarted h) ht hq
    (by rw [pair]; exact hw)
  rw [pair, tick] at entry
  exact entry

theorem noopNow_find {op : Nat} {log : Option Nat} (h : noopNow s c op log cmd = true) :
    findCmd s c = some cmd ∧ cmd.started = false ∧ cmd.noop = true := by
  simp only [noopNow, eligible, Bool.and_eq_true, decide_eq_true_eq, Bool.not_eq_true'] at h
  obtain ⟨⟨⟨hf, -⟩, ⟨hs, -⟩⟩, hn⟩ := h
  exact ⟨hf, hs, hn⟩

/-- A park that does nothing does not wait for its spoke. -/
theorem exec_stratumPark_noop (h : noopNow s c 0x10 none cmd = true) :
    exec (.stratumPark c) s = .next (settle (complete s c { status := .okNoop })) := by
  obtain ⟨hf, -, hn⟩ := noopNow_find h
  refine congrArg done ?_
  rw [hf]
  dsimp only
  rw [hn, Bool.not_true, Bool.and_false, if_neg Bool.false_ne_true]
  exact startCmd_noopNow _ _ _ h

theorem exec_accFwPush_noop (h : noopNow s c 0x23 none cmd = true) :
    exec (.accFwPush c none) s = .next (settle (complete s c { status := .okNoop })) := by
  obtain ⟨hf, hs, -⟩ := noopNow_find h
  refine congrArg done ?_
  rw [hf]
  dsimp only
  rw [if_neg (by rw [hs]; exact fun h => Bool.false_ne_true h.1)]
  exact startCmd_noopNow _ _ _ h

theorem exec_fwStage_noop (h : noopNow s c 0x50 none cmd = true) :
    exec (.fwStage c none .good) s = .next (settle (complete s c { status := .okNoop })) := by
  obtain ⟨hf, hs, -⟩ := noopNow_find h
  refine congrArg done ?_
  rw [hf]
  dsimp only
  rw [if_neg (by rw [hs]; exact fun h => Bool.false_ne_true h.1)]
  exact startCmd_noopNow _ _ _ h

end

/-- Settles O9: NOP and ECHO complete as they start, and an OK_NOOP whose turn has come completes in every row that can have one. -/
theorem nopEchoAndNoops : Obligations.NopEchoAndNoops := by
  refine ⟨⟨fun s c cmd h => ⟨exec_nop_starts h, queueFrame_started _⟩, fun s c cmd h => ⟨exec_echo_starts h, queueFrame_started _⟩,
    ?entry⟩, ?noops⟩
  case entry =>
    intro s c cmd h ht hq hw
    refine ⟨_, exec_echo_starts h, ?_⟩
    dsimp only
    rw [hostRead_settle, hostRead_completed (echoed cmd) (startsNow_find h) ht hq hw, cqEntry_status, cqEntry_r0, cqEntry_r1,
      cqEntry_r2]
    exact ⟨rfl, Nat.mod_eq_of_lt (leAt_lt _ _ _), Nat.mod_eq_of_lt (leAt_lt _ _ _), Nat.mod_eq_of_lt (by simp only [echoed]; omega)⟩
  case noops =>
    intro s c op log cmd i h hi
    simp only [List.mem_cons, List.not_mem_nil, or_false, Prod.mk.injEq] at hi
    rcases hi with ⟨rfl, rfl, rfl⟩ | ⟨rfl, rfl, rfl⟩ | ⟨rfl, rfl, rfl⟩ | ⟨rfl, rfl, rfl⟩ | ⟨rfl, rfl, rfl⟩ | ⟨rfl, rfl, rfl⟩ |
      ⟨rfl, rfl, rfl⟩ | ⟨rfl, rfl, rfl⟩ | ⟨rfl, rfl, rfl⟩ | ⟨rfl, rfl, rfl⟩ | ⟨rfl, rfl, rfl⟩
    case inl => exact exec_stratumPark_noop h
    case inr.inr.inr.inl => exact exec_accFwPush_noop h
    case inr.inr.inr.inr.inr.inl => exact exec_fwStage_noop h
    all_goals exact congrArg done (startCmd_noopNow _ _ _ h)

end Sys2Proof.Machine
end

section
/-! PROOFS. Doorbells and enabling (R75 to R77, R87, R92, R99, Table 4.12), the arbitration round, and what an accepted entry becomes
(R78, R86). -/

namespace Sys2Proof.Machine

/-! ### The registers of a pair -/

section
variable {s : State} {fn q : Nat} (v : Word) (hf : fn ≤ 63) (hq : q < 8) (hm : hostMay s fn = true)
include hf hq hm

theorem exec_sqTail : exec (.sqTail fn q v) s = .next (settle (sqTailWrite s fn q v)) := by
  refine congrArg done ((hostWrites_qp fn q 0x20 v hf hq (.inr (.inl rfl)) hm).trans ?_)
  simp [qpWrite]

theorem exec_cqHead : exec (.cqHead fn q v) s = .next (settle (cqHeadWrite s fn q v)) := by
  refine congrArg done ((hostWrites_qp fn q 0x28 v hf hq (.inr (.inr rfl)) hm).trans ?_)
  simp [qpWrite]

theorem exec_qpCtrlEn : exec (.qpCtrlEn fn q v) s = .next (settle (qpCtrlWrite s fn q v)) := by
  refine congrArg done ((hostWrites_qp fn q 0 v hf hq (.inl rfl) hm).trans ?_)
  simp [qpWrite]

end

/-- Of three branches the first and the last may be one. -/
theorem ite_taken {α : Type} (b : Bool) (P : Prop) [Decidable P] (x y : α) :
    (if (!b) = true then x else if P then y else x) = if b = true ∧ P then y else x := by
  cases b <;> simp

section
variable {s : State} {fn q : Nat}

/-- A pair with its doorbell error. -/
def dbErred (s : State) (fn q : Nat) : State := setQp s fn q { getQp s fn q with dbErr := true }

theorem doorbellErr_logged (h : (getTen s fn).reset = none) (d : Nat) :
    doorbellErr s fn q d = faultLog (count (dbErred s fn q) 150 { tenant := fn }) fn 4 d 0 q := by
  have calm : (getTen (dbErred s fn q) fn).reset.isSome = false := Option.isSome_eq_false_iff.mpr (Option.isNone_iff_eq_none.mpr h)
  exact if_neg (fun hs => Bool.false_ne_true (calm.symm.trans hs))

theorem doorbellErr_dropped (h : (getTen s fn).reset ≠ none) (d : Nat) : doorbellErr s fn q d = setBusyFn (dbErred s fn q) fn 2 :=
  if_pos (Option.isSome_iff_ne_none.mpr h : (getTen (dbErred s fn q) fn).reset.isSome = true)

variable (v : Word)

theorem sqTailWrite_reset (h : (getTen s fn).reset ≠ none) : sqTailWrite s fn q v = doorbellErr s fn q v.toNat :=
  if_pos (Option.isSome_iff_ne_none.mpr h)

theorem cqHeadWrite_reset (h : (getTen s fn).reset ≠ none) : cqHeadWrite s fn q v = doorbellErr s fn q (v.toNat + 2 ^ 32) :=
  if_pos (Option.isSome_iff_ne_none.mpr h)

section
variable (hr : (getTen s fn).reset = none)
include hr

theorem sqTailWrite_calm : sqTailWrite s fn q v =
    if (getQp s fn q).en = true ∧ (getQp s fn q).sqEntries ≤ v.toNat % 4096 then doorbellErr s fn q v.toNat
    else setQp s fn q { getQp s fn q with sqTail := v.toNat % 4096 } := by
  exact (if_neg (by rw [hr]; exact Bool.false_ne_true)).trans (ite_taken _ _ _ _)

theorem cqHeadWrite_calm : cqHeadWrite s fn q v =
    if (getQp s fn q).running = true ∧ ((getQp s fn q).cqEntries ≤ v.toNat % 4096 ∨ cqWaiting (getQp s fn q)
        < (v.toNat % 4096 + (getQp s fn q).cqEntries - (getQp s fn q).cqHead) % (getQp s fn q).cqEntries)
    then doorbellErr s fn q (v.toNat + 2 ^ 32) else setQp s fn q { getQp s fn q with cqHead := v.toNat % 4096 } := by
  exact (if_neg (by rw [hr]; exact Bool.false_ne_true)).trans (ite_taken _ _ _ _)

end

/-! ### Enabling (R75, R77) -/

/-- A pair whose QP_CTRL is written, its EN left aside. -/
def ctrlSet (p : Qp) (v : Word) : Qp := { p with notifyAll := v.getLsbD 8, clsReg := bf v 5 4 }

section
variable {v : Word} (hv : v.getLsbD 0 = true) (he : (getQp s fn q).en = false)
include hv he

theorem qpCtrlWrite_busy (hr : (getQp s fn q).running = true) : qpCtrlWrite s fn q v = setBusyFn s fn 2 :=
  if_pos ⟨hv, by rw [he]; rfl, hr⟩

/-- EN is set on a pair that is not running: it runs where its sizes and CLASS are valid. -/
theorem qpCtrlWrite_enables (hr : (getQp s fn q).running = false) : qpCtrlWrite s fn q v =
    if ringSizeOk (getQp s fn q).sqEntries = true ∧ ringSizeOk (getQp s fn q).cqEntries = true ∧ bf v 5 4 ≠ 3 then
      setQp s fn q { ctrlSet (getQp s fn q) v with
        en := true, running := true, cls := bf v 5 4, stopped := false, cqFail := false,
        sqTail := 0, sqHead := 0, cqHead := 0, cqTail := 0, phase := true }
    else setQp s fn q { ctrlSet (getQp s fn q) v with cfgErr := 0x11 } := by
  refine (if_neg ?_).trans (if_pos ⟨hv, by rw [he]; rfl⟩)
  rintro ⟨-, -, h⟩
  exact Bool.false_ne_true (hr.symm.trans h)

end

end

/-! ### The round, and an accepted entry (R78, R86, R94) -/

section
variable {s : State}

theorem mayAccept_iff : mayAccept s = true ↔ s.crd.phase = .running ∧ s.crd.fwUp = true ∧ s.qc.cmds.length < 4096
    ∧ s.pow.inputLost = false ∧ s.boot.drainUntil = none := by
  simp only [mayAccept, fetchPaused, Bool.and_eq_true, Bool.not_eq_true', Bool.or_eq_false_iff, decide_eq_true_eq,
    decide_eq_false_iff_not, Nat.not_le, Option.isSome_eq_false_iff, Option.isNone_iff_eq_none, and_assoc]

/-- A completion does not number commands. -/
theorem complete_nextSeq (s : State) (c : Nat) (r : Result) : (complete s c r).qc.nextSeq = s.qc.nextSeq := by
  have written (u : State) (cmd : Cmd) : (writeCompletion u cmd r).qc.nextSeq = u.qc.nextSeq := by
    unfold writeCompletion
    dsimp only
    split
    · split
      · simp
      · split <;> simp
    · split <;> simp
  unfold complete
  split
  · rfl
  · dsimp only
    split <;> split <;> simp [written]

/-- The number that an accepted entry takes, whatever becomes of it. -/
theorem acceptEntry_nextSeq (s : State) (t q cls : Nat) (raw : List Byte) :
    (acceptEntry s t q cls raw).qc.nextSeq = s.qc.nextSeq + 1 := by
  have he := entered_qc s (asCommand s t q cls raw)
  rw [acceptEntry_eq]
  split
  · rw [complete_nextSeq, he]
  · rw [he]
  · rw [windowEnded_qc, he]

/-- An entry that waits or does nothing joins the command table at its end. -/
theorem acceptEntry_joins {t q cls : Nat} {raw : List Byte}
    (h : acceptCheck s (asCommand s t q cls raw) = .noop ∨ acceptCheck s (asCommand s t q cls raw) = .wait) :
    (acceptEntry s t q cls raw).qc.cmds = s.qc.cmds ++ [{ asCommand s t q cls raw with
      noop := decide (acceptCheck s (asCommand s t q cls raw) = .noop) }] := by
  have he := entered_qc s (asCommand s t q cls raw)
  rw [acceptEntry_eq]
  rcases h with h | h
  · rw [h] at he ⊢
    rw [he]
  · rw [h] at he ⊢
    dsimp only
    rw [windowEnded_qc, he]

end

/-- Settles O10: the three registers of a pair by the pair's state, the round by what pauses it, and an entry by its verdict. -/
theorem queueTailsAndRounds : Obligations.QueueTailsAndRounds := by
  refine ⟨?registers, ?accepts, ?paused, fun s t q cls raw => ⟨fun h => ?_, fun h => ?_, fun _ => acceptEntry_nextSeq s t q cls raw⟩⟩
  case registers =>
    intro s fn q v hq hf hm p err set w dropped
    have sq := exec_sqTail v hf hq hm
    have cq := exec_cqHead v hf hq hm
    have en := exec_qpCtrlEn v hf hq hm
    refine ⟨fun hr he hw => ?_, fun hr he => ?_, fun hr he hw => ?_, fun hr hn hw hc => ?_, fun hr hn => ?_, fun hr hn hw => ?_,
      fun hr => ⟨?_, ?_⟩, fun hv he hn h1 h2 h3 => ?_, fun hv he hn h => ?_, fun hv he hn => ?_⟩
    · rw [sq, sqTailWrite_calm v hr, if_neg (fun h => Nat.not_le.mpr hw h.2)]
    · rw [sq, sqTailWrite_calm v hr, if_neg (fun h => Bool.false_ne_true (he.symm.trans h.1))]
    · rw [sq, sqTailWrite_calm v hr, if_pos ⟨he, hw⟩, doorbellErr_logged hr]
      rfl
    · rw [cq, cqHeadWrite_calm v hr, if_neg (fun h => h.2.elim (Nat.not_le.mpr hw) (Nat.not_lt.mpr hc))]
    · rw [cq, cqHeadWrite_calm v hr, if_neg (fun h => Bool.false_ne_true (hn.symm.trans h.1))]
    · rw [cq, cqHeadWrite_calm v hr, if_pos ⟨hn, hw⟩, doorbellErr_logged hr]
      rfl
    · rw [sq, sqTailWrite_reset v hr, doorbellErr_dropped hr]
      rfl
    · rw [cq, cqHeadWrite_reset v hr, doorbellErr_dropped hr]
      rfl
    · rw [en, qpCtrlWrite_enables hv he hn, if_pos ⟨h1, h2, h3⟩]
      rfl
    · rw [en, qpCtrlWrite_enables hv he hn, if_neg]
      · rfl
      · rintro ⟨h1, h2, h3⟩
        exact h.elim (fun h => Bool.false_ne_true (h.symm.trans h1))
          (fun h => h.elim (fun h => Bool.false_ne_true (h.symm.trans h2)) h3)
    · rw [en, qpCtrlWrite_busy hv he hn]
  case accepts =>
    exact fun s hr hu hc hi hd => exec_arbitrationRound_open (mayAccept_iff.mpr ⟨hr, hu, hc, hi, hd⟩)
  case paused =>
    refine fun s h => exec_arbitrationRound_closed (Bool.eq_false_iff.mpr fun may => ?_)
    obtain ⟨hr, hu, hc, hi, hd⟩ := mayAccept_iff.mp may
    rcases h with h | h | h | h | h
    · exact h hr
    · exact Bool.false_ne_true (h.symm.trans hu)
    · exact Nat.not_lt.mpr h hc
    · exact Bool.false_ne_true (hi.symm.trans h)
    · exact h hd
  · have wait : acceptCheck s (asCommand s t q cls raw) = .wait := h
    rw [acceptEntry_joins (.inr wait), wait]
    rfl
  · have noop : acceptCheck s (asCommand s t q cls raw) = .noop := h
    rw [acceptEntry_joins (.inl noop), noop]
    rfl

end Sys2Proof.Machine
end
